-- ==== Sys2Proof/Word.lean ====
section
/-! DEFINITION. The word types of the TRZ-4824: bytes, the 64-bit words its registers, arm words, instruction words
and seeds are, and records held as little-endian byte strings (R5, R6). -/

namespace Sys2Proof

/-- One byte (R5). -/
abbrev Byte := BitVec 8

/-- A 64-bit word: a register, an arm word, an instruction word, a seed. -/
abbrev Word64 := BitVec 64

/-- A 32-bit word. -/
abbrev Word32 := BitVec 32

/-- A record of the manual (a descriptor, a table entry, a header): its bytes, the byte at the lowest address first
(R5). Its fields are read by the accessors of Machine/Bits.lean. -/
abbrev Rec := List Byte

end Sys2Proof
end

