-- ==== Sys2Proof/Syntax.lean ====
section
/-! DEFINITION. The commands of the block: one constructor per row of opcode_table.json, with the row's operands.
A mailbox command names the mailbox Flint takes (R361); its header and arguments stand in that mailbox's request page,
which is state. A command of a core's program names the core; the instruction word stands in its program store. Operands
carry only what reaches the device from its world: bus writes, wire contents, sensor readings, self-test results. -/

namespace Sys2Proof

/-- A mailbox: host port 0 or 1, mailbox 0 to 31 (R356). -/
structure Mbx where
  port : Nat
  box : Nat
  deriving DecidableEq, Repr

/-- Where an arm word comes from (R158): a host port's stream doorbell, the arm link of a completed descriptor, or Flint
for ARM_STREAM carried by a mailbox of the named port (R371). -/
inductive ArmSource where
  | doorbell (port : Nat)
  | link
  | flint (port : Nat)
  deriving DecidableEq, Repr

/-- The device's registers, each under its own name (Tables 3.5, 3.6, 4.12 to 4.16, 5.9, 6.8, 6.9, 7.5, 7.9, 8.11, 8.12,
9.11 to 9.15, 10.6 to 10.8, 11.2, 13.14, 14.6 to 14.8). -/
inductive Reg where
  | seqStatus (core : Nat)
  | coreFault (core : Nat)
  | matrixStatus (core : Nat)
  | engineStatus (core engine : Nat)
  | tokenQueue (core queue : Nat)
  | screeState (core index : Nat)
  | streamStatus (stream : Nat)
  | memStatus (dev : Nat)
  | memCount (dev : Nat)
  | arenaCount (die : Nat)
  | updateStatus (die : Nat)
  | ringStatus (plane : Nat)
  | ringCount (plane : Nat)
  | portStatus (port : Nat)
  | portLink (port : Nat)
  | portCount (port : Nat)
  | laser (opal channel : Nat)
  | channel (port channel : Nat)
  | edgeStatus (die edge : Nat)
  | edgeCount (die edge : Nat)
  | edgeGroups (die edge index : Nat)
  | faultSummary (die : Nat)
  | diePower (die : Nat)
  | powerCount (die : Nat)
  | moduleSupply
  | identity (port : Nat)
  | deviceStatus (port : Nat)
  | intCause (port : Nat)
  | intEnable (port : Nat)
  | mailboxSubmitted (port : Nat)
  | mailboxDone (port : Nat)
  | heartbeat (port : Nat)
  | stepStatus (port : Nat)
  | stepTag (port : Nat)
  | hostViolation (port : Nat)
  deriving DecidableEq, Repr

/-- A host write to a BAR: the port, the BAR (0 or 2; 8 stands for the MSI-X Message Control word in configuration space), the offset, the
bytes, and whether the write came poisoned, or as a malformed TLP (R352, R356, Table 11.18). -/
structure HostWrite where
  port : Nat
  bar : Nat
  offset : Nat
  bytes : Rec
  poisoned : Bool
  malformed : Bool := false
  deriving DecidableEq, Repr

/-- What a device read request was for (R349): a class 4 stream, or the LOAD_PLAN read of an image in host memory; or
nothing, an unexpected completion (Table 11.18, 0x09). -/
inductive CplTarget where
  | stream (id : Nat)
  | loadPlan
  | unexpected
  deriving DecidableEq, Repr

/-- A host completion (R350, Table 11.18): data, an error status, a poisoned completion, a completion timeout, or
Unsupported Request or Completer Abort. In confidential mode the data is a sealed record and its tag (R402). -/
inductive Completion where
  | data (bytes : Rec)
  | sealed (cipher tag : Rec)
  | error
  | poisoned
  | timeout
  | unsupported
  deriving DecidableEq, Repr

/-- What an engine beat meets besides its data (Table 3.7): nothing; single errors corrected in a plane or link of an
engine; an uncorrectable word of a plane or of a link; an accumulator residue mismatch in an engine; or a bank's error pattern found in
a scratchpad word the beat reads (bank error, as an error pattern of the (144,128) code); or feeders that are dry and drains
that cannot take results (R76, R77), by their places along the reduction and the output of the pass. -/
inductive Upset where
  | none
  | corrected (engine : Nat)
  | plane (engine : Nat)
  | link (engine : Nat)
  | residue (engine : Nat)
  | bank (word : Nat) (flips : BitVec 144)
  | stall (feeders drains : List Nat)
  deriving DecidableEq, Repr

/-- An access at its ordering point and what its burst meets (R184, Table 6.11): the stream whose transfer makes it, if one does; error
bits that strike the word; `crcFails` bursts in a row fail, and the last try after the retry limit and a retraining succeeds or not;
internal error correction may report. -/
structure MemAccess where
  dev : Nat
  word : Nat
  stream : Option Nat
  write : Option (BitVec 16 × BitVec 128)
  flips : BitVec 144
  crcFails : Nat
  retrainOk : Bool
  eccReport : Nat
  deriving DecidableEq, Repr

/-- One monitor sample of a laser channel (R300): the serving laser's output averaged over 1 s, and sampled over 10 µs, whether it
draws no drive current, the output of the laser claimed as successor, all in 0.05 dBm, of which both 0.25 dBm and 0.1 dB are whole
multiples; and in 0.25 dBm, per port of the Opal, the S, M, D and total receive readings. (log 161: DESIGN CHOICE) -/
structure MonitorReadings where
  output : Int
  instant : Int
  noCurrent : Bool
  successor : Int
  branch : List Int
  modulator : List Int
  drop : List Int
  total : List Int
  deriving DecidableEq, Repr

/-- What a sender finds uncorrectable in a lane group's replay buffer (Table 10.9, 0x50): nothing, a word of a segment or of
the service traffic, or a service word that is a token signal to a core. -/
inductive ReplayLoss where
  | none
  | word
  | token (core : Nat)
  deriving DecidableEq, Repr

/-- What the copy of one plane at an engine hand-over finds (R95, R96): whether a word is uncorrectable, and the single errors it corrects. -/
structure CopiedPlane where
  bad : Bool
  corrected : Nat
  deriving DecidableEq, Repr

/-- One received lane group frame (R328): how many words were corrected, how many were uncorrectable, whether the frame is the one
sent again after a resend request, the lanes whose CRC mismatched, how many maintenance messages have failed their check since the last
frame and were dropped (R347), and what the sender's replay buffer held uncorrectable. -/
structure LaneFrame where
  corrected : Nat
  bad : Nat
  resent : Bool
  crcLanes : List Nat
  messages : Nat
  replay : ReplayLoss
  deriving DecidableEq, Repr

/-- One 10 µs power sample (R455): input voltage and power, the average of the last 5 ms, and the power of each die with
its two Opal dies. -/
structure PowerSample where
  millivolts : Nat
  watts : Nat
  average : Nat
  die : List Nat
  demand : List Nat
  deriving DecidableEq, Repr

/-- What boot or partial-reset self-test finds (R441, Table 15.8): failing sites, lanes, devices, ports, or a die that
browned out twice; and the margins that training measured on a device at each try (R190). Every result says which numbering it uses
(R4): `coreSite` and `engineSite` name the site that serves a logical core or engine, `coreAt` and `engineAt` name a physical site, of a
die (0 to 25) or of a core (0 to 12); the others have one numbering; `lane` names a spare lane by its logical number, and `laser` an Opal's
own primary or spare. -/
inductive SelfTestResult where
  | coreSite (core : Nat)
  | engineSite (core engine : Nat)
  | coreAt (die site : Nat)
  | engineAt (core site : Nat)
  | margins (dev : Nat) (tries : List (Nat × Nat))
  | spareEngineSite (core : Nat)
  | line (core bank line : Nat)
  | spareLine (core bank spare : Nat)
  | laser (opal channel : Nat) (spare : Bool)
  | lane (die edge lane : Nat)
  | device (dev code : Nat)
  | port (port : Nat)
  | die (die : Nat)
  | changedNothing
  deriving DecidableEq, Repr

/-- Which failure a boot step met (Table 15.8). -/
inductive BootFault where
  | fails
  | dieBrownOutTwice (die : Nat)
  | domainOff (die : Nat)
  deriving DecidableEq, Repr

/-- A fault report (R427): the source kind of Table 13.12, the unit (as Table 13.15's unit field gives it), a second
number within the unit (an engine, a bank, an instruction's flight), the code; for engine fault 0x03 the bank and the
seam fields of every unit descriptor the bank stopped (R93); and the engine that an engine fault struck (Table 13.9). -/
structure Report where
  kind : Nat
  unit : Nat
  sub : Nat
  code : Nat
  bank : Option Nat := none
  units : List Nat := []
  engine : Option Nat := none
  deriving DecidableEq, Repr

/-- The commands, operations and events of the TRZ-4824: one constructor per row of the opcode table. -/
inductive Instr where
  /-- QUERY_STATE (R368). -/
  | queryState (m : Mbx)
  /-- QUERY_CAPABILITY (R444). -/
  | queryCapability (m : Mbx)
  /-- READ_REGISTER (R369). -/
  | readRegister (m : Mbx)
  /-- WRITE_REGISTER (R369). -/
  | writeRegister (m : Mbx)
  /-- SET_EPOCH_OFFSET (R370). -/
  | setEpochOffset (m : Mbx)
  /-- SET_FABRIC_ADDRESS (R370). -/
  | setFabricAddress (m : Mbx)
  /-- CLAIM_OWNERSHIP (R377). -/
  | claimOwnership (m : Mbx)
  /-- RELEASE_OWNERSHIP (R377). -/
  | releaseOwnership (m : Mbx)
  /-- ACKNOWLEDGE_HALT (R365). -/
  | acknowledgeHalt (m : Mbx)
  /-- READ_STRATA_LOG (R450). -/
  | readStrataLog (m : Mbx)
  /-- RESET (R476). -/
  | reset (m : Mbx)
  /-- CREATE_CONTEXT (R387). -/
  | createContext (m : Mbx)
  /-- DESTROY_CONTEXT (R388). -/
  | destroyContext (m : Mbx)
  /-- SWITCH_CONTEXT (R397). -/
  | switchContext (m : Mbx)
  /-- SWITCH_CONTEXT_COMPLETE (R397). -/
  | switchContextComplete (saveErr restoreErr : Bool)
  /-- CREATE_REGION (R391). -/
  | createRegion (m : Mbx)
  /-- REGION_ZEROING_COMPLETE (R391). -/
  | regionZeroingComplete (slot index : Nat)
  /-- DESTROY_REGION (R392). -/
  | destroyRegion (m : Mbx)
  /-- LOAD_PLAN (R393). -/
  | loadPlan (m : Mbx)
  /-- LOAD_PLAN_COMPLETE (R395). -/
  | loadPlanComplete
  /-- SCRUB (R404). -/
  | scrub (m : Mbx)
  /-- SCRUB_COMPLETE (R195). -/
  | scrubComplete
  /-- OPEN_SESSION (R400). -/
  | openSession (m : Mbx)
  /-- CLOSE_SESSION (R401). -/
  | closeSession (m : Mbx)
  /-- ATTEST (R409). -/
  | attest (m : Mbx)
  /-- ATTEST_COMPLETE (R411). -/
  | attestComplete
  /-- START_STEP (R372). -/
  | startStep (m : Mbx)
  /-- ABORT_STEP (R375). -/
  | abortStep (m : Mbx)
  /-- STEP_STOP_COMPLETE (R375). -/
  | stepStopComplete
  /-- ARM_STREAM (R371). -/
  | armStream (m : Mbx)
  /-- SET_IDLE_TIMERS (R470). -/
  | setIdleTimers (m : Mbx)
  /-- MGMT_SESSION_OPEN (R413). -/
  | mgmtSessionOpen (key : Rec)
  /-- MGMT_SESSION_IDLE_TIMEOUT (R413). -/
  | mgmtSessionIdleTimeout
  /-- MGMT_STATUS (R415). -/
  | mgmtStatus
  /-- MGMT_READ_LOG (R450). -/
  | mgmtReadLog (args : Rec)
  /-- MGMT_ATTEST (R415). -/
  | mgmtAttest (ctx : BitVec 16) (args : Rec)
  /-- UPDATE_BEGIN (R416). -/
  | updateBegin
  /-- UPDATE_DATA (R416). -/
  | updateData (off : Nat) (chunk : Rec)
  /-- UPDATE_COMMIT (R416). -/
  | updateCommit
  /-- UPDATE_ABANDON (R416). -/
  | updateAbandon
  /-- UPDATE_ACTIVATE (R416). -/
  | updateActivate
  /-- WRITE_OPERATOR_RECORD (R414). -/
  | writeOperatorRecord (record : Rec)
  /-- MAILBOX_DOORBELL (R357). -/
  | mailboxDoorbell (port : Nat) (value : Word64)
  /-- MAILBOX_DONE_CLEAR (R357). -/
  | mailboxDoneClear (port : Nat) (value : Word64)
  /-- INTERRUPT_ENABLE_WRITE (R355). -/
  | interruptEnableWrite (port : Nat) (value : Word64)
  /-- STREAM_ARM (R159). -/
  | streamArm (src : ArmSource) (w : Word64)
  /-- STREAM_REARM (R160). -/
  | streamRearm (src : ArmSource) (w : Word64)
  /-- STREAM_FAULT_CLEAR (R173). -/
  | streamFaultClear (stream : Nat)
  /-- READ_CLEAR_ACCESS (R9). -/
  | readClearAccess (r : Reg)
  /-- REGISTER_WRITE (R9). -/
  | registerWrite (w : HostWrite)
  /-- HOST_COMPLETION (R350). -/
  | hostCompletion (port : Nat) (target : CplTarget) (cpl : Completion)
  /-- FUNCTION_LEVEL_RESET (R381). -/
  | functionLevelReset (port : Nat)
  /-- PERST_ASSERTED (R474). -/
  | perstAsserted (port : Nat)
  /-- HOST_LINK_DOWN (R379). -/
  | hostLinkDown (port : Nat)
  /-- LEASE_EXPIRY (R378). -/
  | leaseExpiry
  /-- WEIGHT_LOAD (R67). -/
  | weightLoad (core : Nat)
  /-- WEIGHT_LOAD_COMPLETE (R67). -/
  | weightLoadComplete (core id : Nat)
  /-- PRELOAD (R82). -/
  | preload (core : Nat)
  /-- DRAIN (R86). -/
  | drain (core : Nat)
  /-- STREAM_ROWS (R70). -/
  | streamRows (core : Nat)
  /-- ENGINE_BEAT (R97). -/
  | engineBeat (core id : Nat) (upset : Upset)
  /-- PASS_COMPLETE (R75). -/
  | passComplete (core id : Nat)
  /-- VECTOR (R115). -/
  | vector (core : Nat)
  /-- FUNCTION (R120). -/
  | function (core : Nat)
  /-- ROW_REDUCTION (R121). -/
  | rowReduction (core : Nat)
  /-- INSTRUCTION_COMPLETE (R103). -/
  | instructionComplete (core id : Nat)
  /-- INSTRUCTION_RELEASED (R103). -/
  | instructionReleased (core : Nat)
  /-- WAIT_TOKEN (R123). -/
  | waitToken (core : Nat)
  /-- SIGNAL_TOKEN (R123). -/
  | signalToken (core : Nat)
  /-- TOKEN_WAIT_GRANTED (R125). -/
  | tokenWaitGranted (core : Nat)
  /-- TOKEN_SIGNAL_GRANTED (R125). -/
  | tokenSignalGranted (core : Nat)
  /-- FILL_ARM (R130). -/
  | fillArm (core : Nat)
  /-- FILL_JOIN (R130). -/
  | fillJoin (core : Nat)
  /-- FILL_END (R132). -/
  | fillEnd (core : Nat)
  /-- FILL_TASK_START (R131). -/
  | fillTaskStart (core : Nat)
  /-- LOOP (R104). -/
  | loop (core : Nat)
  /-- LOOP_END (R104). -/
  | loopEnd (core : Nat)
  /-- SET_INDEX (R104). -/
  | setIndex (core : Nat)
  /-- ADD_INDEX (R104). -/
  | addIndex (core : Nat)
  /-- FENCE (R111). -/
  | fence (core : Nat)
  /-- STEP_END (R102). -/
  | stepEnd (core : Nat)
  /-- HOLD_LIMIT_EXPIRY (R128). -/
  | holdLimitExpiry (core : Nat)
  /-- ENGINE_WATCHDOG_EXPIRY (R435). -/
  | engineWatchdogExpiry (core engine : Nat)
  /-- ENGINE_HANDOVER (R95): what the copies of planes 0 and 1 find. -/
  | engineHandover (core engine : Nat) (plane0 plane1 : CopiedPlane)
  /-- LINE_SUBSTITUTION (R439). -/
  | lineSubstitution (core bank line : Nat)
  /-- DESCRIPTOR_FETCH (R154). -/
  | descriptorFetch (stream : Nat)
  /-- PEBBLE_LINE_FETCH (R157). -/
  | pebbleLineFetch (stream : Nat)
  /-- TRANSFER_START (R151). -/
  | transferStart (stream : Nat)
  /-- TRANSFER_COMPLETE (R151). -/
  | transferComplete (stream : Nat)
  /-- STREAM_FAULT (R172). -/
  | streamFault (stream code : Nat)
  /-- LODE_TILE_ACCEPT (R167). -/
  | lodeTileAccept (stream : Nat)
  /-- LODE_TILE_FORWARD (R167). -/
  | lodeTileForward (stream : Nat)
  /-- SEGMENT_BIND (R330). -/
  | segmentBind (die edge stream words : Nat)
  /-- SEGMENT_ACKNOWLEDGED (R330). -/
  | segmentAcknowledged (die edge group : Nat)
  /-- MEMORY_ACCESS_GRANT (R189). -/
  | memoryAccessGrant (a : MemAccess)
  /-- REFRESH_DUE (R192). -/
  | refreshDue (dev : Nat)
  /-- READ_TIMING_TRACKING (R191). -/
  | readTimingTracking (dev channel : Nat)
  /-- TEMPERATURE_READOUT (R176). -/
  | temperatureReadout (dev : Nat) (celsius : Int)
  /-- FULL_RETRAINING (R191). -/
  | fullRetraining (dev channel : Nat) (ok : Bool)
  /-- PATROL_READ (R193). -/
  | patrolRead (dev : Nat) (upset : Option (Nat × BitVec 144))
  /-- STEP_END_DETECTED (R200). -/
  | stepEndDetected
  /-- UPDATE_ENTRY_START (R214). -/
  | updateEntryStart (die : Nat)
  /-- UPDATE_ENTRY_COMPLETE (R221). -/
  | updateEntryComplete (die : Nat)
  /-- COLLECTIVE_INPUT_TRANSFER (R250). -/
  | collectiveInputTransfer (seq block : Nat)
  /-- CHUNK_RECEIVED (R261). -/
  | chunkReceived (port : Nat) (header payload : Rec) (bad : Bool)
  /-- STOP_RECEIVED (R265). -/
  | stopReceived (port cls : Nat)
  /-- GO_RECEIVED (R265). -/
  | goReceived (port cls : Nat)
  /-- ACKNOWLEDGE_RECEIVED (R259). -/
  | acknowledgeReceived (port : Nat) (msg : Rec)
  /-- REFUSE_RECEIVED (R266). -/
  | refuseReceived (port : Nat) (msg : Rec)
  /-- RESUME_QUERY_RECEIVED (R269). -/
  | resumeQueryReceived (port : Nat) (msg : Rec)
  /-- RESUME_ANSWER_RECEIVED (R269). -/
  | resumeAnswerReceived (port : Nat) (msg : Rec)
  /-- RESUME_QUERY_TIMEOUT (R269). -/
  | resumeQueryTimeout (plane peer : Nat)
  /-- DETOUR_END (R269). -/
  | detourEnd (plane peer : Nat)
  /-- AGREEMENT_START (R255). -/
  | agreementStart (seq : Nat)
  /-- COLLECTIVE_COMPLETE (R263). -/
  | collectiveComplete (seq : Nat)
  /-- COLLECTIVE_HOLD_LIMIT (R263). -/
  | collectiveHoldLimit (seq : Nat)
  /-- FLIT_RECEIVED (R290). -/
  | flitReceived (port : Nat) (control : BitVec 20) (flit : Rec) (corrected : Nat) (uncorrectable : Bool)
  /-- NACK_RECEIVED (R291). -/
  | nackReceived (port : Nat) (ack : Word32)
  /-- NACK_TIMEOUT (R291). -/
  | nackTimeout (port : Nat)
  /-- LINK_DOWN_TIME_EXPIRY (R292). -/
  | linkDownTimeExpiry (port : Nat)
  /-- LOSS_OF_LIGHT (R292). -/
  | lossOfLight (port : Nat)
  /-- LIGHT_PRESENT (R311). -/
  | lightPresent (port : Nat)
  /-- RECEIVE_SEARCH_COMPLETE (R311). -/
  | receiveSearchComplete (port : Nat) (full : Bool) (codes : List (List Nat))
  /-- TRAINING_BLOCK_RECEIVED (R309). -/
  | trainingBlockReceived (port ring : Nat) (block : BitVec 340)
  /-- LINK_CODEWORD_RECEIVED (R310). -/
  | linkCodewordReceived (port : Nat) (control : BitVec 20) (content : Rec)
  /-- IDENTITY_RETRY (R310). -/
  | identityRetry (port : Nat)
  /-- MANAGEMENT_CODEWORD_RECEIVED (R288). -/
  | managementCodewordReceived (port : Nat) (control : BitVec 20) (content : Rec)
  /-- DORMANT_REQUEST (R317). -/
  | dormantRequest (port : Nat)
  /-- DORMANT_GRANT (R317). -/
  | dormantGrant (port : Nat)
  /-- DORMANT_GRANT_TIMEOUT (R317). -/
  | dormantGrantTimeout (port : Nat)
  /-- WAKE_REQUEST (R317). -/
  | wakeRequest (port : Nat)
  /-- RECEIVE_OVERLOAD (R323). -/
  | receiveOverload (port : Nat)
  /-- OVERLOAD_HOLD_EXPIRY (R323). -/
  | overloadHoldExpiry (port : Nat)
  /-- MONITOR_SAMPLE (R300). -/
  | monitorSample (opal channel : Nat) (r : MonitorReadings)
  /-- SUCCESSOR_STANDBY (R296). -/
  | successorStandby (opal channel : Nat)
  /-- CROSS_FADE_COMPLETE (R296). -/
  | crossFadeComplete (opal channel : Nat)
  /-- SUCCESSOR_RELEASE (R296). -/
  | successorRelease (opal channel : Nat)
  /-- RING_LOCK_LOST (R306). -/
  | ringLockLost (port channel : Nat) (rx : Bool)
  /-- RING_SEARCH_COMPLETE (R306). -/
  | ringSearchComplete (port channel : Nat) (rx : Bool) (found : Option Nat)
  /-- RING_HOP (R307). -/
  | ringHop (port channel : Nat) (rx : Bool)
  /-- LANE_FRAME_RECEIVED (R328). -/
  | laneFrameReceived (die edge group : Nat) (f : LaneFrame)
  /-- LANE_MARGIN_UPDATE (R335): the averaged margin, and of the frames that deliver nothing, which come as no command of their own, the
  lane's CRC mismatches within 1 s and in a row. -/
  | laneMarginUpdate (die edge lane margin crcPerSecond crcRun : Nat)
  /-- LANE_SWAP_REQUEST (R337). -/
  | laneSwapRequest (die edge lane spare : Nat)
  /-- SPARE_COMPARE_COMPLETE (R337). -/
  | spareCompareComplete (die edge : Nat) (matched : Bool)
  /-- SPARE_SWITCH (R337). -/
  | spareSwitch (die edge : Nat)
  /-- HALF_WIDTH_SWITCH (R339). -/
  | halfWidthSwitch (die edge group lane : Nat)
  /-- GANG_TAKE_IN (R341). -/
  | gangTakeIn (die edge plane : Nat)
  /-- POWER_SAMPLE (R455). -/
  | powerSample (p : PowerSample)
  /-- QUIET_TIMER_EXPIRY (R459). -/
  | quietTimerExpiry (die : Nat)
  /-- RETAIN_TIMER_EXPIRY (R460). -/
  | retainTimerExpiry (die : Nat)
  /-- RETAIN_ENTRY (R461). -/
  | retainEntry (die : Nat)
  /-- DIE_WAKE (R463). -/
  | dieWake (die : Nat)
  /-- BROWN_OUT (R465). -/
  | brownOut (die : Nat)
  /-- BROWN_OUT_REINIT_COMPLETE (R465). -/
  | brownOutReinitComplete (die : Nat)
  /-- TEMPERATURE_SAMPLE (R466). -/
  | temperatureSample (die : Nat) (basalt opal : List Int)
  /-- THERMAL_TRIP (R467). -/
  | thermalTrip
  /-- SUPPLY_LOW (R469). -/
  | supplyLow (millivolts : Nat)
  /-- SUPPLY_SHUTDOWN (R469). -/
  | supplyShutdown
  /-- POWER_ON (R474). -/
  | powerOn
  /-- MOD_PWROK_FALL (R498). -/
  | modPwrokFall
  /-- MOD_RESET (R474). -/
  | modReset
  /-- REFCLK_LOSS (R496). -/
  | refclkLoss
  /-- BOOT_READY (R485). -/
  | bootReady (selfTest : List SelfTestResult) (mapWriteOk : Bool)
  /-- BOOT_FAILURE (R487). -/
  | bootFailure (step : Nat) (f : BootFault)
  /-- PARTIAL_RESET_COMPLETE (R488). -/
  | partialResetComplete (selfTest : List SelfTestResult) (saveErr restoreErr : Bool)
  /-- FAULT_REPORT (R427). -/
  | faultReport (r : Report)
  /-- GATHER_WINDOW_END (R431). -/
  | gatherWindowEnd
  /-- RECOVERY_COMPLETE (R429). -/
  | recoveryComplete
  /-- FLINT_WATCHDOG_EXPIRY (R437). -/
  | flintWatchdogExpiry
  /-- REPAIR_MAP_WRITE (R443). -/
  | repairMapWrite
  /-- MOD_RESET_RELEASE (R475). -/
  | modResetRelease
  /-- REFCLK_RESTORED (R496). -/
  | refclkRestored
  /-- PERST_RELEASED (R486). -/
  | perstReleased (port : Nat)
  /-- HOST_LINK_UP (R350). -/
  | hostLinkUp (port : Nat)
  /-- CONFIGURATION_SPACE_WRITE (R350). -/
  | configurationSpaceWrite (port : Nat) (busMaster d3hot : Bool)
  /-- HELD_CHUNK_HOLD_LIMIT (R275). -/
  | heldChunkHoldLimit (port : Nat)
  /-- STRATA_LOG_CUT_COMPLETE (R449). -/
  | strataLogCutComplete
  deriving DecidableEq, Repr

end Sys2Proof
end

