-- ==== Sys2Proof/Decode.lean ====
section
/-! DEFINITION. The decoder over the rows of the command table that give bits. No row gives any: a command of this block is
an event or a bus access, not a word, so no word spells a command. -/

namespace Sys2Proof

/-- The command a table word spells: none, since no row of the table has bits. (log 2: DESIGN CHOICE) -/
def decodeTableWord (_nbits _w : Nat) : Option Instr := none

end Sys2Proof
end

