-- ==== Sys2Proof/Config.lean ====
section
/-! DEFINITION. What an implementation fixes and what the manual leaves open, as constants without a body: no proof can
see a value of them. The cryptographic functions are those of the standards the manual names (FIPS 197 and SP 800-38D,
FIPS 203, FIPS 204, FIPS 198-1 over SHA-256); the model uses them only as functions. -/

namespace Sys2Proof.Config

/-- A value the manual leaves open, by occasion. -/
opaque freeValue : Nat → BitVec 64

/-- A byte string the manual leaves open, by occasion: nonces Flint draws (R400), the device's own field layouts. -/
opaque freeBytes : Nat → Rec

/-- How many reports a source has handed Flint faster than it could log, before the event of this number of this boot (R446): what decides it
is time. (log 118: DESIGN CHOICE) -/
opaque excessReports : Nat → Nat → Nat

/-- HMAC over SHA-256, which authenticates what the counter region of the boot flash answers (R477): key and message. (log 9: DESIGN CHOICE) -/
opaque hmacSha256 : Rec → Rec → Rec

/-- AES-256-GCM sealing (R399, R402): key, IV, additional data, plaintext; ciphertext and 16-byte tag. (log 9: DESIGN CHOICE) -/
opaque aesGcmSeal : Rec → Rec → Rec → Rec → Rec × Rec

/-- AES-256-GCM opening (R403): key, IV, additional data, ciphertext, tag; the plaintext, or none when the tag fails. -/
opaque aesGcmOpen : Rec → Rec → Rec → Rec → Rec → Option Rec

/-- The input check of FIPS 203 on an encapsulation key (R400). -/
opaque mlKemKeyOk : Rec → Bool

/-- ML-KEM-768 encapsulation (R400): key and randomness; ciphertext and shared secret. -/
opaque mlKemEncaps : Rec → Rec → Rec × Rec

/-- ML-DSA-44 key generation from a seed (R407): public key and private key. -/
opaque mlDsaKeygen : Rec → Rec × Rec

/-- ML-DSA-44 signature (R400, R410, R442): private key and message. -/
opaque mlDsaSign : Rec → Rec → Rec

/-- ML-DSA-44 verification (R416, R480, R483): public key, message, signature. -/
opaque mlDsaVerify : Rec → Rec → Rec → Bool

/-- Yawedo's firmware public key, whose digest the boot ROM holds (R480). -/
opaque firmwareKey : Rec

/-- The device secret that Flint's identity SRAM and the helper data give (R407). -/
opaque deviceSecret : Rec → Rec

/-- The digest of a device secret as the helper data record holds it (R407 step 3). -/
opaque secretDigest : Rec → Rec

/-- The to-be-signed part of the alias certificate that the boot ROM makes, from the alias public key (R407, R408): its DER bytes are the
device's own. -/
opaque aliasTbs : Rec → Rec

/-- The DER certificate of a to-be-signed part and its signature (R408). -/
opaque certificate : Rec → Rec → Rec

/-- The serial number that the records written at manufacture carry (R408, R442). -/
opaque provisionedSerial : BitVec 64

/-- The signature of the repair-map record written at manufacture, by Yawedo's provisioning key (R442). -/
opaque provisionedSignature : Rec

/-- The identifier the PCI-SIG has assigned to Yawedo (Table 11.1). -/
opaque vendorId : BitVec 16

/-- The silicon stepping and the interface version of the device identity register (Table 11.3, "fixed"). -/
opaque identityFixed : BitVec 32

end Sys2Proof.Config
end

