-- ==== Sys2Proof/Machine/State.lean ====
section
/-! DEFINITION. The state of the TRZ-4824 as plain data: everything the manual gives the module, the queue of waiting
commands, and the counter of free values. What a context switch saves stands in one structure, `Chip` (R396); what stays
with the package stands beside it. Sticky fields, counts and codes of the registers stand in `regs` as the register words
the manual lays out; fields that show other state are formed when the register is read (Machine/Regs.lean). -/

namespace Sys2Proof.Machine

/-- A sparse table: entries by ascending key; an absent key reads as the table's default. -/
abbrev Tbl (α : Type) := List (Nat × α)

/-- Bytes at addresses, ascending, no entry equal to 0, which an unlisted address reads as (R27). -/
abbrev Mem := List Host.Cell

/-- Error patterns standing in stored words of the (144,128) code, by word number, none of them zero (R419 to R422). -/
abbrev Flips := List (Nat × BitVec 144)

/-- Why a machine step can stop with a fault. No command of this block ends so: whatever the manual calls a fault is the
device's own report, held in state. -/
inductive Fault where
  /-- Raised by nothing; kept because a step's type names faults. Safe. -/
  | none
  deriving DecidableEq, Repr

/-- Why a command has no meaning here. -/
inductive Refusal where
  /-- Raised by a dispatch arm whose meaning is not written: the mnemonic of the row. Safe: nothing is claimed of it. -/
  | notModelled (mnemonic : String)
  deriving DecidableEq, Repr

/-- The device states of Table 11.11. -/
inductive DevState where
  | booting | ready | loaded | running | halted | scrubbing | updating | retain
  deriving DecidableEq, Repr

/-! ## What a core holds (R98 to R139) -/

/-- A closed interval of scratchpad addresses an instruction reads or writes (R103). -/
structure Iv where
  lo : Nat
  hi : Nat
  deriving DecidableEq, Repr

/-- A unit of engines within a core: origin row and column, depth r, width c (R12, R13, Table 4.6). -/
structure Seam where
  row : Nat
  col : Nat
  r : Nat
  c : Nat
  deriving DecidableEq, Repr

/-- An instrument accumulator (R228, R229): the exact sum of squares and the exact maximum magnitude, each as mantissa
and exponent, the counts and the written bit. -/
structure Accum where
  sumSq : Nat
  sumSqExp : Int
  maxMag : Nat
  maxMagExp : Int
  elements : Nat
  vugs : Nat
  sats : Nat
  written : Bool
  deriving DecidableEq, Repr

/-- A pass in flight (R70, Table 3.1): its unit, plane, orientation, formats, row count, feeder reference, mask, option,
the preload and drain record it runs under, the next row not yet drained, the beats given to that row's group, the rows
fed, the (saturations, vugs) and stored bytes of the tile row being drained, one per output block, the bias row once it has
been read (R82), what it has gathered for its instrument entry; and for a re-run: the feeder rows and preload rows it took from
streams, the rows it has put through to its drain; and, in beats ahead of the pass's position, what each feeder has presented and each drain has
taken (R76). -/
structure Pass where
  unit : Seam
  plane : Nat
  transposed : Bool
  fmt : Nat
  acc16 : Bool
  rows : Nat
  feeder : Rec
  maskKind : Nat
  maskOp : Nat
  untouched : Bool
  preload : Option (Nat × Rec)
  drain : Rec
  next : Nat
  sub : Nat
  fed : Nat
  counts : List (Nat × Nat)
  tile : List Rec
  bias : Option (List (Option Int × Int))
  acc : Accum
  keptRows : List Rec
  keptPre : List Rec
  sent : Nat
  lead : Tbl Nat
  taken : Tbl Nat
  deriving DecidableEq, Repr

/-- A weight load in flight (R67): its unit, plane, format, source record, the tiles a lode chain has brought so far. -/
structure Load where
  unit : Seam
  plane : Nat
  fmt : Nat
  source : Rec
  tiles : List Rec
  deriving DecidableEq, Repr

/-- What an instruction in flight is. -/
inductive Work where
  | pass (p : Pass)
  | load (l : Load)
  | unit (opcode : Nat)
  deriving DecidableEq, Repr

/-- An instruction in flight (R103): a number of the model's own, its index, its word and record, the scree-list entry it
belongs to (255 for the main program), the digest ordinal of its execution (Table 7.12), the bytes it reads and writes, the
engines it owns, whether a fault stopped it and with which code, whether it is re-runnable (R94, R139), whether it is
being re-run, and whether it has given its instrument entry its totals (R228). -/
structure Flight where
  id : Nat
  pc : Nat
  word : Word64
  record : Rec
  entry : Nat
  ordinal : Nat
  reads : List Iv
  writes : List Iv
  engines : List Nat
  work : Work
  stopped : Option Nat
  rerunnable : Bool
  rerun : Bool
  fed : Bool
  deriving DecidableEq, Repr

/-- A loop being run (R104): the index of its first body instruction, its index register, its count, the iterations ended. -/
structure LoopFrame where
  body : Nat
  reg : Nat
  count : Nat
  done : Nat
  deriving DecidableEq, Repr

/-- A fill task being issued and what FILL_END restores (R131, R132). -/
structure Fill where
  entry : Nat
  pc : Nat
  idx : List Word32
  loops : List LoopFrame
  drains : Tbl Rec
  preloads : Tbl (Nat × Rec)
  hold : Nat
  deriving DecidableEq, Repr

/-- One weight plane of an engine (R66): format, element codes by stored row, scale bytes by stored column, the state of
Table 3.6 (0 zero-initialised, 1 loading, 2 loaded, 3 invalid), and the last weight load of the step into it, as format,
unit and record, which recovery reloads from (R94). An empty code or scale list reads as zeros (R69). -/
structure Plane where
  fmt : Nat
  codes : List Int
  scales : Rec
  state : Nat
  source : Option (Nat × Seam × Rec)
  deriving DecidableEq, Repr

/-- A core: sequencer, index registers, loops, in-flight set, token queues, scree list with the index registers and drain settings of
each entry's arm, settings and weight planes; and the
error patterns standing in the 16-byte words of its program store and of its function table store (R101, R119). -/
structure Core where
  state : Nat
  pc : Nat
  idx : List Word32
  loops : List LoopFrame
  hold : Nat
  holdCore : Nat
  holdQueue : Nat
  inflight : List Flight
  nextId : Nat
  ended : Bool
  fill : Option Fill
  scree : Tbl Nat
  screeIdx : Tbl (List Word32)
  screeDrains : Tbl (Tbl Rec)
  arms : Tbl Nat
  execs : Tbl Nat
  queues : Tbl Nat
  drains : Tbl Rec
  preloads : Tbl (Nat × Rec)
  planes : Tbl Plane
  progFlips : Flips
  tableFlips : Flips
  deriving DecidableEq, Repr

/-! ## Streams (R140 to R174) -/

/-- A slot being run: its number, its descriptor or pebble entry as fetched, the next transfer to start, how many
have completed, and whether a context switch has discarded the descriptor, so that it has to be fetched again (R174). -/
structure Running where
  slot : Nat
  desc : Rec
  started : Nat
  done : Nat
  stale : Bool := false
  deriving DecidableEq, Repr

/-- A stream: head slot, armed count, pending re-arm, completed count, the slot that completed last, the slot running,
descriptors fetched ahead, the state of Table 5.9, the
host bytes received for it, the rows standing on its flow side, its arena cursor, and whether the completed transfers of
a collective output are in place (R249); `signalled` is 1 while a completed transfer's signal waits for room, `gated` says that the
gate's token of the transfer about to start, or to start again, has been taken, `offered` that the rows of the transfer in flight
stand at an engine's flow side, `again` is a slot that runs again but is not yet fetched (R160), `descFlips` the error patterns in
the words of descriptors held on chip (R146), by 4 × slot + word, `landed` the bytes in the landing buffer of a flow-side destination
(R331), `near` which of the rows on its flow side crossed no die-to-die edge, `sealing` the key and the first record's counter under which the records in flight from the host have started (R402, R417). -/
structure Stream where
  head : Nat
  armed : Nat
  rearm : Bool
  completed : Nat
  last : Option Nat
  running : Option Running
  fetched : List (Nat × Rec)
  state : Nat
  faulted : Bool
  hostBuf : Rec
  flow : List Rec
  cursor : Option Nat
  inPlace : List Nat
  signalled : Nat
  gated : Bool
  sealing : Option (Rec × Nat)
  offered : Bool
  again : Option Nat
  descFlips : Flips
  landed : Nat
  near : List Bool := []
  deriving DecidableEq, Repr

/-- A tile in a lode member's buffer (R167): its image, and whether it has been forwarded and taken. -/
structure LodeTile where
  bytes : Rec
  forwarded : Bool
  taken : Bool
  deriving DecidableEq, Repr

/-! ## Training step (R200 to R239) -/

/-- An update unit (R214 to R222): state and cause of Table 7.9, entry, block, and the hyperparameter block it
has read for the entry. -/
structure Update where
  state : Nat
  cause : Nat
  entry : Nat
  block : Nat
  hyper : Rec
  deriving DecidableEq, Repr

/-- A sequence slot (R225): whether it holds a sequence, its tag and its next token. -/
structure SeqSlot where
  holds : Bool
  tag : Word64
  next : Nat
  deriving DecidableEq, Repr

/-- A step in progress: its record (Table 11.14), the seeds and descriptors in force and the scale bytes as they stood at
stage 3 (R200), the input digest (R235), its start time, whether an abort is stopping its units. -/
structure StepRun where
  record : Rec
  seeds : List Word64
  samples : Rec
  table : Rec
  inputDigest : Rec
  startTime : Word64
  aborting : Bool
  deriving DecidableEq, Repr

/-- What replay capture has gathered (R232 to R235): digest records in log order, ring input bytes, fill flags. -/
structure Capture where
  records : List Rec
  ringLog : Rec
  digestFull : Bool
  ringFull : Bool
  deriving DecidableEq, Repr

/-! ## The ring (R240 to R280) -/

/-- A chunk as it stands in a send hold or buffer: header and payload (R258), and whether a word of it is uncorrectable (R287). -/
structure Chunk where
  header : Rec
  payload : Rec
  bad : Bool := false
  deriving DecidableEq, Repr

/-- A member link's state at one end (R260): next number to send, last acknowledged, last accepted, whether the last
accepted chunk was detoured, the link state of Table 8.11 (1 direct, 2 route 0, 3 route 1, 4 none), whether a resume query
is out and how many stayed silent, times the peer refused one number, and the send hold. -/
structure Link where
  plane : Nat
  peer : Nat
  next : Word32
  acked : Word32
  accepted : Word32
  lastDetoured : Bool
  route : Nat
  query : Bool
  silent : Nat
  refused : Nat
  refusedNo : Word32
  upAgain : Bool
  hold : List Chunk
  direct : Bool := false
  deriving DecidableEq, Repr

/-- A collective of the running step (R263): its progress, contributions stored but not yet added, partial sums received
but not yet added, its counts, its agreed vector, and whether it is complete. -/
structure Coll where
  own : Tbl Rec
  partials : Tbl Rec
  inputs : List Nat
  outputs : List Nat
  sats : Nat
  vugs : Nat
  mismatches : Nat
  detoured : Nat
  mismatchLogged : Bool
  vector : Option Rec
  started : Bool
  complete : Bool
  stopped : Bool
  deriving DecidableEq, Repr

/-- Ring state that is saved with a context (R276): member links as sender and as receiver, open collectives, and chunks
of the next epoch accepted and held. -/
structure Ring where
  up : List Link
  down : List Link
  colls : Tbl Coll
  held : List (Nat × Chunk)
  checked : List Nat
  deriving DecidableEq, Repr

/-- Everything on chip that belongs to the resident context and that a context switch saves and restores (R109, R174,
R202, R276, R396). -/
structure Chip where
  scratch : Mem
  scratchFlips : Flips
  cores : Tbl Core
  streams : Tbl Stream
  lode : Tbl (List LodeTile)
  instruments : Tbl Accum
  arena : Tbl (Nat × Nat)
  updates : Tbl Update
  ring : Ring
  capture : Capture
  step : Option StepRun
  keptScale : Option (List (Byte × Byte))
  deriving DecidableEq, Repr

/-! ## Plans and contexts (R385 to R418) -/

/-- A validated plan, as its image's sections give it (Table 12.2), with the image, which is the plan part of the save
area, and its digest (R395). -/
structure Plan where
  image : Rec
  digest : Rec
  settings : Rec
  programs : Tbl (List Word64)
  decls : Tbl Rec
  ftables : Tbl Rec
  streams : Tbl Rec
  rings : List (Nat × Nat × Rec)
  inputs : List (Nat × Nat)
  groups : List (BitVec 96)
  lodes : List (Nat × List Nat)
  planes : List (Rec × Rec)
  detours : List Rec
  colls : List Rec
  backward : List Word64
  updates : Tbl (List Rec)
  instruments : List Rec
  scaleUpdates : List Word32
  initScale : Rec
  args : Tbl (List Rec)
  deriving DecidableEq, Repr

/-- A memory region (R390) beside the complement of its packed value (Table 13.3). -/
structure Region where
  base : Nat
  size : Nat
  readable : Bool
  writable : Bool
  cursor : Nat
  comp : BitVec 146
  deriving DecidableEq, Repr

/-- A digest slot (R169): the bytes absorbed so far, whether it is closed, and its digest once closed. -/
structure DigestSlot where
  absorbed : Rec
  closed : Bool
  digest : Rec
  deriving DecidableEq, Repr

/-- A confidential host session (R400 to R403, R508): the two keys, which live only in Flint's key store, the plan
record counter, and each stream's record counters, from the host and to it. -/
structure Session where
  h2d : Rec
  d2h : Rec
  planCounter : Nat
  records : Tbl (Nat × Nat) := []
  deriving DecidableEq, Repr

/-- A context (R385 to R398). `status` holds the stream status words saved with it (R174). -/
structure Context where
  id : BitVec 16
  confidential : Bool
  saveBase : Nat
  initial : Bool
  plan : Option Plan
  regions : Tbl Region
  scale : List (Byte × Byte)
  digests : Tbl DigestSlot
  slots : List SeqSlot
  completed : Word32
  epoch : Bool
  sessions : Tbl Session
  saved : Option Chip
  status : List (Reg × Word64) := []
  deriving DecidableEq, Repr

/-! ## Flint, mailboxes and management -/

/-- The background commands of R361. -/
inductive BgKind where
  | loadPlan | switch | scrub | attest | reset
  deriving DecidableEq, Repr

/-- A background command under way: its mailbox, whether a Function Level Reset discarded its reply (R381), and what its
completion needs. -/
structure Background where
  kind : BgKind
  mbx : Mbx
  discarded : Bool
  target : BitVec 16
  addr : Nat
  len : Nat
  host : Bool
  image : Rec
  failed : Nat
  nonce : Rec
  offset : Nat
  snapshot : Rec
  reformed : Bool
  dies : Nat
  savedCtx : BitVec 16
  deriving DecidableEq, Repr

/-- A Flint-run recovery whose window is open (R429): the report, the unit it names and the units of its recovery path, as
(source kind, unit) with 20 for banks, and the die it is on. -/
structure Window where
  report : Report
  units : List (Nat × Nat)
  path : List (Nat × Nat)
  die : Nat
  deriving DecidableEq, Repr

/-- A strata-log event (Table 13.15). -/
structure Event where
  time : Word64
  number : Nat
  source : Nat
  code : Nat
  action : Nat
  flags : Nat
  context : BitVec 16
  unit : Nat
  detail : Rec
  deriving DecidableEq, Repr

/-- A strata-log cut in a flash slot (R449): cut header, events oldest first, the four fault summary registers, CRC-64. -/
structure Cut where
  slot : Nat
  header : Rec
  events : List Event
  summaries : List Word64
  crc : Word64
  deriving DecidableEq, Repr

/-- Flint: the device state machine, ownership, the command point, fault handling and the strata log. `lastBeat` is where the heartbeat
stands once Flint is held in reset (R360), `cutReasons` the HALTED reasons of the cuts that wait (R449), `struck` the slots of the retention
SRAM whose event does not verify under the check code (R448). -/
structure Flint where
  state : DevState
  prior : DevState
  haltedReason : Nat
  progress : Nat
  alive : Bool
  heldInReset : Bool
  lastExpiry : Option Word64
  lastBeat : Nat := 0
  owner : Option Nat
  leaseExpired : Bool
  leaseStart : Word64
  queue : List Mbx
  background : Option Background
  aborting : Option (Mbx × Bool)
  resetReply : Option Mbx
  heldArms : List (Nat × Word64)
  reports : List Report
  gathering : Option (List Report)
  waiting : List Report
  windows : List Window
  past : List (Report × Word64)
  logRing : Tbl Event
  logHeader : BitVec 128
  logHeaderComp : BitVec 128
  eventNumber : Nat
  cutWriting : Option Cut
  cutWanted : Nat
  cutReasons : List Nat := []
  struck : List Nat := []
  memoryClean : Bool
  reinit : List Nat
  tripped : Bool
  tripWait : Bool
  refclkLost : Bool
  lastTag : Word64
  deriving DecidableEq, Repr

/-- A host port (R348 to R358, R379 to R384): link, function power state, mailbox bits, interrupt registers, violations,
BAR2 pages, MSI-X table and pending bits, and the stored attestation report. -/
structure HostPort where
  linkUp : Bool
  perst : Bool
  training : Bool
  busMaster : Bool
  d3hot : Bool
  submitted : BitVec 32
  done : BitVec 32
  pages : Mem
  msix : Mem
  pba : BitVec 64
  report : Option (BitVec 16 × Rec × Rec)
  functionMask : Bool := false
  deriving DecidableEq, Repr

/-- The management port (R413 to R416): whether it serves clients, the open session's role, the update state of
Table 12.6, whether an image is staged, the dies under partial reset, and the stored report. -/
structure Mgmt where
  up : Bool
  role : Option Nat
  update : Nat
  staged : Bool
  partialDies : Nat
  report : Option (BitVec 16 × Rec × Rec)
  deriving DecidableEq, Repr

/-! ## Boot flash (R477 to R484) -/

/-- A firmware slot: the image bytes, whether its signature and key verify, its security version. -/
structure FwSlot where
  image : Rec
  verified : Bool
  security : Nat
  version : Nat
  deriving DecidableEq, Repr

/-- The slot selector (Table 15.5); `valid` says that its magic and CRC-64 are right. -/
structure Selector where
  valid : Bool
  sequence : Nat
  slot : Nat
  trial : Bool
  attempts : Nat
  deriving DecidableEq, Repr

/-- A signed record copy in flash: its bytes after the signature check (`signed`), its version. -/
structure SignedCopy where
  signed : Bool
  version : Nat
  bytes : Rec
  deriving DecidableEq, Repr

/-- The operator key record (R414): up to eight keys with roles. -/
structure OperatorCopy where
  signed : Bool
  version : Nat
  keys : List (Rec × Nat)
  deriving DecidableEq, Repr

/-- The boot flash: selector copies, configuration, operator and repair-map copies, cut slots, firmware slots, monotonic
counters, helper data, and the device secret whose key K its counter region was bound to at manufacture (R477). -/
structure Flash where
  selectors : List Selector
  configs : List SignedCopy
  operators : List OperatorCopy
  repairs : List (SignedCopy × List (BitVec 128))
  cuts : List Cut
  slots : List FwSlot
  counters : List Nat
  helper : Rec
  helperDigest : Rec
  identityCert : Rec := []
  intermediateCert : Rec := []
  counterSecret : Rec := Config.deviceSecret []
  deriving DecidableEq, Repr

/-- The configuration in effect (Table 15.6). -/
structure Cfg where
  pinRate : Nat
  paths : Nat
  holdLimitMs : Nat
  handover : Nat
  marginRead : Nat
  marginWrite : Nat
  patrolH : Nat
  linkDown : Nat
  laserWarn : Nat
  laserHand : Nat
  lossLoc : Nat
  laneWarn : Nat
  laneSwap : Nat
  leaseS : Nat
  capW : Nat
  throttleBasalt : Int
  throttleOpal : Int
  deriving DecidableEq, Repr

/-! ## Memory devices, optics, lanes, power -/

/-- A memory device and its controller (R175 to R199): the state of Table 6.8, last readout (0 at reset), whether there has been
one, the readout at each channel's last full training, patrol page, the extension mode registers of its eight stack dies (R179), the
read-timing values of each die of each channel (R180, at 8 × channel + die), the stack die refreshed next, the doubled refresh rate, readouts replaced in a row,
channels due for full retraining, those of them due since a self-refresh exit, tracking and refreshes counted, and the memory
fault code that failed it. -/
structure MemDev where
  state : Nat
  ext : List Byte
  timing : List Word64
  refreshNext : Nat
  readout : Int
  measured : Bool
  trainedAt : List Int
  patrolPage : Nat
  fastRefresh : Bool
  replaced : Nat
  due : List Nat
  exitDue : List Nat
  tracked : Nat
  refreshes : Nat
  failed : Option Nat
  held : List MemAccess := []
  deriving DecidableEq, Repr

/-- A word waiting to be sent on a port: its class, the receive port it came in on or 24 for one of this chip's own, whether
it starts a message, whether the message is a control message, whether it is poisoned (R287), its 16 bytes. -/
structure TxWord where
  cls : Nat
  src : Nat
  start : Bool
  control : Bool
  poison : Bool
  word : Rec
  deriving DecidableEq, Repr

/-- A word received on a port that waits in its class stream (R287, R290): class, whether it came poisoned and so is stored as
uncorrectable, its 16 bytes. -/
structure RxWord where
  cls : Nat
  poison : Bool
  word : Rec
  deriving DecidableEq, Repr

/-- An optical port (R281 to R323): state of Table 9.11, the step of Table 9.8 it stands at, light, peer identity, delay
samples, codeword counter, flit numbers (next to send, next expected, last acknowledged by the peer), the replay buffer,
words waiting to be sent, stop states of both
directions, chunks parked at the head of class 0 for a context that does not run (Table 8.14), training progress and the
dormant handshakes; the counter of the next codeword sent, flits sent since the last idle one and received since the last idle one
(R285, R289), the words received and not yet taken, the port state the peer last sent, whether the peer is dormant and has been
asked to wake (R317), whether a dormant request is granted in the next management codeword, whether the path baselines are still to
be taken (Table 9.7), and whether a scrub waits for the replay buffer (R318). -/
structure OPort where
  state : Nat
  stepNo : Nat
  light : Bool
  peerValid : Bool
  peer : BitVec 32
  reported : Option (BitVec 32)
  echoed : Bool
  samples : List Int
  delay : Nat
  lastSent : Word64
  rxCounter : Option Nat
  txNext : Word32
  rxNext : Word32
  acked : Word32
  replay : List (Word32 × Rec)
  txq : List TxWord
  parked : List Chunk
  nacking : Bool
  nacks : Nat
  stoppedBy : BitVec 2
  stopping : BitVec 2
  threshold : Nat
  pacedTo : Nat
  seen : Tbl Nat
  peerRx : Nat
  sentReady : Bool
  txLocked : BitVec 16
  rxLocked : BitVec 16
  dormantAsked : Bool
  overload : Bool
  total : Int
  txCounter : Nat
  sinceIdle : Nat
  rxSinceIdle : Nat
  rxq : List RxWord
  peerState : Nat
  peerDormant : Bool
  wakeAsked : Bool
  grantDue : Bool
  pathPending : Bool
  draining : Bool
  waking : Bool := false
  drainUntil : Word64 := 0
  heard : Bool := false
  integrity : Nat := 0
  deriving DecidableEq, Repr

/-- One wavelength channel of a port (Table 9.15): assigned rings' heater codes and measured ranges, failed searches, M, D
and peer M readings, the losses last reported of the modulate section (growth, 0.25 dB) and the path section (0.25 dB; at first its baseline,
taken at link up, R301), and the baselines of manufacture: of the split section for each source, of the modulate section (0.25 dB). -/
structure OChan where
  txCode : Nat
  rxCode : Nat
  txRange : Nat
  rxRange : Nat
  txTries : Nat
  rxTries : Nat
  m : Int
  d : Int
  peerM : Int
  modLoss : Int
  pathLoss : Int
  splitBase : List Int
  modBase : Int
  splitLoss : Int
  deriving DecidableEq, Repr

/-- The lasers of one channel of an Opal (R293 to R299): states of the primary and own spare (Table 9.14), the serving
laser, the successor claimed (1 own spare, 2 neighbour's), cross-fade and no-spare flags, the declines, whether hand-over was
reached, the branch readings, the growth last reported of the laser section (R301), whether the neighbour has claimed the spare, and
the baseline outputs of the primary and the spare (R294, 0.25 dBm). -/
structure Laser where
  primary : Nat
  spare : Nat
  serving : Nat
  successor : Option Nat
  fading : Bool
  noSpare : Bool
  decline : Nat
  succDecline : Nat
  atHandover : Bool
  branch : List Int
  loss : Nat
  claimed : Bool
  base : Int
  spareBase : Int
  deriving DecidableEq, Repr

/-- A lane swap under way in an edge direction (Table 10.4): lane, spare, step reached. -/
structure Swap where
  lane : Nat
  spare : Nat
  step : Nat
  deriving DecidableEq, Repr

/-- One direction of a die-to-die edge (R324 to R347): spares in service or failed, the spare that stands in for a
lane, group states of Table 10.8, the (stream, words) bound to a group, the groups of each plane's ring gang, lanes that wait
for the spare arbiter with whether they are urgent, the swap in progress, the averaged margins of lanes in service, edge failure;
whether both sideband lanes are lost (R342), groups whose frames are held back for a resend (R328), segments that wait for a group
(R340), frames in a row in which a lane's CRC mismatched and the times of its mismatches of the last second (Table 10.3); groups whose resent
frames are coming in (R328), waiting segments that go on from a retired group (R340), and half-width switches, as group and lane, that wait
for a swap in the kept half (Table 10.5). -/
structure Edge where
  sparesUsed : List Nat
  standIn : Tbl Nat
  groups : Tbl Nat
  bound : Tbl (Nat × Nat)
  gangs : Tbl (List Nat)
  wanted : List (Nat × Bool)
  swap : Option Swap
  margins : Tbl Nat
  failed : Bool
  sidebandLost : Bool
  resending : List Nat
  waiting : List (Nat × Nat)
  crcRun : Tbl Nat
  crcTimes : Tbl (List Word64)
  resent : List Nat := []
  again : List (Nat × Nat) := []
  halfAfter : List (Nat × Nat) := []
  deriving DecidableEq, Repr

/-- A Basalt die's power controller (R453 to R473): power state of Table 14.6, regulator mode, voltages in mV, figures,
timers in µs, whether the Retain timer has run out, when a class 1 word last crossed its ports, clamps, admission hold, and the flags
its conditions need; whether its lasers stand at the bias of a retained die (R317). -/
structure Die where
  pstate : Nat
  lowMode : Bool
  coreMv : Nat
  moverMv : Nat
  arrayMv : Nat
  watts : Nat
  basalt : List Int
  opal : List Int
  quietUs : Nat
  retainUs : Nat
  due : Bool
  lastClass1 : Option Word64
  clamped : Bool
  holdAdmission : Nat
  stayQuiet : Bool
  throttled : Bool
  lowReported : Bool
  retired : Bool
  lowBias : Bool
  opalMv : Nat := 0
  deriving DecidableEq, Repr

/-- Package facts that outlive contexts: repair map, retired units, spares (R438 to R444), per-engine and per-line
history. -/
structure Repair where
  entries : List (BitVec 128)
  version : Nat
  retiredCores : List Nat
  retiredEngines : List (Nat × Nat)
  retiredPorts : List Nat
  failedEdges : List Nat
  usedCoreSites : List (Nat × Nat)
  spareEngineUsed : List Nat
  spareEngineFailed : List Nat
  substituted : List (Nat × Nat)
  handoverPending : List (Nat × Nat)
  corrected : Tbl Nat
  linesUsed : Tbl Nat
  lineEvents : List (Nat × Word64)
  changed : Bool
  spareLines : Tbl (List Nat) := []
  deriving DecidableEq, Repr

/-- The input pins of Table 16.2 that the device acts on (R496 to R500): supply in range, MOD_PWROK, MOD_RESET_N, the reference
clock running. What the device drives on its output pins follows from the state (Machine/Regs.lean). -/
structure Pins where
  vin : Bool
  pwrok : Bool
  resetN : Bool
  refclk : Bool
  deriving DecidableEq, Repr

/-- What the block has sent to its world, oldest first: MSI-X messages, writes to host memory, requests for host data,
codewords of a port (control field, content: a flit, a management or a link codeword, R285, and the symbols on its 16 channels, R284), training blocks of a port's channels,
commands to a memory stack with the value on its select signals (R177), replies on the management port, the value that a read of a register returns, maintenance messages of an edge direction, on the sideband or over a service group. -/
inductive Out where
  | msix (port vector : Nat)
  | hostWrite (port addr : Nat) (bytes : Rec)
  | hostRead (port addr len : Nat)
  | codeword (port : Nat) (control : BitVec 20) (content : Rec) (channels : List (List Nat))
  | training (port channel : Nat) (block : BitVec 340)
  | stackCommand (dev : Nat) (select : BitVec 3) (what : String)
  | mgmtReply (code : Nat) (data : Rec)
  | readValue (r : Reg) (value : Word64)
  | lane (die edge : Nat) (service : Bool) (msg : String) (arg : Nat)
  deriving DecidableEq, Repr

/-- The whole machine. `gangPairs` lists the planes whose ring gangs stand, with their downstream and upstream ports (R332). -/
structure State where
  localTime : Word64
  epochOffset : Word64
  fabricValid : Bool
  fabric : BitVec 17
  powered : Bool
  resident : BitVec 16
  residentComp : BitVec 16
  generations : Tbl Nat
  contexts : Tbl Context
  chip : Chip
  flint : Flint
  hosts : Tbl HostPort
  mgmt : Mgmt
  flash : Flash
  cfg : Cfg
  running : Nat
  regs : List (Reg × Word64)
  devmem : Mem
  devFlips : Flips
  mems : Tbl MemDev
  oports : Tbl OPort
  ochans : Tbl OChan
  lasers : Tbl Laser
  edges : Tbl Edge
  gangPairs : List (Nat × Nat × Nat)
  dies : Tbl Die
  repair : Repair
  pins : Pins
  inputMv : Nat
  inputW : Nat
  sent : List Out
  fresh : Nat
  pending : List Instr
  deriving DecidableEq, Repr

/-! ## Initial values

What each part of the state holds at reset, and what an absent key of a table stands for. Registers of which the manual
gives no reset value take the value named in the assumption log. -/

/-- A core at step start and at reset: idle, every index register 0 (R102, Table 4.13), every plane zero-initialised. -/
def Core.init : Core :=
  { state := 0, pc := 0, idx := List.replicate 16 0, loops := [], hold := 0, holdCore := 0, holdQueue := 0, inflight := [],
    nextId := 0, ended := false, fill := none, scree := [], screeIdx := [], screeDrains := [], arms := [], execs := [], queues := [],
    drains := [], preloads := [], planes := [], progFlips := [], tableFlips := [] }

/-- A zero-initialised weight plane (R69). The rule gives its elements, its scale bytes and its state, not its format: the model takes I4.
(log 181: DESIGN CHOICE) -/
def Plane.init : Plane := { fmt := 0, codes := [], scales := [], state := 0, source := none }

/-- A stream at rest: head slot 0, nothing armed. -/
def Stream.init : Stream :=
  { head := 0, armed := 0, rearm := false, completed := 0, last := none, running := none, fetched := [], state := 0,
    faulted := false, hostBuf := [], flow := [], cursor := none, inPlace := [], signalled := 0, gated := false, sealing := none,
    offered := false, again := none, descFlips := [], landed := 0 }

/-- An empty instrument accumulator (R228). -/
def Accum.init : Accum :=
  { sumSq := 0, sumSqExp := 0, maxMag := 0, maxMagExp := 0, elements := 0, vugs := 0, sats := 0, written := false }

/-- An update unit with no list under way (Table 7.9). -/
def Update.init : Update := { state := 0, cause := 0, entry := 0, block := 0, hyper := [] }

/-- A collective before its first chunk. -/
def Coll.init : Coll :=
  { own := [], partials := [], inputs := [], outputs := [], sats := 0, vugs := 0, mismatches := 0, detoured := 0,
    mismatchLogged := false, vector := none, started := false, complete := false, stopped := false }

/-- A fresh member link to a peer of a plane: the first chunk's number is 0 (R260), so the last acknowledged and the last
accepted stand one before it; direct route. -/
def Link.init (plane peer : Nat) : Link :=
  { plane := plane, peer := peer, next := 0, acked := ~~~0, accepted := ~~~0, lastDetoured := false, route := 1, query := false,
    silent := 0, refused := 0, refusedNo := 0, upAgain := false, hold := [] }

/-- Empty on-chip state. -/
def Chip.init : Chip :=
  { scratch := [], scratchFlips := [], cores := [], streams := [], lode := [], instruments := [], arena := [],
    updates := [], ring := { up := [], down := [], colls := [], held := [], checked := [] },
    capture := { records := [], ringLog := [], digestFull := false, ringFull := false }, step := none, keptScale := none }

/-- Flint from reset: BOOTING, boot progress 0x00, no owner (R377), an empty strata log with its header beside the
complement (R446). -/
def Flint.init : Flint :=
  { state := .booting, prior := .booting, haltedReason := 0, progress := 0, alive := false, heldInReset := false,
    lastExpiry := none, owner := none, leaseExpired := false, leaseStart := 0, queue := [], background := none,
    aborting := none, resetReply := none, heldArms := [], reports := [], gathering := none,
    waiting := [], windows := [], past := [], logRing := [], logHeader := 0, logHeaderComp := ~~~0, eventNumber := 0,
    cutWriting := none, cutWanted := 0, memoryClean := false, reinit := [],
    tripped := false, tripWait := false, refclkLost := false, lastTag := 0 }

/-- A host port endpoint from reset: link down, Bus Master Enable 0, every mailbox idle, the MSI-X entries masked. (log 14: PRESUMED) -/
def HostPort.init : HostPort :=
  { linkUp := false, perst := false, training := false, busMaster := false, d3hot := false, submitted := 0, done := 0,
    pages := [], msix := (List.range 34).map fun i => (16 * i + 12, 1), pba := 0, report := none }

/-- The management port from reset. -/
def Mgmt.init : Mgmt := { up := false, role := none, update := 0, staged := false, partialDies := 0, report := none }

/-- The defaults of Table 15.6. -/
def Cfg.default : Cfg :=
  { pinRate := 2, paths := 0x0755, holdLimitMs := 100, handover := 16, marginRead := 12, marginWrite := 12, patrolH := 24,
    linkDown := 20, laserWarn := 10, laserHand := 20, lossLoc := 10, laneWarn := 14, laneSwap := 10, leaseS := 10,
    capW := 2200, throttleBasalt := 95, throttleOpal := 85 }

/-- The body of the manufacture record: the defaults of Table 15.6 at their offsets (R484), after a header whose version is
0. -/
def manufactureConfig : Rec :=
  [0x54, 0x5A, 0x46, 0x43] ++ List.replicate 60 0 ++
  [2, 0x55, 0x07, 0, 100, 0, 0, 0, 16, 0, 12, 12, 24, 0, 20, 0, 10, 20, 10, 14, 10, 0, 10, 0, 0x98, 0x08, 95, 85] ++
  List.replicate 36 0

/-- The repair-map record of manufacture (Table 13.10): version 0, no entry, no certificate, under Yawedo's signature (R442). -/
def manufactureMap : Rec :=
  [0x54, 0x5A, 0x50, 0x52, 0, 0, 0, 0] ++ ((List.range 8).map fun i => Config.provisionedSerial.extractLsb' (8 * i) 8) ++
  List.replicate 48 0 ++ Config.provisionedSignature

/-- The boot flash of a new module: no valid selector copy, so slot A without a trial (R481); the manufacture
configuration record; no operator record; an empty repair map; slot A verified; counters 0; the helper record's digest that of the secret. (log 133: DESIGN CHOICE) -/
def Flash.init : Flash :=
  { selectors := [{ valid := false, sequence := 0, slot := 0, trial := false, attempts := 0 },
                  { valid := false, sequence := 0, slot := 0, trial := false, attempts := 0 }],
    configs := [{ signed := true, version := 0, bytes := manufactureConfig }, { signed := false, version := 0, bytes := [] }],
    operators := [{ signed := false, version := 0, keys := [] }, { signed := false, version := 0, keys := [] }],
    repairs := [({ signed := true, version := 0, bytes := manufactureMap }, []), ({ signed := false, version := 0, bytes := [] }, [])],
    cuts := [],
    slots := [{ image := [], verified := true, security := 0, version := 0 },
              { image := [], verified := false, security := 0, version := 0 }],
    counters := [0, 0, 0, 0], helper := [], helperDigest := Config.secretDigest (Config.deviceSecret []) }

/-- A memory device from reset: not yet trained, its readout 0 (Table 6.8) until the first one comes. (log 83: DEDUCED) -/
def MemDev.init : MemDev :=
  { state := 0, ext := (List.range 8).map fun i => BitVec.ofNat 8 (8 * i), timing := [], refreshNext := 0, readout := 0, measured := false,
    trainedAt := [0, 0, 0, 0], patrolPage := 0, fastRefresh := false, replaced := 0, due := [], exitDue := [], tracked := 0, refreshes := 0, failed := none }

/-- An optical port from reset: off (Table 9.11); flit numbers as when a link comes up (R286). (log 177: DESIGN CHOICE) -/
def OPort.init : OPort :=
  { state := 0, stepNo := 0, light := false, peerValid := false, peer := 0, reported := none, echoed := false, samples := [],
    delay := 0, lastSent := 0, rxCounter := none, txNext := 0, rxNext := 0, acked := ~~~0, replay := [], txq := [],
    parked := [], nacking := false, nacks := 0, stoppedBy := 0, stopping := 0, threshold := 0, pacedTo := 0,
    seen := [], peerRx := 0, sentReady := false, txLocked := 0, rxLocked := 0, dormantAsked := false,
    overload := false, total := 0, txCounter := 0, sinceIdle := 0, rxSinceIdle := 0, rxq := [], peerState := 0,
    peerDormant := false, wakeAsked := false, grantDue := false, pathPending := false, draining := false }

/-- A wavelength channel from reset. (log 177: DESIGN CHOICE) -/
def OChan.init : OChan :=
  { txCode := 0, rxCode := 0, txRange := 0, rxRange := 0, txTries := 0, rxTries := 0, m := 0, d := 0, peerM := 0,
    modLoss := 0, pathLoss := 0, splitBase := [0, 0, 0], modBase := 0, splitLoss := 0 }

/-- A laser channel from reset: the primary serves, the spare is cold (Table 9.14). (log 177: DESIGN CHOICE) -/
def Laser.init : Laser :=
  { primary := 0, spare := 0, serving := 0, successor := none, fading := false, noSpare := false, decline := 0,
    succDecline := 0, atHandover := false, branch := [], loss := 0, claimed := false,
    base := 0, spareBase := 0 }

/-- An edge direction from reset: every spare idle, every group full width (Table 10.8). -/
def Edge.init : Edge :=
  { sparesUsed := [], standIn := [], groups := [], bound := [], gangs := [], wanted := [], swap := none, margins := [],
    failed := false, sidebandLost := false, resending := [], waiting := [], crcRun := [], crcTimes := [] }

/-- A die's power controller from reset: Active, full mode, every figure 0 (Table 14.6), the timers of R458. -/
def Die.init : Die :=
  { pstate := 0, lowMode := false, coreMv := 0, moverMv := 0, arrayMv := 0, watts := 0, basalt := [], opal := [],
    quietUs := 500, retainUs := 5000, due := false, lastClass1 := none, clamped := false, holdAdmission := 0,
    stayQuiet := false, throttled := false, lowReported := false, retired := false, lowBias := false }

/-- An empty repair map. -/
def Repair.init : Repair :=
  { entries := [], version := 0, retiredCores := [], retiredEngines := [], retiredPorts := [], failedEdges := [],
    usedCoreSites := [], spareEngineUsed := [], spareEngineFailed := [], substituted := [], handoverPending := [],
    corrected := [], linesUsed := [], lineEvents := [], changed := false }

/-- The machine right after reset, reset still held: state BOOTING with boot progress 0x00 (R485), local time 0 (R20), no
fabric address (R370), no context, memory reading as 0, every register at the reset value of its table. -/
def State.reset : State :=
  { localTime := 0, epochOffset := 0, fabricValid := false, fabric := 0, powered := true, resident := 0, residentComp := ~~~0,
    generations := [], contexts := [], chip := Chip.init, flint := Flint.init,
    hosts := [(0, HostPort.init), (1, HostPort.init)], mgmt := Mgmt.init, flash := Flash.init, cfg := Cfg.default,
    running := 0, regs := [], devmem := [], devFlips := [], mems := [], oports := [], ochans := [],
    lasers := [], edges := [], gangPairs := [], dies := [], repair := Repair.init,
    pins := { vin := true, pwrok := true, resetN := false, refclk := true },
    inputMv := 0, inputW := 0, sent := [], fresh := 0, pending := [] }

end Sys2Proof.Machine
end

