-- ==== Sys2Proof/Machine/Bits.lean ====
section
/-! DEFINITION. Bytes, bit fields and sparse tables: little-endian records (R5), bit numbering (R6), signed fields, and the
lookups every other file reads state through. -/

namespace Sys2Proof.Machine

/-! ## Bytes and fields -/

/-- The little-endian value of a byte string (R5). -/
def ofLe : Rec → Nat
  | [] => 0
  | b :: r => b.toNat + 256 * ofLe r

/-- The low `n` bytes of a value, least significant first (R5). -/
def toLe : Nat → Nat → Rec
  | 0, _ => []
  | n + 1, v => BitVec.ofNat 8 v :: toLe n (v / 256)

/-- Bytes `off` to `off + n − 1` of a record; bytes beyond it read as 0. -/
def slice (r : Rec) (off n : Nat) : Rec := (List.range n).map fun i => r.getD (off + i) 0

/-- The little-endian field of `n` bytes at `off`. -/
def le (r : Rec) (off n : Nat) : Nat := ofLe (slice r off n)

/-- Bits [hi:lo] of a value (R6). -/
def bits (v hi lo : Nat) : Nat := (v / 2 ^ lo) % 2 ^ (hi + 1 - lo)

/-- Bit `n` of a value, as a Bool. -/
def bit (v n : Nat) : Bool := (v / 2 ^ n) % 2 = 1

/-- The two's complement value of a `w`-bit field. -/
def sgn (w v : Nat) : Int := if v % 2 ^ w < 2 ^ (w - 1) then (v % 2 ^ w : Nat) else (v % 2 ^ w : Nat) - (2 ^ w : Nat)

/-- The `w`-bit two's complement code of an integer. -/
def unsgn (w : Nat) (i : Int) : Nat := (i % (2 ^ w : Nat)).toNat

/-- The bytes of a record with `new` put at `off` (bytes past its end are dropped). -/
def patch (r : Rec) (off : Nat) (new : Rec) : Rec :=
  (List.range r.length).map fun i => if off ≤ i ∧ i < off + new.length then new.getD (i - off) 0 else r.getD i 0

/-- `n` zero bytes. -/
def zeros (n : Nat) : Rec := List.replicate n 0

/-- Whether every byte of a field is 0 (a reserved field as it must be, R7). -/
def zeroAt (r : Rec) (off n : Nat) : Bool := (slice r off n).all (· = 0)

/-- Field [hi:lo] of a 64-bit word. -/
def fieldOf (w : Word64) (hi lo : Nat) : Nat := bits w.toNat hi lo

/-- A 64-bit word with field [hi:lo] set to `v`, cut to the field's width. -/
def withField (w : Word64) (hi lo v : Nat) : Word64 :=
  let m := BitVec.ofNat 64 ((2 ^ (hi + 1 - lo) - 1) * 2 ^ lo)
  (w &&& ~~~m) ||| (BitVec.ofNat 64 (v * 2 ^ lo) &&& m)

/-- Field [hi:lo] raised by `n`, stopping at the field's largest value (R36, R58). -/
def bumpField (w : Word64) (hi lo n : Nat) : Word64 :=
  withField w hi lo (min (fieldOf w hi lo + n) (2 ^ (hi + 1 - lo) - 1))

/-! ## Sparse tables -/

namespace Tab

/-- The entry of a key, if the table lists one. -/
def find? {α : Type} : Tbl α → Nat → Option α
  | [], _ => none
  | (k, v) :: t, i => if k = i then some v else find? t i

/-- The entry of a key, or the default. -/
def get {α : Type} (d : α) (t : Tbl α) (i : Nat) : α := (find? t i).getD d

/-- The table with one entry set, keys kept ascending. -/
def set {α : Type} : Tbl α → Nat → α → Tbl α
  | [], i, v => [(i, v)]
  | (k, x) :: t, i, v => if k = i then (i, v) :: t else if i < k then (i, v) :: (k, x) :: t else (k, x) :: set t i v

/-- The table with a key removed. -/
def erase {α : Type} (t : Tbl α) (i : Nat) : Tbl α := t.filter fun e => e.1 ≠ i

/-- The table with one entry changed by a function. -/
def upd {α : Type} (d : α) (t : Tbl α) (i : Nat) (f : α → α) : Tbl α := set t i (f (get d t i))

end Tab

/-! ## Byte memories -/

namespace Mem

/-- The byte at an address; an unlisted address reads as 0 (R27). (log 10: DESIGN CHOICE) -/
def read : Mem → Nat → Byte
  | [], _ => 0
  | (k, v) :: m, a => if k = a then v else read m a

/-- Insert a byte at its place in the ascending list. -/
def insert : Mem → Nat → Byte → Mem
  | [], a, b => [(a, b)]
  | (k, v) :: m, a, b => if k = a then (a, b) :: m else if a < k then (a, b) :: (k, v) :: m else (k, v) :: insert m a b

/-- Remove an address from the list. -/
def remove (m : Mem) (a : Nat) : Mem := m.filter fun e => e.1 ≠ a

/-- The memory after one byte is written: 0 is what an unlisted address reads as, so writing 0 removes the entry. -/
def write (m : Mem) (a : Nat) (b : Byte) : Mem := if b = 0 then remove m a else insert m a b

/-- The bytes `a` to `a + n − 1`. -/
def readN (m : Mem) (a n : Nat) : Rec := (List.range n).map fun i => read m (a + i)

/-- The memory after a byte string is written from `a` upward. -/
def writeN : Mem → Nat → Rec → Mem
  | m, _, [] => m
  | m, a, b :: r => writeN (write m a b) (a + 1) r

/-- The memory with every byte of [lo, hi) reading as 0. -/
def zero (m : Mem) (lo hi : Nat) : Mem := m.filter fun e => e.1 < lo ∨ hi ≤ e.1

/-- Addresses strictly ascending from above `b`, and no entry equal to 0. -/
def okFrom : Nat → Mem → Bool
  | _, [] => true
  | b, (k, v) :: m => decide (b ≤ k) && decide (v ≠ 0) && okFrom (k + 1) m

/-- The canonical form of a memory: equal memories are equal lists. -/
def wf (m : Mem) : Bool := okFrom 0 m

end Mem

/-- The error pattern standing in a word; an unlisted word has none. -/
def Flips.get (f : Flips) (w : Nat) : BitVec 144 := Tab.get (α := BitVec 144) 0 f w

/-- The words with an error pattern set (0 removes the entry). -/
def Flips.set (f : Flips) (w : Nat) (p : BitVec 144) : Flips := if p = 0 then Tab.erase f w else Tab.set f w p

end Sys2Proof.Machine
end

