-- ==== Sys2Proof/Machine/Codes.lean ====
section
/-! DEFINITION. The check codes and digests: the (144,128) code (R419 to R423), CRC-64 (R233), SHA3-256 (R16) and HKDF over
it (R401), and prf32 (R52 to R55). -/

namespace Sys2Proof.Machine

/-! ## The (144,128) code -/

/-- The pair of bit offsets of pair r mod 6 (R420). -/
def eccPair (r : Nat) : Nat × Nat := [(0, 1), (0, 2), (0, 3), (1, 2), (1, 3), (2, 3)].getD (r % 6) (0, 1)

/-- The column of bit n of a code word: 0 to 127 data, 128 to 143 check (R420). -/
def eccColumn (n : Nat) : BitVec 16 :=
  if n < 128 then
    let k := n / 4
    let u := n % 4
    let i := k % 4
    let r := k / 4
    let p := eccPair r
    let j := (i + 1 + r / 6) % 4
    BitVec.ofNat 16 (2 ^ (4 * i + p.1) + 2 ^ (4 * i + p.2) + 2 ^ (4 * j + u))
  else BitVec.ofNat 16 (2 ^ (n - 128))

/-- H·w over the low `n` bits of a word (R421). -/
def eccSum (w : BitVec 144) : Nat → BitVec 16
  | 0 => 0
  | n + 1 => (if w.getLsbD n then eccColumn n else 0) ^^^ eccSum w n

/-- The syndrome of a read word (R421). -/
def syndrome (w : BitVec 144) : BitVec 16 := eccSum w 144

/-- The check bits of 128 data bits (R421). -/
def eccCheck (d : BitVec 128) : BitVec 16 := eccSum (d.zeroExtend 144) 128

/-- The code word: data in bits 0 to 127, check bits in bits 128 to 143 (R419). -/
def eccEncode (d : BitVec 128) : BitVec 144 := (eccCheck d ++ d)

/-- What a read of a word delivers (R421). -/
inductive EccRead where
  | good (d : BitVec 128)
  | corrected (d : BitVec 128)
  | bad
  deriving DecidableEq, Repr

/-- The lowest bit at or below `n` whose column is a syndrome. -/
def eccFind (s : BitVec 16) : Nat → Option Nat
  | 0 => none
  | n + 1 => match eccFind s n with
    | some k => some k
    | none => if eccColumn n = s then some n else none

/-- Reading a stored word: delivered, corrected, or uncorrectable (R421). -/
def eccDecode (w : BitVec 144) : EccRead :=
  let s := syndrome w
  if s = 0 then .good (w.truncate 128)
  else match eccFind s 144 with
    | some n => .corrected ((w ^^^ BitVec.ofNat 144 (2 ^ n)).truncate 128)
    | none => .bad

/-- The error pattern of a poisoned word: check bits XOR 0xFFFF (R422). -/
def poison : BitVec 144 := BitVec.ofNat 144 (0xFFFF * 2 ^ 128)

/-- What an error pattern does to any read of the word: the code is linear, so only the pattern's syndrome counts. -/
inductive Seen where
  | clean | single | dead
  deriving DecidableEq, Repr

/-- The outcome of reading a word with this error pattern (R421). A pattern that is itself a code word goes unseen. -/
def seen (p : BitVec 144) : Seen :=
  if p = 0 then .clean
  else
    let s := syndrome p
    if s = 0 then .clean else if (eccFind s 144).isSome then .single else .dead

/-! ## CRC-64 (R233) -/

/-- The ECMA-182 polynomial in reflected form. -/
def crcPoly : Word64 := 0xC96C5795D7870F42

/-- Eight shift steps of the reflected register. -/
def crcSteps : Nat → Word64 → Word64
  | 0, c => c
  | n + 1, c => crcSteps n (if c.getLsbD 0 then (c >>> 1) ^^^ crcPoly else c >>> 1)

/-- The register after a byte string. -/
def crcRun (c : Word64) : Rec → Word64
  | [] => c
  | b :: r => crcRun (crcSteps 8 (c ^^^ b.zeroExtend 64)) r

/-- CRC-64 of R233: reflected ECMA-182, initial value and final XOR all ones. -/
def crc64 (r : Rec) : Word64 := ~~~(crcRun (~~~0) r)

/-! ## SHA3-256 -/

/-- One step of the shift register that gives the round constants' bits: x^8 + x^6 + x^5 + x^4 + 1. -/
def lfsrStep (r : Nat) : Nat := if bit (2 * r) 8 then Nat.xor (2 * r) 0x171 else 2 * r

/-- A round's constant, bit 2^j − 1 of it from step j of the register, and the register after it. -/
def roundConstant (r : Nat) : Word64 × Nat :=
  (List.range 7).foldl (fun k j => (if bit k.2 0 then k.1 ^^^ BitVec.ofNat 64 (2 ^ (2 ^ j - 1)) else k.1, lfsrStep k.2)) (0, r)

/-- The parity of the column of lanes at x. -/
def columnParity (a : List Word64) (x : Nat) : Word64 := (List.range 5).foldl (fun p y => p ^^^ a.getD (x % 5 + 5 * y) 0) 0

/-- Steps rho and pi: along the walk from lane 1 by (x, y) → (y, 2x + 3y), the t-th lane goes to the next place on the walk, rotated by
the t-th triangular number. -/
def rhoPi (a : List Word64) : List Word64 :=
  ((List.range 24).foldl (fun (k : List Word64 × Nat) t =>
    let dest := k.2 / 5 + 5 * ((2 * (k.2 % 5) + 3 * (k.2 / 5)) % 5)
    (k.1.set dest ((a.getD k.2 0).rotateLeft ((t + 1) * (t + 2) / 2 % 64)), dest)) (a, 1)).1

/-- One round of Keccak-f[1600] without its constant, over lanes in the order x + 5y: theta, then rho and pi, then chi along each row. -/
def keccakMix (a : List Word64) : List Word64 :=
  let moved := rhoPi (a.mapIdx fun i w => w ^^^ columnParity a (i + 4) ^^^ (columnParity a (i + 1)).rotateLeft 1)
  moved.mapIdx fun i w =>
    let along := fun (k : Nat) => moved.getD ((i + k) % 5 + 5 * (i / 5)) 0
    w ^^^ (along 2 &&& ~~~along 1)

/-- Keccak-f[1600]: 24 rounds, the constants from the register that begins at 1. -/
def keccakF (a : List Word64) : List Word64 :=
  ((List.range 24).foldl (fun (k : List Word64 × Nat) _ =>
    let (c, r) := roundConstant k.2
    ((keccakMix k.1).modifyHead (· ^^^ c), r)) (a, 1)).1

/-- Absorb `n` blocks of 136 bytes. -/
def keccakAbsorb : Nat → List Word64 → Rec → List Word64
  | 0, a, _ => a
  | n + 1, a, r =>
    let x := (List.range 25).map fun i => a.getD i 0 ^^^ (if i < 17 then BitVec.ofNat 64 (le r (8 * i) 8) else 0)
    keccakAbsorb n (keccakF x) (r.drop 136)

/-- The padded message of SHA3-256. -/
def sha3Pad (r : Rec) : Rec :=
  let n := 136 - r.length % 136
  if n = 1 then r ++ [0x86] else r ++ [0x06] ++ zeros (n - 2) ++ [0x80]

/-- SHA3-256 (FIPS 202), 32 bytes. -/
def sha3 (r : Rec) : Rec :=
  let a := keccakAbsorb (r.length / 136 + 1) (List.replicate 25 0) (sha3Pad r)
  ((a.take 4).map fun w => toLe 8 w.toNat).flatten

/-- HMAC over SHA3-256, block 136 bytes. -/
def hmacSha3 (key msg : Rec) : Rec :=
  let k0 := if key.length > 136 then sha3 key else key
  let k := k0 ++ zeros (136 - k0.length)
  sha3 (k.map (· ^^^ 0x5C) ++ sha3 (k.map (· ^^^ 0x36) ++ msg))

/-- HKDF over SHA3-256 for one 32-byte output (R401). -/
def hkdf32 (ikm salt info : Rec) : Rec := hmacSha3 (hmacSha3 salt ikm) (info ++ [1])

/-- The ASCII bytes of a short text. -/
def ascii (t : String) : Rec := t.toList.map fun c => BitVec.ofNat 8 c.toNat

/-! ## prf32 (R54) -/

/-- One quarter of prf32 (R54). -/
def quarter (x : Word32 × Word32 × Word32 × Word32) : Word32 × Word32 × Word32 × Word32 :=
  let (a, b, c, d) := x
  let a := a + b
  let d := (d ^^^ a).rotateLeft 16
  let c := c + d
  let b := (b ^^^ c).rotateLeft 12
  let a := a + b
  let d := (d ^^^ a).rotateLeft 8
  let c := c + d
  let b := (b ^^^ c).rotateLeft 4
  (a, b, c, d)

/-- The pseudo-random function of stochastic rounding (R52, R54). -/
def prf32 (seed : Word64) (sel row col : Word32) : Word32 :=
  let q := quarter (seed.truncate 32, (seed >>> 32).truncate 32 ^^^ sel, row ^^^ 0x9E3779B9, col)
  let (a, b, c, d) := q
  let (_, b', _, d') := quarter (a ^^^ 0x243F6A88, b, c, d)
  b' ^^^ d'

/-! ## The line code of the optical ports (R284) -/

/-- Multiply two symbols of the field of 1,024 elements: carry-free, reduced by x^10 + x^3 + 1. (log 179: PRESUMED) -/
def rsMul (a b : Nat) : Nat :=
  (List.range 10).foldr (fun i r =>
    let twice := 2 * r
    Nat.xor (if twice ≥ 1024 then Nat.xor twice 1033 else twice) (if bit b i then a else 0)) 0

/-- The product of x + α^j over j = 0 to n − 1, highest coefficient first, where α^n is the second component. -/
def rsProduct : Nat → List Nat × Nat
  | 0 => ([1], 1)
  | n + 1 =>
    let (g, a) := rsProduct n
    (List.zipWith (fun x y => Nat.xor x (rsMul y a)) (g ++ [0]) (0 :: g), rsMul a 2)

/-- The generator polynomial of RS(544,514), without its leading 1. (log 179: PRESUMED) -/
def rsGenerator : List Nat := (rsProduct 30).1.drop 1

/-- The 30 parity symbols of a string of data symbols: the remainder of its division by the generator. -/
def rsParity (data : List Nat) : List Nat :=
  data.foldl (fun r x =>
    let q := Nat.xor x (r.headD 0)
    List.zipWith (fun y g => Nat.xor y (rsMul q g)) (r.drop 1 ++ [0]) rsGenerator) (List.replicate 30 0)

/-- The 514 data symbols of a codeword: its control field, then its content, bit 0 of symbol 0 first (R284, R285). -/
def rsData (control : BitVec 20) (content : Rec) : List Nat :=
  let v := control.toNat + 2 ^ 20 * ofLe content
  (List.range 514).map fun i => bits v (10 * i + 9) (10 * i)

/-- The 544 symbols of a codeword, data first (R284). -/
def rsSymbols (control : BitVec 20) (content : Rec) : List Nat := rsData control content ++ rsParity (rsData control content)

/-- The 34 symbols of a codeword that channel k carries, in order (R284). -/
def rsChannel (control : BitVec 20) (content : Rec) (k : Nat) : List Nat :=
  (rsSymbols control content).zipIdx.filterMap fun x => if x.2 % 16 = k then some x.1 else none

/-- What the 16 channels carry of a codeword. -/
def rsLines (control : BitVec 20) (content : Rec) : List (List Nat) := (List.range 16).map (rsChannel control content)

end Sys2Proof.Machine
end

