-- ==== Sys2Proof/Machine/Access.lean ====
section
/-! DEFINITION. Reads and writes of the parts of the state by name: contexts, the resident context and its plan, cores,
streams, links, the sparse register words, fresh values. Every other file reaches the state through these. -/

namespace Sys2Proof.Machine

/-! ## Register words -/

/-- The word a sparse register table holds for a register; an unlisted register holds 0. -/
def RegTab.get : List (Reg × Word64) → Reg → Word64
  | [], _ => 0
  | (k, v) :: t, r => if k = r then v else RegTab.get t r

/-- The register table with one word set; 0 is not listed. -/
def RegTab.set (t : List (Reg × Word64)) (r : Reg) (w : Word64) : List (Reg × Word64) :=
  if w = 0 then t.filter fun e => e.1 ≠ r else (r, w) :: t.filter fun e => e.1 ≠ r

/-- The stored word of a register: its sticky bits, codes and counts. (log 11: DEDUCED) -/
def State.reg (s : State) (r : Reg) : Word64 := RegTab.get s.regs r

/-- Set the stored word of a register. -/
def State.setReg (s : State) (r : Reg) (w : Word64) : State := { s with regs := RegTab.set s.regs r w }

/-- Change field [hi:lo] of a stored register word. -/
def State.setField (s : State) (r : Reg) (hi lo v : Nat) : State := s.setReg r (withField (s.reg r) hi lo v)

/-- Raise a count field of a stored register word, stopping at its largest value (R36, R58). -/
def State.bump (s : State) (r : Reg) (hi lo n : Nat) : State := s.setReg r (bumpField (s.reg r) hi lo n)

/-- Set a sticky bit. -/
def State.setBit (s : State) (r : Reg) (n : Nat) : State := s.setField r n n 1

/-! ## Contexts -/

/-- A context identifier: slot × 4,096 + generation (R385). -/
def idOf (slot gen : Nat) : Nat := slot * 4096 + gen

/-- The context an identifier names, when it is the current generation of an existing context (R389). -/
def State.context? (s : State) (id : Nat) : Option Context :=
  match Tab.find? s.contexts (id / 4096) with
  | some c => if c.id.toNat = id ∧ id % 4096 ≠ 0 then some c else none
  | none => none

/-- The resident context (R386): a use goes ahead only when the identifier agrees with its complement (R425). -/
def State.residentCtx (s : State) : Option Context :=
  if s.residentComp = ~~~ s.resident then s.context? s.resident.toNat else none

/-- Store a context in its slot. -/
def State.putContext (s : State) (c : Context) : State :=
  { s with contexts := Tab.set s.contexts (c.id.toNat / 4096) c }

/-- Change the resident context, if one is resident. -/
def State.modResident (s : State) (f : Context → Context) : State :=
  match s.residentCtx with
  | some c => s.putContext (f c)
  | none => s

/-- The plan in effect. -/
def State.plan? (s : State) : Option Plan := s.residentCtx.bind (·.plan)

/-- Name a context resident; the identifier stands beside its complement (R386). -/
def State.setResident (s : State) (id : BitVec 16) : State := { s with resident := id, residentComp := ~~~id }

/-! ## Parts of the chip -/

/-- Change what is on chip. -/
def State.modChip (s : State) (f : Chip → Chip) : State := { s with chip := f s.chip }

/-- A core. -/
def State.core (s : State) (c : Nat) : Core := Tab.get Core.init s.chip.cores c

/-- Change a core. -/
def State.modCore (s : State) (c : Nat) (f : Core → Core) : State :=
  s.modChip fun h => { h with cores := Tab.upd Core.init h.cores c f }

/-- A stream's state. -/
def State.stream (s : State) (id : Nat) : Stream := Tab.get Stream.init s.chip.streams id

/-- Change a stream's state. -/
def State.modStream (s : State) (id : Nat) (f : Stream → Stream) : State :=
  s.modChip fun h => { h with streams := Tab.upd Stream.init h.streams id f }

/-- Change Flint's state. -/
def State.modFlint (s : State) (f : Flint → Flint) : State := { s with flint := f s.flint }

/-- Whether the resident context is held at handshake boundaries: for a switch, or for a partial reset that saves it (Tables 12.4
and 15.9). -/
def State.holding (s : State) : Bool := s.flint.background.any fun b => b.kind == .switch || (b.kind == .reset && b.savedCtx != 0)

/-- A host port. -/
def State.host (s : State) (p : Nat) : HostPort := Tab.get HostPort.init s.hosts p

/-- Change a host port. -/
def State.modHost (s : State) (p : Nat) (f : HostPort → HostPort) : State :=
  { s with hosts := Tab.upd HostPort.init s.hosts p f }

/-- A memory device. -/
def State.mem (s : State) (d : Nat) : MemDev := Tab.get MemDev.init s.mems d

/-- Change a memory device. -/
def State.modMem (s : State) (d : Nat) (f : MemDev → MemDev) : State := { s with mems := Tab.upd MemDev.init s.mems d f }

/-- An optical port. -/
def State.oport (s : State) (p : Nat) : OPort := Tab.get OPort.init s.oports p

/-- Change an optical port. -/
def State.modOport (s : State) (p : Nat) (f : OPort → OPort) : State :=
  { s with oports := Tab.upd OPort.init s.oports p f }

/-- The key of an indexed pair: first × 256 + second. -/
def pairKey (a b : Nat) : Nat := a * 256 + b

/-- A wavelength channel of a port. -/
def State.ochan (s : State) (p n : Nat) : OChan := Tab.get OChan.init s.ochans (pairKey p n)

/-- Change a wavelength channel. -/
def State.modOchan (s : State) (p n : Nat) (f : OChan → OChan) : State :=
  { s with ochans := Tab.upd OChan.init s.ochans (pairKey p n) f }

/-- The lasers of a channel of an Opal. -/
def State.laser (s : State) (o n : Nat) : Laser := Tab.get Laser.init s.lasers (pairKey o n)

/-- Change the lasers of a channel. -/
def State.modLaser (s : State) (o n : Nat) (f : Laser → Laser) : State :=
  { s with lasers := Tab.upd Laser.init s.lasers (pairKey o n) f }

/-- The receive direction of a die's local edge (R346). (log 106: DEDUCED) -/
def State.edge (s : State) (d e : Nat) : Edge := Tab.get Edge.init s.edges (pairKey d e)

/-- Change an edge direction. -/
def State.modEdge (s : State) (d e : Nat) (f : Edge → Edge) : State :=
  { s with edges := Tab.upd Edge.init s.edges (pairKey d e) f }

/-- A die's power controller. -/
def State.die (s : State) (d : Nat) : Die := Tab.get Die.init s.dies d

/-- Change a die's power controller. -/
def State.modDie (s : State) (d : Nat) (f : Die → Die) : State := { s with dies := Tab.upd Die.init s.dies d f }

/-- Change the repair facts. -/
def State.modRepair (s : State) (f : Repair → Repair) : State := { s with repair := f s.repair }

/-! ## Values the manual leaves open -/

/-- Take the next free value. (log 8: DESIGN CHOICE) -/
def State.take (s : State) : BitVec 64 × State := (Config.freeValue s.fresh, { s with fresh := s.fresh + 1 })

/-- Take the next `n` free values. -/
def State.takeWords (s : State) (n : Nat) : List (BitVec 64) × State :=
  ((List.range n).map fun i => Config.freeValue (s.fresh + i), { s with fresh := s.fresh + n })

/-- Take the next free bytes, `n` of them. -/
def State.takeBytes (s : State) (n : Nat) : Rec × State :=
  (slice (Config.freeBytes s.fresh) 0 n, { s with fresh := s.fresh + 1 })

/-! ## Outputs and times -/

/-- Send something to the block's world. (log 7: DESIGN CHOICE) -/
def State.emit (s : State) (o : Out) : State := { s with sent := s.sent ++ [o] }

/-- Local time plus the epoch offset (R20). -/
def State.logTime (s : State) : Word64 := s.localTime + s.epochOffset

/-! ## The plan's tables -/

/-- A plane table entry (Table 8.1) of the plan in effect, 16 bytes beside their complement. -/
def State.planeEntry (s : State) (q : Nat) : Option (Rec × Rec) := s.plan?.bind fun p => p.planes[q]?

/-- Whether a plane entry is used. -/
def planeUsed (e : Rec) : Bool := bit (le e 0 2) 15

/-- The ring length L of a plane entry. -/
def planeLen (e : Rec) : Nat := bits (le e 0 2) 11 0 + 1

/-- This chip's position on a plane. -/
def planePos (e : Rec) : Nat := bits (le e 2 2) 11 0

/-- The downstream port. -/
def planeDown (e : Rec) : Nat := bits (le e 4 1) 4 0

/-- The upstream port. -/
def planeUp (e : Rec) : Nat := bits (le e 5 1) 4 0

/-- The die that holds a used plane's registers: that of its upstream port, or die 0 for a ring of length 1 (R273). -/
def State.planeDie (s : State) (q : Nat) : Option Nat :=
  match s.planeEntry q with
  | some (e, _) => if planeUsed e then some (if planeLen e = 1 then 0 else planeUp e / 6) else none
  | none => none

/-- The die that ring traffic between two dies passes through on its way (R315). -/
def viaDie (a b : Nat) : Option Nat :=
  if (a = 0 ∧ b = 3) ∨ (a = 3 ∧ b = 0) then some 1 else if (a = 1 ∧ b = 2) ∨ (a = 2 ∧ b = 1) then some 0 else none

/-- Whether a die carries a port of a used plane of the plan in effect, or forwards between its two ports (R33, R315). -/
def State.onPlane (s : State) (d : Nat) : Bool :=
  (List.range 12).any fun q => match s.planeEntry q with
    | some (e, _) =>
      let a := planeUp e / 6
      let b := planeDown e / 6
      planeUsed e && decide (planeLen e > 1) && (a == d || b == d || viaDie a b == some d)
    | none => false

/-- The stream table entry of a stream that the plan in effect uses (Table 5.3). -/
def State.streamEntry (s : State) (id : Nat) : Option Rec :=
  s.plan?.bind fun p => (Tab.find? p.streams id).bind fun e => if bit (le e 9 1) 7 then some e else none

/-- A stream's class. -/
def streamClass (e : Rec) : Nat := bits (le e 9 1) 2 0

/-- The host port of a class 4 stream. -/
def streamHost (e : Rec) : Nat := bits (le e 9 1) 4 4

/-- The owner core of a core stream (R140). -/
def ownerCore (id : Nat) : Option Nat := if id < 0x6000 then some (id / 256) else none

/-- The owner die of a stream. -/
def ownerDie (id : Nat) : Nat := if id < 0x6000 then id / 256 / 24 else (id - 0x6000) / 2048

/-- The depth of a token queue in the plan in effect, 0 when unused (R122). -/
def State.queueDepth (s : State) (c q : Nat) : Nat :=
  match s.plan?.bind fun p => Tab.find? p.decls c with
  | some d => le d (16 + 2 * q) 1
  | none => 0

/-- The tokens a queue holds. -/
def State.queueCount (s : State) (c q : Nat) : Nat := Tab.get 0 (s.core c).queues q

/-- The die a logical core stands on (R10). -/
def coreDie (c : Nat) : Nat := c / 24

/-- The die a memory device stands on (R10). -/
def devDie (d : Nat) : Nat := d / 6

/-- The die an optical port's Opal attaches to (R10). -/
def portDie (p : Nat) : Nat := p / 6

/-! ## Routes of a plan (R267, R268) -/

/-- A plane entry of a plan. -/
def Plan.plane (p : Plan) (q : Nat) : Rec := match p.planes[q]? with | some (e, _) => e | none => zeros 16

/-- Whether a plan uses a plane that has ports. -/
def Plan.linked (p : Plan) (q : Nat) : Bool := decide (q < 12) && planeUsed (p.plane q) && decide (planeLen (p.plane q) > 1)

/-- The port of a hop in a plan: with the plane's data flow, or against it. -/
def Plan.hopPort (p : Plan) (hop : Nat) : Option Nat :=
  let q := hop / 2
  if p.linked q then some (if hop % 2 = 0 then planeDown (p.plane q) else planeUp (p.plane q)) else none

/-- Route `i` of a plane's detour entry (data routes 0 and 1, control routes 2 and 3): its first port and the route word of the
hops that remain. -/
def Plan.route (p : Plan) (q i : Nat) : Option (Nat × Nat) :=
  let r := le (p.detours.getD q (zeros 16)) (4 * i) 4
  let n := bits r 31 29
  if n = 0 ∨ n > 4 then none
  else (p.hopPort (bits r 4 0)).map fun port => (port, (n - 1) * 2 ^ 62 + bits r 19 0 / 32 % 2 ^ (5 * (n - 1)))

/-! ## Recoveries in progress (Table 13.6) -/

/-- The Basalt neighbours of a die, lower-numbered first (Table 10.1). -/
def neighbours (d : Nat) : List Nat := if d = 0 ∨ d = 3 then [1, 2] else [0, 3]

/-- The receiving end of the direction that die d sends on its Basalt–Basalt edge e. -/
def farEnd (d e : Nat) : Nat × Nat :=
  let n := (neighbours d).getD e 0
  (n, (neighbours n).idxOf d)

/-- Whether an edge direction is in a recovery: a lane swap, or a resend that a half width or a retirement waits for. -/
def Edge.recovering (k : Edge) : Bool := k.swap.isSome || !k.resending.isEmpty

/-- Whether a port is in a link replay, or in a relink: a port that has been up, and was not put down by Retain, from the loss of its link
to step 8 of Table 9.8, also while it waits for light. -/
def OPort.recovering (o : OPort) : Bool := o.nacking || (o.reported.isSome && !o.waking && (o.state == 1 || o.state == 2))

/-- A recovery of Table 13.6 that a core, a port, the Opals, the lanes, a memory controller or the collective movers run, while its window
is open: the die it is on and its domain, the unit with its recovery path, as in `Window`, with 21 for a core's spare engine and its
substitution switch, 22 for a port's receive rings, 23 for a laser and 24 for a pair's spare arbiter. -/
structure Recovery where
  die : Nat
  domain : List (Nat × Nat)
  deriving DecidableEq, Repr

/-- Engine hand-overs (Table 3.8): the engine, the spare site, the switch. -/
def State.handOvers (s : State) : List Recovery :=
  s.repair.handoverPending.map fun x => { die := coreDie x.1, domain := [(8, 16 * x.1 + x.2), (21, x.1)] }

/-- Link replays and relinks: the port, and in a relink its receive rings. -/
def State.portRecoveries (s : State) : List Recovery :=
  (List.range 24).flatMap fun p =>
    let o := s.oport p
    if o.recovering then [{ die := portDie p, domain := if o.nacking then [(3, p)] else [(3, p), (22, p)] }] else []

/-- Detours of the resident context's member links: this chip's ports, that of the link and the first of the data route in use. -/
def State.detours (s : State) : List Recovery :=
  match s.plan? with
  | none => []
  | some pl => (s.chip.ring.up.filter fun l => l.route == 2 || l.route == 3).flatMap fun l =>
      let ports := planeDown (pl.plane l.plane) :: ((pl.route l.plane (l.route - 2)).map (·.1)).toList
      ports.map fun p => { die := portDie p, domain := ports.map fun x => (3, x) }

/-- Laser hand-overs (Table 9.6): the channel, the successor, the pair's spare arbiter. -/
def State.laserRecoveries (s : State) : List Recovery :=
  (List.range 8).flatMap fun o => (List.range 16).flatMap fun n =>
    let k := s.laser o n
    if k.fading || k.atHandover then
      [{ die := o / 2, domain := (4, 16 * o + n) :: (24, 16 * (o / 2) + n) :: (k.successor.map fun x => (23, 2 * (16 * o + n) + x)).toList }]
    else []

/-- Lane swaps, and the resends a half width or a retirement waits for: the edge direction, on the dies at its two ends. -/
def State.laneRecoveries (s : State) : List Recovery :=
  (List.range 4).flatMap fun d => (List.range 6).flatMap fun e =>
    if (s.edge d e).recovering then
      (if e < 2 then [d, (farEnd d e).1] else [d]).map fun x => { die := x, domain := [(1, 8 * d + e)] }
    else []

/-- Channel retrainings under way in operation: the memory device. -/
def State.memRecoveries (s : State) : List Recovery :=
  (s.mems.filter fun m => m.2.failed.isNone && !m.2.due.isEmpty).map fun m => { die := devDie m.1, domain := [(2, m.1)] }

/-- The recoveries of Table 13.6 under way that Flint does not run. A line substitution is over within the command that starts it, and
every fault that meets one of these has an outcome of its own chapter, so none decides an answer of R430. -/
def State.recoveries (s : State) : List Recovery :=
  s.handOvers ++ s.portRecoveries ++ s.detours ++ s.laserRecoveries ++ s.laneRecoveries ++ s.memRecoveries

/-- Whether a recovery of Table 13.6 is open on a die. -/
def State.windowOpen (s : State) (d : Nat) : Bool :=
  (s.flint.windows.any fun w => w.die == d) || s.recoveries.any fun r => r.die == d

end Sys2Proof.Machine
end

