-- ==== Sys2Proof/Machine/Colls.lean ====
section
/-! DEFINITION. The collective table (R244, Table 8.3), logical positions and ring blocks (R245, R246), and how transfers
of the collective streams map to ring blocks (R247, R248, Table 8.4). -/

namespace Sys2Proof.Machine

/-! ## A collective table entry -/

/-- The entry runs in every step. -/
def collPresent (e : Rec) : Bool := bit (le e 0 2) 15
/-- Kind: 0 reduce-scatter, 1 all-gather, 2 agreement, 3 shift. -/
def collKind (e : Rec) : Nat := bits (le e 0 2) 14 13
/-- Level: 0 inner, 1 outer. -/
def collLevel (e : Rec) : Nat := bits (le e 0 2) 12 12
/-- The planes of the set, ascending. -/
def collPlanes (e : Rec) : List Nat := (List.range 12).filter fun q => bit (le e 0 2) q
/-- The input format code. -/
def collFmt (e : Rec) : Nat := bits (le e 2 1) 1 0
/-- Ring blocks, or instrument entries of an agreement. -/
def collCount (e : Rec) : Nat := bits (le e 4 4) 25 0 + 1
/-- The input stream, 0 for none. -/
def collIn (e : Rec) : Nat := bits (le e 8 2) 14 0
/-- The output stream, 0 for none. -/
def collOut (e : Rec) : Nat := bits (le e 10 2) 14 0
/-- The chip group's unit descriptor, 0 for every position. -/
def collGroup (e : Rec) : Nat := le e 12 4
/-- Tile columns W of an engine-fed input. -/
def collCols (e : Rec) : Nat := bits (le e 16 4) 26 0
/-- The scale-table entry, or the first instrument entry of an agreement. -/
def collEntry (e : Rec) : Nat := bits (le e 20 2) 11 0
/-- The instrument entry fed, if enabled. -/
def collInstr (e : Rec) : Option Nat := if bit (le e 22 2) 15 then some (bits (le e 22 2) 11 0) else none
/-- Gate queue of an agreement. -/
def collGate (e : Rec) : Nat × Nat := (bits (le e 24 2) 12 6, bits (le e 24 2) 5 0)
/-- Signal queue of an agreement. -/
def collSignal (e : Rec) : Nat × Nat := (bits (le e 26 2) 12 6, bits (le e 26 2) 5 0)
/-- Tile status base, 0 for none. -/
def collTiles (e : Rec) : Nat := le e 28 6
/-- Status record address, 0 for none. -/
def collRecord (e : Rec) : Nat := le e 34 6

/-- A present entry of the plan in effect. -/
def State.collEntry? (s : State) (x : Nat) : Option Rec :=
  (s.plan?.bind fun p => p.colls[x]?).bind fun e => if collPresent e then some e else none

/-! ## Positions (R246) -/

/-- A plane table entry without its complement. -/
def State.plane (s : State) (q : Nat) : Rec := match s.planeEntry q with | some (e, _) => e | none => zeros 16

/-- This chip's logical position and the logical length on a plane of a collective, none when it is no member. -/
def State.logical (s : State) (e : Rec) (q : Nat) : Option (Nat × Nat) :=
  let pe := s.plane q
  if collGroup e = 0 then some (planePos pe, planeLen pe)
  else
    let f := bits (collGroup e) 24 13
    let c := bits (collGroup e) 12 1 + 1
    let q0 := bits (collGroup e) 28 25
    let p0 := s.plane q0
    if (planePos p0 + planeLen p0 - f % planeLen p0) % planeLen p0 < c then
      some ((planePos pe + planeLen pe - f % planeLen pe) % planeLen pe, c)
    else none

/-- The plane position of a logical position. -/
def State.physical (s : State) (e : Rec) (q p : Nat) : Nat :=
  if collGroup e = 0 then p else (bits (collGroup e) 24 13 + p) % planeLen (s.plane q)

/-- Whether this chip takes part. -/
def State.member (s : State) (e : Rec) : Bool :=
  match collPlanes e with | q :: _ => (s.logical e q).isSome | [] => false

/-- The logical length of a collective, the same on every plane of its set. -/
def State.ringLen (s : State) (e : Rec) : Nat :=
  match collPlanes e with | q :: _ => ((s.logical e q).map (·.2)).getD 1 | [] => 1

/-- The plane a ring block travels on. -/
def State.blockPlane (s : State) (e : Rec) (b : Nat) : Nat :=
  let ps := collPlanes e
  ps.getD (b / s.ringLen e % ps.length) 0

/-- Logical position that starts a ring block. -/
def State.startOf (s : State) (e : Rec) (b : Nat) : Nat := b % s.ringLen e

/-- Logical position that owns a ring block. -/
def State.ownerOf (s : State) (e : Rec) (b : Nat) : Nat := (b + s.ringLen e - 1) % s.ringLen e

/-- This chip's logical position on a ring block's plane. -/
def State.posFor (s : State) (e : Rec) (b : Nat) : Nat := ((s.logical e (s.blockPlane e b)).map (·.1)).getD 0

/-- Whether this chip owns a ring block. -/
def State.owns (s : State) (e : Rec) (b : Nat) : Bool := s.posFor e b == s.ownerOf e b

/-- The ring blocks this chip owns, ascending. -/
def State.ownedBlocks (s : State) (e : Rec) : List Nat := (List.range (collCount e)).filter (s.owns e)

/-! ## Transfers (Table 8.4) -/

/-- Input transfers a collective takes from its stream on this chip. -/
def State.inputsOf (s : State) (e : Rec) : Nat :=
  if !s.member e || collIn e == 0 then 0
  else match collKind e with
    | 0 | 3 => collCount e
    | 1 => (s.ownedBlocks e).length
    | _ => 0

/-- Output transfers a collective gives its stream on this chip. -/
def State.outputsOf (s : State) (e : Rec) : Nat :=
  if !s.member e || collOut e == 0 then 0
  else match collKind e with
    | 0 => (s.ownedBlocks e).length
    | 1 | 3 => collCount e
    | _ => 0

/-- Transfers a stream gives to collectives of lower sequence number in a step (R248). -/
def State.streamBase (s : State) (x id : Nat) (out : Bool) : Nat :=
  match s.plan? with
  | none => 0
  | some p => ((p.colls.take x).filter fun e => collPresent e && collKind e != 2 && (if out then collOut e else collIn e) == id).foldl
      (fun n e => n + if out then s.outputsOf e else s.inputsOf e) 0

/-- The collective an engine-fed input stream serves (R248). -/
def State.collOfInput (s : State) (id : Nat) : Option (Nat × Rec) :=
  match s.plan? with
  | none => none
  | some p => (p.colls.zipIdx.find? fun e => collPresent e.1 && collKind e.1 != 2 && collIn e.1 == id).map fun e => (e.2, e.1)

/-- Whether a stream is a collective stream (class 5). -/
def State.ringStream (s : State) (id : Nat) : Bool := match s.streamEntry id with | some e => streamClass e == 5 | none => false

/-- The ring block of the tile at logical row `row` and column `col` of a drain into a collective's stream (R248). -/
def State.tileNumber (s : State) (id row col : Nat) : Nat :=
  match s.collOfInput id with | some (_, e) => row / 64 * collCols e + col / 64 | none => 0

/-- A row of a tile as it stands on a collective stream's flow side: the ring block, a row of it, or the mark that the tile
is closed. -/
def tileRowRec (b row : Nat) (closed : Bool) (bytes : Rec) : Rec := toLe 4 b ++ [BitVec.ofNat 8 row, if closed then 1 else 0] ++ bytes

/-- The ring blocks of which rows stand on a collective stream's flow side. -/
def Stream.tiles (t : Stream) : List Nat := (t.flow.map fun r => le r 0 4).eraseDups

end Sys2Proof.Machine
end

