-- ==== Sys2Proof/Machine/Regs.lean ====
section
/-! DEFINITION. The registers: which fields are W1C, RC and RW (R9), the fields that show other state, what a read returns,
and the names of READ_REGISTER and WRITE_REGISTER (R369). -/

namespace Sys2Proof.Machine

/-! ## Access codes (R9, the field tables) -/

/-- The W1C fields of a register, as [hi:lo]. -/
def regW1c : Reg → List (Nat × Nat)
  | .coreFault _ => [(63, 62)]
  | .matrixStatus _ => [(59, 12)]
  | .streamStatus _ => [(63, 62)]
  | .memStatus _ => [(63, 61)]
  | .updateStatus _ => [(63, 63)]
  | .ringStatus _ => [(63, 60)]
  | .portStatus _ => [(63, 59)]
  | .laser _ _ => [(63, 63)]
  | .channel _ _ => [(61, 59)]
  | .edgeStatus _ _ => [(63, 60)]
  | .faultSummary _ => [(63, 61), (59, 44)]
  | .diePower _ => [(63, 60)]
  | .moduleSupply => [(63, 62)]
  | .intCause _ => [(7, 0)]
  | .mailboxDone _ => [(31, 0)]
  | .seqStatus _ | .engineStatus _ _ | .tokenQueue _ _ | .screeState _ _ | .memCount _ | .arenaCount _ | .ringCount _
  | .portLink _ | .portCount _ | .edgeCount _ _ | .edgeGroups _ _ _ | .powerCount _ | .identity _ | .deviceStatus _
  | .intEnable _ | .mailboxSubmitted _ | .heartbeat _ | .stepStatus _ | .stepTag _ | .hostViolation _ => []

/-- The RC fields of a register: a read returns and clears them. -/
def regRc : Reg → List (Nat × Nat)
  | .coreFault _ => [(40, 29)]
  | .engineStatus _ _ => [(51, 40)]
  | .memCount _ => [(47, 0)]
  | .ringCount _ => [(63, 0)]
  | .portCount _ => [(63, 0)]
  | .edgeCount _ _ => [(63, 0)]
  | .faultSummary _ => [(31, 0)]
  | .powerCount _ => [(63, 0)]
  | .hostViolation _ => [(31, 0)]
  | .seqStatus _ | .matrixStatus _ | .tokenQueue _ _ | .screeState _ _ | .streamStatus _ | .memStatus _ | .arenaCount _
  | .updateStatus _ | .ringStatus _ | .portStatus _ | .portLink _ | .laser _ _ | .channel _ _ | .edgeStatus _ _
  | .edgeGroups _ _ _ | .diePower _ | .moduleSupply | .identity _ | .deviceStatus _ | .intCause _ | .intEnable _
  | .mailboxSubmitted _ | .mailboxDone _ | .heartbeat _ | .stepStatus _ | .stepTag _ => []

/-- The RW fields of a register: only the interrupt enable has any (Table 11.5). -/
def regRw : Reg → List (Nat × Nat)
  | .intEnable _ => [(7, 0)]
  | _ => []

/-- A word with bits set where some fields of it lie. -/
def fieldMask (fs : List (Nat × Nat)) : Word64 :=
  fs.foldl (fun m f => m ||| BitVec.ofNat 64 ((2 ^ (f.1 + 1 - f.2) - 1) * 2 ^ f.2)) 0

/-! ## Figures shown by registers -/

/-- Lanes groups of an edge: 96 on a Basalt–Basalt edge, 32 on a Basalt–Opal edge (Table 10.1). -/
def edgeGroupCount (e : Nat) : Nat := if e < 2 then 96 else 32

/-- How many entries of a table satisfy a condition on the value. -/
def countVals {α : Type} (p : α → Bool) (t : Tbl α) : Nat := (t.filter fun e => p e.2).length

/-- The edge state of Table 10.6: 2 failed, 1 degraded, 0 normal. -/
def Edge.status (e : Edge) : Nat := if e.failed then 2 else if e.groups.any (fun g => g.2 ≠ 0) then 1 else 0

/-- Whether a logical lane of a direction is in service: the data lane it carries is its own or one it stands in for, and is of a half in use
(R339, R340). -/
def Edge.inService (k : Edge) (e lane : Nat) : Bool :=
  let stands := fun (d : Nat) => (Tab.find? k.standIn d).getD d == lane
  let data := if lane < (if e < 2 then 1536 else 512) then some lane else (k.standIn.find? fun x => x.2 = lane).map (·.1)
  match data with
  | some d => stands d && match Tab.get 0 k.groups (d / 16) with
    | 0 => true
    | 1 => decide (d % 16 < 8)
    | 2 => decide (d % 16 ≥ 8)
    | _ => false
  | none => false

/-- The lane in service with the lowest averaged margin, and that margin. -/
def Edge.worst (k : Edge) (e : Nat) : Nat × Nat :=
  ((k.margins.filter fun m => k.inService e m.1).foldl (fun (a : Option (Nat × Nat)) m => match a with
    | none => some m
    | some b => if m.2 < b.2 then some m else some b) none).getD (0, 0)

/-- Capability is reduced when any unit is retired, any memory device has failed, or any lane group is half width
(R444). -/
def State.reduced (s : State) : Bool :=
  !s.repair.retiredCores.isEmpty || !s.repair.retiredEngines.isEmpty || !s.repair.retiredPorts.isEmpty ||
  !s.repair.failedEdges.isEmpty || s.mems.any (fun m => m.2.failed.isSome) ||
  s.edges.any (fun e => e.2.failed || e.2.groups.any fun g => g.2 ≠ 0) || s.dies.any (fun d => d.2.retired)

/-- The code of a device state (Table 11.11). -/
def DevState.code : DevState → Nat
  | .booting => 0 | .ready => 1 | .loaded => 2 | .running => 3 | .halted => 4 | .scrubbing => 5 | .updating => 6 | .retain => 7

/-- The state commands are checked against: in RETAIN the prior state (R364). -/
def Flint.view (f : Flint) : DevState := if f.state = .retain then f.prior else f.state

/-- A sum of bits 2^n over some positions. -/
def bitsOf (ns : List Nat) : Nat := ns.eraseDups.foldl (fun a n => a + 2 ^ n) 0

/-- Two-bit codes packed in order. -/
def packPairs (f : Nat → Nat) (n : Nat) : Nat := (List.range n).foldl (fun a k => a + f k * 4 ^ k) 0

/-- Engines of a core that belong to a pass or weight load in flight (Table 3.5 busy). -/
def Core.busy (c : Core) : List Nat := c.inflight.flatMap (·.engines)

/-- The state of an engine's plane (Table 3.6). -/
def Core.planeState (c : Core) (e p : Nat) : Nat := (Tab.get Plane.init c.planes (2 * e + p)).state

/-- The open collectives of a plane: a present entry runs in every step (R244), from the step's start until it completes or
stops. (log 59: DEDUCED) -/
def State.openSeqs (s : State) (q : Nat) : List Nat :=
  if s.chip.step.isNone then []
  else match s.plan? with
    | none => []
    | some p => (List.range p.colls.length).filter fun x =>
        let e := p.colls.getD x []
        let c := Tab.get Coll.init s.chip.ring.colls x
        bit (le e 0 2) 15 && bit (le e 0 2) q && s.member e && !c.complete && !c.stopped

/-- The member link out of a plane at this chip as sender; of several, in chip groups, the first one stored. (log 202: DESIGN CHOICE) -/
def State.upLink (s : State) (q : Nat) : Option Link :=
  s.chip.ring.up.find? fun l => l.plane = q

/-- Milliseconds left in the owner's lease, 0 when there is no owner or the lease has expired (R368). -/
def State.leaseLeft (s : State) : Nat :=
  match s.flint.owner with
  | none => 0
  | some _ =>
    if s.flint.leaseExpired then 0
    else (s.flint.leaseStart.toNat + s.cfg.leaseS * 1000000000 - s.localTime.toNat) / 1000000

/-- The device status register as a port reads it (Table 11.4). -/
def State.statusFields (s : State) (p : Nat) : List (Nat × Nat × Nat) :=
  [(55, 48, s.flint.progress), (47, 44, s.flint.haltedReason), (39, 24, s.resident.toNat), (23, 23, s.reduced.toNat),
   (22, 22, s.flint.owner.isSome.toNat), (21, 21, (s.flint.owner == some p).toNat), (20, 20, s.flint.leaseExpired.toNat),
   (19, 19, p), (18, 16, if s.flint.state = .retain then s.flint.prior.code else 0), (2, 0, s.flint.state.code)]

/-- The fields of a register that show other state, as (hi, lo, value). -/
def State.shown (s : State) : Reg → List (Nat × Nat × Nat)
  | .seqStatus c =>
    let k := s.core c
    [(63, 60, (k.fill.map (·.hold)).getD k.hold), (59, 58, k.state), (57, 51, k.holdCore), (50, 45, k.holdQueue),
     (39, 32, (k.fill.map (·.entry)).getD 0xFF), (31, 24, k.inflight.length), (14, 0, (k.fill.map (·.pc)).getD k.pc)]
  | .coreFault _ => []
  | .matrixStatus c => [(11, 0, bitsOf (s.core c).busy)]
  | .engineStatus c e =>
    let k := s.core c
    [(7, 7, (s.repair.handoverPending.contains (c, e)).toNat), (6, 6, (s.repair.substituted.contains (c, e)).toNat),
     (5, 4, k.planeState e 1), (3, 2, k.planeState e 0)]
  | .tokenQueue c q =>
    let held := s.chip.cores.any fun k => (k.2.fill.map (·.hold)).getD k.2.hold = 2 ∧ k.2.holdCore = c ∧ k.2.holdQueue = q
    [(16, 16, held.toNat), (15, 8, s.queueDepth c q), (7, 0, s.queueCount c q)]
  | .screeState c i => [(63, 0, packPairs (fun k => Tab.get 0 (s.core c).scree (32 * i + k)) 32)]
  | .streamStatus id =>
    let m := s.stream id
    [(49, 48, if m.faulted then 3 else m.state), (47, 47, m.rearm.toNat), (46, 30, m.armed), (29, 0, min m.completed 1073741823)]
  | .memStatus d =>
    let m := s.mem d
    [(47, 45, if m.state = 2 ∧ !m.due.isEmpty then 3 else m.state), (44, 43, if s.flint.progress ≥ 5 then s.cfg.pinRate else 0), (39, 32, unsgn 8 m.readout), (23, 0, m.patrolPage)]
  | .memCount _ => []
  | .arenaCount d =>
    let (a, v) := Tab.get (0, 0) s.chip.arena d
    let top := 1073741823
    [(63, 63, (decide (a ≥ top)).toNat), (62, 62, (decide (v ≥ top)).toNat), (61, 32, min a top), (29, 0, min v top)]
  | .updateStatus d =>
    let u := Tab.get Update.init s.chip.updates d
    [(62, 60, u.state), (59, 56, u.cause), (41, 32, u.entry), (31, 0, u.block)]
  | .ringStatus q =>
    match s.planeEntry q with
    | none => []
    | some (e, _) =>
      if !planeUsed e then [] else
      let linked := planeLen e > 1
      let stops := (s.oport (planeUp e)).stopping
      let down := s.oport (planeDown e)
      [(47, 45, if linked then ((s.upLink q).map (·.route)).getD 1 else 0),
       (44, 44, (linked && decide (down.pacedTo ≠ 0)).toNat),
       (43, 43, (linked && stops.getLsbD 1).toNat), (42, 42, (linked && stops.getLsbD 0).toNat), (39, 28, planePos e),
       (27, 16, planeLen e - 1), (15, 0, ((s.openSeqs q).min?).getD 0)]
  | .ringCount _ => []
  | .portStatus p =>
    let o := s.oport p
    [(58, 56, o.state), (47, 32, (o.txLocked &&& o.rxLocked).toNat), (31, 31, o.peerValid.toNat),
     (30, 30, if o.peerValid then bits o.peer.toNat 22 22 else 0), (21, 17, if o.peerValid then bits o.peer.toNat 21 17 else 0),
     (16, 0, if o.peerValid then bits o.peer.toNat 16 0 else 0)]
  | .portLink p =>
    let o := s.oport p
    let ch := (List.range 16).map fun n => s.ochan p n
    let loss : Int := (ch.map fun c => c.peerM - c.d).sum
    let tenths := (loss * 10).fdiv 64
    [(63, 48, min o.delay 65535), (47, 40, if tenths < 0 then 0 else min tenths.toNat 255),
     (39, 32, unsgn 8 (((ch.map (·.d)).min?).getD 0)), (31, 24, unsgn 8 o.total), (23, 12, o.threshold)]
  | .portCount _ => []
  | .laser o n =>
    let l := s.laser o n
    [(62, 62, l.noSpare.toNat), (61, 61, l.fading.toNat), (60, 58, l.primary), (57, 55, l.spare),
     (54, 52, l.serving), (47, 40, min l.decline 255), (39, 32, min l.succDecline 255),
     (31, 24, unsgn 8 (l.branch.getD 0 0)), (23, 16, unsgn 8 (l.branch.getD 1 0)), (15, 8, unsgn 8 (l.branch.getD 2 0))]
  | .channel p n =>
    let o := s.oport p
    let c := s.ochan p n
    [(63, 63, (o.txLocked.getLsbD n).toNat), (62, 62, (o.rxLocked.getLsbD n).toNat), (55, 48, unsgn 8 c.m),
     (47, 40, unsgn 8 c.d), (39, 32, unsgn 8 c.peerM), (31, 16, c.txCode), (15, 0, c.rxCode)]
  | .edgeStatus d e =>
    let g := s.edge d e
    [(59, 58, g.status), (49, 43, g.sparesUsed.length), (42, 36, countVals (fun v => decide (v = 1 ∨ v = 2)) g.groups),
     (35, 29, countVals (fun v => v == 3) g.groups), (28, 23, min (g.worst e).2 63), (22, 12, (g.worst e).1)]
  | .edgeCount _ _ => []
  | .edgeGroups d e i =>
    [(63, 0, packPairs (fun k => if 32 * i + k < edgeGroupCount e then Tab.get 0 (s.edge d e).groups (32 * i + k) else 0) 32)]
  | .faultSummary d => [(60, 60, (s.windowOpen d).toNat)]
  | .diePower d =>
    let k := s.die d
    let hot := (k.basalt.max?).getD 0
    [(59, 58, k.pstate), (57, 57, k.lowMode.toNat), (47, 36, k.coreMv), (35, 24, k.watts), (23, 16, unsgn 8 hot),
     (15, 8, unsgn 8 ((k.opal.max?).getD 0)), (7, 3, k.basalt.idxOf hot % 32)]
  | .powerCount _ => []
  | .moduleSupply => [(47, 32, s.inputMv), (31, 16, s.inputW), (15, 0, if s.flint.progress ≥ 5 then s.cfg.capW else 0)]
  | .identity _ => [(47, 32, 0x4824), (31, 0, Config.identityFixed.toNat)]
  | .deviceStatus p => s.statusFields p
  | .intCause _ => []
  | .intEnable _ => []
  | .mailboxSubmitted p => [(31, 0, (s.host p).submitted.toNat)]
  | .mailboxDone p => [(31, 0, (s.host p).done.toNat)]
  | .heartbeat _ => [(63, 0, if s.flint.alive then s.localTime.toNat / 1000000 else s.flint.lastBeat)]
  | .stepStatus _ =>
    match s.residentCtx with
    | some c => [(61, 61, c.epoch.toNat), (31, 0, c.completed.toNat)]
    | none => []
  | .stepTag _ => []
  | .hostViolation _ => []

/-- What a read of a register returns: its stored word with the fields that show other state laid over it. -/
def State.readReg (s : State) (r : Reg) : Word64 :=
  (s.shown r).foldl (fun w f => withField w f.1 f.2.1 f.2.2) (s.reg r)

/-- A read with its access effects: RC fields are cleared in the same access (R9). -/
def State.readClear (s : State) (r : Reg) : Word64 × State :=
  (s.readReg r, s.setReg r (s.reg r &&& ~~~ fieldMask (regRc r)))

/-- A write to the stored word: RW fields take the value, W1C fields clear where a 1 is written, others are untouched
(R9, R369). -/
def State.writeReg (s : State) (r : Reg) (v : Word64) : State :=
  let rw := fieldMask (regRw r)
  let w := (s.reg r &&& ~~~rw) ||| (v &&& rw)
  s.setReg r (w &&& ~~~(v &&& fieldMask (regW1c r)))

/-- The die a register's unit stands on, for those a die holds. -/
def regDie : Reg → Option Nat
  | .seqStatus c | .coreFault c | .matrixStatus c | .engineStatus c _ | .tokenQueue c _ | .screeState c _ => some (coreDie c)
  | .streamStatus id => some (ownerDie id)
  | .memStatus d | .memCount d => some (devDie d)
  | .arenaCount d | .updateStatus d | .edgeStatus d _ | .edgeCount d _ | .edgeGroups d _ _ | .faultSummary d | .diePower d | .powerCount d => some d
  | .portStatus p | .portLink p | .portCount p | .channel p _ => some (portDie p)
  | .laser o _ => some (o / 2)
  | .moduleSupply => some 0
  | .ringStatus _ | .ringCount _ | .identity _ | .deviceStatus _ | .intCause _ | .intEnable _ | .mailboxSubmitted _ | .mailboxDone _
  | .heartbeat _ | .stepStatus _ | .stepTag _ | .hostViolation _ => none

/-! ## Output pins (R475, R498 to R500) -/

/-- MOD_ALERT_N: low while the device is HALTED or the supply-low flag is set (R498). -/
def State.alertN (s : State) : Bool := !(s.flint.state == .halted || (s.reg .moduleSupply).getLsbD 63)

/-- MOD_TRIP_N: low from a thermal trip until ACKNOWLEDGE_HALT is answered OK (R498). -/
def State.tripN (s : State) : Bool := !s.flint.tripped

/-- Whether Flint drives its boot-flash signals to high impedance: while MOD_RESET_N is low (R475). -/
def State.flashHiZ (s : State) : Bool := !s.pins.resetN

/-- FLASH_VCC: on whenever the input is in range, whatever MOD_PWROK and MOD_RESET_N hold (R499). -/
def State.flashVcc (s : State) : Bool := s.pins.vin

/-- Whether a host port's transmit lanes stand at electrical idle: neither up nor training (Table 16.2). -/
def State.hostTxIdle (s : State) (p : Nat) : Bool := !((s.host p).linkUp || (s.host p).training)

/-- Whether a port's transmit fibre is dark: its lasers are off in reset and on a port that has not come to its search or is retired (Table 16.2, R502). -/
def State.fibreDark (s : State) (p : Nat) : Bool := (s.oport p).state == 0 || (s.oport p).state == 6

/-- MGMT_PHY_RST_N: low until step 4 of Table 15.7 (R499). -/
def State.phyRstN (s : State) : Bool := decide (s.flint.progress ≥ 4)

/-- Whether the TAP operates: MOD_PWROK high and MOD_RESET_N low; else it is held in Test-Logic-Reset with JTAG_TDO at high impedance (R500). -/
def State.tapActive (s : State) : Bool := s.pins.pwrok && !s.pins.resetN

/-! ## Register names (R369) -/

/-- The register a core's block lists at an offset (Table 4.12). -/
def coreRegAt (c off : Nat) : Option Reg :=
  if off = 0x0000 then some (.seqStatus c)
  else if off = 0x0008 then some (.coreFault c)
  else if off = 0x0100 then some (.matrixStatus c)
  else if 0x0200 ≤ off ∧ off < 0x0200 + 8 * 12 then some (.engineStatus c ((off - 0x0200) / 8))
  else if 0x0400 ≤ off ∧ off < 0x0400 + 8 * 64 then some (.tokenQueue c ((off - 0x0400) / 8))
  else if 0x0600 ≤ off ∧ off < 0x0600 + 8 * 4 then some (.screeState c ((off - 0x0600) / 8))
  else if 0x1000 ≤ off ∧ off < 0x1000 + 8 * 256 then some (.streamStatus (256 * c + (off - 0x1000) / 8))
  else none

/-- The register a die's block lists at an offset. -/
def State.dieRegAt (s : State) (d off : Nat) : Option Reg :=
  if 0x4000 ≤ off ∧ off < 0x4000 + 8 * 2048 then some (.streamStatus (0x6000 + 2048 * d + (off - 0x4000) / 8))
  else if 0x8000 ≤ off ∧ off < 0x8000 + 16 * 6 then
    let m := 6 * d + (off - 0x8000) / 16
    some (if off % 16 = 0 then .memStatus m else .memCount m)
  else if off = 0x9000 then some (.arenaCount d)
  else if off = 0x9100 then some (.updateStatus d)
  else if 0xA000 ≤ off ∧ off < 0xA000 + 16 * 12 then
    let q := (off - 0xA000) / 16
    if s.planeDie q = some d then some (if off % 16 = 0 then .ringStatus q else .ringCount q) else none
  else if 0xB000 ≤ off ∧ off < 0xB000 + 32 * 6 then
    let p := 6 * d + (off - 0xB000) / 32
    if off % 32 = 0 then some (.portStatus p) else if off % 32 = 8 then some (.portLink p)
    else if off % 32 = 16 then some (.portCount p) else none
  else if 0xB100 ≤ off ∧ off < 0xB200 then some (.laser (2 * d + (off - 0xB100) / 128) ((off - 0xB100) % 128 / 8))
  else if 0xB200 ≤ off ∧ off < 0xB200 + 128 * 6 then some (.channel (6 * d + (off - 0xB200) / 128) ((off - 0xB200) % 128 / 8))
  else if 0xC000 ≤ off ∧ off < 0xC000 + 32 * 4 then
    let e := (off - 0xC000) / 32
    if off % 32 = 0 then some (.edgeStatus d e) else if off % 32 = 8 then some (.edgeCount d e) else none
  else if 0xC100 ≤ off ∧ off < 0xC100 + 32 * 4 then
    let e := (off - 0xC100) / 32
    if off % 32 < 24 then some (.edgeGroups d e (off % 32 / 8)) else none
  else if off = 0xD000 then some (.faultSummary d)
  else if off = 0xE000 then some (.diePower d)
  else if off = 0xE008 then some (.powerCount d)
  else if off = 0xE100 ∧ d = 0 then some .moduleSupply
  else none

/-- What an 8-byte register name names: none when the unit is out of range, the block is reserved or a reserved field is
set; otherwise the register, or none of them when the block lists no register at that offset (R369). -/
def State.regNamed (s : State) (n : Nat) : Option (Option Reg) :=
  let block := bits n 63 62
  let unit := bits n 46 40
  let off := bits n 19 0
  if bits n 61 47 ≠ 0 ∨ bits n 39 20 ≠ 0 ∨ off % 8 ≠ 0 then none
  else if block = 0 ∧ unit < 4 then some (s.dieRegAt unit off)
  else if block = 1 ∧ unit < 96 then some (coreRegAt unit off)
  else none

end Sys2Proof.Machine
end

