-- ==== Sys2Proof/Machine/Ops.lean ====
section
/-! DEFINITION. The operations every command shares: strata-log events and cuts (R446 to R449), interrupt causes and MSI-X
messages (R354, R355), device state changes (R363), host violations (R383), fault reports (R427), mailbox responses (R357,
R358) and the check order of R366. -/

namespace Sys2Proof.Machine

/-! ## Time -/

/-- With nothing waiting, the local time counter advances by one nanosecond while reset is released (R20); it never
wraps. -/
def State.tick (s : State) : State :=
  if s.powered ∧ s.pins.resetN ∧ s.pins.refclk ∧ s.localTime ≠ ~~~0 then { s with localTime := s.localTime + 1 } else s

/-! ## The strata log -/

/-- The log header as bytes 0 to 15 of Table 13.18 give it. -/
def logHeaderOf (next valid oldest lost boots : Nat) : BitVec 128 :=
  BitVec.ofNat 128 (next % 65536 + valid % 65536 * 65536 + oldest % 4294967296 * 4294967296 +
    lost % 4294967296 * 18446744073709551616 + boots % 4294967296 * 79228162514264337593543950336)

/-- The header's fields. -/
def hdrNext (h : BitVec 128) : Nat := bits h.toNat 15 0
/-- Valid events. -/
def hdrValid (h : BitVec 128) : Nat := bits h.toNat 31 16
/-- Lost count. -/
def hdrLost (h : BitVec 128) : Nat := bits h.toNat 95 64
/-- Boot count. -/
def hdrBoots (h : BitVec 128) : Nat := bits h.toNat 127 96

/-- Write the header beside its complement (R446). -/
def State.putLogHeader (s : State) (h : BitVec 128) : State := s.modFlint fun f => { f with logHeader := h, logHeaderComp := ~~~h }

/-- The event number of the oldest event of a ring, 0 when it holds none. -/
def oldestNumber (ring : Tbl Event) (next valid : Nat) : Nat :=
  match Tab.find? ring ((next + 4096 - valid) % 4096) with
  | some e => if valid = 0 then 0 else e.number
  | none => 0

/-- Write one event into the next slot, over the oldest when the ring is full (R446, R451). What sources reported meanwhile faster than
Flint can log is counted as lost: how many, is free. (log 118: DESIGN CHOICE) -/
def State.putEvent (s : State) (src code action flags unit : Nat) (detail : Rec) : State :=
  let f := s.flint
  let e : Event := { time := s.logTime, number := f.eventNumber, source := src, code := code, action := action, flags := flags,
                     context := s.resident, unit := unit, detail := slice detail 0 12 }
  let ring := Tab.set f.logRing (hdrNext f.logHeader) e
  let next := (hdrNext f.logHeader + 1) % 4096
  let valid := min 4096 (hdrValid f.logHeader + 1)
  let lost := min (hdrLost f.logHeader + Config.excessReports (hdrBoots f.logHeader) f.eventNumber) 0xFFFFFFFF
  let s := s.modFlint fun f => { f with logRing := ring, eventNumber := min (f.eventNumber + 1) 0xFFFFFFFF,
                                        struck := f.struck.filter (· ≠ hdrNext f.logHeader) }
  s.putLogHeader (logHeaderOf next valid (oldestNumber ring next valid) lost (hdrBoots f.logHeader))

/-- The slot of the event with the highest number, and that number. -/
def newestSlot : Tbl Event → Option (Nat × Nat)
  | [] => none
  | (k, e) :: t => match newestSlot t with
    | some (k', n) => if e.number ≥ n then some (k, e.number) else some (k', n)
    | none => some (k, e.number)

/-- Rebuild the header from the events (R448): the newest is the one with the highest number, as many are valid as
verify under the check code; the lost and boot counts are not in the events and come back as free values. (log 118: DESIGN CHOICE) -/
def State.rebuildHeader (s : State) : State :=
  let (lost, s) := s.take
  let (boots, s) := s.take
  let ring := s.flint.logRing
  let next := match newestSlot ring with | some (k, _) => (k + 1) % 4096 | none => 0
  let valid := min 4096 (ring.filter fun e => !s.flint.struck.contains e.1).length
  s.putLogHeader (logHeaderOf next valid (oldestNumber ring next valid) lost.toNat boots.toNat)

/-! ## Interrupts -/

/-- The vector of a cause bit (Table 11.5). -/
def causeVector (n : Nat) : Nat := if n = 0 ∨ n = 1 ∨ n = 7 then 32 else 33

/-- Whether a vector is masked: by its MSI-X table entry, or with every other by the Function Mask (R355). -/
def HostPort.masked (h : HostPort) (v : Nat) : Bool := h.functionMask || bit (h.msix.read (16 * v + 12)).toNat 0

/-- Send a vector's message, or set its pending bit while it is masked (R355). -/
def State.sendVector (s : State) (p v : Nat) : State :=
  if (s.host p).masked v then s.modHost p fun h => { h with pba := h.pba ||| (1 <<< v) }
  else s.emit (.msix p v)

/-- Send the messages of the pending vectors that are no longer masked. While SCRUBBING only those of mailbox done and of vector 32, which
state changed has, are sent; vector 33's stays pending (Table 12.5). -/
def State.sendPending (s : State) (p : Nat) : State :=
  (List.range 34).foldl (fun s v =>
    if (s.host p).pba.getLsbD v && !(s.host p).masked v && !(v == 33 && s.flint.state == .scrubbing) then
      (s.modHost p fun h => { h with pba := h.pba &&& ~~~((1 : BitVec 64) <<< v) }).emit (.msix p v)
    else s) s

/-- Set a cause bit on a port; a rise of an enabled bit sends the vector's message. While SCRUBBING only state changed
sends one (Table 12.5). (log 15: DEDUCED) -/
def State.raiseOn (s : State) (p n : Nat) : State :=
  let was := (s.reg (.intCause p)).getLsbD n
  let s' := s.setBit (.intCause p) n
  if !was && (s.reg (.intEnable p)).getLsbD n && (n == 0 || s.flint.state != .scrubbing) then s'.sendVector p (causeVector n) else s'

/-- Raise a cause on both ports (Table 11.5 "both"). -/
def State.raiseBoth (s : State) (n : Nat) : State := (s.raiseOn 0 n).raiseOn 1 n

/-- Set a die's summary bit (Table 13.14). -/
def State.summary (s : State) (d n : Nat) : State := s.setBit (.faultSummary d) n

/-- A report counts in die d's fault summary register, as the last one (Table 13.14). -/
def State.summarise (s : State) (d kind code : Nat) : State :=
  let r := Reg.faultSummary d
  (((s.setBit r (44 + kind % 16)).setField r 43 36 code).setField r 35 32 kind).bump r 31 0 1

/-- A use of the log header (R425): one that does not match its complement is rebuilt first, with event 0x63, source 0, a fault notice, and
die 0's summary (R445, R448, Table 13.3). -/
def State.soundLog (s : State) : State :=
  if s.flint.logHeader = ~~~ s.flint.logHeaderComp then s
  else ((s.rebuildHeader.raiseBoth 4).putEvent 0 0x63 1 0 0 []).summarise 0 0 0x63

/-- Write a strata-log event, under a sound header. -/
def State.logEvent (s : State) (src code action flags unit : Nat) (detail : Rec) : State :=
  s.soundLog.putEvent src code action flags unit detail

/-- Enter a device state; a change raises state changed on both ports (R363). -/
def State.enter (s : State) (st : DevState) : State :=
  if s.flint.state = st then s else (s.modFlint fun f => { f with state := st }).raiseBoth 0

/-- Count a host violation, record its code, raise the cause on the port and write an event (R383). -/
def State.violation (s : State) (p code : Nat) : State :=
  let s := (s.bump (.hostViolation p) 31 0 1).setField (.hostViolation p) 39 32 code
  (s.raiseOn p 6).logEvent 9 code 6 0 p []

/-- Hand a fault report to Flint's handler (R427); the unit's own fields are set by the caller. -/
def State.report (s : State) (kind unit sub code : Nat) : State :=
  s.modFlint fun f => { f with reports := f.reports ++ [{ kind := kind, unit := unit, sub := sub, code := code }] }

/-- Whether the resident context identifier agrees with its complement (R386). -/
def State.residentSound (s : State) : Bool := s.resident == ~~~s.residentComp

/-- A use of the resident context identifier (R425): a mismatch is reported, once. -/
def State.useResident (s : State) : State :=
  if s.residentSound || s.flint.reports.contains { kind := 0, unit := 0, sub := 0, code := 0x61 } then s else s.report 0 0 0 0x61

/-! ## Repair-map entries in complement storage (R425) -/

/-- Whether an entry held by Flint agrees with its complement (R425). -/
def entrySound (e : BitVec 128) : Bool := bits e.toNat 127 64 == 2 ^ 64 - 1 - bits e.toNat 63 0

/-- The entries a use goes ahead with. -/
def Repair.sound (r : Repair) : List (BitVec 128) := r.entries.filter entrySound

/-- A use of every entry: each that does not agree with its complement is reported as 0x62, once (Table 13.3). -/
def State.useEntries (s : State) : State :=
  s.repair.entries.zipIdx.foldl (fun s e =>
    if entrySound e.1 || s.flint.reports.contains { kind := 0, unit := 0, sub := e.2, code := 0x62 } then s else s.report 0 0 e.2 0x62) s

/-! ## Cuts (R449) -/

/-- An event as its 32 bytes (Table 13.15). -/
def Event.bytes (e : Event) : Rec :=
  toLe 8 e.time.toNat ++ toLe 4 e.number ++ [BitVec.ofNat 8 e.source, BitVec.ofNat 8 e.code, BitVec.ofNat 8 e.action,
    BitVec.ofNat 8 e.flags] ++ toLe 2 e.context.toNat ++ toLe 2 e.unit ++ slice e.detail 0 12

/-- The events of the ring, oldest first. -/
def Flint.eventsOldest (f : Flint) : List Event :=
  let v := hdrValid f.logHeader
  (List.range v).filterMap fun i => Tab.find? f.logRing ((hdrNext f.logHeader + 4096 - v + i) % 4096)

/-- The cut slot a new cut takes: a free one, else that of the oldest cut. `cuts` stands newest first. -/
def cutSlot (cuts : List Cut) : Nat := if cuts.length < 4 then cuts.length else (cuts.getLast?.map (·.slot)).getD 0

/-- The number of the event written last. -/
def Flint.lastNumber (f : Flint) : Nat := ((Tab.find? f.logRing ((hdrNext f.logHeader + 4095) % 4096)).map (·.number)).getD 0

/-- Begin writing a cut: its event 0x71, then the copy (R449). A cut requested while one is being written follows it. `reason` is the HALTED
reason of a cut that an entry to HALTED makes, 0 for another (R433, Table 13.18). (log 119: DEDUCED) -/
def State.cutFor (s : State) (reason : Nat) : State :=
  if s.flint.cutWriting.isSome then s.modFlint fun f => { f with cutWanted := f.cutWanted + 1, cutReasons := f.cutReasons ++ [reason] }
  else
    let slot := cutSlot s.flash.cuts
    let s := s.logEvent 13 0x71 7 0 0 [BitVec.ofNat 8 slot]
    let f := s.flint
    let head := toLe 4 f.lastNumber ++ [BitVec.ofNat 8 reason, 0] ++ toLe 2 s.resident.toNat ++
      toLe 8 f.lastTag.toNat ++
      toLe 4 (hdrBoots f.logHeader) ++ toLe 4 (hdrLost f.logHeader) ++ toLe 16 f.logHeader.toNat ++ zeros 24
    let sums := (List.range 4).map fun d => s.readReg (.faultSummary d)
    let evs := f.eventsOldest
    let body := head ++ evs.flatMap Event.bytes ++ zeros (32 * (4096 - evs.length)) ++ sums.flatMap fun w => toLe 8 w.toNat
    s.modFlint fun f => { f with cutWriting := some { slot := slot, header := head, events := evs, summaries := sums, crc := crc64 body } }

/-- A cut that no entry to HALTED makes. -/
def State.cut (s : State) : State := s.cutFor 0

/-- Enter HALTED with a reason; firmware that runs makes a cut (R449). A load in progress is abandoned by its completion. -/
def State.halt (s : State) (reason : Nat) : State :=
  ((s.modFlint fun f => { f with haltedReason := reason }).enter .halted).cutFor reason

/-! ## Mailboxes -/

/-- An answer to a command: reply code, check code, item index, reply data (R358, R359). -/
structure Ans where
  code : Nat
  check : Nat
  index : Nat
  data : Rec
  deriving DecidableEq, Repr

/-- OK with data. -/
def Ans.ok (data : Rec) : Ans := { code := 0, check := 0, index := 0, data := data }
/-- A refusal with a reply code only. -/
def Ans.refuse (code : Nat) : Ans := { code := code, check := 0, index := 0, data := [] }
/-- A refusal naming a failing check and item. -/
def Ans.failing (code check index : Nat) : Ans := { code := code, check := check, index := index, data := [] }

/-- The request page of a mailbox. -/
def HostPort.request (h : HostPort) (b : Nat) : Rec := h.pages.readN (0x2000 * b) 0x1000

/-- The response header (Table 11.8). -/
def responseHeader (s : State) (req : Rec) (a : Ans) : Rec :=
  slice req 0 2 ++ [BitVec.ofNat 8 a.code, BitVec.ofNat 8 s.flint.view.code] ++ slice req 4 4 ++ toLe 2 a.data.length ++ [0, 0] ++
  toLe 4 (a.check * 16777216 + a.index % 65536) ++ toLe 8 s.logTime.toNat ++ zeros 40

/-- Restart the owner's lease on a command of the owner answered OK (R378). -/
def State.renew (s : State) (p : Nat) (a : Ans) : State :=
  if a.code = 0 ∧ s.flint.owner = some p then s.modFlint fun f => { f with leaseStart := s.localTime, leaseExpired := false } else s

/-- Write the whole response page, set the done bit, send the vector's message (R357). A mailbox whose reply a Function
Level Reset discarded takes none. (log 22: DEDUCED) -/
def State.respond (s : State) (m : Mbx) (a : Ans) (discarded : Bool) : State :=
  let s := s.renew m.port a
  if discarded then s
  else
    let req := (s.host m.port).request m.box
    let base := 0x2000 * m.box + 0x1000
    let page := responseHeader s req a ++ a.data
    let one : BitVec 32 := 1 <<< m.box
    let s := s.modHost m.port fun h =>
      { h with pages := (h.pages.zero base (base + 0x1000)).writeN base page, submitted := h.submitted &&& ~~~one, done := h.done ||| one }
    s.sendVector m.port m.box

/-- Remove the head of the command queue. -/
def State.dequeue (s : State) : State := s.modFlint fun f => { f with queue := f.queue.drop 1 }

/-- The command codes of Table 11.13. -/
def listedCodes : List Nat :=
  [0x0001, 0x0002, 0x0003, 0x0004, 0x0005, 0x0006, 0x0007, 0x0008, 0x0009, 0x000A, 0x000B, 0x0010, 0x0011, 0x0012, 0x0013, 0x0014,
   0x0015, 0x0016, 0x0017, 0x0018, 0x0019, 0x0020, 0x0021, 0x0022, 0x0028]

/-- One row of Table 11.13: code, legal states, owner only, whether the header names a context. -/
structure CmdRow where
  code : Nat
  legal : List DevState
  ownerOnly : Bool
  namesContext : Bool
  deriving DecidableEq, Repr

/-- The states "all but BOOTING, SCRUBBING". -/
def allBut : List DevState := [.ready, .loaded, .running, .halted, .updating]

/-- Check 3 of R366: occupancy and ownership. -/
def occupancy (s : State) (row : CmdRow) (port : Nat) : Option Ans :=
  if s.flint.state = .booting ∨ s.flint.state = .scrubbing then if row.code = 0x0001 then none else some (.refuse 1)
  else if row.ownerOnly ∧ s.flint.owner ≠ some port then some (.refuse 4)
  else match s.flint.background with
    | some b =>
      if (row.ownerOnly ∧ b.kind ≠ .attest) ∨ row.code = 0x0015 ∨ row.code = 0x0012 ∨ row.code = 0x0016 ∨ row.code = 0x0019 ∨
        row.code = 0x000B then some (.refuse 1) else none
    | none => none

/-- Checks 2 to 4 of R366: the form of the header, the form the command gives its arguments, occupancy and ownership, and
the legal states. -/
def entryChecks (s : State) (row : CmdRow) (port : Nat) (req : Rec) (form : Rec → Nat → Option Ans) : Option Ans :=
  let n := le req 10 2
  if !zeroAt req 2 2 || !zeroAt req 12 52 || (!row.namesContext && !zeroAt req 8 2) || decide (n > 4032) then some (.refuse 3)
  else match form (slice req 64 n) n with
    | some a => some a
    | none => match occupancy s row port with
      | some a => some a
      | none => if row.code = 0x0001 ∨ row.legal.contains s.flint.view then none else some (.refuse 2)

/-- Whether Flint takes mailbox commands now: its firmware runs, and no command it has taken withholds the next
(R361, R486). -/
def Flint.taking (f : Flint) : Bool := f.alive && !f.heldInReset && f.aborting.isNone

/-- Flint takes the mailbox at the head of its queue, if it is `m` and its page carries this row's command: checks 1 to 4
of R366, then the command's own checks and effects, which answer at once or later. A page whose code Table 11.13 does not
list is answered UNSUPPORTED by whichever row takes it; a page of another listed command leaves this row nothing to do. -/
def serve (s : State) (m : Mbx) (row : CmdRow) (form : Rec → Nat → Option Ans) (body : State → Rec → State × Option Ans) : State :=
  if s.flint.queue.head? = some m ∧ s.flint.taking then
    let req := (s.host m.port).request m.box
    let code := le req 0 2
    if !listedCodes.contains code then s.dequeue.respond m (.refuse 8) false
    else if code ≠ row.code then s
    else
      let s := s.dequeue
      match entryChecks s row m.port req form with
      | some a => s.respond m a false
      | none => match body s req with
        | (s, some a) => s.respond m a false
        | (s, none) => s
  else s

/-- The form of a command that takes `k` argument bytes of which those at `off`, `n` long, are reserved. -/
def formOf (k : Nat) (reserved : List (Nat × Nat)) (args : Rec) (n : Nat) : Option Ans :=
  if n ≠ k ∨ reserved.any (fun r => !zeroAt args r.1 r.2) then some (.refuse 3) else none

/-- Whether a background command (R361) runs. -/
def State.busy (s : State) : Bool := s.flint.background.isSome

end Sys2Proof.Machine
end

