-- ==== Sys2Proof/Machine/Identity.lean ====
section
/-! DEFINITION. Identity and signed records (R407, R408, R442, R480): the keys each boot derives, the firmware image's header,
and the repair-map record Flint writes. -/

namespace Sys2Proof.Machine

/-! ## Firmware images (R480, Table 15.4) -/

/-- A firmware component as the image header names it. -/
structure Component where
  kind : Nat
  offset : Nat
  length : Nat
  version : Nat
  digest : Rec
  deriving DecidableEq, Repr

/-- Component i of an image header: 48 bytes, the digest in the last 32. (log 36: DEDUCED) -/
def componentAt (img : Rec) (i : Nat) : Component :=
  let r := slice img (64 + 48 * i) 48
  { kind := le r 0 2, offset := le r 4 4, length := le r 8 4, version := le r 12 4, digest := slice r 16 32 }

/-- The components of an image. -/
def components (img : Rec) : List Component := (List.range (le img 6 2)).map (componentAt img)

/-- The firmware slot that runs. -/
def State.slot (s : State) : FwSlot := s.flash.slots.getD s.running { image := [], verified := false, security := 0, version := 0 }

/-- What the boot ROM measures: SHA3-256 of the Flint component of the image it starts (R407 step 5). (log 34: PRESUMED) -/
def State.measurement (s : State) : Rec :=
  let img := s.slot.image
  match (components img).find? fun c => c.kind = 0 with
  | some c => sha3 (slice img c.offset c.length)
  | none => sha3 []

/-! ## Keys (R407, R408) -/

/-- The device secret. -/
def State.secret (s : State) : Rec := Config.deviceSecret s.flash.helper

/-- The counter key K, which the boot ROM leaves in Flint's key store (R477). -/
def counterKey (secret : Rec) : Rec := sha3 (ascii "ctr" ++ secret)

/-- The authenticator of a counter's answer: HMAC over its index, its value and the nonce that Flint drew. (log 207: DESIGN CHOICE) -/
def counterMac (secret : Rec) (i v : Nat) (nonce : Rec) : Rec := Config.hmacSha256 (counterKey secret) (toLe 4 i ++ toLe 4 v ++ slice nonce 0 32)

/-- What the counter region answers to a read of counter i: its value and the authenticator under the key it was bound to. -/
def Flash.readCounter (f : Flash) (i : Nat) (nonce : Rec) : Nat × Rec :=
  let v := f.counters.getD i 0
  (v, counterMac f.counterSecret i v nonce)

/-- Boot reads the four counters, each under a nonce of its own; a read whose authenticator does not hold has failed (R477). -/
def State.readCounters (s : State) : Bool × State :=
  (List.range 4).foldl (fun (k : Bool × State) i =>
    let (nonce, s) := k.2.takeBytes 32
    let a := s.flash.readCounter i nonce
    (k.1 && decide (a.2 = counterMac s.secret i a.1 nonce), s)) (true, s)

/-- The identity key pair. -/
def State.identityKeys (s : State) : Rec × Rec := Config.mlDsaKeygen (sha3 (ascii "id" ++ s.secret))

/-- The alias key pair of the running firmware. -/
def State.aliasKeys (s : State) : Rec × Rec := Config.mlDsaKeygen (sha3 (s.secret ++ s.measurement))

/-- The serial number: the first 8 bytes of SHA3-256 of the identity public key. -/
def State.serial (s : State) : Rec := slice (sha3 s.identityKeys.1) 0 8

/-- The alias certificate: its to-be-signed part signed with the identity private key (R407 step 6). -/
def State.aliasCert (s : State) : Rec :=
  let tbs := Config.aliasTbs s.aliasKeys.1
  Config.certificate tbs (slice (Config.mlDsaSign s.identityKeys.2 tbs) 0 2420)

/-- The certificate chain of an attestation report: the intermediate and identity certificates of the boot flash (R408) and the alias
certificate, each after its 4-byte length (Table 12.6). -/
def State.certChain (s : State) : Rec :=
  [s.flash.intermediateCert, s.flash.identityCert, s.aliasCert].flatMap fun c => toLe 4 c.length ++ c

/-! ## Records in effect (R483, R484) -/

/-- The copy of a record in effect: of those that verify, the one with the higher version. -/
def inEffect {α : Type} (signed : α → Bool) (version : α → Nat) (cs : List α) : Option α :=
  cs.foldl (fun best c => if signed c then (match best with
    | some b => if version b < version c then some c else best
    | none => some c) else best) none

/-- The fields of a record body (Table 15.6). -/
def cfgOf (r : Rec) : Cfg :=
  { pinRate := le r 64 1, paths := le r 65 2, holdLimitMs := le r 68 4, handover := le r 72 2, marginRead := le r 74 1, marginWrite := le r 75 1,
    patrolH := le r 76 1, linkDown := le r 78 2, laserWarn := le r 80 1, laserHand := le r 81 1, lossLoc := le r 82 1, laneWarn := le r 83 1,
    laneSwap := le r 84 1, leaseS := le r 86 2, capW := le r 88 2, throttleBasalt := le r 90 1, throttleOpal := le r 91 1 }

/-- Whether every field lies in its range (Tables 15.6, 9.5, 10.3, 14.5). -/
def Cfg.ok (c : Cfg) : Bool :=
  let inside := fun (v lo hi : Nat) => decide (lo ≤ v) && decide (v ≤ hi)
  decide (c.pinRate ≤ 2) && decide (bits c.paths 15 12 = 0) && decide (bits c.paths 5 4 ≠ 3) && decide (bits c.paths 11 10 ≠ 3) &&
  inside c.holdLimitMs 1 10000 && inside c.handover 1 4095 && inside c.marginRead 4 32 && inside c.marginWrite 4 32 &&
  decide (c.patrolH ≤ 168) && inside c.linkDown 5 500 && inside c.laserWarn 5 30 && inside c.laserHand (c.laserWarn + 5) (c.laserWarn + 30) &&
  inside c.lossLoc 5 30 && inside c.laneWarn 10 24 && inside c.laneSwap 6 (c.laneWarn - 2) && inside c.leaseS 1 600 &&
  inside c.capW 1200 2200 && decide (c.capW % 50 = 0) && inside c.throttleBasalt.toNat 80 95 && inside c.throttleOpal.toNat 75 85

/-- The operator key record in effect (R414). -/
def Flash.operator (f : Flash) : Option OperatorCopy :=
  inEffect (·.signed) (·.version) (f.operators.filter fun c => decide (f.counters.getD 2 0 ≤ c.version))

/-- Whether a configuration record's signer may sign one: Yawedo's provisioning key, 0, or key k − 1 of the operator key record in effect, an
administrator's (R483). -/
def Flash.configSigner (f : Flash) (k : Nat) : Bool :=
  decide (k = 0) || (decide (k ≤ 8) && f.operator.any fun o => (o.keys[k - 1]?).any fun x => x.2 == 2)

/-- Whether a copy is valid: magic and signer are right, signature and serial number hold, its version is at least counter 3, its fields are in range and its
reserved bytes 0. (log 136: DESIGN CHOICE) -/
def Flash.configOk (f : Flash) (k : SignedCopy) : Bool :=
  k.signed && decide (le k.bytes 0 4 = 0x43465A54) && f.configSigner (le k.bytes 16 1) && decide (k.version ≥ f.counters.getD 3 0) && (cfgOf k.bytes).ok && zeroAt k.bytes 17 47 && zeroAt k.bytes 67 1 && zeroAt k.bytes 77 1 &&
  zeroAt k.bytes 85 1 && zeroAt k.bytes 92 36

/-- The copy in effect. -/
def Flash.config (f : Flash) : Option SignedCopy := inEffect (fun k => f.configOk k) (·.version) f.configs

/-! ## The repair map (R442, R443) -/

/-- The operator key record as bytes. (log 35: PRESUMED) -/
def OperatorCopy.bytes (o : OperatorCopy) : Rec := toLe 4 o.version ++ o.keys.flatMap fun k => k.1 ++ [BitVec.ofNat 8 k.2]

/-- A repair-map record (Table 13.10): header, entries, alias certificate, signature. -/
def State.mapRecord (s : State) (v : Nat) : Rec :=
  let cert := s.aliasCert
  let es := s.repair.sound
  let body := toLe 4 0x52505A54 ++ toLe 4 v ++ s.serial ++ toLe 2 es.length ++ zeros 2 ++ toLe 4 cert.length ++ zeros 40 ++
    es.flatMap (fun e => toLe 16 e.toNat) ++ cert
  body ++ slice (Config.mlDsaSign s.aliasKeys.2 body) 0 2420

/-- The index of the copy with the lower version; a copy that does not verify counts below every version. -/
def lowerCopy (cs : List (Bool × Nat)) : Nat :=
  let key := fun (c : Bool × Nat) => if c.1 then c.2 + 1 else 0
  if key (cs.getD 0 (false, 0)) ≤ key (cs.getD 1 (false, 0)) then 0 else 1

/-- Flint writes the repair map into the copy with the lower version, advances counter 1, and logs it (R442, R443, event
0x70). -/
def State.writeMap (s : State) : State :=
  let v := s.repair.version + 1
  let i := lowerCopy (s.flash.repairs.map fun c => (c.1.signed, c.1.version))
  let copy : SignedCopy × List (BitVec 128) := ({ signed := true, version := v, bytes := s.mapRecord v }, s.repair.entries)
  let s : State := { s with flash := { s.flash with repairs := s.flash.repairs.set i copy, counters := s.flash.counters.set 1 v },
                            repair := { s.repair with version := v, changed := false } }
  s.logEvent 12 0x70 0 0 0 (toLe 4 v)

/-- Write the map, unless an entry does not agree with its complement: that is reported, and the write waits for Flint's answer
(Table 13.3). -/
def State.tryWriteMap (s : State) : State := if s.repair.entries.all entrySound then s.writeMap else s.useEntries

/-! ## The boot flash (R478, Table 15.2) -/

/-- A slot selector copy as bytes (Table 15.5); a copy that is not valid shows as erased flash. -/
def Selector.bytes (k : Selector) : Rec :=
  let body := toLe 4 0x53535A54 ++ toLe 4 k.sequence ++ [BitVec.ofNat 8 k.slot, if k.trial then 1 else 0, BitVec.ofNat 8 k.attempts] ++ zeros 45
  if k.valid then body ++ toLe 8 (crc64 body).toNat else List.replicate 64 0xFF

/-- A strata-log cut as bytes: header, 4,096 events, the four fault summary registers, CRC-64 (R449). -/
def Cut.bytes (k : Cut) : Rec :=
  slice k.header 0 64 ++ slice (k.events.flatMap Event.bytes) 0 131072 ++ (k.summaries.flatMap fun w => toLe 8 w.toNat) ++ toLe 8 k.crc.toNat

/-- The boot flash as Table 15.2 lays it out: each part's offset, its size, and the bytes that stand at its start. How the helper data record
and the certificates follow each other in their part is the device's own. (log 195: DESIGN CHOICE) -/
def Flash.layout (f : Flash) : List (Nat × Nat × Rec) :=
  let two := fun (a size : Nat) (xs : List Rec) => [(a, size, xs.getD 0 []), (a + size, size, xs.getD 1 [])]
  let selectors := f.selectors.map Selector.bytes
  [(0x0, 64, selectors.getD 0 []), (0x800, 64, selectors.getD 1 []),
   (0x1000, 61440, f.helper ++ f.helperDigest ++ f.identityCert ++ f.intermediateCert)] ++
  two 0x10000 65536 (f.configs.map (·.bytes)) ++ two 0x30000 65536 (f.operators.map OperatorCopy.bytes) ++
  two 0x80000 262144 (f.repairs.map (·.1.bytes)) ++
  ((List.range 4).map fun i => (0x100000 + 0x40000 * i, 262144, ((f.cuts.find? fun c => c.slot = i).map Cut.bytes).getD [])) ++
  [(0x400000, 31457280, (f.slots.map (·.image)).getD 0 []), (0x2200000, 31457280, (f.slots.map (·.image)).getD 1 [])]

/-- The byte at a flash address: that of the part it lies in; what no record fills, and the reserved ranges, stand erased. -/
def Flash.byteAt (f : Flash) (a : Nat) : Byte :=
  match f.layout.find? fun p => p.1 ≤ a ∧ a < p.1 + p.2.1 with
  | some p => p.2.2.getD (a - p.1) 0xFF
  | none => 0xFF

end Sys2Proof.Machine
end

