-- ==== Sys2Proof/Machine/ExtMem.lean ====
section
/-! DEFINITION. Device memory and scratchpad as the device reads and writes them: the address map (R185, R186), the check
code on every word (R99, R184), regions and their rights (R187, R188, R390, R391), memory faults (R198), the repair map's
entries (R443), and waking a die (R463). A word stands as its data beside the error pattern its cells have taken. -/

namespace Sys2Proof.Machine

/-! ## Waking a die (R463, Table 14.4) -/

/-- The least voltage of a die's mover domain: 0.70 V where it carries class 1 forwarding for a used plane (R455). -/
def State.moverFloor (s : State) (d : Nat) : Nat := if s.onPlane d then 700 else 620

/-- Set a die's core and mover voltages to values of the controller's own choice within R455's range, and its other domains to theirs: the
manual gives the bounds only. A die that a trip or a throttle holds down rises no further than into its range (R466, R467). (log 197: DESIGN CHOICE) -/
def State.setVolts (s : State) (d : Nat) : State :=
  let (v, s) := s.take
  let (w, s) := s.take
  let floor := s.moverFloor d
  if s.flint.tripped then s.modDie d fun k => { k with coreMv := 620, arrayMv := 750, opalMv := 900, moverMv := floor }
  else if (s.die d).throttled then
    s.modDie d fun k => { k with coreMv := max 620 k.coreMv, arrayMv := 750, opalMv := 900, moverMv := max floor k.moverMv }
  else s.modDie d fun k => { k with coreMv := 620 + v.toNat % 241, arrayMv := 750, opalMv := 900, moverMv := floor + w.toNat % (861 - floor) }

/-- The mover domain of an active or Quiet die that comes to carry class 1 forwarding is brought to R455's least voltage. -/
def State.liftMover (s : State) (d : Nat) : State :=
  if decide ((s.die d).pstate < 2) && decide ((s.die d).coreMv ≠ 0) && decide ((s.die d).moverMv < s.moverFloor d) then
    s.modDie d fun k => { k with moverMv := s.moverFloor d }
  else s

/-- A command to a device's stack, with its select value (R177); between commands the signals are 0. (log 172: DESIGN CHOICE) -/
def State.stackCommand (s : State) (d select : Nat) (what : String) : State := s.emit (.stackCommand d (BitVec.ofNat 3 select) what)

/-- A command to each die of a stack, die by die (Table 6.6). -/
def State.eachDie (s : State) (d : Nat) (what : String) : State := (List.range 8).foldl (fun s i => s.stackCommand d i what) s

/-- Channels of a device whose temperature condition of Table 6.5 is met. -/
def MemDev.drifted (m : MemDev) : List Nat :=
  (List.range 4).filter fun c => decide ((m.readout - m.trainedAt.getD c m.readout).natAbs ≥ 10)

/-- A memory device leaves self-refresh: tracked, with drifted channels due for full retraining (Table 6.6 steps 6 to
8). -/
def MemDev.wake (m : MemDev) : MemDev :=
  if m.state = 4 then { m with state := 2, due := (m.due ++ m.drifted ++ m.exitDue).eraseDups, exitDue := (m.drifted ++ m.exitDue).eraseDups } else m

/-- A violation by a memory device (R199, event 0x75). (log 84: DEDUCED) -/
def State.memViolation (s : State) (d row : Nat) : State :=
  ((s.setBit (.memStatus d) 62).bump (.memCount d) 23 12 1).logEvent 2 0x75 6 0 d [BitVec.ofNat 8 row]

/-- A device is trained and runs: the read-timing values of each die of each channel are what training finds, free values (R180). -/
def State.trainDevice (s : State) (d : Nat) : State :=
  let (v, s) := s.takeWords 32
  s.modMem d fun m => { m with state := 2, timing := v, trainedAt := List.replicate 4 m.readout, due := [], exitDue := [] }

/-- The devices of a die leave self-refresh. Whether a device's exit fails is nothing a command says, a free value: one that does breaks the
protocol, and every channel of it is due for full retraining (Table 6.11). (log 170: DESIGN CHOICE) -/
def State.wakeMem (s : State) (n : Nat) : State :=
  if (s.mem n).state ≠ 4 then s
  else
    let (v, s) := (s.eachDie n "SELF-REFRESH EXIT").take
    let s := s.modMem n MemDev.wake
    if v.getLsbD 0 then (s.modMem n fun m => { m with due := [0, 1, 2, 3], exitDue := [0, 1, 2, 3] }).memViolation n 8 else s

/-- Devices that run enter self-refresh, die by die (Table 6.6 step 3). -/
def State.sleepMems (s : State) (which : Nat → Bool) : State :=
  let s := (s.mems.filter fun m => which m.1 && m.2.state == 2).foldl (fun s m => s.eachDie m.1 "SELF-REFRESH ENTRY") s
  { s with mems := s.mems.map fun m => if which m.1 && m.2.state == 2 then (m.1, { m.2 with state := 4 }) else m }

/-! ## Training blocks (R309) -/

/-- Bits of the free-running sequence of x^15 + x^14 + 1 from a register content, oldest first, as a number. -/
def prbs : Nat → Nat → Nat
  | 0, _ => 0
  | n + 1, r =>
    let b := (r / 2 ^ 14 + r / 2 ^ 13) % 2
    b + 2 * prbs n ((2 * r + b) % 2 ^ 15)

/-- A training block of channel n (R309): marker, channel beside its complement, the port's receive state, the sequence. -/
def trainingBlock (n rx seed : Nat) : BitVec 340 :=
  BitVec.ofNat 340 (0x0F35C6A9 + n * 2 ^ 32 + (15 - n) * 2 ^ 36 + rx * 2 ^ 40 + prbs 296 seed * 2 ^ 44)

/-- A port sends training blocks on its 16 channels. Where the free-running sequence stands is nothing the manual fixes: a free value. -/
def State.sendTraining (s : State) (p rx : Nat) : State :=
  let (v, s) := s.take
  (List.range 16).foldl (fun s n => s.emit (.training p n (trainingBlock n rx (v.toNat % 2 ^ 15)))) s

/-- A port that trains again from a step of Table 9.8: alignment and the identity exchange begin anew. -/
def OPort.train (o : OPort) (step : Nat) : OPort :=
  { o with state := if step < 6 then 1 else 2, stepNo := step, seen := [], peerRx := 0, sentReady := false, samples := [],
           echoed := false, peer := 0, peerValid := false, dormantAsked := false, rxCounter := none,
           lastSent := 0, waking := false, heard := false }

/-- A port at an end of a dormant link trains again without a search, from step 6 of Table 9.8; what is to be sent on it waits (R317, R460). -/
def OPort.rewake (o : OPort) : OPort := { o.train 6 with waking := true }

/-- A port of a die that wakes: a dormant one trains again, a request for dormancy is withdrawn, one that went down at the entry
relinks (R317). -/
def State.wakePort (s : State) (p : Nat) : State :=
  let o := s.oport p
  if o.state = 4 then (s.modOport p OPort.rewake).sendTraining p 0
  else if o.dormantAsked then s.modOport p fun o => { o with dormantAsked := false }
  else if o.state = 5 ∧ o.stepNo = 10 then (s.modOport p fun o => o.train (if o.light then 5 else 4)).sendTraining p 0
  else s

/-- Wake a die that is in Retain or entering it (Table 14.4): full mode, clamps released, memory out of self-refresh,
dormant ports retrained from step 6 of Table 9.8; a device in RETAIN returns to its prior state (R462). -/
def State.wakeDie (s : State) (d : Nat) : State :=
  if (s.die d).pstate < 2 then s
  else
    let s := (s.modDie d fun k => { k with pstate := 0, lowMode := false, clamped := false, due := false, lowBias := false }).setVolts d
    let s := (List.range 6).foldl (fun s i => s.wakeMem (6 * d + i)) s
    let s := (List.range 6).foldl (fun s i => s.wakePort (6 * d + i)) s
    if s.flint.state = .retain then s.enter s.flint.prior else s

/-- A handshake completes on a die: a Quiet die is Active again, its voltages restored (R459), unless a forced wake keeps it in
Quiet (R466), where its timers count anew all the same (R458); a retained one wakes (R33). -/
def State.stir (s : State) (d : Nat) : State :=
  if (s.die d).pstate = 0 then s
  else if (s.die d).pstate = 1 ∧ (s.die d).stayQuiet then s.modDie d fun k => { k with due := false }
  else if (s.die d).pstate = 1 then (s.modDie d fun k => { k with pstate := 0, due := false }).setVolts d
  else s.wakeDie d

/-- Retain entry from step 3 of Table 14.2 on, once no port of the die is up: memory in self-refresh, clamps, Retain voltages. The
last die to enter takes a READY or LOADED device to RETAIN (R462). -/
def State.settleRetain (s : State) (d : Nat) : State :=
  if (s.die d).pstate ≠ 3 || (List.range 6).any (fun i => (s.oport (6 * d + i)).state == 3) then s
  else
    let s := (s.modDie d fun k => { k with pstate := 2, lowMode := true, clamped := true, lowBias := true, coreMv := 500, moverMv := 500, arrayMv := 550, opalMv := 0 }).bump
      (.powerCount d) 63 48 1
    let s := s.sleepMems fun n => devDie n == d
    if (List.range 4).all (fun i => (s.die i).pstate == 2 || (s.die i).retired) ∧ (s.flint.state = .ready ∨ s.flint.state = .loaded) then
      (s.modFlint fun f => { f with prior := f.state }).enter .retain
    else s

/-- Wake every die. -/
def State.wakeAll (s : State) : State := (((s.wakeDie 0).wakeDie 1).wakeDie 2).wakeDie 3

/-- A handshake on every die, each with the mover voltage of the plan in effect (R455, R459). -/
def State.stirAll (s : State) : State := (List.range 4).foldl (fun s d => (s.stir d).liftMover d) s

/-! ## Words with error patterns -/

/-- What a read makes of an error pattern (R421): none when uncorrectable, else what is left wrong in the data and whether
a correction was made. -/
def settle (p : BitVec 144) : Option (BitVec 128 × Bool) :=
  let s := syndrome p
  if s = 0 then some (p.truncate 128, false)
  else match eccFind s 144 with
    | some n => some ((p ^^^ BitVec.ofNat 144 (2 ^ n)).truncate 128, true)
    | none => none

/-- The memory with a 128-bit pattern XORed into the word of 16 bytes at key `16 × w`. -/
def xorWord (m : Mem) (w : Nat) (r : BitVec 128) : Mem :=
  if r = 0 then m
  else m.writeN (16 * w) ((List.range 16).map fun i => m.read (16 * w + i) ^^^ BitVec.ofNat 8 (r.toNat / 256 ^ i))

/-- Read one word: the memory with the word written back as delivered, and 1 when a correction was made; none when
uncorrectable (R99, R184). -/
def settleWord (m : Mem) (f : Flips) (w : Nat) : Option (Mem × Flips × Nat) :=
  let p := f.get w
  if p = 0 then some (m, f, 0)
  else match settle p with
    | some (r, c) => some (xorWord m w r, f.set w 0, c.toNat)
    | none => none

/-- Word numbers that the bytes `a` to `a + n − 1` touch. -/
def spanWords (a n : Nat) : List Nat := if n = 0 then [] else (List.range ((a + n - 1) / 16 - a / 16 + 1)).map (a / 16 + ·)

/-- Whether a word lies wholly in the bytes `a` to `a + n − 1`. -/
def wholeWord (w a n : Nat) : Bool := decide (a ≤ 16 * w) && decide (16 * w + 16 ≤ a + n)

/-- The words a write touches, those it must read first before those it replaces: when one it reads is uncorrectable, nothing is written
and no word has been replaced (R99, R184). -/
def writeWords (a n : Nat) : List Nat := (spanWords a n).filter (fun w => !wholeWord w a n) ++ (spanWords a n).filter fun w => wholeWord w a n

/-! ## The address map (R185, R186) -/

/-- The bytes of a window: 384 × 10^9 die-local, 1,536 × 10^9 interleaved. -/
def windowSize (w : Nat) : Nat := if w < 4 then 384000000000 else 1536000000000

/-- The base of a window: die d at d << 39, the interleaved window at 0x0200_0000_0000. -/
def windowBase (w : Nat) : Nat := if w < 4 then w * 2 ^ 39 else 0x020000000000

/-- The window an address lies in: 0 to 3 die-local, 4 interleaved; none for an address in no window. -/
def windowOf (a : Nat) : Option Nat := (List.range 5).find? fun w => windowBase w ≤ a ∧ a < windowBase w + windowSize w

/-- The window that `n` bytes from `a` lie wholly in. -/
def windowOfRange (a n : Nat) : Option Nat :=
  match windowOf a with
  | some w => if a + n ≤ windowBase w + windowSize w then some w else none
  | none => none

/-- The stack die of a device offset, which is the value on the device's select signals, and the offset within that die (R177, R186). -/
def stackDie (o : Nat) : Nat × Nat := (o / 8000000000, o % 8000000000)

/-- Whether a stack die executes a command with a select value, by its extension mode register (R178, R179). -/
def dieExecutes (ext : Byte) (select : Nat) : Bool := !bit ext.toNat 7 || decide (bits ext.toNat 5 3 = select)

/-- The dies of a device that execute a command (R178, R180). -/
def MemDev.executing (m : MemDev) (select : Nat) : List Nat := (List.range 8).filter fun i => dieExecutes (m.ext.getD i 0) select

/-- Device and device offset of an address (R186). -/
def translate (a : Nat) : Option (Nat × Nat) :=
  match windowOf a with
  | none => none
  | some w =>
    let p := (a - windowBase w) / 4096
    let (dev, page) := if w < 4 then (6 * w + p % 6, p / 6) else (p % 24, p / 24)
    some (dev, page * 4096 + a % 4096)

/-- Where a device byte stands in the model's memory: device × 2^36 + device offset. -/
def devKey (dev off : Nat) : Nat := dev * 2 ^ 36 + off

/-- The two addresses that reach a device byte (R187): its die-local one and its interleaved one. -/
def keyAddrs (k : Nat) : Nat × Nat :=
  let dev := k / 2 ^ 36
  let off := k % 2 ^ 36
  let page := off / 4096
  (windowBase (dev / 6) + (page * 6 + dev % 6) * 4096 + off % 4096, windowBase 4 + (page * 24 + dev) * 4096 + off % 4096)

/-- Whether a window is mapped: a failed device unmaps its die's window and the interleaved one (R198). -/
def State.windowMapped (s : State) (w : Nat) : Bool :=
  s.mems.all fun m => m.2.failed.isNone || !(w == 4 || w == devDie m.1)

/-- The memory key of a mapped address. -/
def State.keyOf (s : State) (a : Nat) : Option Nat :=
  match windowOf a, translate a with
  | some w, some (d, o) => if s.windowMapped w then some (devKey d o) else none
  | _, _ => none

/-! ## Regions (R187, R390) -/

/-- An entry's packed value: base, size, rights, zero cursor. -/
def Region.packed (r : Region) : BitVec 146 :=
  BitVec.ofNat 146 (r.base % 2 ^ 48 + r.size % 2 ^ 48 * 2 ^ 48 + r.readable.toNat * 2 ^ 96 + r.writable.toNat * 2 ^ 97 + r.cursor % 2 ^ 48 * 2 ^ 98)

/-- Whether an entry agrees with its complement (R390). -/
def Region.sound (r : Region) : Bool := r.comp == ~~~ r.packed

/-- An entry stored beside its complement. -/
def Region.sealed (r : Region) : Region := { r with comp := ~~~ r.packed }

/-- Whether an address lies in a region. -/
def Region.has (r : Region) (a : Nat) : Bool := decide (r.base ≤ a) && decide (a < r.base + r.size)

/-- Whether a region is being zeroed. -/
def Region.zeroing (r : Region) : Bool := decide (r.cursor < r.base + r.size)

/-- Whether two address ranges name a common device page, through either window (R187). -/
def pagesMeet (a n b m : Nat) : Bool :=
  match windowOf a, windowOf b with
  | some v, some w =>
    if v = w then decide (a < b + m) && decide (b < a + n)
    else
      -- pages of the shorter range, each by its other address
      let (lo, len, olo, olen) := if n ≤ m then (a, n, b, m) else (b, m, a, n)
      (List.range ((len + 4095) / 4096)).any fun i =>
        match translate (lo + 4096 * i) with
        | some (d, o) =>
          let (x, y) := keyAddrs (devKey d o)
          (decide (olo ≤ x) && decide (x < olo + olen)) || (decide (olo ≤ y) && decide (y < olo + olen))
        | none => false
  | _, _ => false

/-- The save area's size (R396). -/
def saveBytes : Nat := 0xD0000000

/-- Whether a range meets any region or save area of any context (R187, R387, R391). -/
def State.pagesTaken (s : State) (a n : Nat) : Bool :=
  s.contexts.any fun c => pagesMeet a n c.2.saveBase saveBytes || c.2.regions.any fun r => pagesMeet a n r.2.base r.2.size

/-- What an access check finds. -/
inductive Acc where
  | ok | denied | held
  deriving DecidableEq, Repr

/-- The page addresses the bytes `a` to `a + n − 1` touch. -/
def spanPages (a n : Nat) : List Nat := if n = 0 then [] else (List.range ((a + n - 1) / 4096 - a / 4096 + 1)).map fun i => (a / 4096 + i) * 4096

/-- One page under a context's regions: denied outside mapped regions with the right, held at or above a zero cursor
(R188, R391). -/
def State.pageCheck (s : State) (c : Context) (write : Bool) (p : Nat) : Acc :=
  match c.regions.find? fun r => r.2.has p with
  | some (_, r) =>
    if !r.sound || (if write then !r.writable else !r.readable) || (s.keyOf p).isNone then .denied
    else if r.zeroing && decide (r.cursor ≤ p) then .held else .ok
  | none => .denied

/-- A range under a context's regions. -/
def State.rangeCheck (s : State) (c : Context) (write : Bool) (a n : Nat) : Acc :=
  let rs := (spanPages a n).map (s.pageCheck c write)
  if rs.any (· == .denied) then .denied else if rs.any (· == .held) then .held else .ok

/-- Region entries consulted by a range whose complement does not match (Table 13.3). -/
def Context.unsound (c : Context) (a n : Nat) : List Nat :=
  c.regions.filterMap fun r => if !r.2.sound && (spanPages a n).any (fun p => r.2.has p) then some r.1 else none

/-! ## Device memory accesses -/

/-- Why an access is not made: the address is not mapped; or a word it reads is uncorrectable, on a device: then with the state as
the words read before it left it. -/
inductive MemErr where
  | unmapped
  | dead (dev : Nat) (s : State)
  deriving DecidableEq, Repr

/-- An access presented to a device wakes its die, and with it the device, from Retain, and takes a Quiet die back to Active (R33, R194);
the access waits for that. -/
def State.stirRange (s : State) (a n : Nat) : State :=
  ((spanPages a n).filterMap fun p => (s.keyOf p).map fun k => devDie (k / 2 ^ 36)).eraseDups.foldl State.stir s

/-- Whether a range lies on a device whose channels are being retrained on its exit from self-refresh: a mover's access is held
(R196). -/
def State.retraining (s : State) (a n : Nat) : Bool :=
  (spanPages a n).any fun p => match s.keyOf p with | some k => !(s.mem (k / 2 ^ 36)).exitDue.isEmpty | none => false

/-- Read the words an access touches: corrections are written back and counted; a write clears the error pattern of words
it covers whole and reads the others (R184). -/
def State.devTouch (s : State) (a n : Nat) (write : Bool) : List Nat → Except MemErr State
  | [] => .ok s
  | w :: ws =>
    match s.keyOf (16 * w) with
    | none => .error .unmapped
    | some k =>
      if s.devFlips.get (k / 16) = 0 then s.devTouch a n write ws
      else if write && wholeWord w a n then
        State.devTouch { s with devFlips := s.devFlips.set (k / 16) 0 } a n write ws
      else match settleWord s.devmem s.devFlips (k / 16) with
        | some (m, f, c) => State.devTouch (State.bump { s with devmem := m, devFlips := f } (.memCount (k / 2 ^ 36)) 11 0 c) a n write ws
        | none => .error (.dead (k / 2 ^ 36) s)

/-- The bytes at a device address, every word corrected; the address must be mapped. -/
def State.devRead (s : State) (a n : Nat) : Except MemErr (Rec × State) :=
  match (s.stirRange a n).devTouch a n false (spanWords a n) with
  | .ok s => .ok ((List.range n).map fun i => match s.keyOf (a + i) with | some k => s.devmem.read k | none => 0, s)
  | .error e => .error e

/-- Write bytes at successive addresses. -/
def State.devPut (s : State) (a : Nat) : Rec → State
  | [] => s
  | b :: r =>
    match s.keyOf a with
    | some k => State.devPut { s with devmem := s.devmem.write k b } (a + 1) r
    | none => s.devPut (a + 1) r

/-- Write bytes at a device address: a write that meets an uncorrectable word it must read changes nothing (R184). -/
def State.devWrite (s : State) (a : Nat) (r : Rec) : Except MemErr State :=
  match (s.stirRange a r.length).devTouch a r.length true (writeWords a r.length) with
  | .ok s => .ok (s.devPut a r)
  | .error e => .error e

/-- Zero every device byte that an address range reaches, with its check bits (R391, R195). -/
def State.devZero (s : State) (a n : Nat) : State :=
  let inside := fun k => let (x, y) := keyAddrs k
    (decide (a ≤ x) && decide (x < a + n)) || (decide (a ≤ y) && decide (y < a + n))
  { s with devmem := s.devmem.filter fun e => !inside e.1, devFlips := s.devFlips.filter fun e => !inside (16 * e.1) }

/-! ## Repair-map entries (R442, R443) -/

/-- A repair-map entry beside its complement (Table 13.11). -/
def repairEntry (kind unit site state value : Nat) : BitVec 128 :=
  let v := BitVec.ofNat 64 (kind % 64 * 2 ^ 58 + unit % 2 ^ 18 * 2 ^ 40 + site % 2 ^ 24 * 2 ^ 16 + state % 256 * 256 + value % 256)
  (~~~v) ++ v

/-- Record a change in the repair map: the entry of the same kind, unit and site is replaced; the next write carries it
(R443). A map of 8,192 entries takes no other (Table 13.10). (log 189: DESIGN CHOICE) -/
def State.mapEntry (s : State) (kind unit site state value : Nat) : State :=
  let e := repairEntry kind unit site state value
  let same := fun (x : BitVec 128) => bits x.toNat 63 16 == bits e.toNat 63 16
  s.modRepair fun r =>
    let kept := r.entries.filter fun x => !same x
    if kept.length ≥ 8192 then r else { r with entries := kept ++ [e], changed := true }

/-- A capability notice: the axis changed or a unit was retired (Table 11.5 bit 3). -/
def State.capability (s : State) : State := s.raiseBoth 3

/-! ## Memory faults (R198) -/

/-- Record a memory fault on a device: the status register keeps the first code since fault was clear; codes 0x21 to 0x25
fail the device. The fault is reported; `sub` is 1 when the step itself needed the data. -/
def State.memFaultAs (s : State) (d code sub : Nat) : State :=
  let r := Reg.memStatus d
  let s := if (s.reg r).getLsbD 63 then s else (s.setBit r 63).setField r 55 48 code
  let s := if 0x21 ≤ code then
      (((s.modMem d fun m => { m with state := 6, failed := some code }).mapEntry 9 d 0 3 0).capability).summary (devDie d) 62
    else s
  s.report 2 d sub code

/-- A memory fault that no access of the step's own met. -/
def State.memFault (s : State) (d code : Nat) : State := s.memFaultAs d code 0

/-! ## Scratchpad (R98, R99) -/

/-- Where a scratchpad byte stands in the model's memory: core × 2^25 + address. -/
def scrKey (c a : Nat) : Nat := c * 2 ^ 25 + a

/-- The bank of a scratchpad address: bits [12:6]. -/
def bankOf (a : Nat) : Nat := bits a 12 6

/-- Bytes of a core's scratchpad as they stand. -/
def State.scrPeek (s : State) (c a n : Nat) : Rec := s.chip.scratch.readN (scrKey c a) n

/-- Count a corrected scratchpad error (Table 4.14) and note the line (R439). -/
def State.scrCorrected (s : State) (c a : Nat) : State :=
  (s.bump (.coreFault c) 40 29 1).modRepair fun r => { r with lineEvents := (c * 2 ^ 19 + a / 64, s.localTime) :: r.lineEvents }

/-- A bank with an uncorrectable word, and the state as the words read before it left it. -/
structure BankErr where
  bank : Nat
  s : State
  deriving DecidableEq, Repr

/-- Read the words an access touches, as `devTouch` does; the error is the bank (R99). -/
def State.scrTouch (s : State) (c a n : Nat) (write : Bool) : List Nat → Except BankErr State
  | [] => .ok s
  | w :: ws =>
    let k := scrKey c (16 * w) / 16
    if s.chip.scratchFlips.get k = 0 then s.scrTouch c a n write ws
    else if write && wholeWord w a n then
      State.scrTouch (s.modChip fun h => { h with scratchFlips := h.scratchFlips.set k 0 }) c a n write ws
    else match settleWord s.chip.scratch s.chip.scratchFlips k with
      | some (m, f, n') =>
        let s := s.modChip fun h => { h with scratch := m, scratchFlips := f }
        (if n' = 0 then s else s.scrCorrected c (16 * w)).scrTouch c a n write ws
      | none => .error ⟨bankOf (16 * w), s⟩

/-- Read scratchpad bytes, corrected. -/
def State.scrRead (s : State) (c a n : Nat) : Except BankErr (Rec × State) :=
  match s.scrTouch c a n false (spanWords a n) with
  | .ok s => .ok (s.scrPeek c a n, s)
  | .error b => .error b

/-- Correct and count the single errors that a read, now undone, has met: those whose words stand corrected in `t` (R99). -/
def State.keepFixes (s : State) (c : Nat) (t : State) : State :=
  s.chip.scratchFlips.foldl (fun (s : State) f =>
    if t.chip.scratchFlips.get f.1 ≠ 0 ∨ 16 * f.1 / 2 ^ 25 ≠ c then s
    else match s.scrRead c (16 * f.1 % 2 ^ 25) 16 with
      | .ok x => x.2
      | .error _ => s) s

/-- Write scratchpad bytes. -/
def State.scrWrite (s : State) (c a : Nat) (r : Rec) : Except BankErr State :=
  match s.scrTouch c a r.length true (writeWords a r.length) with
  | .ok s => .ok (s.modChip fun h => { h with scratch := h.scratch.writeN (scrKey c a) r })
  | .error b => .error b

end Sys2Proof.Machine
end

