-- ==== Sys2Proof/Machine/Numeric.lean ====
section
/-! DEFINITION. Integer formats, block scales, exact values and the store rule (R37 to R65, R506, R117, R229). An exact
value is num / den × 2^exp; the store rounds it once. -/

namespace Sys2Proof.Machine

/-! ## Formats (Table 2.1) -/

/-- Bits of a format: codes 0 I4, 1 I8, 2 I16, 3 I32 (R111). -/
def fmtBits (f : Nat) : Nat := [4, 8, 16, 32].getD f 8

/-- M_F (R46). -/
def fmtMax (f : Nat) : Int := [7, 127, 32767, 2147483647].getD f 127

/-- The least value a clamp gives: −M_F, and −2^31 for I32 (R57). -/
def fmtMin (f : Nat) : Int := if f = 3 then -2147483648 else -(fmtMax f)

/-- The vug code of a format; I32 has none and writes 0 (R37, R39). -/
def vugCode (f : Nat) : Nat := [0x8, 0x80, 0x8000, 0].getD f 0

/-- The mantissa of an element code, none for the vug code (R37). -/
def mantissa (f code : Nat) : Option Int :=
  if f ≠ 3 ∧ code % 2 ^ fmtBits f = vugCode f then none else some (sgn (fmtBits f) code)

/-- The exponent of a scale byte; none for a vug block or a reserved code (Table 2.2). -/
def scaleExp (b : Byte) : Option Int := if 0x80 ≤ b.toNat ∧ b.toNat ≤ 0x87 then none else some b.toInt

/-- The scale byte of an exponent. -/
def scaleCode (e : Int) : Byte := BitVec.ofInt 8 e

/-! ## Exact values -/

/-- An exact value num / den × 2^exp, den at least 1 (R44, R117). -/
structure Exact where
  num : Int
  den : Nat
  exp : Int
  deriving DecidableEq, Repr

namespace Exact

/-- An integer at an exponent. -/
def ofInt (i e : Int) : Exact := ⟨i, 1, e⟩

/-- Zero. -/
def zero : Exact := ⟨0, 1, 0⟩

/-- 2^n for a natural or negative power, as used on the side it multiplies. -/
def up (n : Int) : Int := (2 ^ n.toNat : Nat)

/-- The exact sum. -/
def add (a b : Exact) : Exact :=
  let e := min a.exp b.exp
  ⟨a.num * up (a.exp - e) * b.den + b.num * up (b.exp - e) * a.den, a.den * b.den, e⟩

/-- The exact negation. -/
def neg (a : Exact) : Exact := ⟨-a.num, a.den, a.exp⟩

/-- The exact difference. -/
def sub (a b : Exact) : Exact := add a (neg b)

/-- The exact product. -/
def mul (a b : Exact) : Exact := ⟨a.num * b.num, a.den * b.den, a.exp + b.exp⟩

/-- The exact quotient, none when the divisor is 0 (R60). -/
def div (a b : Exact) : Option Exact :=
  if b.num = 0 then none
  else
    let n := a.num * b.den * b.num.sign
    some ⟨n, a.den * b.num.natAbs, a.exp - b.exp⟩

/-- The magnitude. -/
def abs (a : Exact) : Exact := ⟨a.num.natAbs, a.den, a.exp⟩

/-- The value times 2^n. -/
def shift (a : Exact) (n : Int) : Exact := ⟨a.num, a.den, a.exp + n⟩

/-- Whether a < b. -/
def lt (a b : Exact) : Bool := decide ((sub a b).num < 0)

/-- Whether a = b as values. -/
def eqv (a b : Exact) : Bool := decide ((sub a b).num = 0)

/-- ⌊value × 2^(−e)⌋. -/
def floorAt (a : Exact) (e : Int) : Int := (a.num * up (a.exp - e)).fdiv (a.den * up (e - a.exp))

/-- Whether |value| × 2^(−e) ≤ m (R47, R117). -/
def fitsAt (a : Exact) (m e : Int) : Bool :=
  decide ((a.num.natAbs : Int) * up (a.exp - e) ≤ m * a.den * up (e - a.exp))

end Exact

/-! ## Exponent rules (R47, R506) -/

/-- The exponent rule of a store: an unscaled destination (R40); the fixed rule with its scale-table entry's exponent, or
none when the entry is 0x80 or reserved (R48); fit; fit-above. -/
inductive ExpRule where
  | unscaled
  | fixed (e : Option Int)
  | fit
  | fitAbove
  deriving DecidableEq, Repr

/-- The smallest exponent from `lo`, over `n` candidates, at which every value fits; 127 when none does. -/
def fitFrom (m : Int) (xs : List Exact) : Nat → Int → Int
  | 0, _ => 127
  | n + 1, e => if xs.all (fun x => x.fitsAt m e) then e else fitFrom m xs n (e + 1)

/-- The fit exponent from a floor `lo` (Table 2.3): floor for an all-zero block, 127 when none fits. -/
def fitExp (m : Int) (xs : List Exact) (lo : Int) : Int :=
  if lo > 127 then 127 else fitFrom m xs (128 - lo).toNat lo

/-- The exponent a rule chooses for a block's non-vug values and largest term exponent (Table 2.3). The fixed rule's none
is handled before. -/
def chooseExp (m : Int) (rule : ExpRule) (t : Option Int) (xs : List Exact) : Int :=
  match rule with
  | .unscaled => 0
  | .fixed e => e.getD 0
  | .fit => fitExp m xs (-120)
  | .fitAbove => match t with
    | none => fitExp m xs (-120)
    | some t => fitExp m xs (max (-120) t)

/-! ## Rounding and the store (R46, R50, R51, R57, R117) -/

/-- Nearest integer to n / d, ties to even (R50, R117). -/
def roundEven (n : Int) (d : Nat) : Int :=
  let q := n.fdiv d
  let r := n - q * d
  if 2 * r > d ∨ (2 * r = d ∧ q % 2 = 1) then q + 1 else q

/-- ⌊n / d + u / 2^32⌋: deterministic stochastic rounding (R51, R117). -/
def roundStoch (n : Int) (d : Nat) (u : Word32) : Int := (n * 4294967296 + u.toNat * d).fdiv (d * 4294967296)

/-- The integer an exact value rounds to at exponent e. -/
def roundAt (v : Exact) (e : Int) (stoch : Bool) (u : Word32) : Int :=
  let n := v.num * Exact.up (v.exp - e)
  let d := v.den * (Exact.up (e - v.exp)).toNat
  if stoch then roundStoch n d u else roundEven n d

/-- A clamped value and whether it was clamped (R57): 163 to I8 too, which Table 2.6 lists as stored. (log 175: DEDUCED) -/
def clamp (f : Nat) (q : Int) : Int × Bool :=
  if q > fmtMax f then (fmtMax f, true) else if q < fmtMin f then (fmtMin f, true) else (q, false)

/-- A stored block: element mantissas (none for vug), scale byte, exponent, and the counts of R57 and R65. -/
structure Stored where
  elems : List (Option Int)
  scale : Byte
  exp : Int
  sats : Nat
  vugs : Nat
  deriving DecidableEq, Repr

/-- The code an element is stored as (R46 step 6). -/
def elemCode (f : Nat) : Option Int → Nat
  | none => vugCode f
  | some i => unsgn (fmtBits f) i

/-- The I32 mask word of a block: bit i set when element i is vug (R39). -/
def maskOf : List (Option Int) → Nat
  | [] => 0
  | x :: xs => (if x.isNone then 1 else 0) + 2 * maskOf xs

/-- Store one element at exponent e. -/
def storeElem (f : Nat) (e : Int) (stoch : Bool) (u : Word32) : Option Exact → Option Int × Nat
  | none => (none, 0)
  | some v =>
    let c := clamp f (roundAt v e stoch u)
    (some c.1, if c.2 then 1 else 0)

/-- The store rule for a block of exact values, none for a vug element (R46 to R48): `us i` is the prf32 output of element
i. -/
def storeBlock (f : Nat) (rule : ExpRule) (stoch : Bool) (us : Nat → Word32) (t : Option Int)
    (xs : List (Option Exact)) : Stored :=
  if rule = .fixed none ∨ (rule ≠ .unscaled ∧ xs.all Option.isNone) then
    ⟨xs.map fun _ => none, 0x80, 0, 0, xs.length⟩
  else
    let e := chooseExp (fmtMax f) rule t (xs.filterMap id)
    let r := xs.mapIdx fun i x => storeElem f e stoch (us i) x
    ⟨r.map Prod.fst, scaleCode e, e, (r.map Prod.snd).sum, (xs.filter Option.isNone).length⟩

/-- The largest of some exponents, none for no term (R506). -/
def maxExp (xs : List Int) : Option Int := xs.foldl (fun m x => some (max (m.getD x) x)) none

/-! ## Operands -/

/-- An operand element: its mantissa, none when vug (its code, its mask bit or its block says so), and its block's
exponent. -/
structure Opd where
  man : Option Int
  exp : Int
  deriving DecidableEq, Repr

/-- The exact value of an operand. -/
def Opd.val (o : Opd) : Option Exact := o.man.map fun m => Exact.ofInt m o.exp

/-- An operand under the vug policy (R61): under zero-substitute a vug reads as 0. -/
def Opd.subst (zero : Bool) (o : Opd) : Option Exact :=
  match o.man with
  | some m => some (Exact.ofInt m o.exp)
  | none => if zero then some Exact.zero else none

/-- What R65 counts for an operand consumed: one substitution under zero-substitute. -/
def Opd.subs (zero : Bool) (o : Opd) : Nat := if zero ∧ o.man.isNone then 1 else 0

/-- The term exponents an operand counts with: none when vug (R506). -/
def Opd.terms (o : Opd) : List Int := if o.man.isSome then [o.exp] else []

/-! ## Integer square root and wide values -/

/-- One bit of the integer square root at a time, from bit `b − 1` down. -/
def isqrtGo (n : Nat) : Nat → Nat → Nat
  | 0, r => r
  | b + 1, r => if (r + 2 ^ b) * (r + 2 ^ b) ≤ n then isqrtGo n b (r + 2 ^ b) else isqrtGo n b r

/-- ⌊√n⌋ for n below 2^128 (R218). -/
def isqrt (n : Nat) : Nat := isqrtGo n 64 0

/-- A positive value m × 2^e as a wide value (R229): X = ⌊log₂ V⌋ − 63, M = ⌊V × 2^(−X)⌋; zero is (0, 0). -/
def wide (m : Nat) (e : Int) : Nat × Int :=
  if m = 0 then (0, 0)
  else
    let x := (Nat.log2 m : Int) + e - 63
    ((Exact.ofInt m e).floorAt x |>.toNat, x)

/-- Feed one non-vug stored value (mantissa, exponent) to an accumulator (R228). -/
def Accum.feed (a : Accum) (m e : Int) : Accum :=
  let sq := m.natAbs * m.natAbs
  let lo := min a.sumSqExp (2 * e)
  let sum := a.sumSq * 2 ^ (a.sumSqExp - lo).toNat + sq * 2 ^ (2 * e - lo).toNat
  let bigger := (Exact.ofInt a.maxMag a.maxMagExp).lt (Exact.ofInt m.natAbs e)
  { a with
    sumSq := sum, sumSqExp := lo,
    maxMag := if bigger then m.natAbs else a.maxMag,
    maxMagExp := if bigger then e else a.maxMagExp }

/-- Feed a stored block (R228): values, element count, counts, written bit; stops at the fields' largest values are applied
when the entry is written (R230). -/
def Accum.feedBlock (a : Accum) (st : Stored) (subs : Nat) : Accum :=
  let b := st.elems.foldl (fun a x => match x with | some m => a.feed m st.exp | none => a) a
  { b with
    elements := b.elements + st.elems.length, vugs := b.vugs + st.vugs + subs, sats := b.sats + st.sats, written := true }

end Sys2Proof.Machine
end

