-- ==== Sys2Proof/Machine/StepOps.lean ====
section
/-! DEFINITION. The frame around a step: the scale table (R43, R231), instruments (R228 to R230), replay capture (R232 to
R239), stopping the units (R375), the end of a step (R374), escalation (R434) and fatal faults. -/

namespace Sys2Proof.Machine

/-! ## The scale table (R43) -/

/-- A scale-table entry: its byte when the complement beside it agrees, none on a mismatch. -/
def scaleAt (t : List (Byte × Byte)) (i : Nat) : Option Byte :=
  match t[i]? with
  | some (b, c) => if c = ~~~b then some b else none
  | none => some 0

/-- An entry of the resident context's table. -/
def State.scaleEntry (s : State) (i : Nat) : Option Byte :=
  match s.residentCtx with
  | some c => scaleAt c.scale i
  | none => some 0

/-- The scale bytes of the table. -/
def Context.scaleBytes (c : Context) : Rec := (List.range 4096).map fun i => ((c.scale[i]?).map (·.1)).getD 0

/-- A table from its bytes, each beside its complement. -/
def scaleTable (r : Rec) : List (Byte × Byte) := (List.range 4096).map fun i => let b := r.getD i 0; (b, ~~~b)

/-- Write one entry with its complement. -/
def Context.setScale (c : Context) (i : Nat) (b : Byte) : Context :=
  { c with scale := (List.range 4096).map fun j => if j = i then (b, ~~~b) else (c.scale[j]?).getD (0, 0xFF) }

/-- The exponent rule of a store from its code (Table 2.3) and scale-table entry; none when the fixed rule meets a
complement mismatch (R43). Codes: 0 fixed, 1 fit, 2 fit-above. -/
def State.expRule (s : State) (unscaled : Bool) (code entry : Nat) : Option ExpRule :=
  if unscaled then some .unscaled
  else if code = 0 then (s.scaleEntry entry).map fun b => .fixed (scaleExp b)
  else if code = 1 then some .fit else some .fitAbove

/-! ## Collectives stopping (R274) -/

/-- A collective of the running step. -/
def State.coll (s : State) (x : Nat) : Coll := Tab.get Coll.init s.chip.ring.colls x

/-- Change the ring's state. -/
def State.modRing (s : State) (f : Ring → Ring) : State := s.modChip fun h => { h with ring := f h.ring }

/-- Change a collective. -/
def State.modColl (s : State) (x : Nat) (f : Coll → Coll) : State :=
  s.modRing fun r => { r with colls := Tab.upd Coll.init r.colls x f }

/-- A collective fault on a plane (R274): the first code since fault was clear is kept; the collectives named stop. -/
def State.ringFault (s : State) (q code : Nat) (xs : List Nat) : State :=
  let r := Reg.ringStatus q
  let s := if (s.reg r).getLsbD 63 then s else (s.setBit r 63).setField r 55 48 code
  (xs.foldl (fun (s : State) x => s.modColl x fun c => { c with stopped := true }) s).report 5 q 0 code

/-- The collectives of the running step that take a stream, neither complete nor stopped (R247). -/
def State.streamColls (s : State) (id : Nat) : List Nat :=
  if s.chip.step.isNone then []
  else match s.plan? with
    | none => []
    | some p => (List.range p.colls.length).filter fun x =>
        let e := p.colls.getD x []
        let c := s.coll x
        collPresent e && collKind e != 2 && (collIn e == id || collOut e == id) && s.member e && !c.complete && !c.stopped

/-- A collective stream faulted: every collective of the step that takes it stops with 0x37 (R247, R274). Each reports on the
lowest plane of its set. (log 162: DEDUCED; log 192: DESIGN CHOICE) -/
def State.stopColls (s : State) (id : Nat) : State :=
  (s.streamColls id).foldl (fun s x => s.ringFault (((s.collEntry? x).map fun e => (collPlanes e).headD 0).getD 0) 0x37 [x]) s

/-! ## Update units stopping (R222) -/

/-- A die's update unit. -/
def State.updUnit (s : State) (d : Nat) : Update := Tab.get Update.init s.chip.updates d

/-- Change a die's update unit. -/
def State.modUpd (s : State) (d : Nat) (f : Update → Update) : State :=
  s.modChip fun h => { h with updates := Tab.upd Update.init h.updates d f }

/-- The unit stops with a cause, and the step escalates (R222). (log 108: PRESUMED) -/
def State.updFault (s : State) (d cause : Nat) : State :=
  ((s.modUpd d fun u => { u with state := 5, cause := cause }).setBit (.updateStatus d) 63).report 7 d 0 cause

/-! ## Device-memory accesses made for the step outside streams and update units -/

/-- The failed device whose failure unmapped an address, with its code (R198). -/
def State.failedFor (s : State) (a : Nat) : Option (Nat × Nat) :=
  (s.mems.findSome? fun m => match m.2.failed, windowOf a with
    | some c, some w => if w = 4 ∨ w = devDie m.1 then some (m.1, c) else none
    | _, _ => none)

/-- Report every region entry of the resident context that does not agree with its complement (Table 13.3), once; or the identifier that
does not agree with its own. (log 117: DEDUCED) -/
def State.reportUnsound (s : State) : State :=
  match s.residentCtx with
  | none => s.useResident
  | some c => c.regions.foldl (fun s r =>
      let rep : Report := { kind := 0, unit := c.id.toNat / 4096, sub := r.1, code := 0x60 }
      if r.2.sound || s.flint.reports.contains rep then s else s.report rep.kind rep.unit rep.sub rep.code) s

/-- Whether the resident context's rights allow an access that the device makes for the step (R390). -/
def State.stepMay (s : State) (write : Bool) (a n : Nat) : Bool := s.residentCtx.any fun c => s.rangeCheck c write a n == .ok

/-- Report an access that could not be made (R198, R184). One that the rights alone forbid is not made; the manual gives it no fault of its
own. (log 191: DESIGN CHOICE) -/
def State.stepAccessFault (s : State) (a : Nat) : MemErr → State
  | .dead d t => t.memFaultAs d 0x20 1
  | .unmapped => match s.failedFor a with
    | some (d, c) => s.report 2 d 1 c
    | none => s.reportUnsound

/-- Write bytes for the step. -/
def State.stepWrite (s : State) (a : Nat) (r : Rec) : State :=
  if !s.stepMay true a r.length then s.stepAccessFault a .unmapped
  else match s.devWrite a r with
    | .ok s => s
    | .error e => s.stepAccessFault a e

/-- Read bytes for the step; a read that cannot be made is reported and gives zeros. -/
def State.stepRead (s : State) (a n : Nat) : Rec × State :=
  if !s.stepMay false a n then (zeros n, s.stepAccessFault a .unmapped)
  else match s.devRead a n with
    | .ok x => x
    | .error e => (zeros n, s.stepAccessFault a e)

/-! ## Instruments -/

/-- Two accumulators as one: sums and maxima do not depend on the order of stores (R229). -/
def Accum.merge (a b : Accum) : Accum :=
  let lo := min a.sumSqExp b.sumSqExp
  let bigger := (Exact.ofInt a.maxMag a.maxMagExp).lt (Exact.ofInt b.maxMag b.maxMagExp)
  { sumSq := a.sumSq * 2 ^ (a.sumSqExp - lo).toNat + b.sumSq * 2 ^ (b.sumSqExp - lo).toNat, sumSqExp := lo,
    maxMag := if bigger then b.maxMag else a.maxMag, maxMagExp := if bigger then b.maxMagExp else a.maxMagExp,
    elements := a.elements + b.elements, vugs := a.vugs + b.vugs, sats := a.sats + b.sats, written := a.written || b.written }

/-- Add what a store gathered to an instrument entry (R228). -/
def State.feed (s : State) (i : Nat) (b : Accum) : State :=
  s.modChip fun h => { h with instruments := Tab.upd Accum.init h.instruments i fun a => a.merge b }

/-- An instrument entry as Table 11 of the training chapter (Table 7.11) lays it out. -/
def Accum.bytes (a : Accum) (tag role : Nat) : Rec :=
  let (sm, sx) := wide a.sumSq a.sumSqExp
  let (mm, mx) := wide a.maxMag a.maxMagExp
  let stop := fun (n w : Nat) => decide (n ≥ 2 ^ w - 1)
  let flags := (stop a.vugs 32).toNat * 2 ^ 31 + (stop a.sats 32).toNat * 2 ^ 30 + (stop a.elements 48).toNat * 2 ^ 29 +
    a.written.toNat * 2 ^ 28 + role
  toLe 8 sm ++ toLe 8 mm ++ toLe 2 (unsgn 16 sx) ++ toLe 2 (unsgn 16 mx) ++ toLe 4 tag ++ toLe 8 (min a.elements (2 ^ 48 - 1)) ++
  toLe 4 (min a.vugs (2 ^ 32 - 1)) ++ toLe 4 (min a.sats (2 ^ 32 - 1)) ++ toLe 4 flags ++ zeros 20

/-- The declared tag and role of an entry (section 0x0E). -/
def Plan.declared (p : Plan) (i : Nat) : Nat × Nat := match p.instruments[i]? with | some d => (le d 0 4, bits (le d 4 1) 3 0) | none => (0, 0)

/-- Stage 7 of Table 7.1: rewrite the instrument table whole at the address the plan declares. -/
def State.writeInstruments (s : State) (p : Plan) : State :=
  let base := le p.settings 8 8
  match s.failedFor base with
  | some (d, c) => s.report 2 d 1 c
  | none =>
    if !s.stepMay true base (64 * 4096) then s.reportUnsound
    else (List.range 4096).foldl (fun s i =>
      let (tag, role) := p.declared i
      match Tab.find? s.chip.instruments i with
      | some a => s.stepWrite (base + 64 * i) (a.bytes tag role)
      | none => if tag = 0 ∧ role = 0 then s else s.stepWrite (base + 64 * i) (Accum.init.bytes tag role))
      (s.devZero base (64 * 4096))

/-- The smallest e from −120 to +127 with A ≤ M_F × 2^(e−h), or +127 (R231). -/
def scaleUpdateExp (a : Accum) (f h : Nat) : Int :=
  (((List.range 248).map fun (i : Nat) => (i : Int) - 120).find? fun e =>
    (Exact.ofInt a.maxMag a.maxMagExp).fitsAt (fmtMax f) (e - h)).getD 127

/-- Stage 8: apply one scale update record. A mismatched entry is reported as 0x64 and not written (Table 13.3). -/
def State.scaleUpdate (s : State) (r : Word32) : State :=
  let entry := bits r.toNat 31 20
  match Tab.find? s.chip.instruments (bits r.toNat 19 8) with
  | some a =>
    if a.written && decide (a.maxMag ≠ 0) then
      match s.scaleEntry entry with
      | some _ => s.modResident fun c => c.setScale entry (scaleCode (scaleUpdateExp a (bits r.toNat 7 6) (bits r.toNat 5 3)))
      | none => s.report 0 0 0 0x64
    else s
  | none => s

/-! ## Replay capture -/

/-- The replay mode of the running step, 0 when none runs. -/
def State.replayMode (s : State) : Nat := (s.chip.step.map fun r => le r.record 8 1).getD 0

/-- Enter a digest record for a stored tile (R232 to R234): key fields, the bytes stored, the tile status. A tile
that a re-run stores again is entered once. (log 61: DESIGN CHOICE) -/
def State.digest (s : State) (unit idx entry ordinal row block : Nat) (stored : Rec) (status : Word64) : State :=
  match s.chip.step with
  | none => s
  | some run =>
    if le run.record 8 1 = 0 then s
    else
      let key := toLe 8 (unit % 128 * 2 ^ 57 + idx % 32768 * 2 ^ 42 + entry % 256 * 2 ^ 34 + block % 2 ^ 18 * 2 ^ 16) ++
        toLe 8 (ordinal % 2 ^ 32 * 2 ^ 32 + row % 2 ^ 26)
      let rec32 := key ++ toLe 8 (crc64 (key ++ stored)).toNat ++ toLe 8 status.toNat
      let n := s.chip.capture.records.length
      if s.chip.capture.records.any (fun r => slice r 0 16 = key) then s
      else if 32 * (n + 1) > le run.record 96 8 then s.modChip fun h => { h with capture := { h.capture with digestFull := true } }
      else
        let s := s.modChip fun h => { h with capture := { h.capture with records := h.capture.records ++ [rec32] } }
        s.stepWrite (le run.record 88 8 + 32 * n) rec32

/-- Log an accepted ring transfer when ring-input capture was asked for (R234): the chunk key, the payload length, the
payload padded to 32 bytes. -/
def State.logRingInput (s : State) (key payload : Rec) : State :=
  match s.chip.step with
  | none => s
  | some run =>
    if le run.record 8 1 = 1 ∧ bit (le run.record 9 1) 0 ∧ !s.chip.capture.ringFull then
      let body := slice key 0 16 ++ toLe 4 payload.length ++ zeros 12 ++ payload ++ zeros ((32 - payload.length % 32) % 32)
      let n := s.chip.capture.ringLog.length
      if n + body.length > le run.record 112 8 then s.modChip fun h => { h with capture := { h.capture with ringFull := true } }
      else
        let s := s.modChip fun h => { h with capture := { h.capture with ringLog := h.capture.ringLog ++ body } }
        s.stepWrite (le run.record 104 8 + n) body
    else s

/-- What a capture header needs besides the running step: closing figures. -/
structure Closing where
  closed : Bool
  aborted : Bool
  time : Word64
  report : Rec
  deriving DecidableEq, Repr

/-- Bytes 0 to 295 of a capture header (Table 7.14). -/
def State.captureHead (s : State) (run : StepRun) (k : Closing) : Rec :=
  let c := s.chip.capture
  let mode := le run.record 8 1
  let flags := bits (le run.record 9 1) 1 0
  let status := k.closed.toNat + 2 * c.digestFull.toNat + 4 * c.ringFull.toNat + 8 * k.aborted.toNat + 16 * (decide (mode ≥ 2)).toNat
  let shape := (List.range 12).flatMap fun q => match s.planeEntry q with
    | some (e, _) => toLe 4 (if planeUsed e then 2 ^ 31 + (planeLen e - 1) * 2 ^ 12 + planePos e else 0)
    | none => zeros 4
  [1, 0, BitVec.ofNat 8 flags, BitVec.ofNat 8 status] ++ toLe 2 s.resident.toNat ++ [BitVec.ofNat 8 mode, 0] ++ slice run.record 0 8 ++
  ((s.plan?.map (·.digest)).getD (zeros 32)) ++ (List.range 7).flatMap (fun i => toLe 8 (run.seeds.getD i 0).toNat) ++ zeros 8 ++
  sha3 run.samples ++ slice run.inputDigest 0 32 ++ shape ++ toLe 8 run.startTime.toNat ++ toLe 8 k.time.toNat ++
  toLe 8 s.epochOffset.toNat ++ slice run.record 88 16 ++ toLe 8 c.records.length ++ slice run.record 104 16 ++ toLe 8 c.ringLog.length

/-- The whole capture header; its digest covers bytes 0 to 295 and 512 to 4,607 (R235). (log 63: DEDUCED) -/
def State.captureHeader (s : State) (run : StepRun) (k : Closing) : Rec :=
  let head := s.captureHead run k
  head ++ (if k.closed then sha3 (head ++ run.table) else zeros 32) ++ zeros 24 ++ slice k.report 0 128 ++ zeros 32 ++ run.table

/-- A digest record's key in canonical order (R238): unit, instruction index, fill entry, ordinal, tile row, block. -/
def canonKey (r : Rec) : List Nat :=
  let a := le r 0 8
  let b := le r 8 8
  [bits a 63 57, bits a 56 42, bits a 41 34, bits b 63 32, bits b 25 0, bits a 33 16]

/-- Lexicographic order of keys. -/
def keyLt : List Nat → List Nat → Bool
  | [], [] => false
  | x :: xs, y :: ys => decide (x < y) || (x == y && keyLt xs ys)
  | [], _ :: _ => true
  | _ :: _, [] => false

/-- The divergence report of two digest logs (Table 7.15) and its first divergent key, if any. The manual does not say which records count as
compared: the model counts every key it judges, those of one log only among them. (log 193: DESIGN CHOICE) -/
def divergence (mine ref : List Rec) (refFull inputsDiffer aborted : Bool) : Rec × Option Rec :=
  let inRef := fun r => ref.find? fun x => slice x 0 16 = slice r 0 16
  let inMine := fun r => mine.find? fun x => slice x 0 16 = slice r 0 16
  let both := mine.filter fun r => (inRef r).isSome
  let differ := both.filter fun r => (inRef r).any fun x => slice x 16 8 ≠ slice r 16 8
  let onlyMine := if refFull then [] else mine.filter fun r => (inRef r).isNone
  let onlyRef := ref.filter fun r => (inMine r).isNone
  let all := differ ++ onlyMine ++ onlyRef
  let first := all.foldl (fun b r => match b with
    | none => some r
    | some x => if keyLt (canonKey r) (canonKey x) then some r else some x) none
  let status := (!aborted).toNat + 2 * refFull.toNat + 4 * inputsDiffer.toNat + 8 * aborted.toNat
  let pick := fun (o : Option Rec) => (o.map fun r => slice r 0 32).getD (zeros 32)
  (toLe 4 status ++ zeros 4 ++ toLe 8 (both.length + onlyMine.length + onlyRef.length) ++ toLe 8 all.length ++
   toLe 8 (onlyMine.length + onlyRef.length) ++ pick (first.bind inMine) ++ pick (first.bind inRef) ++ zeros 32, first.map fun r => slice r 0 16)

/-- A replay divergence is reported (R239): event 0x65 names the first divergent key, and whether the inputs differed. The key's unit and
the upper bits of its instruction index stand in the event's unit field, the other fields of its two words in the detail, with bit 31 of
bytes 24–31 for the inputs. (log 174: DESIGN CHOICE) -/
def State.reportDivergence (s : State) (key : Rec) (inputsDiffer : Bool) : State :=
  let detail := slice key 2 4 ++ toLe 8 (le key 8 8 + inputsDiffer.toNat * 2 ^ 31)
  ((s.logEvent 0 0x65 0 0 (le key 6 2) detail).raiseBoth 4).summarise 0 0 0x65

/-- Stage 9 of Table 7.1: close the capture header; in a replay mode compare the digest logs (R238) and report a divergence
(R239). An aborted or escalated step closes with the aborted bit and compares nothing (R201). -/
def State.closeCapture (s : State) (aborted : Bool) : State :=
  match s.chip.step with
  | none => s
  | some run =>
    let mode := le run.record 8 1
    let addr := le run.record 80 8
    if mode = 0 then s
    else if mode ≥ 2 ∧ !aborted then
      let refAddr := le run.record 120 8
      let (ref, s) := s.stepRead refAddr 512
      let n := le ref 264 8
      let (log, s) := s.stepRead (le ref 248 8) (32 * n)
      let recs := (List.range n).map fun i => slice log (32 * i) 32
      let differ := bit (le ref 2 1) 1 && decide (run.inputDigest ≠ zeros 32) && decide (slice ref 144 32 ≠ slice run.inputDigest 0 32)
      let (rep, first) := divergence s.chip.capture.records recs (bit (le ref 3 1) 1) differ false
      let s := s.stepWrite addr (s.captureHeader run ⟨true, false, s.localTime, rep⟩)
      match first with
      | some key => s.reportDivergence key differ
      | none => s
    else
      let rep := if mode ≥ 2 then toLe 4 8 else []
      s.stepWrite addr (s.captureHeader run ⟨true, aborted, s.localTime, rep⟩)

/-! ## Stopping and ending a step -/

/-- A core stopped at its next handshake boundary (R375): nothing is in flight, the sequencer is idle; planes being loaded
are invalid (R93). -/
def Core.stop (c : Core) : Core :=
  { c with state := if c.state = 3 then 3 else 0, hold := if c.state = 3 then 8 else 0, inflight := [], fill := none, ended := true,
           planes := c.planes.map fun p => if p.2.state = 1 then (p.1, { p.2 with state := 3 }) else p }

/-- A stream stopped at a transfer boundary: transfers in flight are left unwritten. Class 4 streams are only held
(R375). -/
def Stream.halt (t : Stream) : Stream :=
  { t with running := none, fetched := [], state := 0, flow := [], gated := false, sealing := none, offered := false, again := none, landed := 0, near := [] }

/-- A class 4 stream held at its next transfer boundary: the transfer under way runs again in full, with the gate's token it has
taken; one that only its signal keeps is complete. -/
def Stream.hold (t : Stream) : Stream :=
  if t.signalled = 1 then t else { t with running := t.running.map fun r => { r with started := r.done }, hostBuf := [], sealing := none }

/-- Stop every core, stream, update unit and collective mover of the context (Table 13.7 step 1, R375). -/
def State.stopUnits (s : State) : State :=
  let cls := fun id => (s.streamEntry id).map streamClass
  s.modChip fun h => { h with
    cores := h.cores.map fun c => (c.1, c.2.stop),
    streams := h.streams.map fun t => (t.1, if cls t.1 = some 4 then t.2.hold else t.2.halt),
    updates := h.updates.map fun u => (u.1, { u.2 with state := if u.2.state = 5 then 5 else 0 }),
    ring := { h.ring with colls := h.ring.colls.map fun c => (c.1, { c.2 with stopped := true }) } }

/-- The scale table returns to the values it held before stage 3 (R201). -/
def State.restoreScale (s : State) : State :=
  match s.chip.keptScale with
  | some t => (s.modResident fun c => { c with scale := t }).modChip fun h => { h with keptScale := none }
  | none => s

/-- Write the step status and step tag registers of both ports and raise step ended (R374). -/
def State.endStep (s : State) (outcome : Nat) : State :=
  match s.chip.step with
  | none => s
  | some run =>
    let tag := BitVec.ofNat 64 (le run.record 0 8)
    let put := fun (s : State) p =>
      ((s.setField (.stepStatus p) 63 62 outcome).setField (.stepStatus p) 47 32 s.resident.toNat).setReg (.stepTag p) tag
    let s := (put (put s 0) 1).modChip fun h => { h with step := none }
    s.raiseBoth 1

/-- End a step without a result (R201, R375): the units stopped, the capture header closed with the aborted bit, the scale
table returned, the outcome reported. -/
def State.failStep (s : State) (outcome : Nat) : State :=
  if s.chip.step.isSome then (((s.stopUnits).closeCapture true).restoreScale).endStep outcome else s.stopUnits

/-- A background command ended by an entry to HALTED: a load is abandoned with check code 0x1D (R393), a switch before its
save is refused with REFUSED_STATE (R398); other commands go on. (log 32: DEDUCED) -/
def State.abandonBackground (s : State) (fatal : Bool) : State :=
  match s.flint.background with
  | some b =>
    if b.kind = .loadPlan ∧ fatal then
      let s := s.modFlint fun f => { f with background := none }
      s.respond b.mbx { code := 7, check := 0x1D, index := 0xFFFF, data := zeros 16 } b.discarded
    else if b.kind = .switch then
      let s := s.modFlint fun f => { f with background := none }
      s.respond b.mbx (.refuse 2) b.discarded
    else s
  | none => s

/-- An abort being served when the step ends otherwise: its reply follows with the state the step's end left. -/
def State.finishAbort (s : State) : State :=
  match s.flint.aborting with
  | some (m, gone) => (s.modFlint fun f => { f with aborting := none }).respond m (.refuse 2) gone
  | none => s

/-- Enter HALTED for a fatal fault: the units stop, a running step ends with outcome 3, a cut is made (R437, R465,
R467). -/
def State.fatal (s : State) (reason : Nat) : State :=
  let outcome := if s.chip.step.any (·.aborting) then 2 else 3
  let s := ((s.failStep outcome).halt reason).abandonBackground true
  (s.finishAbort).modFlint fun f => { f with windows := [], gathering := none, waiting := [] }

/-- Escalate a fault (R433, Table 13.7) reported on a die: with a step in progress the step ends with outcome 3, the device
enters HALTED with reason 1, the escalation event is written and the log is cut; with none, only the cut. A step that an abort
is stopping keeps outcome 2 (R375). -/
def State.escalate (s : State) (r : Report) (unit die flags : Nat) : State :=
  match s.chip.step with
  | none => s.cut
  | some run =>
    if run.aborting then s
    else
      let s := (s.failStep 3).summary die 63
      let s := (s.modFlint fun f => { f with haltedReason := 1 }).enter .halted
      let s := (s.logEvent r.kind r.code 5 flags unit []).cutFor 1
      (s.abandonBackground false).modFlint fun f => { f with windows := [], gathering := none, waiting := [] }

end Sys2Proof.Machine
end

