-- ==== Sys2Proof/Machine/Operands.lean ====
section
/-! DEFINITION. Operand forms: tensor references (Tables 4.1, R106, R107), blocks read and stored in row and column form,
the bytes a reference spans (R103), the plan's vug policy (R64). -/

namespace Sys2Proof.Machine

/-- A tensor reference (Table 4.1). -/
structure Ref where
  stream : Option Nat
  base : Int
  rowStride : Int
  unscaled : Bool
  scaleBase : Int
  scaleStride : Int
  maskBase : Int
  instr : Option Nat
  deriving DecidableEq, Repr

/-- The reference in 24 bytes. -/
def refOf (r : Rec) : Ref :=
  { stream := if bit (le r 0 4) 31 then some (bits (le r 0 4) 14 0) else none,
    base := bits (le r 0 4) 24 0, rowStride := sgn 32 (le r 4 4), unscaled := bit (le r 8 4) 31,
    scaleBase := bits (le r 8 4) 24 0, scaleStride := sgn 32 (le r 12 4), maskBase := bits (le r 16 4) 24 0,
    instr := if bit (le r 20 4) 31 then some (bits (le r 20 4) 11 0) else none }

/-- The reference at an offset of an argument record. -/
def refAt (r : Rec) (off : Nat) : Ref := refOf (slice r off 24)

/-- Whether the plan's policy is zero-substitute (section 0x01 byte 0). -/
def State.zeroPolicy (s : State) : Bool := match s.plan? with | some p => le p.settings 0 1 == 1 | none => false

/-- The seed of a class for the running step. -/
def State.seed (s : State) (cls : Nat) : Word64 := (s.chip.step.map fun r => r.seeds.getD cls 0).getD 0

/-- The prf32 output for an element of a store (R52). -/
def State.draw (s : State) (cls site row col : Nat) : Word32 :=
  prf32 (s.seed cls) (BitVec.ofNat 32 (cls * 2 ^ 28 + site)) (BitVec.ofNat 32 row) (BitVec.ofNat 32 col)

/-! ## Codes in bytes (R37, R38) -/

/-- Element `k` of packed value bytes. -/
def codeAt (f : Nat) (r : Rec) (k : Nat) : Nat :=
  if f = 0 then (if k % 2 = 0 then le r (k / 2) 1 % 16 else le r (k / 2) 1 / 16)
  else le r (k * (fmtBits f / 8)) (fmtBits f / 8)

/-- Bytes of `n` elements. -/
def valueBytes (f n : Nat) : Nat := (n * fmtBits f + 7) / 8

/-- Pack element codes; for I4 the last byte of an odd count keeps `old`'s high nibble. -/
def packCodes (f : Nat) (old : Rec) (codes : List Nat) : Rec :=
  if f = 0 then (List.range ((codes.length + 1) / 2)).map fun i =>
    let hi := if 2 * i + 1 < codes.length then codes.getD (2 * i + 1) 0 else le old i 1 / 16
    BitVec.ofNat 8 (codes.getD (2 * i) 0 % 16 + 16 * hi)
  else codes.flatMap fun c => toLe (fmtBits f / 8) c

/-- Operands from codes under a scale byte, or unscaled (R40, R41); an I32 element is vug when its mask bit is set
(R39). -/
def opdsOf (f : Nat) (scale : Option Byte) (mask : Nat) (codes : List Nat) : List Opd :=
  let e := match scale with | some b => scaleExp b | none => some 0
  codes.mapIdx fun i c => match e with
    | none => { man := none, exp := 0 }
    | some e => { man := if f = 3 ∧ bit mask i then none else mantissa f c, exp := e }

/-! ## Where a block stands -/

/-- Address of the first value byte of block `b` of row `m`. -/
def Ref.valueAt (r : Ref) (f m b : Nat) : Nat := (r.base + (m : Int) * r.rowStride + (b * 8 * fmtBits f : Nat)).toNat

/-- Address of a block's scale byte in row form. -/
def Ref.scaleAt (r : Ref) (m b : Nat) : Nat := (r.scaleBase + (m : Int) * r.scaleStride + (b : Int)).toNat

/-- Address of the mask word that goes with a scale address. -/
def Ref.maskAt (r : Ref) (sc : Nat) : Nat := (r.maskBase + 8 * ((sc : Int) - r.scaleBase)).toNat

/-- Read `n` elements of block `b` of row `m` in row form: the operands, or the bank whose word is uncorrectable. -/
def State.readBlock (s : State) (c : Nat) (r : Ref) (f m b n : Nat) : Except BankErr (List Opd × State) := do
  let (v, s) ← s.scrRead c (r.valueAt f m b) (valueBytes f n)
  let (sc, s) ← if r.unscaled then .ok ([0], s) else s.scrRead c (r.scaleAt m b) 1
  let (mb, s) ← if f = 3 then s.scrRead c (r.maskAt (r.scaleAt m b)) 8 else .ok ([], s)
  .ok (opdsOf f (if r.unscaled then none else some (sc.getD 0 0)) (ofLe mb) ((List.range n).map (codeAt f v)), s)

/-- Address of element `m` in column form. -/
def Ref.colAt (r : Ref) (m : Nat) : Nat := (r.base + (m : Int) * r.rowStride).toNat

/-- Address of the scale byte of element `m` in column form. -/
def Ref.colScaleAt (r : Ref) (m : Nat) : Nat := (r.scaleBase + ((m / 64 : Nat) : Int) * r.scaleStride).toNat

/-- Read element `m` in column form. -/
def State.readCol (s : State) (c : Nat) (r : Ref) (f m : Nat) : Except BankErr (Opd × State) := do
  let (v, s) ← s.scrRead c (r.colAt m) (valueBytes f 1)
  let (sc, s) ← if r.unscaled then .ok ([0], s) else s.scrRead c (r.colScaleAt m) 1
  let (mb, s) ← if f = 3 then s.scrRead c (r.maskAt (r.colScaleAt m)) 8 else .ok ([], s)
  let mask := if bit (ofLe mb) (m % 64) then 1 else 0
  .ok ((opdsOf f (if r.unscaled then none else some (sc.getD 0 0)) mask [codeAt f v 0]).getD 0 ⟨none, 0⟩, s)

/-- A mask word with the bits of `n` present elements from bit `lo` replaced. -/
def maskWith (old lo n new : Nat) : Nat := old % 2 ^ lo + new % 2 ^ n * 2 ^ lo + old / 2 ^ (lo + n) * 2 ^ (lo + n)

/-- Write packed values at an address: an I4 byte that keeps its high nibble is read first, corrected (R99). -/
def State.writeCodes (s : State) (c f a : Nat) (codes : List Nat) : Except BankErr (Rec × State) := do
  let n := valueBytes f codes.length
  let (old, s) ← if f = 0 ∧ codes.length % 2 = 1 then s.scrRead c (a + n - 1) 1 else .ok ([], s)
  let v := packCodes f (zeros (n - 1) ++ old) codes
  let s ← s.scrWrite c a v
  .ok (v, s)

/-- Write the first `n` bits of a mask word, the others kept as a read delivers them; an operand of another format than I32 has none. -/
def State.writeMask (s : State) (c f a n new : Nat) : Except BankErr (Rec × State) :=
  if f ≠ 3 then .ok ([], s)
  else do
    let (old, s) ← if n < 64 then s.scrRead c a 8 else .ok ([], s)
    let w := toLe 8 (maskWith (ofLe old) 0 n new)
    let s ← s.scrWrite c a w
    .ok (w, s)

/-- Store a block in row form (R46, R115): value bits of the present elements, the scale byte unless unscaled, the mask
bits for I32. The stored bytes come back in the order a tile digest takes them (R233). -/
def State.writeBlock (s : State) (c : Nat) (r : Ref) (f m b : Nat) (st : Stored) : Except BankErr (Rec × State) := do
  let (v, s) ← s.writeCodes c f (r.valueAt f m b) (st.elems.map (elemCode f))
  let s ← if r.unscaled then .ok s else s.scrWrite c (r.scaleAt m b) [st.scale]
  let (mw, s) ← s.writeMask c f (r.maskAt (r.scaleAt m b)) st.elems.length (maskOf st.elems)
  .ok (v ++ (if r.unscaled then [] else [st.scale]) ++ mw, s)

/-- Store a block of rows `64 t …` in column form (R107, R121). -/
def State.writeColBlock (s : State) (c : Nat) (r : Ref) (f t : Nat) (st : Stored) : Except BankErr (Rec × State) := do
  let n := st.elems.length
  let go := fun (acc : Except BankErr (Rec × State)) (i : Nat) => do
    let (out, s) ← acc
    let (v, s) ← s.writeCodes c f (r.colAt (64 * t + i)) [elemCode f (st.elems.getD i none)]
    .ok (out ++ v, s)
  let (vals, s) ← (List.range n).foldl go (.ok ([], s))
  let sa := r.colScaleAt (64 * t)
  let s ← if r.unscaled then .ok s else s.scrWrite c sa [st.scale]
  let (mw, s) ← s.writeMask c f (r.maskAt sa) n (maskOf st.elems)
  .ok (vals ++ (if r.unscaled then [] else [st.scale]) ++ mw, s)

/-! ## Byte spans (R103) -/

/-- The interval of `rows` rows of `len` bytes from `base` at a stride. -/
def spanOf (base stride : Int) (rows len : Nat) : Iv :=
  let last := base + ((rows - 1 : Nat) : Int) * stride
  { lo := (min base last).toNat, hi := (max base last + (len : Int) - 1).toNat }

/-- The intervals a row-form reference touches: values, scale bytes, mask words. -/
def Ref.spans (r : Ref) (f rows elems : Nat) : List Iv :=
  if r.stream.isSome ∨ rows = 0 ∨ elems = 0 then []
  else
    let blocks := (elems + 63) / 64
    let sc := spanOf r.scaleBase r.scaleStride rows blocks
    [spanOf r.base r.rowStride rows (valueBytes f elems)] ++ (if r.unscaled then [] else [sc]) ++
    (if f = 3 then [{ lo := r.maskAt sc.lo, hi := r.maskAt sc.hi + 7 }] else [])

/-- The intervals a column-form reference touches. -/
def Ref.colSpans (r : Ref) (f rows : Nat) : List Iv :=
  if r.stream.isSome ∨ rows = 0 then []
  else
    let sc := spanOf r.scaleBase r.scaleStride ((rows + 63) / 64) 1
    [spanOf r.base r.rowStride rows (valueBytes f 1)] ++ (if r.unscaled then [] else [sc]) ++
    (if f = 3 then [{ lo := r.maskAt sc.lo, hi := r.maskAt sc.hi + 7 }] else [])

/-- The bytes of `rows` rows of `len` bytes at a stride, row by row. -/
def rowIvs (base stride : Int) (rows len : Nat) : List Iv :=
  (List.range rows).map fun (m : Nat) => { lo := (base + (m : Int) * stride).toNat, hi := (base + (m : Int) * stride + (len : Int) - 1).toNat }

/-- The bytes themselves that a row-form reference touches (R93, R94, R139), where `Ref.spans` gives their bounding intervals. -/
def Ref.touched (r : Ref) (f rows elems : Nat) : List Iv :=
  if r.stream.isSome ∨ rows = 0 ∨ elems = 0 then []
  else
    let blocks := (elems + 63) / 64
    rowIvs r.base r.rowStride rows (valueBytes f elems) ++
    (if r.unscaled then [] else rowIvs r.scaleBase r.scaleStride rows blocks) ++
    (if f = 3 then (List.range rows).map fun m => { lo := r.maskAt (r.scaleAt m 0), hi := r.maskAt (r.scaleAt m 0) + 8 * blocks - 1 } else [])

/-- The bytes themselves that a column-form reference touches. -/
def Ref.colTouched (r : Ref) (f rows : Nat) : List Iv :=
  if r.stream.isSome ∨ rows = 0 then []
  else
    let blocks := (rows + 63) / 64
    rowIvs r.base r.rowStride rows (valueBytes f 1) ++
    (if r.unscaled then [] else rowIvs r.scaleBase r.scaleStride blocks 1) ++
    (if f = 3 then (List.range blocks).map fun t => { lo := r.maskAt (r.colScaleAt (64 * t)), hi := r.maskAt (r.colScaleAt (64 * t)) + 7 } else [])

/-- Whether two intervals share a byte. -/
def Iv.meets (a b : Iv) : Bool := decide (a.lo ≤ b.hi) && decide (b.lo ≤ a.hi)

/-- Whether some interval of one list meets one of the other. (log 46: DEDUCED) -/
def ivsMeet (xs ys : List Iv) : Bool := xs.any fun a => ys.any a.meets

/-- Whether an interval touches a bank: consecutive lines lie in consecutive banks (R98). -/
def Iv.usesBank (i : Iv) (b : Nat) : Bool :=
  decide (i.hi / 64 - i.lo / 64 ≥ 127) || decide (b ∈ (List.range (i.hi / 64 - i.lo / 64 + 1)).map fun k => (i.lo / 64 + k) % 128)

end Sys2Proof.Machine
end

