-- ==== Sys2Proof/Machine/Sequencer.lean ====
section
/-! DEFINITION. The sequencer of a core (R102 to R112), token queues (R122 to R128) and the scree list (R129 to R135): what
issuing, holding and completing mean, and the meanings of the control instructions. -/

namespace Sys2Proof.Machine

/-! ## Core faults (R138, R139) -/

/-- Record a core-unit fault: the first since the fault bit was clear keeps its cause fields. It is reported against the
core. -/
def State.coreFault (s : State) (c unit code bank idx sub : Nat) : State :=
  let r := Reg.coreFault c
  let s := if (s.reg r).getLsbD 63 then s.setBit r 62
    else ((((s.setBit r 63).setField r 59 56 unit).setField r 55 48 code).setField r 47 41 bank).setField r 14 0 idx
  s.report 7 c sub code

/-! ## Instruction words (Table 4.4) -/

/-- The opcode. -/
def wOp (w : Word64) : Nat := fieldOf w 63 58
/-- The index select. -/
def wX (w : Word64) : Nat := fieldOf w 57 54
/-- The argument index. -/
def wArg (w : Word64) : Nat := fieldOf w 53 38

/-- An index register; index 0 reads 0 (R104). -/
def Core.ix (k : Core) (x : Nat) : Word32 := if x = 0 then 0 else k.idx.getD x 0

/-- Write an index register; index 0 keeps 0. -/
def Core.setIx (k : Core) (x : Nat) (v : Word32) : Core := if x = 0 then k else { k with idx := k.idx.set x v }

/-- The word a core's sequencer stands at. -/
def State.wordAt (s : State) (c : Nat) : Option Word64 :=
  (s.plan?.bind fun p => Tab.find? p.programs c).bind fun ws => ws[(s.core c).pc]?

/-- Whether a core may issue: the device is RUNNING, no switch holds the context at its boundaries, though a fill task part-way
through issue goes on to its end (R109), and the core runs its main program or a fill task and has not issued step end. -/
def State.issuing (s : State) (c : Nat) : Bool :=
  let k := s.core c
  s.flint.state == .running && (!s.holding || k.fill.isSome) && (k.state == 1 || k.state == 2) && !k.ended

/-- Read a 16-byte word of a core's program store: none when it is uncorrectable; a single error is corrected in place and counted
(Table 4.14). (log 148: DEDUCED) -/
def State.readProgram (s : State) (c w : Nat) : Option State :=
  let p := (s.core c).progFlips.get w
  if p = 0 then some s
  else (settle p).map fun _ => (s.modCore c fun k => { k with progFlips := k.progFlips.set w 0 }).bump (.coreFault c) 40 29 1

/-- The same for the function table store (R119). -/
def State.readTable (s : State) (c w : Nat) : Option State :=
  let p := (s.core c).tableFlips.get w
  if p = 0 then some s
  else (settle p).map fun _ => (s.modCore c fun k => { k with tableFlips := k.tableFlips.set w 0 }).bump (.coreFault c) 40 29 1

/-- The sequencer stops with a fault of its own. -/
def State.stopCore (s : State) (c code bank : Nat) : State :=
  (s.modCore c fun k => { k with hold := 8, state := 3 }).coreFault c 0 code bank (s.core c).pc 0

/-- Run `f` on the word a core stands at, when the core may issue, holds for one of `holds` only, and the word has this
opcode. A word of the program store that is uncorrectable is core fault 0x12. -/
def State.issue (s : State) (c op : Nat) (holds : List Nat) (f : State → Word64 → State) : State :=
  match s.wordAt c with
  | some w =>
    if s.issuing c && holds.contains (s.core c).hold && wOp w == op then
      match (s.stir (coreDie c)).readProgram c ((s.core c).pc / 2) with
      | some s => f s w
      | none => (s.stir (coreDie c)).stopCore c 0x12 0
    else s
  | none => s

/-- Where executions of an instruction are counted: by index in the main program, apart within a run of a fill task. -/
def Core.execKey (k : Core) : Nat := k.pc + match k.fill with | some f => 65536 * (f.entry + 1) | none => 0

/-- Go on to the next instruction, counting this execution (Table 7.12). -/
def Core.advance (k : Core) : Core :=
  { k with pc := k.pc + 1, hold := 0, execs := Tab.upd 0 k.execs k.execKey (· + 1) }

/-- The digest ordinal of the execution about to be made (Table 7.12). -/
def Core.ordinal (k : Core) : Nat :=
  let n := Tab.get 0 k.execs k.execKey
  match k.fill with
  | some f => (Tab.get 0 k.arms f.entry - 1) * 65536 + n
  | none => n

/-- Hold the sequencer for a reason (R137). The queue named is the main program's: a hold of a fill task leaves it. -/
def State.holdAt (s : State) (c reason qc q : Nat) : State :=
  s.modCore c fun k => { k with hold := reason, holdCore := if k.fill.isSome then k.holdCore else qc,
                                holdQueue := if k.fill.isSome then k.holdQueue else q }

/-- Why an instruction that reads, writes and owns these would be held at issue: 7 in-flight set full, 5 range interlock,
0 not held (R103). -/
def Core.held (k : Core) (reads writes : List Iv) : Nat :=
  if k.inflight.length ≥ 32 then 7
  else if k.inflight.any fun f => ivsMeet f.writes reads || ivsMeet f.writes writes || ivsMeet f.reads writes then 5 else 0

/-- Put an instruction in flight and go on. -/
def State.launch (s : State) (c : Nat) (w : Word64) (rec : Rec) (reads writes : List Iv) (engines : List Nat) (work : Work)
    (rerunnable : Bool) : State :=
  s.modCore c fun k =>
    let f : Flight := { id := k.nextId, pc := k.pc, word := w, record := rec, entry := (k.fill.map (·.entry)).getD 255,
                        ordinal := k.ordinal, reads := reads, writes := writes, engines := engines, work := work,
                        stopped := none, rerunnable := rerunnable, rerun := false, fed := false }
    { k.advance with inflight := k.inflight ++ [f], nextId := k.nextId + 1 }

/-- An instruction in flight, by its number. -/
def Core.flight? (k : Core) (id : Nat) : Option Flight := k.inflight.find? fun f => f.id = id

/-- Change an instruction in flight. -/
def State.modFlight (s : State) (c id : Nat) (f : Flight → Flight) : State :=
  s.modCore c fun k => { k with inflight := k.inflight.map fun x => if x.id = id then f x else x }

/-- Remove an instruction from flight. -/
def State.retireFlight (s : State) (c id : Nat) : State :=
  s.modCore c fun k => { k with inflight := k.inflight.filter fun x => x.id ≠ id }

/-! ## Loops and index registers (R104) -/

/-- LOOP: the index register takes 0 and the body begins. -/
def issueLoop (c : Nat) (s : State) (w : Word64) : State :=
  s.modCore c fun k =>
    let k' := (k.setIx (wX w) 0).advance
    { k' with loops := { body := k.pc + 1, reg := wX w, count := fieldOf w 31 0, done := 0 } :: k.loops }

/-- LOOP_END: add 1; repeat the body until it has run the stated count of times, and leave with the register holding the count. A body
that writes its loop register changes no number of iterations. (log 149: DEDUCED) -/
def issueLoopEnd (c : Nat) (s : State) (_w : Word64) : State :=
  s.modCore c fun k => match k.loops with
    | [] => k.advance
    | l :: rest =>
      if l.done + 1 < l.count then
        { (k.setIx l.reg (k.ix l.reg + 1)).advance with pc := l.body, loops := { l with done := l.done + 1 } :: rest }
      else { (k.setIx l.reg (BitVec.ofNat 32 l.count)).advance with loops := rest }

/-- SET_INDEX. -/
def issueSetIndex (c : Nat) (s : State) (w : Word64) : State :=
  s.modCore c fun k => (k.setIx (wX w) (BitVec.ofNat 32 (fieldOf w 31 0))).advance

/-- ADD_INDEX: modulo 2^32. -/
def issueAddIndex (c : Nat) (s : State) (w : Word64) : State :=
  s.modCore c fun k => (k.setIx (wX w) (k.ix (wX w) + BitVec.ofNat 32 (fieldOf w 31 0))).advance

/-- FENCE: held until the in-flight set is empty (R111). -/
def issueFence (c : Nat) (s : State) (_w : Word64) : State :=
  if (s.core c).inflight.isEmpty then s.modCore c Core.advance else s.holdAt c 4 0 0

/-- STEP_END: fences, then the core counts as having issued it; it stays held until the step ends (R102, R145). -/
def issueStepEnd (c : Nat) (s : State) (_w : Word64) : State :=
  if (s.core c).inflight.isEmpty then (s.holdAt c 4 0 0).modCore c fun k => { k with ended := true } else s.holdAt c 4 0 0

/-! ## Tokens (R122 to R125) -/

/-- Tokens of a queue set. -/
def State.setQueue (s : State) (c q n : Nat) : State := s.modCore c fun k => { k with queues := Tab.set k.queues q n }

/-- A wait of n tokens, if the queue holds them. -/
def State.waitTokens (s : State) (c q n : Nat) : Option State :=
  if s.queueCount c q ≥ n then some (s.setQueue c q (s.queueCount c q - n)) else none

/-- A signal of n tokens, if the whole n fits; it wakes the die of the queue (R33). -/
def State.signalTokens (s : State) (c q n : Nat) : Option State :=
  if s.queueCount c q + n ≤ s.queueDepth c q then some ((s.stir (coreDie c)).setQueue c q (s.queueCount c q + n)) else none

/-- The wait that a word names: its queue and count. -/
def waitOf (w : Word64) : Nat × Nat := (fieldOf w 37 32, fieldOf w 31 24)

/-- The signal that a word names: core, queue, count. -/
def signalOf (w : Word64) : Nat × Nat × Nat := (fieldOf w 37 31, fieldOf w 30 25, fieldOf w 24 17)

/-- WAIT_TOKEN: take the tokens and go on, or hold. -/
def issueWait (c : Nat) (s : State) (w : Word64) : State :=
  match s.waitTokens c (waitOf w).1 (waitOf w).2 with
  | some s => s.modCore c Core.advance
  | none => s.holdAt c 1 c (waitOf w).1

/-- SIGNAL_TOKEN: add the tokens and go on, or hold. -/
def issueSignal (c : Nat) (s : State) (w : Word64) : State :=
  match s.signalTokens (signalOf w).1 (signalOf w).2.1 (signalOf w).2.2 with
  | some s => s.modCore c Core.advance
  | none => s.holdAt c 2 (signalOf w).1 (signalOf w).2.1

/-! ## The scree list (R129 to R132) -/

/-- A scree-list entry word of the plan (Table 4.10). -/
def State.screeEntry (s : State) (c i : Nat) : Nat :=
  match s.plan?.bind fun p => Tab.find? p.decls c with | some d => le d (144 + 4 * i) 4 | none => 0

/-- FILL_ARM: arm the entries named, each with a copy of the index registers and of the drain settings in force: R134 has a task's settings
not depend on where it falls in the main program. (log 182: DEDUCED) -/
def issueFillArm (c : Nat) (s : State) (w : Word64) : State :=
  s.modCore c fun k =>
    let k' := (List.range (fieldOf w 30 24 + 1)).foldl (fun (k : Core) i =>
      let e := fieldOf w 37 31 + i
      { k with scree := Tab.set k.scree e 1, screeIdx := Tab.set k.screeIdx e k.idx, screeDrains := Tab.set k.screeDrains e k.drains, arms := Tab.upd 0 k.arms e (· + 1) }) k
    k'.advance

/-- Entries of the groups a join names. -/
def State.joined (s : State) (c : Nat) (w : Word64) : List Nat :=
  (List.range 128).filter fun i => bit w.toNat (22 + bits (s.screeEntry c i) 24 21)

/-- FILL_JOIN: when every armed or running entry of the groups is done, the done ones return to empty; else hold. -/
def issueFillJoin (c : Nat) (s : State) (w : Word64) : State :=
  let es := s.joined c w
  let st := fun i => Tab.get 0 (s.core c).scree i
  if es.any fun i => st i == 1 || st i == 2 then s.holdAt c 3 0 0
  else s.modCore c fun k => { k.advance with scree := k.scree.map fun e => if es.contains e.1 && e.2 == 3 then (e.1, 0) else e }

/-- Whether an instruction of a fill task stands stopped by a fault or is being re-run (R135). -/
def Core.taskStopped (k : Core) (entry : Nat) : Bool := k.inflight.any fun f => f.entry == entry && (f.stopped.isSome || f.rerun)

/-- A fault stops an instruction in flight; the entry of a task that had issued its fill-end is running again, until recovery has re-run the
instruction (R135). -/
def State.stopFlight (s : State) (c id code : Nat) : State :=
  s.modCore c fun k =>
    let back := k.inflight.filterMap fun x => if x.id = id then some x.entry else none
    { k with inflight := k.inflight.map fun x => if x.id = id then { x with stopped := some code } else x,
             scree := k.scree.map fun e => if back.contains e.1 && e.2 == 3 then (e.1, 2) else e }

/-- FILL_END: the main program's registers and settings return and the entry is done, unless a fault stopped an
instruction of the task: then it stays running until recovery (R132, R135). -/
def issueFillEnd (c : Nat) (s : State) (_w : Word64) : State :=
  s.modCore c fun k => match k.fill with
    | none => k
    | some f =>
      { k with state := 1, pc := f.pc, idx := f.idx, loops := f.loops, drains := f.drains, preloads := f.preloads, hold := f.hold,
               fill := none, scree := Tab.set k.scree f.entry (if k.taskStopped f.entry then 2 else 3) }

/-- The lowest ready entry: armed, and its ready queue disabled or holding a token (R130). -/
def State.readyEntry (s : State) (c : Nat) : Option Nat :=
  (List.range 128).find? fun i =>
    Tab.get 0 (s.core c).scree i == 1 &&
    (!bit (s.screeEntry c i) 31 || decide (s.queueCount c (bits (s.screeEntry c i) 30 25) ≥ 1))

/-- Start a fill task (R131): consume its token, keep the main program's state aside, take the copies made at the arm. (log 182: DEDUCED) -/
def State.startFill (s : State) (c i : Nat) : State :=
  let e := s.screeEntry c i
  let s := if bit e 31 then s.setQueue c (bits e 30 25) (s.queueCount c (bits e 30 25) - 1) else s
  s.modCore c fun k =>
    { k with fill := some { entry := i, pc := k.pc, idx := k.idx, loops := k.loops, drains := k.drains, preloads := k.preloads, hold := k.hold },
             state := 2, pc := bits e 14 0, idx := Tab.get k.idx k.screeIdx i, loops := [], drains := Tab.get [] k.screeDrains i, preloads := [], hold := 0,
             execs := k.execs.filter fun x => x.1 / 65536 ≠ i + 1, scree := Tab.set k.scree i 2 }

/-! ## Meanings -/

/-- LOOP (R104). -/
def execLoop (core : Nat) (s : State) : Host.Outcome State Fault Refusal := .next (s.issue core 0x18 [0] (issueLoop core))

/-- LOOP_END (R104). -/
def execLoopEnd (core : Nat) (s : State) : Host.Outcome State Fault Refusal := .next (s.issue core 0x19 [0] (issueLoopEnd core))

/-- SET_INDEX (R104). -/
def execSetIndex (core : Nat) (s : State) : Host.Outcome State Fault Refusal := .next (s.issue core 0x1A [0] (issueSetIndex core))

/-- ADD_INDEX (R104). -/
def execAddIndex (core : Nat) (s : State) : Host.Outcome State Fault Refusal := .next (s.issue core 0x1B [0] (issueAddIndex core))

/-- FENCE (R111): issued, or issued again while it holds. -/
def execFence (core : Nat) (s : State) : Host.Outcome State Fault Refusal := .next (s.issue core 0x1C [0, 4] (issueFence core))

/-- STEP_END (R102). -/
def execStepEnd (core : Nat) (s : State) : Host.Outcome State Fault Refusal := .next (s.issue core 0x1F [0, 4] (issueStepEnd core))

/-- WAIT_TOKEN (R123). -/
def execWaitToken (core : Nat) (s : State) : Host.Outcome State Fault Refusal := .next (s.issue core 0x10 [0] (issueWait core))

/-- SIGNAL_TOKEN (R123). -/
def execSignalToken (core : Nat) (s : State) : Host.Outcome State Fault Refusal := .next (s.issue core 0x11 [0] (issueSignal core))

/-- TOKEN_WAIT_GRANTED (R125): a held wait whose queue now holds its count completes; the main program only, when no fill
task is part-way through issue. -/
def execTokenWaitGranted (core : Nat) (s : State) : Host.Outcome State Fault Refusal :=
  .next (if (s.core core).fill.isNone then s.issue core 0x10 [1] (issueWait core) else s)

/-- TOKEN_SIGNAL_GRANTED (R125). -/
def execTokenSignalGranted (core : Nat) (s : State) : Host.Outcome State Fault Refusal :=
  .next (if (s.core core).fill.isNone then s.issue core 0x11 [2] (issueSignal core) else s)

/-- FILL_ARM (R130). -/
def execFillArm (core : Nat) (s : State) : Host.Outcome State Fault Refusal := .next (s.issue core 0x14 [0] (issueFillArm core))

/-- FILL_JOIN (R130): issued, or completed once its entries are done. -/
def execFillJoin (core : Nat) (s : State) : Host.Outcome State Fault Refusal := .next (s.issue core 0x15 [0, 3] (issueFillJoin core))

/-- FILL_END (R132). -/
def execFillEnd (core : Nat) (s : State) : Host.Outcome State Fault Refusal := .next (s.issue core 0x16 [0] (issueFillEnd core))

/-- FILL_TASK_START (R131): the main program is held at a wait, a signal or a join, and some entry is ready. -/
def execFillTaskStart (core : Nat) (s : State) : Host.Outcome State Fault Refusal :=
  .next (
    let k := s.core core
    if s.issuing core && !s.holding && k.state == 1 && (k.hold == 1 || k.hold == 2 || k.hold == 3) then
      match s.readyEntry core with
      | some i => s.startFill core i
      | none => s
    else s)

/-- HOLD_LIMIT_EXPIRY (R128): the main program, held beyond the hold limit, raises fault 0x13 and stops. (log 5: DESIGN CHOICE) -/
def execHoldLimitExpiry (core : Nat) (s : State) : Host.Outcome State Fault Refusal :=
  .next (
    let k := s.core core
    let hold := (k.fill.map (·.hold)).getD k.hold
    if s.flint.state == .running && (k.state == 1 || k.state == 2) && hold != 0 && hold != 8 then
      (s.modCore core fun k => { k with state := 3, hold := 8 }).coreFault core 0 0x13 0 ((k.fill.map (·.pc)).getD k.pc) 0
    else s)

end Sys2Proof.Machine
end

