-- ==== Sys2Proof/Machine/Engines.lean ====
section
/-! DEFINITION. Matrix engines and seams (R66 to R97): weight loads, preloads, drains, passes, beats, tile status, the faults
of Table 3.7 and the hand-over to a spare site; the stream fault (R172), which stops what uses the stream. -/

namespace Sys2Proof.Machine

/-! ## Units -/

/-- The unit a seam field names (Table 4.6). -/
def seamOf (v : Nat) : Seam :=
  if bit v 9 then { row := bits v 7 6, col := bits v 5 4, r := bits v 3 2, c := 2 ^ bits v 1 0 }
  else { row := bits v 3 0 / 4, col := bits v 3 0 % 4, r := 1, c := 1 }

/-- The seam field of a matrix instruction. -/
def wSeam (w : Word64) : Nat := fieldOf w 37 28

/-- Logical engine (i, j) of a unit. -/
def Seam.engine (u : Seam) (i j : Nat) : Nat := 4 * (u.row + i) + u.col + j

/-- The logical engines of a unit. -/
def Seam.engines (u : Seam) : List Nat := (List.range u.r).flatMap fun i => (List.range u.c).map (u.engine i)

/-- An engine's plane. -/
def Core.plane (k : Core) (e p : Nat) : Plane := Tab.get Plane.init k.planes (2 * e + p)

/-- Change one plane of some engines. -/
def State.modPlanes (s : State) (c : Nat) (es : List Nat) (p : Nat) (f : Plane → Plane) : State :=
  s.modCore c fun k => { k with planes := es.foldl (fun t e => Tab.upd Plane.init t (2 * e + p) f) k.planes }

/-- Set one of the per-engine fields of the matrix status register for some engines (Table 3.5). -/
def State.engineBits (s : State) (c lo : Nat) (es : List Nat) : State := es.foldl (fun s e => s.setBit (.matrixStatus c) (lo + e)) s

/-! ## The shape of a pass -/

/-- Blocks of 64 along the reduction (R70). -/
def Pass.depth (p : Pass) : Nat := if p.transposed then p.unit.c else p.unit.r
/-- Output blocks B. -/
def Pass.blocks (p : Pass) : Nat := if p.transposed then p.unit.r else p.unit.c
/-- The accumulation format, which the drain stores (R59). -/
def Pass.accFmt (p : Pass) : Nat := if p.acc16 then 2 else 3
/-- Tile status base. -/
def Pass.tsBase (p : Pass) : Nat := bits (le p.drain 32 4) 24 0
/-- The drain's destination: 0 scratchpad, 1 accumulate-pass, 2 stream. -/
def Pass.dest (p : Pass) : Nat := bits (le p.drain 36 4) 31 30
/-- The destination reference. -/
def Pass.dst (p : Pass) : Ref := refAt p.drain 0
/-- Tile rows ⌈N/64⌉. -/
def Pass.tileRows (p : Pass) : Nat := (p.rows + 63) / 64

/-- What a pass reads and writes, `of` giving what one of its references touches. -/
def Pass.bytes (of : Ref → Nat → Nat → Nat → List Iv) (p : Pass) : List Iv × List Iv :=
  let width := 64 * p.blocks
  let d := p.dst
  let mask := if p.maskKind = 1 then [({ lo := p.maskOp, hi := p.maskOp + (p.rows + 7) / 8 - 1 } : Iv)] else []
  let pre := match p.preload with
    | some (k, r) => of (refAt r 0) p.accFmt (if k = 0 then 1 else p.rows) width
    | none => []
  let out := of d p.accFmt p.rows width
  let ts : Iv := { lo := p.tsBase, hi := p.tsBase + 8 * (p.tileRows * p.blocks) - 1 }
  let sum := if p.dest = 1 ∧ !bit (le p.drain 36 4) 26 then out else []
  (of (refOf p.feeder) p.fmt p.rows (64 * p.depth) ++ mask ++ pre ++ sum, ts :: (if p.dest = 2 then [] else out))

/-- The intervals a pass reads and writes (R103). -/
def Pass.spans (p : Pass) : List Iv × List Iv := p.bytes Ref.spans

/-- The bytes themselves that a pass reads and writes (R93, R94). -/
def Pass.touched (p : Pass) : List Iv × List Iv := p.bytes Ref.touched

/-- What a weight load reads (Table 3.1), `of` giving what rows at a stride touch. -/
def loadBytes (of : Int → Int → Nat → Nat → List Iv) (u : Seam) (f : Nat) (rec : Rec) : List Iv :=
  let r := refAt rec 0
  if r.stream.isSome then []
  else
    (List.range u.r).flatMap fun (i : Nat) => (List.range u.c).flatMap fun (j : Nat) =>
      let base := r.base + (i : Int) * sgn 32 (le rec 24 4) + (j : Int) * sgn 32 (le rec 28 4)
      let bpc := le rec 32 4
      of base r.rowStride 64 (valueBytes f 64) ++
        (if r.unscaled then [] else of (r.scaleBase + (64 * j * bpc : Nat) + (i : Nat)) bpc 64 1)

/-- The intervals a weight load reads (R103). -/
def loadSpans (u : Seam) (f : Nat) (rec : Rec) : List Iv := loadBytes (fun b st n len => [spanOf b st n len]) u f rec

/-- The bytes themselves that a weight load reads. -/
def loadTouched (u : Seam) (f : Nat) (rec : Rec) : List Iv := loadBytes rowIvs u f rec

/-- Whether a vector operation takes C. -/
def takesC (op : Nat) : Bool := op == 0x04 || op == 0x0A

/-- What a vector, function or row-reduction instruction reads and writes, `of` and `col` giving what a reference touches in row
and in column form. -/
def unitBytes (of : Ref → Nat → Nat → Nat → List Iv) (col : Ref → Nat → Nat → List Iv) (w : Word64) (rec : Rec) : List Iv × List Iv :=
  let m := le rec 96 4
  let e := le rec 100 4
  let d := refAt rec 72
  let a := of (refAt rec 0) (fieldOf w 31 30) m e
  let fd := fieldOf w 25 24
  if wOp w = 0x08 then
    let fb := fieldOf w 29 28
    let b := if fieldOf w 23 22 = 0 then of (refAt rec 24) fb m e else if fieldOf w 23 22 = 1 then col (refAt rec 24) fb m else []
    let c := if takesC (fieldOf w 37 32) then of (refAt rec 48) (fieldOf w 27 26) m e else []
    (a ++ b ++ c, of d fd m e)
  else if wOp w = 0x09 then
    (a ++ (if fieldOf w 27 27 = 1 then of (refAt rec 24) (fieldOf w 29 28) m e else []), of d fd m e)
  else (a ++ (if fieldOf w 37 35 = 2 then of (refAt rec 24) (fieldOf w 29 28) m e else []), col d fd m)

/-- The intervals such an instruction reads and writes (R103). -/
def unitSpans (w : Word64) (rec : Rec) : List Iv × List Iv := unitBytes Ref.spans Ref.colSpans w rec

/-- The bytes themselves that it reads and writes (R139). -/
def unitTouched (w : Word64) (rec : Rec) : List Iv × List Iv := unitBytes Ref.touched Ref.colTouched w rec

/-- The bytes that the weight loads behind a pass's planes read (R93, R94). -/
def State.sourceTouched (s : State) (c : Nat) (p : Pass) : List Iv :=
  p.unit.engines.flatMap fun e => match ((s.core c).plane e p.plane).source with
    | some (f, u, rec) => loadTouched u f rec
    | none => []

/-- The bytes an instruction in flight uses: what it reads and writes, and for a pass its weight-load source (R93). -/
def State.flightBytes (s : State) (c : Nat) (f : Flight) : List Iv :=
  match f.work with
  | .pass p => p.touched.1 ++ p.touched.2 ++ s.sourceTouched c p
  | .load l => loadTouched l.unit l.fmt l.source
  | .unit _ => (unitTouched f.word f.record).1 ++ (unitTouched f.word f.record).2

/-- Whether an instruction in flight uses a bank (R93). -/
def State.flightUses (s : State) (c : Nat) (f : Flight) (b : Nat) : Bool := (s.flightBytes c f).any (·.usesBank b)

/-! ## Stopping -/

/-- The engines of a stopped unit show the fault and its code (R92). -/
def State.markEngines (s : State) (c code : Nat) (es : List Nat) : State :=
  es.foldl (fun s e => s.setField (.engineStatus c e) 39 32 code) (s.engineBits c 48 es)

/-- Write one tile status entry. -/
def State.writeEntry (s : State) (c : Nat) (p : Pass) (t b : Nat) (v : Word64) : Except BankErr State :=
  s.scrWrite c (p.tsBase + 8 * (t * p.blocks + b)) (toLe 8 v.toNat)

/-- A tile status entry (Table 3.4). -/
def tileEntry (incomplete : Bool) (t b sats vugs : Nat) : Word64 :=
  BitVec.ofNat 64 (incomplete.toNat * 2 ^ 63 + (decide (vugs ≠ 0)).toNat * 2 ^ 62 + (decide (sats ≠ 0)).toNat * 2 ^ 61 +
    min vugs 8191 * 2 ^ 48 + min sats 8191 * 2 ^ 35 + b * 2 ^ 32 + t % 2 ^ 26)

/-- A weight load ends with a pass that stops on its engines: the planes it was writing become invalid (R92). -/
def State.dropLoad (s : State) (c id : Nat) (l : Load) : State :=
  (s.modPlanes c l.unit.engines l.plane fun p => { p with state := 3 }).retireFlight c id

/-- A fault stops a weight load with no pass on its engines (R93, R168): the planes it was writing become invalid, its engines show the
fault, and it stands stopped, so that no further matrix instruction naming them is issued. -/
def State.stopLoad (s : State) (c id : Nat) (l : Load) (code : Nat) : State :=
  ((s.modPlanes c l.unit.engines l.plane fun p => { p with state := 3 }).stopFlight c id code).markEngines c code l.unit.engines

/-- Report an uncorrectable error in a bank that stopped passes or a weight load (R93): one report names the bank and every
stopped unit descriptor, `units` being the seam fields. -/
def State.reportBank (s : State) (c sub b : Nat) (units : List Nat) : State :=
  s.modFlint fun f => { f with reports := f.reports ++ [{ kind := 8, unit := c, sub := sub, code := 0x03, bank := some b, units := units }] }

/-- Write the entries that a pass stopping at this handshake boundary owes (R87, R88, R94): of the tile being drained and of every tile
after it, with the incomplete bit, a tile not begun with counts of 0. The banks that fail under an entry, each with this pass as the
instruction that met it, come back. An incomplete tile sets no saturation-seen or vug-seen bit: Table 3.5 sets them for a tile drained.
(log 71: DEDUCED; log 183: DESIGN CHOICE) -/
def State.oweEntries (s : State) (c : Nat) (fl : Flight) (p : Pass) : State × List (Nat × Option Nat) :=
  let first := p.next / 64
  let owed := (List.range (p.tileRows - first)).flatMap fun i => (List.range p.blocks).map fun b => (first + i, b)
  if p.next < p.rows then
    owed.foldl (fun (x : State × List (Nat × Option Nat)) tb =>
      let n := if tb.1 = first then p.counts.getD tb.2 (0, 0) else (0, 0)
      match x.1.writeEntry c p tb.1 tb.2 (tileEntry true tb.1 tb.2 n.1 n.2) with
      | .ok s => (s, x.2)
      | .error e => (e.s, if x.2.contains (e.bank, some fl.id) then x.2 else x.2 ++ [(e.bank, some fl.id)])) (s, [])
  else (s, [])

/-- Stop a pass at this handshake boundary (R92, R94): it writes the entries it owes, weight loads into its engines stop, and its engines
show the fault. The banks that fail under an entry come back. -/
def State.haltPass (s : State) (c : Nat) (fl : Flight) (p : Pass) (code : Nat) : State × List (Nat × Option Nat) :=
  let (s, bad) := s.oweEntries c fl p
  let es := p.unit.engines
  let s := (s.core c).inflight.foldl (fun s g => match g.work with
    | .load l => if l.unit.engines.any es.contains then s.dropLoad c g.id l else s
    | _ => s) s
  ((s.stopFlight c fl.id code).markEngines c code es, bad)

/-- Whether an instruction in flight stands under a bank's one report (R93): a pass or a weight load. -/
def Flight.seamed (f : Flight) : Bool := match f.work with | .unit _ => false | _ => true

/-- One instruction that uses a failed bank stops (R93, R99); the further banks that fail under its entries come back with `x`'s. -/
def State.stopUser (c b : Nat) (x : State × List (Nat × Option Nat)) (f : Flight) : State × List (Nat × Option Nat) :=
  match f.work with
  | .pass p =>
    let (s, bad) := x.1.haltPass c f p 0x03
    (s, x.2 ++ bad.filter fun e => e.1 ≠ b)
  | .load l => (if ((x.1.core c).flight? f.id).isSome then x.1.stopLoad c f.id l 0x03 else x.1, x.2)
  | .unit op => ((x.1.stopFlight c f.id 0x14).coreFault c (if op = 0x08 then 1 else if op = 0x09 then 2 else 3) 0x14 b f.pc f.id, x.2)

/-- An uncorrectable error in one bank (R93, R99): passes that use it stop with 0x03 under one report, a weight load with
no pass on its engines likewise, every other instruction that uses it with core fault 0x14. `culprit` is the instruction whose
access met the word; it is not re-runnable, for the word it reads is destroyed (R428), and stands under the report also when it has
stopped already. The further banks that fail under the entries of the passes stopped come back. (log 72: DEDUCED) -/
def State.bankHit (s : State) (c b : Nat) (culprit : Option Nat) : State × List (Nat × Option Nat) :=
  let s := match culprit with | some id => s.modFlight c id fun f => { f with rerunnable := false } | none => s
  let hit := (s.core c).inflight.filter fun f => f.stopped.isNone && (s.flightUses c f b || culprit == some f.id)
  let met := (s.core c).inflight.filter fun f => f.stopped.isSome && culprit == some f.id
  let (s, bad) := hit.foldl (State.stopUser c b) (s, [])
  match (met ++ hit).filter Flight.seamed with
  | f :: fs => (s.reportBank c (((f :: fs).find? fun g => culprit == some g.id).getD f).id b ((f :: fs).map fun g => wSeam g.word).eraseDups, bad)
  | [] => (s, bad)

/-- Uncorrectable errors in banks, one after the other, and in those met under the entries of the passes they stop: each has one report of
its own (R94). -/
def State.bankErrors (c : Nat) : Nat → List (Nat × Option Nat) → State → State
  | 0, _, s => s
  | _ + 1, [], s => s
  | n + 1, (b, by') :: rest, s =>
    let (s, bad) := s.bankHit c b by'
    State.bankErrors c n (rest ++ bad) s

/-- An uncorrectable error in a bank (R93, R99). -/
def State.bankError (s : State) (c b : Nat) (culprit : Option Nat) : State := State.bankErrors c 4096 [(b, culprit)] s

/-- Stop a pass and report it against its unit (R92); a bank that fails under its entries is a further report (R94). (log 73: DEDUCED) -/
def State.stopPass (s : State) (c : Nat) (fl : Flight) (p : Pass) (code : Nat) : State :=
  let (s, bad) := s.haltPass c fl p code
  State.bankErrors c 4096 bad (s.report 8 c fl.id code)

/-- The argument record an instruction names (R105). An uncorrectable word in it is core fault 0x10, and stops whatever else uses
the bank (R99). The bank field takes the record's bank; it is 0 for every code but this and 0x14. (log 150: DESIGN CHOICE) -/
def State.argRecord (s : State) (c : Nat) (w : Word64) : Except State (Rec × State) :=
  let base := match s.plan?.bind fun p => Tab.find? p.decls c with | some d => le d 8 4 | none => 0
  let k := s.core c
  match s.scrRead c (base + 128 * (wArg w + (k.ix (wX w)).toNat)) 128 with
  | .ok x => .ok x
  | .error e => .error ((e.s.stopCore c 0x10 e.bank).bankError c e.bank none)

/-! ## Stream faults (R172) -/

/-- The source and destination kinds of a running slot: of its descriptor, or of the stream's pebble entries. -/
def State.kinds (s : State) (id : Nat) : Option (Nat × Nat) :=
  match s.streamEntry id, (s.stream id).running with
  | some e, some r =>
    if bit (le e 9 1) 3 then some (bits (le e 10 1) 2 0, bits (le e 10 1) 5 3)
    else some (bits (le r.desc 0 4) 30 28, bits (le r.desc 0 4) 27 25)
  | _, _ => none

/-- The source and destination addresses of a running slot. -/
def State.endAddrs (s : State) (id : Nat) : Nat × Nat :=
  match s.streamEntry id, (s.stream id).running with
  | some e, some r => if bit (le e 9 1) 3 then (le r.desc 0 6, le r.desc 6 6) else (le r.desc 8 8, le r.desc 16 8)
  | _, _ => (0, 0)

/-- Cores whose scratchpad the running slot reads or writes. (log 80: DEDUCED) -/
def State.scratchCores (s : State) (id : Nat) : List Nat :=
  let (a, d) := s.endAddrs id
  match s.kinds id with
  | some (x, y) => ((if x = 1 then [bits a 31 25] else []) ++ (if y = 1 then [bits d 31 25] else [])).eraseDups
  | none => []

/-- Member streams after a stream in its lode chain (R168). -/
def State.downstream (s : State) (id : Nat) : List Nat :=
  match s.plan? with
  | some p => match p.lodes.find? fun ch => ch.1 == id || ch.2.contains id with
    | some ch => if ch.1 = id then ch.2 else (ch.2.dropWhile (· ≠ id)).drop 1
    | none => []
  | none => []

/-- The streams an instruction in flight takes rows or tiles from or gives rows to. -/
def Flight.streams (f : Flight) : List Nat :=
  match f.work with
  | .pass p => ((refOf p.feeder).stream.toList ++ p.dst.stream.toList ++ (match p.preload with | some (_, r) => (refAt r 0).stream.toList | none => []))
  | .load l => (refAt l.source 0).stream.toList
  | .unit _ => []

/-- A fault of a lode chain interrupts a weight load: the passes on its engines stop with 0x06, and the load with them; with none, the load
stops alone (R92, R168). -/
def State.chainFault (s : State) (c : Nat) (f : Flight) (l : Load) : State :=
  let on := (s.core c).inflight.filter fun g => g.stopped.isNone && g.engines.any l.unit.engines.contains &&
    (match g.work with | .pass _ => true | _ => false)
  if on.isEmpty then (s.stopLoad c f.id l 0x06).report 8 c f.id 0x06
  else on.foldl (fun s g => match g.work with | .pass p => s.stopPass c g p 0x06 | _ => s) s

/-- One stream stops with a fault: its register, its report, the cores and the instructions that use it. A core fault that no
instruction met records instruction index 0. (log 151: DESIGN CHOICE) -/
def State.stopStream (s : State) (id code : Nat) : State :=
  let r := Reg.streamStatus id
  let s := if (s.reg r).getLsbD 63 then s else (s.setBit r 63).setField r 57 50 code
  let s := (s.modStream id fun t => { t with faulted := true, state := 3, running := t.running.map fun x => { x with started := x.done }, hostBuf := [], sealing := none }).report 6 id 0 code
  let s := (s.scratchCores id).foldl (fun s c => s.coreFault c 5 0x16 0 0 0) s
  let s := if s.ringStream id then s.stopColls id else s
  (s.chip.cores.map (·.1)).foldl (fun s c => (s.core c).inflight.foldl (fun s f =>
      if f.streams.contains id && f.stopped.isNone then
        match f.work with
        | .pass p => s.stopPass c f p 0x06
        | .load l => s.chainFault c f l
        | .unit _ => s
      else s) s) s

/-- R172: a stream faults; every lode member after it stops with 0x06 (R168). -/
def State.faultStream (s : State) (id code : Nat) : State :=
  (s.downstream id).foldl (fun s d => if (s.stream d).faulted then s else s.stopStream d 0x06) (s.stopStream id code)

/-! ## Issuing matrix instructions -/

/-- Whether a matrix instruction naming these engines is held whatever it does: a hand-over is pending, or a stopped pass
waits for recovery (R92, Table 3.8). -/
def State.blocked (s : State) (c : Nat) (es : List Nat) : Bool :=
  es.any (fun e => s.repair.handoverPending.contains (c, e)) ||
  (s.core c).inflight.any fun f => f.stopped.isSome && f.engines.any es.contains

/-- Whether a load in flight is on one of these engines (`p` none) or writes plane `p` of one. -/
def Core.loading (k : Core) (es : List Nat) (p : Option Nat) : Bool :=
  k.inflight.any fun f => match f.work with
    | .load l => f.engines.any es.contains && (match p with | some p => l.plane == p | none => true)
    | _ => false

/-- Whether a pass in flight is on one of these engines (`p` none) or reads plane `p` of one. -/
def Core.passing (k : Core) (es : List Nat) (p : Option Nat) : Bool :=
  k.inflight.any fun f => match f.work with
    | .pass q => f.engines.any es.contains && (match p with | some p => q.plane == p | none => true)
    | _ => false

/-- DRAIN: the setting stays in force for its unit until replaced (R86). -/
def issueDrain (c : Nat) (s : State) (w : Word64) : State :=
  if s.blocked c (seamOf (wSeam w)).engines then s.holdAt c 6 0 0
  else match s.argRecord c w with
    | .error s => s
    | .ok (rec, s) => s.modCore c fun k => { k.advance with drains := Tab.set k.drains (wSeam w) rec }

/-- PRELOAD: it serves the unit's next pass; a second one replaces it (R83). -/
def issuePreload (c : Nat) (s : State) (w : Word64) : State :=
  if s.blocked c (seamOf (wSeam w)).engines then s.holdAt c 6 0 0
  else match s.argRecord c w with
    | .error s => s
    | .ok (rec, s) => s.modCore c fun k => { k.advance with preloads := Tab.set k.preloads (wSeam w) (fieldOf w 27 27, rec) }

/-- WEIGHT_LOAD: held while a pass uses the plane, or another load is on one of its engines, for loads of overlapping engines take
effect in program order (R68); then the planes are loading. -/
def issueLoad (c : Nat) (s : State) (w : Word64) : State :=
  match s.argRecord c w with
  | .error s => s
  | .ok (rec, s) =>
    let u := seamOf (wSeam w)
    let p := fieldOf w 27 27
    let f := fieldOf w 25 24
    let k := s.core c
    let reads := loadSpans u f rec
    match k.held reads [] with
    | 0 =>
      if s.blocked c u.engines || k.passing u.engines (some p) || k.loading u.engines none then s.holdAt c 6 0 0
      else
        let s := s.launch c w rec reads [] u.engines (.load { unit := u, plane := p, fmt := f, source := rec, tiles := [] }) true
        s.modPlanes c u.engines p fun x => { x with state := 1, source := some (f, u, rec) }
    | h => s.holdAt c h 0 0

/-- Whether the validator marks a pass re-runnable: it writes nothing that it or the loads of its planes read, and no load is
from the lode chain (R94). -/
def State.passRerunnable (s : State) (c : Nat) (p : Pass) : Bool :=
  let (reads, writes) := p.touched
  !ivsMeet writes (reads ++ s.sourceTouched c p) && p.unit.engines.all fun e =>
    match ((s.core c).plane e p.plane).source with
    | some (_, _, rec) => (refAt rec 0).stream.isNone
    | none => true

/-- The pass a stream rows word spells, with its argument record, the preload it takes and the drain record in force. -/
def passOf (w : Word64) (rec : Rec) (preload : Option (Nat × Rec)) (drain : Rec) : Pass :=
  { unit := seamOf (wSeam w), plane := fieldOf w 27 27, transposed := fieldOf w 26 26 == 1, fmt := fieldOf w 25 24,
    acc16 := fieldOf w 23 23 == 1, rows := le rec 24 4, feeder := slice rec 0 24, maskKind := fieldOf w 22 21, maskOp := le rec 28 4,
    untouched := fieldOf w 20 20 == 1, preload := preload, drain := drain, next := 0, sub := 0, fed := 0, counts := [], tile := [],
    bias := none, acc := Accum.init, keptRows := [], keptPre := [], sent := 0, lead := [], taken := [] }

/-- STREAM_ROWS: held until no other pass is on its engines (R75) and its plane is loaded (R68); it takes the setting and the
preload of its unit. On an invalid plane it stops with 0x08. -/
def issuePass (c : Nat) (s : State) (w : Word64) : State :=
  match s.argRecord c w with
  | .error s => s
  | .ok (rec, s) =>
    let k := s.core c
    let u := seamOf (wSeam w)
    let p := passOf w rec (Tab.find? k.preloads (wSeam w)) ((Tab.find? k.drains (wSeam w)).getD [])
    let (reads, writes) := p.spans
    match k.held reads writes with
    | 0 =>
      if s.blocked c u.engines || k.passing u.engines none || k.loading u.engines (some p.plane) then s.holdAt c 6 0 0
      else
        let id := k.nextId
        let s := s.launch c w rec reads writes u.engines (.pass p) (s.passRerunnable c p)
        let s := s.modCore c fun k => { k with preloads := Tab.erase k.preloads (wSeam w) }
        if u.engines.any fun e => (k.plane e p.plane).state == 3 then
          match (s.core c).flight? id with
          | some fl => s.stopPass c fl p 0x08
          | none => s
        else s
    | h => s.holdAt c h 0 0

/-! ## Weight loads -/

/-- One tile from the scratchpad, as 64 × 64 codes and 64 scale bytes (Table 3.1). -/
def State.readTile (s : State) (c : Nat) (l : Load) (i j : Nat) : Except BankErr ((List Int × Rec) × State) := do
  let r := refAt l.source 0
  let base := r.base + (i : Int) * sgn 32 (le l.source 24 4) + (j : Int) * sgn 32 (le l.source 28 4)
  let bpc := le l.source 32 4
  let row := fun (x : Except BankErr (List Int × State)) (k : Nat) => do
    let (cs, s) ← x
    let (v, s) ← s.scrRead c (base + (k : Int) * r.rowStride).toNat (valueBytes l.fmt 64)
    .ok (cs ++ (List.range 64).map (fun n => (codeAt l.fmt v n : Int)), s)
  let (codes, s) ← (List.range 64).foldl row (.ok ([], s))
  let scale := fun (x : Except BankErr (Rec × State)) (n : Nat) => do
    let (bs, s) ← x
    let (b, s) ← if r.unscaled then .ok ([0], s) else s.scrRead c (r.scaleBase + (((64 * j + n) * bpc + i : Nat) : Int)).toNat 1
    .ok (bs ++ b, s)
  let (scales, s) ← (List.range 64).foldl scale (.ok ([], s))
  .ok ((codes, scales), s)

/-- A tile image of a lode chain (R165): 64 rows of value bytes, each followed by its suffix byte, which is the stored column's scale
byte; an unscaled operand has exponent 0 whatever the suffix holds (R40). -/
def tileOf (f : Nat) (unscaled : Bool) (img : Rec) : List Int × Rec :=
  let n := valueBytes f 64
  ((List.range 64).flatMap fun k => (List.range 64).map fun i => (codeAt f (slice img (k * (n + 1)) n) i : Int),
   (List.range 64).map fun k => if unscaled then 0 else img.getD (k * (n + 1) + n) 0)

/-- The places of a unit's tiles, row by row. -/
def Seam.places (u : Seam) : List (Nat × Nat) := (List.range u.r).flatMap fun i => (List.range u.c).map fun j => (i, j)

/-- Write tile (i, j) of a load into its engine's plane. -/
def State.fillPlane (s : State) (c : Nat) (l : Load) (ij : Nat × Nat) : Except BankErr State := do
  let ((codes, scales), s) ← match (refAt l.source 0).stream with
    | some _ => .ok (tileOf l.fmt (refAt l.source 0).unscaled (l.tiles.getD (ij.1 * l.unit.c + ij.2) []), s)
    | none => s.readTile c l ij.1 ij.2
  .ok (s.modPlanes c [l.unit.engine ij.1 ij.2] l.plane fun p => { p with fmt := l.fmt, codes := codes, scales := scales, state := 2 })

/-- Write the tiles of a load into its engines' planes. -/
def State.fillPlanes (s : State) (c : Nat) (l : Load) : Except BankErr State :=
  l.unit.places.foldl (fun x ij => do (← x).fillPlane c l ij) (.ok s)

/-- WEIGHT_LOAD_COMPLETE: the whole tile of every engine is written. -/
def completeLoad (c id : Nat) (s : State) : State :=
  match (s.core c).flight? id with
  | some f => match f.work with
    | .load l =>
      if f.stopped.isSome || (refAt l.source 0).stream.isSome && decide (l.tiles.length < l.unit.r * l.unit.c) then s
      else match s.fillPlanes c l with
        | .ok s => s.retireFlight c id
        | .error e => e.s.bankError c e.bank (some id)
    | _ => s
  | none => s

/-! ## One row of a pass -/

/-- One result element before its store: its exact value (none when vug), the substitutions R65 counts, its term exponents
(Table 2.3a). -/
structure Elem where
  val : Option Exact
  subs : Nat
  terms : List Int
  deriving DecidableEq, Repr

/-- The term of a product or quotient of two operands: none when either is vug or replaced. -/
def pairTerm (a b : Opd) (e : Int) : List Int := if a.man.isSome && b.man.isSome then [e] else []

/-- The weight at stored row k and stored column n of a plane. -/
def Plane.opd (p : Plane) (k n : Nat) : Opd :=
  match scaleExp (p.scales.getD n 0) with
  | some e => { man := mantissa p.fmt (p.codes.getD (64 * k + n) 0).toNat, exp := e }
  | none => { man := none, exp := 0 }

/-- The exact sum of products of some operands under the policy (R44, R45, R61). -/
def macElem (z : Bool) (xs : List (Opd × Opd)) : Elem :=
  let add := fun (e : Elem) (xw : Opd × Opd) =>
    { e with
      val := match e.val, xw.1.subst z, xw.2.subst z with | some v, some x, some w => some (v.add (x.mul w)) | _, _, _ => none,
      terms := e.terms ++ pairTerm xw.1 xw.2 (xw.1.exp + xw.2.exp) }
  xs.foldl add { val := some Exact.zero, subs := 0, terms := [] }

/-- Add one addend, none when absent, to an element. -/
def Elem.plus (z : Bool) (counted : Bool) (e : Elem) : Option Opd → Elem
  | none => e
  | some o => { val := match e.val, o.subst z with | some v, some x => some (v.add x) | _, _ => none,
                subs := e.subs + (if counted then o.subs z else 0), terms := e.terms ++ o.terms }

/-- Output element `o` of a row: its products over the reduction (R70). -/
def Pass.element (p : Pass) (k : Core) (z : Bool) (x : List Opd) (o : Nat) : Elem :=
  macElem z ((List.range p.depth).flatMap fun i => (List.range 64).map fun d =>
    (x.getD (64 * i + d) ⟨none, 0⟩,
     if p.transposed then (k.plane (p.unit.engine (o / 64) i) p.plane).opd (o % 64) d
     else (k.plane (p.unit.engine i (o / 64)) p.plane).opd d (o % 64)))

/-- Vug weights whose products reach output block `b` (R88). -/
def Pass.vugWeights (p : Pass) (k : Core) (b : Nat) : Nat :=
  ((List.range p.depth).map fun i =>
    let e := if p.transposed then p.unit.engine b i else p.unit.engine i b
    ((List.range 4096).filter fun n => ((k.plane e p.plane).opd (n / 64) (n % 64)).man.isNone).length).sum

/-- Operands of a row that a stream carries: value bytes, then one scale byte a block, and for I32 the mask words (R73,
R149). -/
def rowOpds (f blocks : Nat) (unscaled : Bool) (row : Rec) : List Opd :=
  let vb := valueBytes f 64 * blocks
  let nsc := if unscaled then 0 else blocks
  (List.range blocks).flatMap fun b =>
    opdsOf f (if unscaled then none else some (row.getD (vb + b) 0)) (if f = 3 then le row (vb + nsc + 8 * b) 8 else 0)
      ((List.range 64).map fun i => codeAt f row (64 * b + i))

/-- The bytes of such a row. (log 69: DEDUCED) -/
def rowSize (f blocks : Nat) (unscaled : Bool) : Nat :=
  valueBytes f 64 * blocks + (if unscaled then 0 else blocks) + (if f = 3 then 8 * blocks else 0)

/-- Why a row of a pass does not go through now: flow sides hold it, those of the output blocks named, or of the whole row when none is
named; a bank's word is uncorrectable; a stream's rows have another size; the scale-table entry does not match its complement. -/
inductive RowStop where
  | wait (blocks : List Nat)
  | bank (e : BankErr)
  | size (stream : Nat)
  | entry
  deriving DecidableEq, Repr

/-- A bank error as a row's stop. -/
def bankStop {α : Type} : Except BankErr α → Except RowStop α
  | .ok x => .ok x
  | .error e => .error (.bank e)

/-- Take the next row from an inbound stream's flow side (R155). -/
def State.takeRow (s : State) (id size : Nat) : Except RowStop (Rec × State) :=
  match (s.stream id).flow with
  | [] => .error (.wait [])
  | r :: rest =>
    if r.length = size then .ok (r, s.modStream id fun t => { t with flow := rest, near := t.near.drop 1, landed := if t.near.headD false then t.landed else t.landed - r.length })
    else .error (.size id)

/-- Whether the slot running on an outbound stream takes another row (R155), and the row size it takes. -/
def State.rowRoom (s : State) (id size : Nat) : Except RowStop Unit :=
  match (s.stream id).running with
  | none => .error (.wait [])
  | some r =>
    let h := bits (le r.desc 4 4) 31 16 + 1
    let n := bits (le r.desc 4 4) 15 0 + 1
    if bits (le r.desc 24 4) 23 0 + 1 + bits (le r.desc 24 4) 31 24 ≠ size then .error (.size id)
    else if (s.stream id).flow.length < (n - r.done) * h then .ok () else .error (.wait [])

/-- Whether a drain's format or a descriptor of an engine-fed input stream does not fit its collective (R247). -/
def State.tileMisfit (s : State) (id f : Nat) (d : Rec) : Bool :=
  match s.collOfInput id with
  | some (_, e) => decide (f ≠ collFmt e) || decide (bits (le d 4 4) 31 16 + 1 ≠ 64) || decide (bits (le d 24 4) 23 0 + 1 ≠ valueBytes (collFmt e) 64) ||
      decide (bits (le d 24 4) 31 24 ≠ (if collFmt e = 3 then 9 else 1))
  | none => false

/-- Whether a collective's input stream takes a row of the tile of ring block `b` (R155, R248): a transfer is left for the
tile. The rows and the descriptor must fit the collective (R247), which is judged before a row moves. -/
def State.tileRoom (s : State) (id size f b : Nat) : Except RowStop Bool :=
  match (s.stream id).running with
  | none => .ok false
  | some r =>
    let n := bits (le r.desc 4 4) 15 0 + 1
    let ts := (s.stream id).tiles
    if bits (le r.desc 24 4) 23 0 + 1 + bits (le r.desc 24 4) 31 24 ≠ size ∨ s.tileMisfit id f r.desc then .error (.size id)
    else .ok (ts.contains b || decide (ts.length < n - r.done))

/-- Whether row m is masked (R79). -/
def Pass.masked (p : Pass) (s : State) (c m : Nat) : Except RowStop (Bool × State) :=
  if p.maskKind = 1 then do
    let (b, s) ← bankStop (s.scrRead c (p.maskOp + m / 8) 1)
    .ok (bit (le b 0 1) (m % 8), s)
  else .ok (p.maskKind == 2 && decide (p.maskOp ≤ m), s)

/-- Read `blocks` blocks of a row in row form. -/
def State.readRow (s : State) (c : Nat) (r : Ref) (f m blocks : Nat) : Except BankErr (List Opd × State) :=
  (List.range blocks).foldl (fun x b => do
    let (os, s) ← x
    let (o, s) ← s.readBlock c r f m b 64
    .ok (os ++ o, s)) (.ok ([], s))

/-- The feeder's operands of row m (R71). A row taken from a stream is kept: a re-run is fed the same rows again (R94). -/
def Pass.feed (p : Pass) (s : State) (c m : Nat) : Except RowStop (List Opd × Pass × State) :=
  let r := refOf p.feeder
  match r.stream with
  | some id => match p.keptRows[p.fed]? with
    | some row => .ok (rowOpds p.fmt p.depth r.unscaled row, p, s)
    | none => do
      let (row, s) ← s.takeRow id (rowSize p.fmt p.depth r.unscaled)
      .ok (rowOpds p.fmt p.depth r.unscaled row, { p with keptRows := p.keptRows ++ [row] }, s)
  | none => do
    let (os, s) ← bankStop (s.readRow c r p.fmt m p.depth)
    .ok (os, p, s)

/-- A bias row's operands as the pass keeps them, and back. -/
def keepOpds (os : List Opd) : List (Option Int × Int) := os.map fun o => (o.man, o.exp)
/-- The operands of a kept bias row. -/
def keptOpds (b : List (Option Int × Int)) : List Opd := b.map fun x => ⟨x.1, x.2⟩

/-- The preload values of row m (R82), a bias row read once, and the pass that keeps the rows it takes from a stream. (log 68: DEDUCED) -/
def Pass.preloadRow (p : Pass) (s : State) (c m : Nat) : Except RowStop (Option (List Opd) × Pass × State) :=
  match p.preload with
  | none => .ok (none, p, s)
  | some (kind, rec) =>
    let r := refAt rec 0
    match (if kind = 0 then p.bias else none), r.stream with
    | some b, _ => .ok (some (keptOpds b), p, s)
    | none, some id =>
      match (if kind = 0 then none else p.keptPre[m]?) with
      | some row => .ok (some (rowOpds p.accFmt p.blocks r.unscaled row), p, s)
      | none => do
        let (row, s) ← s.takeRow id (rowSize p.accFmt p.blocks r.unscaled)
        let os := rowOpds p.accFmt p.blocks r.unscaled row
        .ok (some os, (if kind = 0 then { p with bias := some (keepOpds os) } else { p with keptPre := p.keptPre ++ [row] }), s)
    | none, none => do
      let (os, s) ← bankStop (s.readRow c r p.accFmt (if kind = 0 then 0 else m) p.blocks)
      .ok (some os, (if kind = 0 then { p with bias := some (keepOpds os) } else p), s)

/-- One stored block's bytes for a tile digest. -/
def Stored.image (st : Stored) (f : Nat) (unscaled : Bool) : Rec × Rec × Rec :=
  (packCodes f [] (st.elems.map (elemCode f)), (if unscaled then [] else [st.scale]), (if f = 3 then toLe 8 (maskOf st.elems) else []))

/-- Store output block `b` of row `m` at the drain's destination (R84, R85, R113, R114). -/
def Pass.storeBlock (p : Pass) (s : State) (c m b : Nat) (es : List Elem) : Except RowStop (Stored × Nat × Rec × State) := do
  let z := s.zeroPolicy
  let f := p.accFmt
  let d := p.dst
  let ctl := le p.drain 36 4
  let row := le p.drain 24 4 + m
  let col := le p.drain 28 4 + 64 * b
  let site := bits (le p.drain 40 4) 19 0
  if p.dest = 1 then
    let (es, s) ← if bit ctl 26 then .ok (es, s) else do
      let (os, s) ← bankStop (s.readBlock c d f m b 64)
      .ok ((es.zip os).map fun x => x.1.plus z true (some x.2), s)
    let ord := bits (le p.drain 40 4) 27 20
    let rule := if d.unscaled then ExpRule.unscaled else ExpRule.fitAbove
    let st := Machine.storeBlock f rule true (fun i => s.draw 1 (site * 256 + ord) row (col + i)) (maxExp (es.flatMap (·.terms))) (es.map (·.val))
    let (bytes, s) ← bankStop (s.writeBlock c d f m b st)
    .ok (st, (es.map (·.subs)).sum, bytes, s)
  else match s.expRule d.unscaled (bits ctl 29 28) (bits ctl 11 0) with
    | none => .error .entry
    | some rule =>
      let st := Machine.storeBlock f rule (bit ctl 27) (fun i => s.draw 0 site row (col + i)) (maxExp (es.flatMap (·.terms))) (es.map (·.val))
      let subs := (es.map (·.subs)).sum
      if p.dest = 2 then
        let (v, sc, mw) := st.image f d.unscaled
        .ok (st, subs, v ++ sc ++ mw, s)
      else do
        let (bytes, s) ← bankStop (s.writeBlock c d f m b st)
        .ok (st, subs, bytes, s)

/-- Close a tile whose last row is stored: entries, digests, the saturation and vug fields (R87, R88, R232). (log 62: DESIGN CHOICE) -/
def Pass.closeTile (p : Pass) (s : State) (c : Nat) (fl : Flight) (t : Nat) : Except RowStop State :=
  (List.range p.blocks).foldl (fun x b => do
    let s ← x
    let n := p.counts.getD b (0, 0)
    let v := tileEntry false t b n.1 n.2
    let s ← bankStop (s.writeEntry c p t b v)
    let s := if n.1 ≠ 0 then s.engineBits c 36 p.unit.engines else s
    let s := if n.2 ≠ 0 then s.engineBits c 24 p.unit.engines else s
    let s := match (if p.dest = 2 then p.dst.stream else none) with
      | some id => if s.ringStream id && decide (p.sent < min (64 * t + 64) p.rows) then s.modStream id fun x =>
          { x with flow := x.flow ++ [tileRowRec (s.tileNumber id (le p.drain 24 4 + 64 * t) (le p.drain 28 4 + 64 * b)) 0 true []] } else s
      | none => s
    .ok (s.digest c fl.pc fl.entry fl.ordinal t b (p.tile.getD b []) v)) (.ok s)

/-- After row `m`: move on, closing the tile when the row is its last. What a re-run drains again does not go to a stream
twice. -/
def Pass.rowDone (p : Pass) (s : State) (c : Nat) (fl : Flight) (m : Nat) : Except RowStop (Pass × State) :=
  let p := { p with next := m + 1 }
  let done := { p with sent := max p.sent (m + 1) }
  if m % 64 = 63 ∨ m + 1 = p.rows then do
    let s ← p.closeTile s c fl (m / 64)
    .ok ({ done with counts := [], tile := [] }, s)
  else .ok (done, s)

/-- Put the next row of a pass through: fed when unmasked, stored under the option when masked (R79 to R81). The Bool says
whether it was fed. A feeder stream holds no row for a masked one. (log 152: DESIGN CHOICE) -/
def Pass.row (p : Pass) (s : State) (c : Nat) (fl : Flight) : Except RowStop (Bool × Pass × State) := do
  let m := p.next
  let z := s.zeroPolicy
  let (masked, s) ← p.masked s c m
  if masked && p.untouched then
    let (_, p, s) ← match p.preload with
      | some (1, rec) => if (refAt rec 0).stream.isSome then p.preloadRow s c m else .ok (none, p, s)
      | _ => .ok (none, p, s)
    let (p, s) ← p.rowDone s c fl m
    .ok (false, p, s)
  else
    let f := p.accFmt
    let d := p.dst
    if let some id := (if p.dest = 2 ∧ p.sent ≤ m then d.stream else none) then
      if s.ringStream id then do
        let full ← (List.range p.blocks).foldlM (fun full b => do
          let room ← s.tileRoom id (rowSize f 1 d.unscaled) f (s.tileNumber id (le p.drain 24 4 + m) (le p.drain 28 4 + 64 * b))
          .ok (if room then full else full ++ [b])) []
        if full.isEmpty then .ok () else .error (.wait full)
      else s.rowRoom id (rowSize f p.blocks d.unscaled)
    let (x, p, s) ← if masked then .ok ([], p, s) else p.feed s c m
    let (pre, p, s) ← p.preloadRow s c m
    let k := s.core c
    let isBias := match p.preload with | some (0, _) => true | _ => false
    let counted := !isBias || !p.acc.written
    let subsX := if z && !masked then (x.filter fun o => o.man.isNone).length else 0
    let block := fun (a : Except RowStop (Pass × List (Rec × Rec × Rec) × State)) (b : Nat) => do
      let (p, out, s) ← a
      let es := (List.range 64).map fun n =>
        let o := 64 * b + n
        let e := if masked then ({ val := some Exact.zero, subs := 0, terms := [] } : Elem) else p.element k z x o
        e.plus z counted (pre.map fun os => os.getD o ⟨none, 0⟩)
      let (st, subs, bytes, s) ← p.storeBlock s c m b es
      let subs := subs + (if b = 0 then subsX else 0) + (if z && !masked && p.fed == 0 then p.vugWeights k b else 0)
      let n := p.counts.getD b (0, 0)
      let cnt := (List.range p.blocks).map fun i => if i = b then (n.1 + st.sats, n.2 + st.vugs + subs) else p.counts.getD i (0, 0)
      let til := (List.range p.blocks).map fun i => if i = b then p.tile.getD i [] ++ bytes else p.tile.getD i []
      .ok ({ p with counts := cnt, tile := til, acc := p.acc.feedBlock st subs }, out ++ [st.image f d.unscaled], s)
    let (p, out, s) ← (List.range p.blocks).foldl block (.ok (p, [], s))
    let s := match (if p.dest = 2 ∧ p.sent ≤ m then d.stream else none) with
      | some id =>
        if s.ringStream id then s.modStream id fun t =>
          { t with flow := t.flow ++ out.mapIdx fun b o =>
              tileRowRec (s.tileNumber id (le p.drain 24 4 + m) (le p.drain 28 4 + 64 * b)) (m % 64) false (o.1 ++ o.2.1 ++ o.2.2) }
        else s.modStream id fun t => { t with flow := t.flow ++ [out.flatMap (·.1) ++ out.flatMap (·.2.1) ++ out.flatMap (·.2.2)] }
      | none => s
    let p := if masked then p else { p with fed := p.fed + 1 }
    let (p, s) ← p.rowDone s c fl m
    .ok (!masked, p, s)

/-- Rows until `n` unmasked ones are fed or the pass has no more; the number fed comes back. (log 70: DESIGN CHOICE; log 98: DEDUCED) -/
def Pass.rowsUpTo (c : Nat) (fl : Flight) : Nat → Nat → Pass → State → Except RowStop (Nat × Pass × State)
  | 0, _, p, s => .ok (0, p, s)
  | fuel + 1, n, p, s =>
    if p.next ≥ p.rows ∨ n = 0 then .ok (0, p, s)
    else do
      let (fed, p, s) ← p.row s c fl
      if fed then
        let (k, p, s) ← Pass.rowsUpTo c fl fuel (n - 1) p s
        .ok (k + 1, p, s)
      else Pass.rowsUpTo c fl fuel n p s

/-! ## Beats -/

/-- Table 3.9: rows of a beat, and beats of a row. -/
def Pass.rate (p : Pass) (wfmt : Nat) : Nat × Nat :=
  if p.fmt = 2 ∨ wfmt = 2 then (1, if p.acc16 then 2 else 4)
  else if p.fmt = 0 ∨ wfmt = 0 then (if p.acc16 then 4 else 2, 1)
  else (if p.acc16 then 2 else 1, 1)

/-! ## Stalls (R74 to R78) -/

/-- Whether a shape freezes: three engines deep and more than one wide (Table 3.2). Every other shape is elastic. -/
def Seam.freezes (u : Seam) : Bool := u.r == 3 && decide (u.c > 1)

/-- The engines a feeder serves: an engine row, in a transposed read an engine column (R71). -/
def Pass.fedBy (p : Pass) (i : Nat) : List Nat :=
  if p.transposed then (List.range p.unit.r).map fun k => p.unit.engine k i else (List.range p.unit.c).map fun k => p.unit.engine i k

/-- The engines a drain serves: an engine column, in a transposed read an engine row (R71). -/
def Pass.drainedBy (p : Pass) (j : Nat) : List Nat :=
  if p.transposed then (List.range p.unit.c).map fun k => p.unit.engine j k else (List.range p.unit.r).map fun k => p.unit.engine k j

/-- One beat of an elastic seam some of whose feeders are dry and drains blocked (R76), as what feeders have presented and drains have taken
ahead of the pass's position. A feeder that is not dry presents its next beat while its links hold fewer than 8 and some drain moves; a
drain that is not blocked takes the next beat that every feeder has presented, up to 8 ahead of the others. Comes with it the engines that
did neither: those of a blocked drain, and those whose feeder presented nothing and whose drain took nothing. (log 153: DEDUCED) -/
def Pass.elasticBeat (p : Pass) (feeders drains : List Nat) (room : Nat) : Pass × List Nat :=
  let moves := (List.range p.blocks).any fun j => !drains.contains j
  let presents := fun i => moves && !feeders.contains i && decide (Tab.get 0 p.lead i < min 8 room)
  let fed := fun i => Tab.get 0 p.lead i + (presents i).toNat
  let ready := (List.range p.depth).foldl (fun m i => min m (fed i)) 9
  let takes := fun j => !drains.contains j && decide (Tab.get 0 p.taken j < min 8 ready)
  let out := fun j => Tab.get 0 p.taken j + (takes j).toNat
  ({ p with lead := (List.range p.depth).foldl (fun t i => Tab.set t i (fed i)) p.lead,
            taken := (List.range p.blocks).foldl (fun t j => Tab.set t j (out j)) p.taken },
   (List.range p.depth).flatMap fun i => ((List.range p.blocks).filter fun j => drains.contains j || (!presents i && !takes j)).flatMap fun j =>
     (p.fedBy i).filter (p.drainedBy j).contains)

/-- Whether every drain has taken the beat the pass stands at. -/
def Pass.whole (p : Pass) : Bool := (List.range p.blocks).all fun j => decide (Tab.get 0 p.taken j ≥ 1)

/-- The pass's position moves one beat. -/
def Pass.forward (p : Pass) : Pass :=
  { p with lead := p.lead.map fun x => (x.1, x.2 - 1), taken := p.taken.map fun x => (x.1, x.2 - 1) }

/-- Beats left to a pass at `rows` rows a beat and `beats` beats a row. -/
def Pass.beatsLeft (p : Pass) (rows beats : Nat) : Nat := (p.rows - p.next + rows - 1) / rows * beats - p.sub

/-- Rows that the feeders have to present: those that stand in a stream's flow, or all that are left. -/
def State.presented (s : State) (p : Pass) : Nat :=
  match (refOf p.feeder).stream with
  | some id => (s.stream id).flow.length + (p.keptRows.length - p.fed)
  | none => p.rows - p.next

/-- Put a pass back into its flight. -/
def State.putPass (s : State) (c id : Nat) (p : Pass) : State := s.modFlight c id fun f => { f with work := .pass p }

/-- Beats that the feeders can present from the pass's position on: what is left, or what the rows in a stream's flow make. -/
def State.beatRoom (s : State) (p : Pass) (rows beats : Nat) : Nat :=
  if s.presented p ≥ p.rows - p.next then p.beatsLeft rows beats else s.presented p / rows * beats - p.sub

/-- A row waits at the flow sides of some output blocks, or as a whole (R76 to R78): the engines held show in the stall-seen field. A stream
carries whole rows, so one that is dry or full holds every engine of the unit; so does any wait of a freezing seam. The other engines of
an elastic one go on as its links allow. -/
def State.rowWait (s : State) (c : Nat) (fl : Flight) (p : Pass) (blocks : List Nat) : State :=
  if blocks.isEmpty || p.unit.freezes then s.engineBits c 12 p.unit.engines
  else
    let (rows, beats) := p.rate ((s.core c).plane (p.unit.engine 0 0) p.plane).fmt
    let (q, held) := p.elasticBeat [] blocks (s.beatRoom p rows beats)
    (if q.whole then s else s.putPass c fl.id q).engineBits c 12 held

/-- Answer a row that does not go through. -/
def State.rowStop (s : State) (c : Nat) (fl : Flight) (p : Pass) : RowStop → State
  | .wait blocks => s.rowWait c fl p blocks
  | .bank e => (s.keepFixes c e.s).bankError c e.bank (some fl.id)
  | .size id => s.faultStream id 0x05
  | .entry => (s.modFlight c fl.id fun f => { f with rerunnable := false }).stopPass c fl p 0x04

/-- The rows a stop leaves drained: those of the group before the row that meets it are stored (R94). -/
def Pass.drained (c : Nat) (fl : Flight) (p : Pass) (s : State) : Nat → Pass × State
  | 0 => (p, s)
  | n + 1 => match Pass.rowsUpTo c fl (p.rows - p.next) n p s with
    | .ok (_, p', s') => (p', s'.putPass c fl.id { p' with sub := 0 })
    | .error _ => Pass.drained c fl p s n

/-- Put a pass back into its flight with the rows its feeders and drains have taken for a row group that is not whole yet. -/
def State.keepRows (s : State) (c : Nat) (fl : Flight) (p : Pass) (x : Pass × State) : State :=
  let ids := (refOf p.feeder).stream.toList ++ (match p.preload with | some (_, r) => (refAt r 0).stream.toList | none => [])
  let s := ids.foldl (fun s id => s.modStream id fun t => { t with flow := (x.2.stream id).flow, landed := (x.2.stream id).landed, near := (x.2.stream id).near }) s
  s.putPass c fl.id { p with keptRows := x.1.keptRows, keptPre := x.1.keptPre, bias := x.1.bias }

/-- One beat (R97). A beat that a row of its group cannot join yet is not made: the engines are held (R76 to R78). Where the planes of
a seam hold different formats the plane of its first engine sets the rows a beat takes. (log 154: DESIGN CHOICE) -/
def State.beat (s : State) (c : Nat) (fl : Flight) (p : Pass) : State :=
  let (rows, beats) := p.rate ((s.core c).plane (p.unit.engine 0 0) p.plane).fmt
  match Pass.rowsUpTo c fl (p.rows - p.next) rows p s with
  | .ok (0, _, _) => s
  | .ok (_, p', s') => if p.sub + 1 < beats then s.putPass c fl.id { p with sub := p.sub + 1 } else s'.putPass c fl.id { p' with sub := 0 }
  | .error (.wait blocks) =>
    let x := p.drained c fl s rows
    (s.keepRows c fl p x).rowStop c fl { p with keptRows := x.1.keptRows, keptPre := x.1.keptPre, bias := x.1.bias } (.wait blocks)
  | .error e =>
    let (p, s) := p.drained c fl s rows
    s.rowStop c fl p e

/-- Request a hand-over of an engine (R95): not when the spare site is in use or has failed (R96). -/
def State.askHandover (s : State) (c e : Nat) : State :=
  if s.repair.spareEngineUsed.contains c || s.repair.spareEngineFailed.contains c || s.repair.handoverPending.contains (c, e) then s
  else s.modRepair fun r => { r with handoverPending := r.handoverPending ++ [(c, e)] }

/-- A single error corrected in an engine (R91, R95). -/
def State.engineCorrected (s : State) (c e : Nat) : State :=
  let s := (s.bump (.engineStatus c e) 51 40 1).modRepair fun r => { r with corrected := Tab.upd 0 r.corrected (12 * c + e) (· + 1) }
  if Tab.get 0 s.repair.corrected (12 * c + e) ≥ s.cfg.handover then s.askHandover c e else s

/-- Retire a logical engine whose spare site is in use or failed, when a fault of Table 13.9 strikes it. -/
def State.retireEngine (s : State) (c e : Nat) : State :=
  if (s.repair.spareEngineUsed.contains c || s.repair.spareEngineFailed.contains c) && !s.repair.retiredEngines.contains (c, e) then
    (((s.modRepair fun r => { r with retiredEngines := r.retiredEngines ++ [(c, e)] }).mapEntry 2 (16 * c + e) 0 2 0).capability).summary (coreDie c) 62
  else s

/-- A beat with what it meets (Table 3.7). -/
def State.beatWith (s : State) (c : Nat) (fl : Flight) (p : Pass) : Upset → State
  | .none => s.beat c fl p
  | .corrected e => (if p.unit.engines.contains e then s.engineCorrected c e else s).beat c fl p
  | .plane e =>
    if p.unit.engines.contains e then
      ((s.modPlanes c [e] p.plane fun x => { x with state := 3 }).stopPass c fl p 0x01).retireEngine c e
    else s
  | .link e => if p.unit.engines.contains e then (s.stopPass c fl p 0x02).retireEngine c e else s
  | .residue e => if p.unit.engines.contains e then (s.stopPass c fl p 0x05).retireEngine c e else s
  | .bank w x =>
    (s.modChip fun h => { h with scratchFlips := h.scratchFlips.set (scrKey c (16 * w) / 16) (h.scratchFlips.get (scrKey c (16 * w) / 16) ^^^ x) }).beat c fl p
  | .stall feeders drains =>
    let (rows, beats) := p.rate ((s.core c).plane (p.unit.engine 0 0) p.plane).fmt
    if p.unit.freezes then
      if feeders.any (fun i => decide (i < p.depth)) || drains.any (fun j => decide (j < p.blocks)) then s.engineBits c 12 p.unit.engines else s.beat c fl p
    else
      let (q, held) := p.elasticBeat feeders drains (s.beatRoom p rows beats)
      let s := s.engineBits c 12 held
      if q.whole then s.beat c fl q.forward else s.putPass c fl.id q

/-- The pass of an instruction in flight that no fault has stopped. -/
def Core.runningPass (k : Core) (id : Nat) : Option (Flight × Pass) :=
  match k.flight? id with
  | some f => match f.work, f.stopped with
    | .pass p, none => some (f, p)
    | _, _ => none
  | none => none

/-- The last row of a pass is drained: rows after the last unmasked one drain under the option, the pass feeds its
instrument and leaves (R75, R81, R228). -/
def completePass (c id : Nat) (s : State) : State :=
  match (s.core c).runningPass id with
  | none => s
  | some (fl, p) =>
    if p.sub ≠ 0 then s
    else match Pass.rowsUpTo c fl (p.rows - p.next) 1 p s with
      | .ok (0, p', s') =>
        let s' := match p'.dst.instr with | some i => s'.feed i p'.acc | none => s'
        s'.retireFlight c id
      | .ok _ => s
      | .error (.wait _) => s
      | .error e => s.rowStop c fl p e

/-! ## Meanings -/

/-- WEIGHT_LOAD (R67, R68). -/
def execWeightLoad (core : Nat) (s : State) : Host.Outcome State Fault Refusal := .next (s.issue core 0x01 [0] (issueLoad core))

/-- WEIGHT_LOAD_COMPLETE (R67). -/
def execWeightLoadComplete (core id : Nat) (s : State) : Host.Outcome State Fault Refusal := .next (completeLoad core id s)

/-- PRELOAD (R82, R83). -/
def execPreload (core : Nat) (s : State) : Host.Outcome State Fault Refusal := .next (s.issue core 0x02 [0] (issuePreload core))

/-- DRAIN (R86). -/
def execDrain (core : Nat) (s : State) : Host.Outcome State Fault Refusal := .next (s.issue core 0x03 [0] (issueDrain core))

/-- STREAM_ROWS (R70, R75). -/
def execStreamRows (core : Nat) (s : State) : Host.Outcome State Fault Refusal := .next (s.issue core 0x04 [0] (issuePass core))

/-- ENGINE_BEAT (R97). -/
def execEngineBeat (core id : Nat) (upset : Upset) (s : State) : Host.Outcome State Fault Refusal :=
  .next (match (s.core core).runningPass id with
    | some (fl, p) => (s.stir (coreDie core)).beatWith core fl p upset
    | none => s)

/-- PASS_COMPLETE (R75). -/
def execPassComplete (core id : Nat) (s : State) : Host.Outcome State Fault Refusal := .next (completePass core id s)

/-- Whether a pass has its next rows presented by every feeder and room for them at every drain (R435): nothing but a beat is left to do.
A seam frozen for another engine's sake has not. -/
def State.couldBeat (s : State) (c : Nat) (fl : Flight) (p : Pass) : Bool :=
  match Pass.rowsUpTo c fl (p.rows - p.next) (p.rate ((s.core c).plane (p.unit.engine 0 0) p.plane).fmt).1 p s with
  | .ok (n, _, _) => decide (n ≠ 0)
  | .error (.wait _) => false
  | .error _ => true

/-- ENGINE_WATCHDOG_EXPIRY (R435): an engine whose pass could make a beat has made none for 1 ms, and the pass stops with 0x07. -/
def execEngineWatchdogExpiry (core engine : Nat) (s : State) : Host.Outcome State Fault Refusal :=
  .next (
    let on := (s.core core).inflight.find? fun f => f.engines.contains engine && f.stopped.isNone && (match f.work with | .pass _ => true | _ => false)
    match on with
    | some f => match f.work with
      | .pass p => if s.couldBeat core f p then (s.stopPass core f p 0x07).retireEngine core engine else s
      | _ => s
    | none => s)

/-- Steps 3 to 6 of Table 3.8: with nothing in flight on an engine whose hand-over is pending, its planes go to the spare site, a plane
with an uncorrectable word invalid (R96), the single errors that the copy corrects counted (R91). No other hand-over of the core
takes place then, nor any while the spare site is in use: a request that still stands lapses (R96). -/
def State.engineHandover (s : State) (c e : Nat) (x y : CopiedPlane) : State :=
  if s.repair.handoverPending.contains (c, e) && !(s.core c).busy.contains e then
    let lapse := s.modRepair fun r => { r with handoverPending := r.handoverPending.filter (·.1 ≠ c) }
    if s.repair.spareEngineUsed.contains c || s.repair.spareEngineFailed.contains c then lapse
    else
      let s := if x.bad then lapse.modPlanes c [e] 0 fun p => { p with state := 3 } else lapse
      let s := if y.bad then s.modPlanes c [e] 1 fun p => { p with state := 3 } else s
      let s := (s.bump (.engineStatus c e) 51 40 (x.corrected + y.corrected)).modRepair fun r => { r with
        corrected := Tab.upd 0 r.corrected (12 * c + e) (· + (x.corrected + y.corrected)),
        substituted := r.substituted ++ [(c, e)], spareEngineUsed := r.spareEngineUsed ++ [c] }
      ((s.mapEntry 2 (16 * c + e) 12 1 0).summary (coreDie c) 61).logEvent 8 0x7C 3 0 c [BitVec.ofNat 8 e]
  else s

/-- ENGINE_HANDOVER (R95, R96). -/
def execEngineHandover (core engine : Nat) (plane0 plane1 : CopiedPlane) (s : State) : Host.Outcome State Fault Refusal :=
  .next (s.engineHandover core engine plane0 plane1)

end Sys2Proof.Machine
end

