-- ==== Sys2Proof/Machine/StreamOps.lean ====
section
/-! DEFINITION. What stream movers work with (R140 to R174, R206 to R213, R399 to R403): transfers as descriptors and pebble
entries give them, their checks, arming, the arena transforms, host records, and the ends of a transfer. -/

namespace Sys2Proof.Machine

/-! ## Transfers -/

/-- A slot's transfers as Table 5.4 gives them, or Table 5.6 with the stream table entry's part. -/
structure Xfer where
  src : Nat
  dst : Nat
  transform : Nat
  digest : Bool
  link : Bool
  gate : Bool
  signal : Bool
  final : Bool
  srcBuf : Nat
  dstBuf : Nat
  rows : Nat
  count : Nat
  srcAddr : Nat
  dstAddr : Nat
  sfx : Nat
  rowBytes : Nat
  srcRow : Int
  dstRow : Int
  srcStep : Int
  dstStep : Int
  srcSfx : Nat
  dstSfx : Nat
  gateQ : Nat × Nat
  sigQ : Nat × Nat
  linkTo : Nat
  slot : Nat
  pebble : Bool
  diag : Bool
  deriving DecidableEq, Repr

/-- A queue named by 16 bits: core and queue. -/
def queueOf (v : Nat) : Nat × Nat := (bits v 12 6, bits v 5 0)

/-- A descriptor (Table 5.4). -/
def descOf (d : Rec) : Xfer :=
  let c := le d 0 4
  { src := bits c 30 28, dst := bits c 27 25, transform := bits c 24 23, digest := bit c 22, link := bit c 21, gate := bit c 20,
    signal := bit c 19, final := bit c 10, srcBuf := bits c 18 15, dstBuf := bits c 14 11, rows := bits (le d 4 4) 31 16 + 1,
    count := bits (le d 4 4) 15 0 + 1, srcAddr := le d 8 8, dstAddr := le d 16 8, sfx := bits (le d 24 4) 31 24,
    rowBytes := bits (le d 24 4) 23 0 + 1, srcRow := sgn 32 (le d 28 4), dstRow := sgn 32 (le d 32 4), srcStep := sgn 32 (le d 36 4),
    dstStep := sgn 32 (le d 40 4), srcSfx := le d 44 6, dstSfx := le d 50 6, gateQ := queueOf (le d 56 2),
    sigQ := queueOf (le d 58 2), linkTo := bits (le d 60 2) 14 0, slot := bits (le d 62 2) 11 0, pebble := false, diag := bit c 9 }

/-- A pebble entry under its stream table entry (Tables 5.3 and 5.6). -/
def pebbleOf (e d : Rec) : Xfer :=
  let src := bits (le e 10 1) 2 0
  let dst := bits (le e 10 1) 5 3
  let base := le e 24 8
  { src := src, dst := dst, transform := 0, digest := false, link := false, gate := bit (le d 13 1) 6, signal := bit (le d 13 1) 5,
    final := false, srcBuf := 0, dstBuf := 0, rows := 1, count := 1,
    srcAddr := le d 0 6 + (if src = 2 then base else 0), dstAddr := le d 6 6 + (if dst = 2 then base else 0), sfx := 0,
    rowBytes := le d 12 1 + 1, srcRow := 0, dstRow := 0, srcStep := 0, dstStep := 0, srcSfx := 0, dstSfx := 0,
    gateQ := queueOf (le e 16 2), sigQ := queueOf (le e 18 2), linkTo := 0, slot := 0, pebble := true,
    diag := false }

/-- Whether a stream's ring holds pebble entries. -/
def pebbleRing (e : Rec) : Bool := bit (le e 9 1) 3

/-- The transfers of a slot's content. -/
def xferOf (e d : Rec) : Xfer := if pebbleRing e then pebbleOf e d else descOf d

/-- Slots of a stream's ring. -/
def ringSize (e : Rec) : Nat := 2 ^ bits (le e 8 1) 4 0

/-- B(k) of a side (R148). -/
def bufIndex (v k : Nat) : Nat := if v = 0 then k else k % (v + 1)

/-- One end of a transfer. -/
structure Side where
  kind : Nat
  addr : Nat
  row : Int
  step : Int
  buf : Nat
  sfx : Nat
  deriving DecidableEq, Repr

/-- The source side. -/
def Xfer.from (x : Xfer) : Side := ⟨x.src, x.srcAddr, x.srcRow, x.srcStep, x.srcBuf, x.srcSfx⟩
/-- The destination side. -/
def Xfer.to (x : Xfer) : Side := ⟨x.dst, x.dstAddr, x.dstRow, x.dstStep, x.dstBuf, x.dstSfx⟩

/-- A computed address: a host bus address has 64 bits; a device address below 0 lies outside every window, which is how 2^64
stands. (log 158: DEDUCED) -/
def addrOf (kind : Nat) (v : Int) : Nat := if kind = 2 then (v % 2 ^ 64).toNat else if v < 0 then 2 ^ 64 else v.toNat

/-- Addresses of row j of transfer k on a memory side: value bytes, suffix bytes (R148). -/
def Side.at (d : Side) (x : Xfer) (k j : Nat) : Nat × Nat :=
  let b := bufIndex d.buf k
  (addrOf d.kind ((d.addr : Int) + (b : Int) * d.step + (j : Int) * d.row), d.sfx + (b * x.rows + j) * x.sfx)

/-! ## Checks of a descriptor (R141, R147, R150) -/

/-- Whether a scratchpad range of a side runs beyond its core's 32 MiB, over every transfer and row, or its suffix address has not the
form of R148: the core of the value address, bits [47:32] 0. A pebble entry has no suffix (R157). -/
def Side.scratchBad (d : Side) (x : Xfer) (len : Nat) : Bool :=
  let top := if d.buf = 0 then x.count - 1 else min d.buf (x.count - 1)
  let base : Int := bits d.addr 24 0
  let vals := [0, (top : Int) * d.step].flatMap fun a => [0, ((x.rows - 1 : Nat) : Int) * d.row].map fun b => base + a + b
  vals.any (fun v => decide (v < 0) || decide (v + (len : Int) > 0x2000000)) ||
  (decide (x.sfx ≠ 0) && decide (bits d.sfx 24 0 + (top * x.rows + x.rows) * x.sfx > 0x2000000)) ||
  (!x.pebble && (bits d.sfx 31 25 != bits d.addr 31 25 || decide (d.sfx / 2 ^ 32 ≠ 0)))

/-- Whether a class allows a pair of endpoint kinds (Table 5.2, R147), for a stream of this identifier. -/
def kindsAllowed (cls id : Nat) (x : Xfer) : Bool :=
  let mine := fun (a : Nat) => ownerCore id == some (bits a 31 25)
  let other := fun (a : Nat) => !mine a && decide (bits a 31 25 < 96)
  match cls with
  | 0 => (x.src == 0 || (x.src == 1 && other x.srcAddr)) && ((x.dst == 1 && mine x.dstAddr) || x.dst == 3)
  | 1 => ((x.src == 1 && mine x.srcAddr) || x.src == 3) && (x.dst == 0 || (x.dst == 1 && other x.dstAddr))
  | 2 => if (ownerCore id).isNone then x.src == 0 && x.dst == 5 else x.src == 5 && (x.dst == 3 || x.dst == 6)
  | 3 => x.src == 0 && x.dst == 0
  | 4 => (x.src == 2 && x.dst == 0) || (x.src == 0 && x.dst == 2)
  | 5 => ((x.src == 0 || x.src == 1 || x.src == 3) && x.dst == 4) || (x.src == 4 && (x.dst == 0 || x.dst == 1))
  | _ => false

/-- Whether an address has the form its endpoint kind gives it (Table 5.5); a flow side has every field 0. -/
def Side.formBad (d : Side) (x : Xfer) (len : Nat) : Bool :=
  if d.kind ≥ 3 then d.addr != 0 || d.row != 0 || d.step != 0 || d.sfx != 0
  else if d.kind = 0 then decide (d.addr / 2 ^ 48 ≠ 0)
  else if d.kind = 1 then decide (d.addr / 2 ^ 32 ≠ 0) || decide (bits d.addr 31 25 ≥ 96) || d.scratchBad x len
  else false

/-- A lossless or lossy transform on this side of the transfer keeps its bytes in a form of its own (R206, R210, R211). -/
def packedSrc (cls : Nat) (x : Xfer) : Bool := x.transform == 1 && cls == 0
/-- As `packedSrc`, for a compressing destination. -/
def packedDst (cls : Nat) (x : Xfer) : Bool := x.transform == 1 && cls != 0

/-- R150: whether a descriptor breaks the rules a mover checks at fetch. -/
def descBad (cls id : Nat) (d : Rec) : Bool :=
  let x := descOf d
  let c := le d 0 4
  let lenS := if x.transform = 2 ∧ cls = 0 then 32 * x.sfx else x.rowBytes
  let lenD := if x.transform = 2 ∧ cls ≠ 0 then 32 * x.sfx else x.rowBytes
  !bit c 31 || decide (bits c 8 0 ≠ 0) || x.src == 7 || x.dst == 7 || x.transform == 3 || !kindsAllowed cls id x ||
  decide (bits (le d 56 2) 15 13 ≠ 0) || decide (bits (le d 58 2) 15 13 ≠ 0) || bit (le d 60 2) 15 || decide (bits (le d 62 2) 15 12 ≠ 0) ||
  x.from.formBad x lenS || x.to.formBad x lenD ||
  (x.digest && cls != 3 && cls != 4) || (x.transform != 0 && cls != 0 && cls != 1 && cls != 3)

/-- Whether a pebble stream's kinds are not those its class allows (R156, Table 5.2). -/
def pebbleKindsBad (e : Rec) : Bool :=
  let src := bits (le e 10 1) 2 0
  let dst := bits (le e 10 1) 5 3
  match streamClass e with
  | 0 => !(decide (src ≤ 1) && dst == 1)
  | 1 => !(src == 1 && decide (dst ≤ 1))
  | 3 => !(src == 0 && dst == 0)
  | 4 => !((src == 2 && dst == 0) || (src == 0 && dst == 2))
  | _ => true

/-- R157: whether a pebble entry is invalid: the valid bit, a reserved field, or an address that has not the form of Table 5.5
(R156). (log 159: DEDUCED) -/
def pebbleBad (id : Nat) (e d : Rec) : Bool :=
  let x := pebbleOf e d
  !bit (le d 13 1) 7 || decide (bits (le d 13 1) 4 0 ≠ 0) || !zeroAt d 14 2 ||
  !kindsAllowed (streamClass e) id x || x.from.formBad x x.rowBytes || x.to.formBad x x.rowBytes

/-! ## Whether a stream moves -/

/-- Whether an instruction in flight takes rows or tiles from a stream, or from a lode member behind it, or gives rows to it. -/
def State.serves (s : State) (id : Nat) : Bool :=
  s.chip.cores.any fun k => k.2.inflight.any fun f => f.streams.any fun x => x == id || (s.downstream id).contains x

/-- Whether nothing but a fault of its own holds a stream: its context is RUNNING, or for class 4 LOADED or RUNNING; no switch or abort holds it
(R145, R174, R375). A switch lets a stream go on that an instruction in flight still takes rows or tiles from or gives rows to,
since it waits for that instruction (R109). (log 160: DEDUCED) -/
def State.unheld (s : State) (id : Nat) (e : Rec) : Bool :=
  let st := s.flint.view
  (!s.holding || s.serves id) && !(s.chip.step.any (·.aborting)) && (st == .running || (st == .loaded && streamClass e == 4))

/-- Whether a stream starts transfers and fetches: it runs and no fault has stopped it. -/
def State.moves (s : State) (id : Nat) (e : Rec) : Bool := !(s.stream id).faulted && s.unheld id e

/-- Whether a class 4 transfer is held by its port (R350), or by its session, unless its records have started (R401, R417).
(log 78: DEDUCED) -/
def State.hostHeld (s : State) (id : Nat) (e : Rec) : Bool :=
  let h := s.host (streamHost e)
  !h.busMaster || h.d3hot || !h.linkUp ||
  ((s.stream id).sealing.isNone && s.residentCtx.any fun c => c.confidential && (Tab.find? c.sessions (streamHost e)).isNone)

/-- Why a transfer or a fetch does not go through: it is held; or, with the state as the rows before left it, it meets a stream fault, or
a word that is uncorrectable: of device memory, of a bank, of a slot it fetches. -/
inductive MoveStop where
  | wait
  | fault (code : Nat) (s : State)
  | mem (dev : Nat) (s : State)
  | bank (core bank : Nat) (s : State)
  | slot (dev : Nat) (s : State)
  deriving DecidableEq, Repr

/-- What stops a transfer, with its state changed. -/
def MoveStop.onState (f : State → State) : MoveStop → MoveStop
  | .wait => .wait
  | .fault c s => .fault c (f s)
  | .mem d s => .mem d (f s)
  | .bank c b s => .bank c b (f s)
  | .slot d s => .slot d (f s)

/-- The slot that runs: the one under way, or one that runs again and is still to be fetched. -/
def Stream.runs (t : Stream) : Option Nat := match t.running with | some r => some r.slot | none => t.again

/-- Close a confidential session: its keys are erased (R401, R403). -/
def State.closeSession (s : State) (port : Nat) : State :=
  s.modResident fun c => { c with sessions := Tab.erase c.sessions port }

/-- The class 4 streams of the resident context with work on a port whose session a fault has closed stop with 0x09, but the one that
faulted: those under way, and those with slots armed, whose next record would be under no session (R403). -/
def State.stopSealed (s : State) (port : Nat) (but : Option Nat) : State :=
  let others : List (Nat × Rec) := match s.plan? with
    | some p => p.streams.filter fun t => but != some t.1 && bit (le t.2 9 1) 7 && streamClass t.2 == 4 && streamHost t.2 == port &&
        !(s.stream t.1).faulted && ((s.stream t.1).runs.isSome || decide ((s.stream t.1).armed ≠ 0))
    | none => []
  others.foldl (fun s t => s.stopStream t.1 0x09) s

/-- A class 4 stream fault, or any stream fault (R172, R173). A fault of a confidential context's class 4 stream closes its
port's session, and every other class 4 stream of the port stops with 0x09 (R403). -/
def State.streamFault (s : State) (id code : Nat) : State :=
  match s.streamEntry id, s.residentCtx with
  | some e, some c =>
    if streamClass e = 4 ∧ c.confidential then
      ((s.stopStream id code).closeSession (streamHost e)).stopSealed (streamHost e) (some id)
    else s.faultStream id code
  | _, _ => s.faultStream id code

/-- A fault that struck no transfer of the stream leaves the one in flight to complete: the stream stops at the next transfer boundary,
with what is in flight as it stood in `t` (R172). -/
def State.spare (s t : State) (id : Nat) : State :=
  let u := t.stream id
  s.modStream id fun x => { x with running := u.running, hostBuf := u.hostBuf, sealing := u.sealing }

/-- A fault of a stream by its code: one of a fetch (0x01, 0x02, 0x0B) or of an arm link (0x08) struck no transfer. -/
def State.streamStrike (s : State) (id code : Nat) : State :=
  if [0x01, 0x02, 0x08, 0x0B].contains code then (s.streamFault id code).spare s id else s.streamFault id code

/-- Answer a transfer or a fetch that does not go through: what was moved before stays (R172). -/
def State.moveStop (s : State) (id : Nat) : MoveStop → State
  | .wait => s.modStream id fun t => { t with state := 2 }
  | .fault c t => (if c = 0x04 then t.reportUnsound else t).streamFault id c
  | .mem d t => (t.memFault d 0x20).streamFault id 0x03
  | .bank c b t => (t.bankError c b none).streamFault id 0x03
  | .slot d t => (t.memFault d 0x20).streamFault id 0x02

/-! ## Memory sides -/

/-- The check of R188 on some device ranges of a side. -/
def State.rangesOk (s : State) (write : Bool) (rs : List (Nat × Nat)) : Except MoveStop Unit :=
  match s.residentCtx with
  | none => .error (.fault 0x04 s)
  | some c =>
    let as := rs.map fun r => s.rangeCheck c write r.1 r.2
    if as.any (· == .denied) then .error (.fault 0x04 s) else if as.any (· == .held) then .error .wait else .ok ()

/-- A device read as a mover makes it, held while a channel is being retrained (R196). -/
def State.moveRead (s : State) (kind a n : Nat) : Except MoveStop (Rec × State) :=
  if kind = 0 then
    if s.retraining a n then .error .wait
    else match s.devRead a n with
      | .ok x => .ok x
      | .error (.dead d t) => .error (.mem d t)
      | .error .unmapped => .error (.fault 0x04 s)
  else
    let s := s.stir (coreDie (bits a 31 25))
    match s.scrRead (bits a 31 25) (bits a 24 0) n with
    | .ok x => .ok x
    | .error e => .error (.bank (bits a 31 25) e.bank e.s)

/-- A device or scratchpad write as a mover makes it. -/
def State.moveWrite (s : State) (kind a : Nat) (r : Rec) : Except MoveStop State :=
  if kind = 0 then
    if s.retraining a r.length then .error .wait
    else match s.devWrite a r with
      | .ok s => .ok s
      | .error (.dead d t) => .error (.mem d t)
      | .error .unmapped => .error (.fault 0x04 s)
  else
    let s := s.stir (coreDie (bits a 31 25))
    match s.scrWrite (bits a 31 25) (bits a 24 0) r with
    | .ok s => .ok s
    | .error e => .error (.bank (bits a 31 25) e.bank e.s)

/-- The ranges a plain memory side of transfer k touches, rows of `len` value bytes. -/
def Side.ranges (d : Side) (x : Xfer) (len k : Nat) : List (Nat × Nat) :=
  (List.range x.rows).flatMap fun j => let (v, f) := d.at x k j; [(v, len)] ++ (if x.sfx = 0 then [] else [(f, x.sfx)])

/-- Read row j of a memory side as value bytes and suffix bytes. -/
def State.readRow1 (d : Side) (x : Xfer) (len k : Nat) (s : State) (j : Nat) : Except MoveStop ((Rec × Rec) × State) := do
  let (va, fa) := d.at x k j
  let (v, s) ← s.moveRead d.kind va len
  let (f, s) ← if x.sfx = 0 then .ok ([], s) else s.moveRead d.kind fa x.sfx
  .ok ((v, f), s)

/-- Read the rows of a memory side. -/
def State.readRows (s : State) (d : Side) (x : Xfer) (len k : Nat) : Except MoveStop (List (Rec × Rec) × State) :=
  (List.range x.rows).foldl (fun a j => do
    let (out, s) ← a
    let (r, s) ← State.readRow1 d x len k s j
    .ok (out ++ [r], s)) (.ok ([], s))

/-- Write row j at a memory side. -/
def State.writeRow (s : State) (d : Side) (x : Xfer) (k j : Nat) (row : Rec × Rec) : Except MoveStop State := do
  let (va, fa) := d.at x k j
  let s ← s.moveWrite d.kind va row.1
  if x.sfx = 0 then .ok s else s.moveWrite d.kind fa row.2

/-- Write rows at a memory side. -/
def State.writeRows (s : State) (d : Side) (x : Xfer) (k : Nat) (rows : List (Rec × Rec)) : Except MoveStop State :=
  (rows.zipIdx).foldl (fun a r => do (← a).writeRow d x k r.2 r.1) (.ok s)

/-! ## Arena transforms (R206 to R213) -/

/-- The wide side's format (R207). -/
def wideFmt (x : Xfer) : Nat := if x.rowBytes = 32 * x.sfx then 0 else if x.rowBytes = 64 * x.sfx then 1 else 2

/-- z of an element code (R208). -/
def zigzag (f code : Nat) : Nat := let i := sgn (fmtBits f) code; if i < 0 then (-2 * i - 1).toNat else (2 * i).toNat

/-- The element code of a z. -/
def unzigzag (f z : Nat) : Nat := unsgn (fmtBits f) (if z % 2 = 0 then (z / 2 : Nat) else -((z / 2 : Nat) : Int) - 1)

/-- L(k) of a block's z values (R208). -/
def codedLength (zs : List Nat) (k : Nat) : Nat := (zs.map fun z => z / 2 ^ k + 1 + k).sum

/-- The smallest k of least coded length among 0 … w − 1. -/
def bestK (w : Nat) (zs : List Nat) : Nat :=
  (List.range w).foldl (fun b k => if codedLength zs k < codedLength zs b then k else b) 0

/-- The bits of one coded element. -/
def codedBits (k z : Nat) : List Bool := List.replicate (z / 2 ^ k) true ++ [false] ++ (List.range k).map fun i => bit z i

/-- Pack bits from bit 0 of each byte upward, the last byte padded with zeros; `n` bounds the bytes. -/
def packBits : Nat → List Bool → Rec
  | 0, _ => []
  | _, [] => []
  | n + 1, bs => BitVec.ofNat 8 (((bs.take 8).zipIdx).foldl (fun a b => a + b.1.toNat * 2 ^ b.2) 0) :: packBits n (bs.drop 8)

/-- One coded block: header byte, scale byte, bitstream or raw codes (R208). -/
def codeBlock (f : Nat) (scale : Byte) (codes : List Nat) : Rec :=
  let zs := codes.map (zigzag f)
  let k := bestK (fmtBits f) zs
  if codedLength zs k ≥ 64 * fmtBits f then [0x80, scale] ++ packCodes f [] codes
  else [BitVec.ofNat 8 k, scale] ++ packBits (codedLength zs k) (zs.flatMap (codedBits k))

/-- Read one coded element from bits `at` onward: the z and the bit after it. -/
def decodeZ (r : Rec) (k limit : Nat) : Nat → Nat → Nat → Option (Nat × Nat)
  | 0, _, _ => none
  | fuel + 1, p, q =>
    if p ≥ 8 * r.length ∨ q > limit then none
    else if bit (le r (p / 8) 1) (p % 8) then decodeZ r k limit fuel (p + 1) (q + 1)
    else if p + 1 + k > 8 * r.length then none
    else
      let z := q * 2 ^ k + (List.range k).foldl (fun a i => a + (bit (le r ((p + 1 + i) / 8) 1) ((p + 1 + i) % 8)).toNat * 2 ^ i) 0
      if z ≤ limit then some (z, p + 1 + k) else none

/-- Read `n` coded elements. -/
def decodeZs (r : Rec) (k limit : Nat) : Nat → Nat → Option (List Nat × Nat)
  | 0, p => some ([], p)
  | n + 1, p => do
    let (z, p) ← decodeZ r k limit (8 * r.length + 1) p 0
    let (zs, p) ← decodeZs r k limit n p
    some (z :: zs, p)

/-- Decode one block: scale byte, codes, the bytes after it (R211). -/
def decodeBlock (f : Nat) (r : Rec) : Option (Byte × List Nat × Rec) :=
  let h := le r 0 1
  if r.length < 2 then none
  else if h = 0x80 then
    let n := valueBytes f 64
    if r.length < 2 + n then none
    else some (r.getD 1 0, (List.range 64).map (codeAt f (r.drop 2)), r.drop (2 + n))
  else if h ≥ fmtBits f then none
  else do
    let (zs, p) ← decodeZs (r.drop 2) h (2 ^ fmtBits f - 1) 64 0
    some (r.getD 1 0, zs.map (unzigzag f), r.drop (2 + (p + 7) / 8))

/-- The coded blocks of some rows (R209). -/
def codeRows (x : Xfer) (rows : List (Rec × Rec)) : Rec :=
  let f := wideFmt x
  rows.flatMap fun r => (List.range x.sfx).flatMap fun b =>
    codeBlock f (r.2.getD b 0) ((List.range 64).map fun i => codeAt f r.1 (64 * b + i))

/-- Decode `n` blocks of a row. -/
def decodeRow (f : Nat) : Nat → Rec → Option (Rec × Rec × Rec)
  | 0, r => some ([], [], r)
  | n + 1, r => do
    let (sc, codes, r) ← decodeBlock f r
    let (v, ss, r) ← decodeRow f n r
    some (packCodes f [] codes ++ v, sc :: ss, r)

/-- Decode `n` rows. -/
def decodeRows (x : Xfer) : Nat → Rec → Option (List (Rec × Rec))
  | 0, _ => some []
  | n + 1, r => do
    let (v, ss, r) ← decodeRow (wideFmt x) x.sfx r
    let rest ← decodeRows x n r
    some ((v, ss) :: rest)

/-- A chunk's header (Table 7.4) followed by its coded blocks, unpadded. -/
def chunkOf (x : Xfer) (rows : List (Rec × Rec)) : Rec :=
  let body := codeRows x rows
  toLe 4 (16 + body.length) ++ toLe 4 x.rows ++ toLe 4 (x.sfx * 2 ^ 24 + (x.rowBytes - 1)) ++ zeros 4 ++ body

/-- Lossy narrowing of one row (R212): I4 codes, scale bytes, and the counts. -/
def narrowRow (s : State) (id slot : Nat) (x : Xfer) (k j : Nat) (r : Rec × Rec) : (Rec × Rec) × Nat × Nat :=
  let f := wideFmt x
  let site := slot % 8192 * 2 ^ 15 + id
  let step := fun (a : (Rec × Rec) × Nat × Nat) b =>
    let os := opdsOf f (some (r.2.getD b 0)) 0 ((List.range 64).map fun i => codeAt f r.1 (64 * b + i))
    let st := Machine.storeBlock 0 .fit true (fun i => s.draw 6 site (k * x.rows + j) (64 * b + i)) none (os.map Opd.val)
    ((a.1.1 ++ packCodes 0 [] (st.elems.map (elemCode 0)), a.1.2 ++ [st.scale]), a.2.1 + st.sats, a.2.2 + st.vugs)
  (List.range x.sfx).foldl step (([], []), 0, 0)

/-- Lossy widening of one row (R212): same mantissas and scale bytes, vug codes in the wide format. -/
def widenRow (x : Xfer) (r : Rec × Rec) : Rec × Rec :=
  let f := wideFmt x
  (packCodes f [] ((List.range (64 * x.sfx)).map fun i => elemCode f (mantissa 0 (codeAt 0 r.1 i))), r.2)

/-- Count a lossy narrowing on the owner's die (R213). -/
def State.arenaAdd (s : State) (id sats vugs : Nat) : State :=
  s.modChip fun h => { h with arena := Tab.upd (0, 0) h.arena (ownerDie id) fun a => (a.1 + sats, a.2 + vugs) }

/-! ## Digest slots (R169, R170) -/

/-- A digest slot of the resident context. -/
def State.digestSlot (s : State) (i : Nat) : DigestSlot :=
  match s.residentCtx with
  | some c => Tab.get { absorbed := [], closed := false, digest := [] } c.digests i
  | none => { absorbed := [], closed := false, digest := [] }

/-- Absorb bytes into a slot. -/
def State.absorb (s : State) (i : Nat) (r : Rec) : State :=
  s.modResident fun c => { c with digests := Tab.upd { absorbed := [], closed := false, digest := [] } c.digests i fun d => { d with absorbed := d.absorbed ++ r } }

/-- Close a slot. -/
def State.closeDigest (s : State) (i : Nat) : State :=
  s.modResident fun c => { c with digests := Tab.upd { absorbed := [], closed := false, digest := [] } c.digests i fun d =>
    if d.closed then d else { absorbed := [], closed := true, digest := sha3 d.absorbed } }

/-! ## The host bus (R349, R402) -/

/-- Cut a host range at the 4 KiB boundaries no request crosses (R349); `fuel` bounds the pieces. -/
def hostCuts : Nat → Nat → Nat → List (Nat × Nat)
  | 0, _, _ => []
  | fuel + 1, a, n =>
    if n = 0 then []
    else
      let m := min n (4096 - a % 4096)
      (a, m) :: hostCuts fuel (a + m) (n - m)

/-- Send host requests for a range. -/
def State.askHost (s : State) (port : Nat) (a n : Nat) : State := (hostCuts (n / 4096 + 2) a n).foldl (fun s r => s.emit (.hostRead port r.1 r.2)) s

/-- Write bytes to host memory. -/
def State.toHost (s : State) (port a : Nat) (r : Rec) : State :=
  (hostCuts (r.length / 4096 + 2) a r.length).foldl (fun s c => s.emit (.hostWrite port c.1 (slice r (c.1 - a) c.2))) s

/-- Records of one row of a confidential transfer: pieces of 4,096 bytes, or a whole pebble entry. -/
def Xfer.pieces (x : Xfer) : Nat := if x.pebble then 1 else (x.rowBytes + 4095) / 4096
/-- The length of piece r. -/
def Xfer.pieceLen (x : Xfer) (r : Nat) : Nat := if x.pebble then x.rowBytes else min 4096 (x.rowBytes - 4096 * r)

/-- Where a record's tag lies in host memory (R402). -/
def Xfer.tagAt (x : Xfer) (host : Side) (k j r : Nat) : Nat :=
  if x.pebble then host.addr + x.rowBytes else host.sfx + 16 * ((bufIndex host.buf k * x.rows + j) * x.pieces + r)

/-- The IV of a record (R402). -/
def recordIv (id : Nat) (toHost : Bool) (n : Nat) : Rec := toLe 2 (id + (if toHost then 32768 else 0)) ++ [0, 0] ++ toLe 8 n

/-- The additional data of a record (R402). -/
def recordAad (ctx : BitVec 16) (id : Nat) (toHost : Bool) (addr : Nat) : Rec :=
  toLe 2 ctx.toNat ++ toLe 2 id ++ [if toHost then 1 else 0, 0, 0, 0] ++ toLe 8 addr

/-- The row and piece of the n-th record of a transfer. -/
def Xfer.record (x : Xfer) (n : Nat) : Nat × Nat := (n / x.pieces, n % x.pieces)

/-- The record counters of a stream in the session of a port, from the host and to it (R402). -/
def State.recordCount (s : State) (port id : Nat) : Nat × Nat :=
  match s.residentCtx.bind fun c => Tab.find? c.sessions port with
  | some k => Tab.get (0, 0) k.records id
  | none => (0, 0)

/-- Change a stream's record counters in the session of a port. -/
def State.countRecords (s : State) (port id : Nat) (f : Nat × Nat → Nat × Nat) : State :=
  s.modResident fun c => match Tab.find? c.sessions port with
    | some k => { c with sessions := Tab.set c.sessions port { k with records := Tab.upd (0, 0) k.records id f } }
    | none => c

/-- Send row j of a transfer to the host: plain, or sealed records with their tags. -/
def State.sendRow (s : State) (id : Nat) (e : Rec) (x : Xfer) (k j : Nat) (row : Rec × Rec) : State :=
  let port := streamHost e
  let host := x.to
  match s.residentCtx with
  | some c =>
    if c.confidential then
      let key := ((Tab.find? c.sessions port).map (·.d2h)).getD []
      let n0 := (s.recordCount port id).2
      let send := fun (s : State) (r : Nat) =>
        let bytes := slice row.1 (4096 * r) (x.pieceLen r)
        let dev := (x.from.at x k j).1 + 4096 * r
        let (cipher, tag) := Config.aesGcmSeal key (recordIv id true (n0 + r)) (recordAad c.id id true dev) bytes
        (s.toHost port ((host.at x k j).1 + 4096 * r) cipher).toHost port (x.tagAt host k j r) tag
      ((List.range x.pieces).foldl send s).countRecords port id fun n => (n.1, n0 + x.pieces)
    else
      let (va, fa) := host.at x k j
      (s.toHost port va row.1).toHost port fa row.2
  | none => s

/-- Request a transfer's host bytes: values row by row, then suffixes; in confidential mode each record and its tag. (log 79: DEDUCED) -/
def State.askRows (s : State) (id : Nat) (e : Rec) (x : Xfer) (k : Nat) : State :=
  let port := streamHost e
  let host := x.from
  if s.residentCtx.any (·.confidential) then
    let m := x.rows * x.pieces
    let ask := fun (s : State) (n : Nat) =>
      let (j, r) := x.record n
      (s.askHost port ((host.at x k j).1 + 4096 * r) (x.pieceLen r)).askHost port (x.tagAt host k j r) 16
    let start := (((s.residentCtx.bind fun c => Tab.find? c.sessions port).map (·.h2d)).getD [], (s.recordCount port id).1)
    (((List.range m).foldl ask s).modStream id fun t => { t with sealing := some start }).countRecords port id fun n => (n.1 + m, n.2)
  else
    let s := (List.range x.rows).foldl (fun s j => s.askHost port (host.at x k j).1 x.rowBytes) s
    if x.sfx = 0 then s else (List.range x.rows).foldl (fun s j => s.askHost port (host.at x k j).2 x.sfx) s

/-- The rows received from the host for a transfer, when every byte is in. -/
def hostRows (x : Xfer) (buf : Rec) : Option (List (Rec × Rec)) :=
  if buf.length < x.rows * (x.rowBytes + x.sfx) then none
  else some ((List.range x.rows).map fun j => (slice buf (j * x.rowBytes) x.rowBytes, slice buf (x.rows * x.rowBytes + j * x.sfx) x.sfx))

/-! ## Fetching (R154, R157, R160) -/

/-- The transfers a stream has ahead of it, as (slot, descriptor): the running slot, then those fetched. -/
def Stream.slots (t : Stream) : List (Nat × Rec) := (t.running.map fun r => (r.slot, r.desc)).toList ++ t.fetched

/-- Read a slot's content from its ring. An uncorrectable word is a memory fault too (R184). (log 74: DEDUCED) -/
def State.readSlot (s : State) (id : Nat) (e : Rec) (slot : Nat) : Except MoveStop (Rec × State) :=
  let n := if pebbleRing e then 16 else 64
  let a := bits (le e 0 8) 47 0 + n * slot
  match s.rangesOk false [(a, n)] with
  | .error x => .error x
  | .ok () => match s.devRead a n with
    | .ok (d, s) =>
      if pebbleRing e then (if pebbleBad id e d then .error (.fault 0x0B s) else .ok (d, s))
      else if descBad (streamClass e) id d then .error (.fault 0x01 s) else .ok (d, s)
    | .error (.dead d t) => .error (.slot d t)
    | .error .unmapped => .error (.fault 0x04 s)

/-- Fetch up to `n` consecutive armed slots that are not yet fetched. -/
def State.fetchSlots (id : Nat) (e : Rec) : Nat → State → State
  | 0, s => s
  | n + 1, s =>
    let t := s.stream id
    let ahead := t.running.isSome.toNat + t.fetched.length
    if ahead ≥ t.armed ∨ t.again.isSome then s
    else
      let slot := (t.head + ahead) % ringSize e
      match s.readSlot id e slot with
      | .ok (d, s) => State.fetchSlots id e n (s.modStream id fun t => { t with fetched := t.fetched ++ [(slot, d)] })
      | .error .wait => s
      | .error x => (s.moveStop id x).spare s id

/-- Of some descriptors, those that `n` transfers started in ring order have not reached. -/
def unreached (e : Rec) : List (Nat × Rec) → Nat → Nat
  | [], _ => 0
  | (_, d) :: r, n => (decide (n = 0)).toNat + unreached e r (n - (xferOf e d).count)

/-- Descriptors on chip that no transfer has been started of (R154). A collective stream starts transfers of slots fetched ahead too
(R249). -/
def Stream.unstarted (e : Rec) (t : Stream) : Nat := unreached e t.slots ((t.running.map (·.started)).getD 0)

/-- The words of the running descriptor as it is held on chip (R146): a single error is corrected, an uncorrectable word faults. -/
def State.checkDesc (s : State) (id slot : Nat) : Option State :=
  let ws := (List.range 4).map (4 * slot + ·)
  if ws.any fun w => (settle ((s.stream id).descFlips.get w)).isNone then none
  else if (s.stream id).descFlips.isEmpty then some s
  else some (s.modStream id fun t => { t with descFlips := ws.foldl (fun f w => f.set w 0) t.descFlips })

/-- The batch of a class's path (R142). -/
def State.batch (s : State) (cls : Nat) : Nat := match bits s.cfg.paths (2 * cls + 1) (2 * cls) with | 0 => 8 | 1 => 16 | _ => 32

/-- Start the next fetched slot when none runs; a stream that a fault stopped starts none (R172). -/
def Stream.prime (t : Stream) : Stream :=
  match t.faulted, t.running, t.fetched with
  | false, none, (slot, d) :: rest => { t with running := some { slot := slot, desc := d, started := 0, done := 0 }, fetched := rest, state := 1 }
  | _, _, _ => t

/-! ## Arming (R158 to R162) -/

/-- Fetch again the slot that a re-arm runs again, and run it at once (R160), or the running slot whose descriptor a context switch
discarded (R174); what holds the fetch leaves it to the next one. -/
def State.fetchAgain (s : State) (id : Nat) (e : Rec) : State :=
  let read := fun (x : Nat) (put : Rec → Stream → Stream) =>
    match s.readSlot id e x with
    | .ok (d, s) => s.modStream id (put d)
    | .error .wait => s
    | .error m => (s.moveStop id m).spare s id
  if !s.moves id e then s
  else match (s.stream id).again, (s.stream id).running with
    | some x, _ => read x fun d t => ({ t with again := none, fetched := (x, d) :: t.fetched }).prime
    | none, some r => if r.stale then read r.slot fun d t => { t with running := some { r with desc := d, stale := false } } else s
    | none, none => s

/-- Apply an arm or re-arm word that its checks have passed: the reply code of R159 or R160, or the state. -/
def State.applyArm (s : State) (id : Nat) (e : Rec) (w : Word64) : Except Nat State :=
  let t := s.stream id
  if fieldOf w 31 30 = 0 then
    let n := fieldOf w 47 32 + 1
    if t.armed + n > ringSize e then .error 6 else .ok (s.modStream id fun t => { t with armed := t.armed + n })
  else
    let x := fieldOf w 63 48
    match t.runs with
    | some y =>
      if y = x ∧ !t.faulted then (if t.rearm then .error 1 else .ok (s.modStream id fun t => { t with rearm := true }))
      else .error 9
    | none =>
      if t.armed = 0 ∧ !t.faulted ∧ t.last = some x then
        .ok ((s.modStream id fun t => { t with head := x, armed := 1, fetched := [], again := some x }).fetchAgain id e)
      else .error 9

/-- Row 2 of Table 5.8: whether an arm word is invalid in itself. -/
def armBad (w : Word64) : Bool :=
  let op := fieldOf w 31 30
  decide (op ≥ 2) || decide (fieldOf w 29 15 ≠ 0) || (op == 0 && decide (fieldOf w 63 48 ≠ 0)) || (op == 1 && decide (fieldOf w 47 32 ≠ 0))

/-- Rows 2 to 5 of Table 5.8 for an arm from a host port, directly or by ARM_STREAM. (log 77: DEDUCED) -/
def State.armFrom (s : State) (port : Nat) (w : Word64) : Except Nat State :=
  let id := fieldOf w 14 0
  match s.streamEntry id with
  | none => .error 3
  | some e =>
    if armBad w then .error 3
    else if !bit (le e 9 1) 5 || (if streamClass e = 4 then streamHost e != port else s.flint.owner != some port) then .error 4
    else if streamClass e ≠ 4 ∧ s.flint.view ≠ .running then .error 2
    else (s.stir (ownerDie id)).applyArm id e w

/-- A refused doorbell arm is recorded in the stream status register (Table 5.9). -/
def State.armRefused (s : State) (id code : Nat) : State :=
  ((s.setBit (.streamStatus id) 62).setField (.streamStatus id) 61 58 code)

/-- A doorbell arm word (Table 5.8): dropped under row 1; held during a switch (Table 11.16). (log 27: DEDUCED) -/
def State.doorbellArm (s : State) (port : Nat) (w : Word64) : State :=
  let id := fieldOf w 14 0
  let st := s.flint.view
  if s.holding then s.modFlint fun f => { f with heldArms := f.heldArms ++ [(port, w)] }
  else if !(st == .loaded || st == .running) || s.plan?.isNone then s.violation port 0x01
  else match s.armFrom port w with
    | .ok s => s
    | .error c =>
      if (s.streamEntry id).isNone then (s.raiseOn port 5).violation port 0x02
      else (s.armRefused id c).raiseOn port 5

/-- An arm link (R162): rows 2, 4 and 5; a refused one is recorded as a refused arm word (Table 5.9) and stops its target stream with
0x08. The arm is a handshake at the target's mover (R33). Of a link to an absent stream, which only a descriptor the host wrote after
load can hold, the manual says nothing: it arms nothing. (log 186: DESIGN CHOICE) -/
def State.linkArm (s : State) (id : Nat) : State :=
  match s.streamEntry id with
  | none => s
  | some e =>
    let s := s.stir (ownerDie id)
    if streamClass e ≠ 4 ∧ s.flint.view ≠ .running then (s.armRefused id 2).streamStrike id 0x08
    else match s.applyArm id e 0 with
      | .ok s => s
      | .error c => (s.armRefused id c).streamStrike id 0x08

/-! ## The end of a transfer -/

/-- The slot's last transfer has completed (R158, R160, R161): the digest closes, the linked stream is armed; a pending
re-arm fetches the slot again, else the slot is left. -/
def State.slotDone (s : State) (id : Nat) (e : Rec) (x : Xfer) (r : Running) : State :=
  let s := if x.final then s.closeDigest x.slot else s
  let s :=
    if (s.stream id).rearm then
      (s.modStream id fun t => { t with rearm := false, running := none, last := some r.slot, again := some r.slot }).fetchAgain id e
    else s.modStream id fun t =>
      { t with running := none, last := some r.slot, head := (t.head + 1) % ringSize e, armed := t.armed - 1,
               state := if t.armed ≤ 1 then 0 else 1 }
  if x.link then s.linkArm x.linkTo else s

/-- A transfer is in place: its signal is sent, or waits for room; then it counts as completed (R151, R172). -/
def State.finishTransfer (s : State) (id : Nat) (e : Rec) : State :=
  match (s.stream id).running with
  | none => s
  | some r =>
    let x := xferOf e r.desc
    match (if x.signal then s.signalTokens x.sigQ.1 x.sigQ.2 1 else some s) with
    | none => s.modStream id fun t => { t with signalled := 1, state := 2, offered := false }
    | some s =>
      let s := s.modStream id fun t =>
        { t with signalled := 0, gated := false, offered := false, hostBuf := [], sealing := none, completed := t.completed + 1, state := 1, running := some { r with done := r.done + 1 } }
      if r.done + 1 = x.count then s.slotDone id e x { r with done := r.done + 1 } else s

end Sys2Proof.Machine
end

