-- ==== Sys2Proof/Machine/Streams.lean ====
section
/-! DEFINITION. What happens on a stream (R140 to R174): arms and re-arms, fetches, the start and the completion of a
transfer, faults and their clearing, the lode chain's accept and forward. -/

namespace Sys2Proof.Machine

/-! ## Moving the rows of a transfer -/

/-- The device ranges of a transfer's plain memory sides, as (write, ranges). -/
def xferRanges (cls : Nat) (x : Xfer) (k : Nat) : List (Nat × Nat) × List (Nat × Nat) :=
  let lenS := if x.transform = 2 ∧ cls = 0 then 32 * x.sfx else x.rowBytes
  let lenD := if x.transform = 2 ∧ cls ≠ 0 then 32 * x.sfx else x.rowBytes
  (if x.src = 0 ∧ !packedSrc cls x then x.from.ranges x lenS k else [], if x.dst = 0 ∧ !packedDst cls x then x.to.ranges x lenD k else [])

/-- R188: both sides of a transfer are checked before its first byte moves. -/
def State.sidesOk (s : State) (cls : Nat) (x : Xfer) (k : Nat) : Except MoveStop Unit := do
  s.rangesOk false (xferRanges cls x k).1
  s.rangesOk true (xferRanges cls x k).2

/-- Rows an engine's drain has put on the flow side (R155). -/
def State.flowRows (s : State) (id : Nat) (x : Xfer) : Except MoveStop (List (Rec × Rec) × State) :=
  let rows := (s.stream id).flow.take x.rows
  if rows.length < x.rows then .error .wait
  else .ok (rows.map fun r => (r.take x.rowBytes, r.drop x.rowBytes), s.modStream id fun t => { t with flow := t.flow.drop x.rows })

/-- Decompress transfer k (R211): the directory entry, the chunk it names, its rows. The rule names rows and row shape; a directory entry
whose chunk bytes are not the header's, or whose bits [63:48] are set against Table 7.4, disagrees too, and reserved bytes are not read.
(log 187: DESIGN CHOICE) -/
def State.unpackRows (s : State) (x : Xfer) (k : Nat) : Except MoveStop (List (Rec × Rec) × State) := do
  let dir := x.srcSfx + 16 * k
  s.rangesOk false [(dir, 16)]
  let (d, s) ← s.moveRead 0 dir 16
  let a := le d 0 6
  let n := le d 8 4
  s.rangesOk false [(a, max n 16)]
  let (chunk, s) ← s.moveRead 0 a (max n 16)
  if le d 6 2 ≠ 0 ∨ le chunk 0 4 ≠ n ∨ le chunk 4 4 ≠ x.rows ∨ le chunk 8 4 ≠ x.sfx * 2 ^ 24 + (x.rowBytes - 1) then .error (.fault 0x03 s)
  else match decodeRows x x.rows (chunk.drop 16) with
    | some rows => .ok (rows, s)
    | none => .error (.fault 0x03 s)

/-- Where the chunk of transfer k goes: the destination address for a first transfer that gives one, else the arena cursor (R210). -/
def State.chunkAt (s : State) (id : Nat) (x : Xfer) (k : Nat) : Nat :=
  if k = 0 ∧ x.dstAddr ≠ 0 then x.dstAddr else ((s.stream id).cursor).getD 0

/-- Compress transfer k to the stream's arena cursor, with its directory entry (R209, R210): the bytes written. -/
def State.packRows (s : State) (id : Nat) (x : Xfer) (k : Nat) (rows : List (Rec × Rec)) : Except MoveStop (Rec × State) := do
  let chunk := chunkOf x rows
  let padded := chunk ++ zeros ((64 - chunk.length % 64) % 64)
  let at' := s.chunkAt id x k
  let dir := x.dstSfx + 16 * k
  s.rangesOk true [(at', padded.length), (dir, 16)]
  let entry := toLe 8 at' ++ toLe 4 chunk.length ++ zeros 4
  let s ← s.moveWrite 0 at' padded
  let s ← s.moveWrite 0 dir entry
  .ok (padded ++ entry, s.modStream id fun t => { t with cursor := some (at' + padded.length) })

/-- The rows of a transfer that stand together at its source: on a flow side, in the host's completions, in a chunk. None for a plain
memory side, which is read row by row. -/
def State.rowsReady (s : State) (id cls : Nat) (x : Xfer) (k : Nat) : Except MoveStop (Option (List (Rec × Rec)) × State) :=
  if x.src = 3 then (s.flowRows id x).map fun r => (some r.1, r.2)
  else if x.src = 2 then match hostRows x (s.stream id).hostBuf with
    | some rows => .ok (some rows, s)
    | none => .error .wait
  else if packedSrc cls x then (s.unpackRows x k).map fun r => (some r.1, r.2)
  else .ok (none, s)

/-- Row j at the source, as the source holds it. -/
def State.sourceRow (s : State) (cls : Nat) (x : Xfer) (k j : Nat) : Option (List (Rec × Rec)) → Except MoveStop ((Rec × Rec) × State)
  | some rows => .ok (rows.getD j ([], []), s)
  | none => State.readRow1 x.from x (if x.transform = 2 ∧ cls = 0 then 32 * x.sfx else x.rowBytes) k s j

/-- Row j as the destination takes it: copied (R63), narrowed or widened (R212). -/
def State.convert (s : State) (id cls slot : Nat) (x : Xfer) (k j : Nat) (row : Rec × Rec) : (Rec × Rec) × State :=
  if x.transform ≠ 2 then (row, s)
  else if cls = 0 then (widenRow x row, s)
  else
    let (r, sats, vugs) := narrowRow s id slot x k j row
    (r, s.arenaAdd id sats vugs)

/-- Put row j in place at the destination. A flow side is offered it (R155). -/
def State.placeRow (s : State) (id : Nat) (e : Rec) (x : Xfer) (k j : Nat) (row : Rec × Rec) : Except MoveStop State :=
  if x.dst = 3 then .ok (s.modStream id fun t => { t with flow := t.flow ++ [row.1 ++ row.2] })
  else if x.dst = 2 then .ok (s.sendRow id e x k j row)
  else s.writeRow x.to x k j row

/-- Move row j of transfer k: rows before it are in place (R172). -/
def State.moveRow (id slot : Nat) (e : Rec) (x : Xfer) (k : Nat) (ready : Option (List (Rec × Rec))) (s : State) (j : Nat) : Except MoveStop State := do
  let cls := streamClass e
  let (row, s) ← s.sourceRow cls x k j ready
  let (row, s) := s.convert id cls slot x k j row
  let s ← s.placeRow id e x k j row
  .ok (if x.digest then s.absorb x.slot (row.1 ++ row.2) else s)

/-- Move transfer k of a running slot (R151 stage 2), whose memory sides were checked when it started (R188, R417). A compressed transfer
is written as one chunk. -/
def State.moveRows (s : State) (id : Nat) (e : Rec) (x : Xfer) (r : Running) : Except MoveStop State := do
  let cls := streamClass e
  let k := r.done
  if x.digest && (s.digestSlot x.slot).closed then .error (.fault 0x0C s)
  let (ready, s) ← s.rowsReady id cls x k
  if packedDst cls x then
    let (rows, s) ← match ready with
      | some rows => .ok (rows, s)
      | none => s.readRows x.from x x.rowBytes k
    let (bytes, s) ← s.packRows id x k rows
    .ok (if x.digest then s.absorb x.slot bytes else s)
  else (List.range x.rows).foldlM (State.moveRow id r.slot e x k ready) s

/-! ## The lode chain (R164 to R168) -/

/-- The chain a stream is the head or a member stream of. -/
def State.chainOf (s : State) (id : Nat) : Option (Nat × List Nat) :=
  s.plan?.bind fun p => p.lodes.find? fun c => c.1 == id || c.2.contains id

/-- The stream before a member in its chain. -/
def upstreamOf (c : Nat × List Nat) (id : Nat) : Nat :=
  match c.2.idxOf? id with
  | some 0 => c.1
  | some n => c.2.getD (n - 1) c.1
  | none => c.1

/-- The member stream after one in its chain. -/
def nextMember (c : Nat × List Nat) (id : Nat) : Option Nat := ((c.2.dropWhile (· ≠ id)).drop 1).head?

/-- The tiles in a member's lode buffer. -/
def State.lodeTiles (s : State) (id : Nat) : List LodeTile := Tab.get [] s.chip.lode id

/-- Set a member's tiles; slots whose tile is forwarded (or the member last) and taken are freed (R167). -/
def State.setLode (s : State) (id : Nat) (ts : List LodeTile) : State :=
  let last := match s.chainOf id with | some c => (nextMember c id).isNone | none => true
  s.modChip fun h => { h with lode := Tab.set h.lode id (ts.filter fun t => !(t.taken && (t.forwarded || last))) }

/-- Mark the first tile of a list that satisfies a condition. -/
def markFirst (p : LodeTile → Bool) (f : LodeTile → LodeTile) : List LodeTile → List LodeTile
  | [] => []
  | t :: ts => if p t then f t :: ts else t :: markFirst p f ts

/-- Read the head's tile onto the chain: 64 rows of value bytes and suffix byte (R165). (log 76: DESIGN CHOICE) -/
def State.headTile (s : State) (id : Nat) (x : Xfer) (k : Nat) : Except MoveStop State := do
  s.rangesOk false (x.from.ranges x x.rowBytes k)
  let (rows, s) ← s.readRows x.from x x.rowBytes k
  .ok (s.modStream id fun t => { t with flow := [rows.flatMap fun r => r.1 ++ r.2] })

/-- A member passes a tile or gives it to the weight load that names its stream (R166). -/
def State.takeTile (s : State) (id : Nat) (x : Xfer) : Except MoveStop State :=
  match (s.lodeTiles id).find? fun t => !t.taken with
  | none => .error .wait
  | some t =>
    let taken := s.setLode id (markFirst (fun t => !t.taken) (fun t => { t with taken := true }) (s.lodeTiles id))
    if x.dst = 6 then .ok taken
    else match ownerCore id with
      | none => .error .wait
      | some c =>
        match (s.core c).inflight.findSome? fun f => match f.work with
          | .load l => if (refAt l.source 0).stream = some id ∧ f.stopped.isNone ∧ l.tiles.length < l.unit.r * l.unit.c then some (f.id, l) else none
          | _ => none with
        | none => .error .wait
        | some (fid, l) =>
          if valueBytes l.fmt 64 ≠ x.rowBytes then .error (.fault 0x05 s)
          else .ok (taken.modFlight c fid fun f => { f with work := .load { l with tiles := l.tiles ++ [t.bytes] } })

/-! ## Which dies a stream crosses (R11, R330) -/

/-- The adjacent die that a stream's traffic between two dies passes through: for a diagonal pair the one the plan settings record names
(Table 12.2), or with the descriptor's diagonal route bit (Table 5.4) the other. -/
def State.streamVia (s : State) (diag : Bool) (a b : Nat) : Option Nat :=
  if a + b ≠ 3 then none
  else
    let outer := decide (a = 0 ∨ b = 0)
    let second := (match s.plan? with | some p => bit (le p.settings 1 1) (if outer then 0 else 1) | none => false) != diag
    some (if outer then (if second then 2 else 1) else (if second then 3 else 0))

/-- The device ranges a side of transfer k stands at: its rows; for a compressed side the directory entry, and the chunk it names or the
cursor its chunk goes to (R210, R211), which lie in one window with what follows. -/
def State.sideRanges (s : State) (id : Nat) (e : Rec) (d : Side) (x : Xfer) (k : Nat) : List (Nat × Nat) :=
  let dir := d.sfx + 16 * k
  if d = x.from ∧ packedSrc (streamClass e) x then
    [(dir, 16), (ofLe ((List.range 6).map fun i => match s.keyOf (dir + i) with | some m => s.devmem.read m | none => 0), 1)]
  else if d = x.to ∧ packedDst (streamClass e) x then [(s.chunkAt id x k, 1), (dir, 16)]
  else d.ranges x x.rowBytes k

/-- The dies that hold a memory side of transfer k, or the die of a host port or of the engine or lode end. -/
def State.sideDies (s : State) (id : Nat) (e : Rec) (d : Side) (x : Xfer) (k : Nat) : List Nat :=
  match d.kind with
  | 0 => ((s.sideRanges id e d x k).flatMap fun r => (spanPages r.1 r.2).filterMap fun p => (s.keyOf p).map fun m => devDie (m / 2 ^ 36)).eraseDups
  | 1 => [coreDie (bits d.addr 31 25)]
  | 2 => [2 * streamHost e]
  | _ => [ownerDie id]

/-- Whether row j of transfer k stands on the die of the stream's flow side, so that it crosses no edge (R331). -/
def State.rowNear (s : State) (id : Nat) (e : Rec) (x : Xfer) (k j : Nat) : Bool :=
  if x.from.kind = 0 ∧ !packedSrc (streamClass e) x then
    match s.keyOf (x.from.at x k j).1 with
    | some m => devDie (m / 2 ^ 36) == ownerDie id
    | none => true
  else s.sideDies id e x.from x k == [ownerDie id]

/-- The hops, each as sending die and receiving die, that a stream's words make from one die to another. -/
def State.hopsOf (s : State) (diag : Bool) (a b : Nat) : List (Nat × Nat) :=
  if a = b then []
  else match s.streamVia diag a b with
    | some v => [(a, v), (v, b)]
    | none => [(a, b)]

/-- The hops of a stream: those of the transfer that runs, and the hop to the next member of its lode chain, which the plan settings
alone route (R11, R164). -/
def State.streamHops (s : State) (id : Nat) : List (Nat × Nat) :=
  match s.streamEntry id with
  | none => []
  | some e =>
    let own := match (s.stream id).running with
      | some r =>
        let x := xferOf e r.desc
        (s.sideDies id e x.from x r.done).flatMap fun a => (s.sideDies id e x.to x r.done).flatMap fun b => s.hopsOf x.diag a b
      | none => []
    let next := match s.chainOf id with
      | some c => if c.1 = id then c.2.head? else nextMember c id
      | none => none
    own ++ (match next with | some m => s.hopsOf false (ownerDie id) (ownerDie m) | none => [])

/-- The dies that the two sides of the transfer that runs stand on. -/
def State.streamDies (s : State) (id : Nat) : List Nat :=
  match s.streamEntry id, (s.stream id).running with
  | some e, some r => let x := xferOf e r.desc; s.sideDies id e x.from x r.done ++ s.sideDies id e x.to x r.done
  | _, _ => []

/-- The dies that a transfer is presented to: every die it starts from, passes or reaches; a handshake wakes each (R33). -/
def State.stirHops (s : State) (id : Nat) : State :=
  (ownerDie id :: s.streamDies id ++ (s.streamHops id).flatMap fun h => [h.1, h.2]).eraseDups.foldl State.stir s

/-! ## Starting and completing a transfer -/

/-- A transfer is under way. -/
def State.countStarted (s : State) (id : Nat) (r : Running) : State :=
  s.modStream id fun t => { t with state := 1, running := some { r with started := r.started + 1 } }

/-- A transfer that has passed its gate is under way once its memory sides pass their check: host data is asked for, a lode head's tile read. -/
def State.openTransfer (s : State) (id : Nat) (e : Rec) (x : Xfer) (r : Running) : State :=
  if streamClass e = 5 then s.countStarted id r
  else match s.sidesOk (streamClass e) x r.done with
    | .error m => s.moveStop id m
    | .ok () =>
      if x.src = 2 then (s.countStarted id r).askRows id e x r.done
      else if x.dst = 5 then match s.headTile id x r.done with
        | .ok s => s.countStarted id r
        | .error m => s.moveStop id m
      else s.countStarted id r

/-- Start the next transfer of a stream (R151 stage 1): the descriptor's words are read from the chip (R146), the gate's token is taken,
host data asked for, a lode head's tile read. A transfer its host holds (R350) stands at no gate, signal or flow side: the stream
shows running. (log 75: DESIGN CHOICE) -/
def startTransfer (id : Nat) (s : State) : State :=
  match s.streamEntry id with
  | none => s
  | some e =>
    if !s.moves id e then s
    else
      let s := (s.stir (ownerDie id)).modStream id Stream.prime
      match (s.stream id).running with
      | none => s
      | some r =>
        let x := xferOf e r.desc
        let cls := streamClass e
        if r.stale ∨ r.started ≠ (if cls = 5 then r.started else r.done) ∨ r.started ≥ x.count then s
        else if cls = 4 ∧ s.hostHeld id e then s.modStream id fun t => { t with state := 1 }
        else match s.checkDesc id r.slot with
        | none => s.streamFault id 0x02
        | some s =>
          let s := s.stirHops id
          match (if x.gate && !(s.stream id).gated then (s.stir (coreDie x.gateQ.1)).waitTokens x.gateQ.1 x.gateQ.2 1 else some s) with
          | none => s.moveStop id .wait
          | some s => (s.modStream id fun t => { t with gated := x.gate }).openTransfer id e x r

/-- Put the transfer in flight in place and end it (R151 stages 2 and 3). Toward an engine the rows are offered first, and the transfer
ends once the engine has taken them all (R155). (log 75: DESIGN CHOICE) -/
def completeTransfer (id : Nat) (s : State) : State :=
  match s.streamEntry id, (s.stream id).running with
  | some e, some r =>
    let x := xferOf e r.desc
    let cls := streamClass e
    if !(s.unheld id e || s.holding) || r.stale || cls == 5 || r.started ≤ r.done then s
    else if (s.stream id).signalled = 1 then s.finishTransfer id e
    else if (s.stream id).offered then (if (s.stream id).flow.isEmpty then s.finishTransfer id e else s)
    else if cls = 4 ∧ s.hostHeld id e then s
    else match s.checkDesc id r.slot with
    | none => s.streamFault id 0x02
    | some s =>
      let s := s.stirHops id
      match (if x.dst = 5 then (if (s.stream id).flow.isEmpty then .ok s else .error .wait)
             else if x.src = 5 then s.takeTile id x
             else s.moveRows id e x r) with
      | .ok s => if x.dst = 3 ∧ x.src ≠ 5 then
          let near := (List.range x.rows).map (s.rowNear id e x r.done)
          s.modStream id fun t => { t with offered := true, state := 2, near := near }
        else s.finishTransfer id e
      | .error m => s.moveStop id m
  | _, _ => s

/-! ## Clearing a class 4 fault (R173) -/

/-- The fault bit is cleared: a class 4 stream leaves the stopped state. The slot that stopped is the one under way, else the one at the
head, even where what stopped it was the fetch of a slot after them; a transfer still in flight is left unwritten. (log 185: DESIGN CHOICE) -/
def State.clearFault (s : State) (id : Nat) : State :=
  let s := s.setField (.streamStatus id) 63 63 0
  match s.streamEntry id with
  | some e =>
    if streamClass e = 4 ∧ (s.stream id).faulted then
      s.modStream id fun t =>
        let slot := (t.running.map (·.slot)).getD t.head
        { t with faulted := false, state := 0, armed := 0, rearm := false, running := none, fetched := [], hostBuf := [], sealing := none, signalled := 0, gated := false,
                 offered := false, again := none, descFlips := [],
                 last := some slot, head := (slot + 1) % ringSize e }
    else s
  | none => s

/-! ## Meanings -/

/-- An arm word by its source (R158). -/
def State.armWord (s : State) (src : ArmSource) (w : Word64) : State :=
  match src with
  | .doorbell p => s.doorbellArm p w
  | .link => s.linkArm (fieldOf w 14 0)
  | .flint p => match s.armFrom p w with
    | .ok s => s
    | .error _ => s

/-- STREAM_ARM (R159): an arm word; a word whose operation field is 1 is a re-arm, of the next row. -/
def execStreamArm (src : ArmSource) (w : Word64) (s : State) : Host.Outcome State Fault Refusal :=
  .next (if fieldOf w 31 30 = 1 then s else s.armWord src w)

/-- STREAM_REARM (R160). -/
def execStreamRearm (src : ArmSource) (w : Word64) (s : State) : Host.Outcome State Fault Refusal :=
  .next (if fieldOf w 31 30 = 1 then s.armWord src w else s)

/-- STREAM_FAULT_CLEAR (R173). -/
def execStreamFaultClear (stream : Nat) (s : State) : Host.Outcome State Fault Refusal :=
  .next (if (s.reg (.streamStatus stream)).getLsbD 63 then s.clearFault stream else s)

/-- DESCRIPTOR_FETCH (R154): a burst, when fewer than half a batch stand unstarted and armed, unfetched slots remain; a slot that runs
again is fetched first (R160). -/
def execDescriptorFetch (stream : Nat) (s : State) : Host.Outcome State Fault Refusal :=
  .next (match s.streamEntry stream with
    | some e =>
      let n := s.batch (streamClass e)
      if s.moves stream e && !pebbleRing e && decide (2 * (s.stream stream).unstarted e < n) then
        (State.fetchSlots stream e n ((s.stir (ownerDie stream)).fetchAgain stream e)).modStream stream Stream.prime
      else s
    | none => s)

/-- PEBBLE_LINE_FETCH (R157): the armed entries of one 64-byte line. -/
def execPebbleLineFetch (stream : Nat) (s : State) : Host.Outcome State Fault Refusal :=
  .next (match s.streamEntry stream with
    | some e =>
      let t := s.stream stream
      let slot := (t.head + t.running.isSome.toNat) % ringSize e
      if s.moves stream e && pebbleRing e && t.fetched.isEmpty then
        (State.fetchSlots stream e (4 - slot % 4) ((s.stir (ownerDie stream)).fetchAgain stream e)).modStream stream Stream.prime
      else s
    | none => s)

/-- STREAM_FAULT (R172): a fault struck the stream's mover. -/
def execStreamFault (stream code : Nat) (s : State) : Host.Outcome State Fault Refusal :=
  .next (if (s.streamEntry stream).isSome && !(s.stream stream).faulted then s.streamStrike stream code else s)

/-- LODE_TILE_ACCEPT (R167): a member takes the tile its upstream offers into a free slot of its 8. (log 31: DEDUCED) -/
def execLodeTileAccept (stream : Nat) (s : State) : Host.Outcome State Fault Refusal :=
  .next (match s.chainOf stream, s.streamEntry stream with
    | some c, some e =>
      let up := upstreamOf c stream
      match (s.stream up).flow with
      | img :: rest =>
        if (s.moves stream e || s.holding) && c.2.contains stream && decide ((s.lodeTiles stream).length < 8) then
          let s := s.stir (ownerDie stream)
          (s.setLode stream (s.lodeTiles stream ++ [{ bytes := img, forwarded := false, taken := false }])).modStream up fun t => { t with
            flow := rest, landed := if ownerDie up = ownerDie stream then t.landed else t.landed - img.length }
        else s
      | [] => s
    | _, _ => s)

/-- LODE_TILE_FORWARD (R167): the oldest tile not yet forwarded goes to the next member once it has a free slot. -/
def execLodeTileForward (stream : Nat) (s : State) : Host.Outcome State Fault Refusal :=
  .next (match s.chainOf stream, s.streamEntry stream with
    | some c, some e =>
      match nextMember c stream, (s.lodeTiles stream).find? fun t => !t.forwarded with
      | some n, some t =>
        if s.moves stream e && (s.stream stream).flow.isEmpty && decide ((s.lodeTiles n).length < 8) then
          let s := (s.stirHops stream).stir (ownerDie n)
          (s.setLode stream (markFirst (fun t => !t.forwarded) (fun t => { t with forwarded := true }) (s.lodeTiles stream))).modStream stream
            fun x => { x with flow := [t.bytes] }
        else s
      | _, _ => s
    | _, _ => s)

end Sys2Proof.Machine
end

