-- ==== Sys2Proof/Machine/Ring.lean ====
section
/-! DEFINITION. The wire side of the ring: words and flits leaving a port (R286, R287, R290, R316), class buffers and stop
(R264 to R266), routes and forwarding (R267 to R269), member links (R260 to R262), peer violations (Table 8.14). -/

namespace Sys2Proof.Machine

/-! ## Codewords (R285, R288) -/

/-- The control field of a port's next codeword (Table 9.2). -/
def OPort.control (o : OPort) (type : Nat) : BitVec 20 := BitVec.ofNat 20 (type * 2 ^ 18 + o.stopping.toNat * 2 ^ 16 + o.txCounter % 65536)

/-- Send a codeword, with what each channel carries of it (R284); the counter goes on by one. -/
def State.sendCodeword (s : State) (p type : Nat) (content : Rec) : State :=
  let ctl := (s.oport p).control type
  (s.emit (.codeword p ctl content (rsLines ctl content))).modOport p fun o => { o with txCounter := (o.txCounter + 1) % 65536 }

/-- This chip's identity on a port, as Table 9.4 lays it out (R310, R370). -/
def State.ownIdentity (s : State) (p : Nat) : BitVec 32 :=
  BitVec.ofNat 32 (s.fabricValid.toNat * 2 ^ 22 + p * 2 ^ 17 + (if s.fabricValid then s.fabric.toNat else 0))

/-- The requests a port has to make (Table 9.4): dormancy, the grant of it, a wake. -/
def OPort.requests (o : OPort) : Nat := o.dormantAsked.toNat + 2 * o.grantDue.toNat + 4 * (o.peerDormant && o.wakeAsked).toNat

/-- The content of a management codeword (Table 9.4). -/
def State.managementContent (s : State) (p : Nat) : Rec :=
  let o := s.oport p
  ((List.range 16).map fun n => BitVec.ofNat 8 (unsgn 8 (s.ochan p n).m)) ++ toLe 4 (s.ownIdentity p).toNat ++
    [BitVec.ofNat 8 o.state, BitVec.ofNat 8 o.requests] ++ toLe 4 (o.rxNext - 1).toNat ++ zeros 614

/-- Send the management codeword at a counter that is a multiple of 256; a grant is given with it. A port that granted dormancy has a
dormant peer. -/
def State.sendManagement (s : State) (p : Nat) : State :=
  (s.sendCodeword p 1 (s.managementContent p)).modOport p fun o => { o with peerDormant := o.peerDormant || o.grantDue, grantDue := false }

/-- Run a port's line on, over idle flits that are not listed, to its next management codeword, and send it. (log 163: DESIGN CHOICE) -/
def State.nextManagement (s : State) (p : Nat) : State :=
  (s.modOport p fun o =>
    { o with txCounter := (o.txCounter + 255) / 256 * 256 % 65536, sinceIdle := if o.txCounter % 256 = 0 then o.sinceIdle else 0 }).sendManagement p

/-- Send a flit codeword: the management codeword that is due goes first (Table 9.10). -/
def State.sendFlit (s : State) (p : Nat) (f : Rec) : State :=
  (if (s.oport p).txCounter % 256 = 0 then s.sendManagement p else s).sendCodeword p 0 f

/-- Send a link codeword of step 7; a counter that is a multiple of 256 is a management codeword's (R285). -/
def State.sendLink (s : State) (p : Nat) (content : Rec) : State :=
  (if (s.oport p).txCounter % 256 = 0 then s.sendManagement p else s).sendCodeword p 2 content

/-- Whether traffic goes by a port: its link is up, or dormant or training again after it, so that traffic wakes its die and waits for it
(R33, R460). -/
def OPort.usable (o : OPort) : Bool := o.state == 3 || o.state == 4 || o.waking

/-! ## Words leaving a port -/

/-- A flit (Table 9.3), for up to 38 words; an idle flit carries none. -/
def flitBytes (seq acked : Word32) (nack idle : Bool) (cls : Nat) (ws : List TxWord) : Rec :=
  let body := toLe 4 seq.toNat ++ toLe 4 acked.toNat ++ [BitVec.ofNat 8 (128 * nack.toNat + 64 * idle.toNat + cls), BitVec.ofNat 8 ws.length] ++ zeros 6 ++
    slice (ws.flatMap (·.word)) 0 608 ++ toLe 5 ((ws.zipIdx).foldl (fun m w => m + w.1.poison.toNat * 2 ^ w.2) 0) ++ zeros 3
  body ++ toLe 8 (crc64 body).toNat

/-- An idle flit: the next number to be used, the acknowledged number and the nack bit (R286, R289). -/
def State.idleFlit (s : State) (p : Nat) : State :=
  let o := s.oport p
  (s.sendFlit p (flitBytes o.txNext (o.rxNext - 1) o.nacking true 0 [])).modOport p fun o => { o with sinceIdle := 0 }

/-- Send a flit that is not idle, after an idle one where 4,095 have gone since the last (R289). -/
def State.dataFlit (s : State) (p : Nat) (f : Rec) : State :=
  ((if (s.oport p).sinceIdle ≥ 4095 then s.idleFlit p else s).sendFlit p f).modOport p fun o => { o with sinceIdle := o.sinceIdle + 1 }

/-- Words without the first `n` of a class. -/
def dropClass (c : Nat) : Nat → List TxWord → List TxWord
  | 0, ws => ws
  | _, [] => []
  | n + 1, w :: ws => if w.cls = c then dropClass c n ws else w :: dropClass c (n + 1) ws

/-- The class a port sends next: class 1 before class 0, neither while stopped (R265, R316). -/
def OPort.nextClass (o : OPort) : Option Nat :=
  let ready := fun (c : Nat) => o.txq.any (fun w => w.cls == c) && !o.stoppedBy.getLsbD c
  if ready 1 then some 1 else if ready 0 then some 0 else none

/-- A class 1 word crosses a port that it reaches from another: the dies on its way carry it (R458, R460). -/
def State.noteClass1 (s : State) (p src : Nat) : State :=
  let at' := [portDie p] ++ (if src < 24 then [portDie src] ++ (viaDie (portDie src) (portDie p)).toList else [])
  at'.foldl (fun s d => s.modDie d fun k => { k with lastClass1 := some s.localTime }) s

/-- Send the words that are ready as flits, while the port is up, its peer is not dormant, its replay buffer has room and no scrub runs
(R277, R287, R290). -/
def State.pump (p : Nat) : Nat → State → State
  | 0, s => s
  | n + 1, s =>
    let o := s.oport p
    if o.state ≠ 3 ∨ o.peerDormant ∨ o.replay.length ≥ 1024 ∨ s.flint.state = .scrubbing then s
    else match o.nextClass with
      | none => s
      | some c =>
        let ws := (o.txq.filter fun w => w.cls = c).take 38
        let f := flitBytes o.txNext (o.rxNext - 1) o.nacking false c ws
        let s := if c = 1 then ws.foldl (fun s w => s.noteClass1 p w.src) s else s
        let s := (s.modOport p fun o => { o with txq := dropClass c 38 o.txq, txNext := o.txNext + 1, replay := o.replay ++ [(o.txNext, f)] })
        State.pump p n (s.dataFlit p f)

/-- Send what a port has ready; a dormant peer is asked to wake first (R317). -/
def State.flush (s : State) (p : Nat) : State :=
  let o := s.oport p
  if o.state = 3 ∧ o.peerDormant ∧ !o.wakeAsked ∧ !o.txq.isEmpty then (s.modOport p fun o => { o with wakeAsked := true }).nextManagement p
  else State.pump p (o.txq.length + 1) s

/-! ## Class buffers and stop (R264 to R266) -/

/-- Bytes of a class's words that a port has received and that no chunk or control message has taken yet (R290). -/
def OPort.received (o : OPort) (c : Nat) : Nat := 16 * (o.rxq.filter fun w => w.cls = c).length

/-- Chunks parked at a port that count against its buffer: in a local replay those of the context that runs signal no stop (R278). -/
def State.parkedOn (s : State) (p : Nat) : List Chunk :=
  let mine := match s.plan? with | some pl => le pl.settings 4 4 | none => 0
  if s.replayMode = 3 then (s.oport p).parked.filter fun c => le c.header 0 4 ≠ mine else (s.oport p).parked

/-- Bytes of a port's class-0 buffer taken by words of its stream, partial sums and ring blocks that wait, chunks of the next epoch and
parked chunks. A local replay's receives come from its log and take none (R278). -/
def State.used0 (s : State) (p : Nat) : Nat :=
  let waiting := if s.replayMode = 3 then 0 else
    (s.chip.ring.colls.map fun k => match s.collEntry? k.1 with
      | some e => ((k.2.partials.filter fun b => planeUp (s.plane (if collKind e = 2 then (collPlanes e).headD 0 else s.blockPlane e b.1)) = p).map (·.2.length)).sum
      | none => 0).sum
  let size := fun (c : Chunk) => c.header.length + c.payload.length
  let next := if s.replayMode = 3 then 0 else ((s.chip.ring.held.filter fun h => h.1 = p).map fun h => size h.2).sum
  (s.oport p).received 0 + waiting + next + ((s.parkedOn p).map size).sum

/-- Bytes of a port's class-1 buffer: words of its stream, and words it received that wait on some port to be sent on. -/
def State.used1 (s : State) (p : Nat) : Nat := (s.oport p).received 1 + 16 * (s.oports.map fun o => (o.2.txq.filter fun w => w.src = p).length).sum

/-- Whether a port's receiver signals stop for a class: free space at or below the threshold; while SCRUBBING, both (R277);
class 0 while a switch holds the ring (R276) or a chunk is parked at its head (Table 8.14). (log 93: DEDUCED) -/
def State.wantsStop (s : State) (p c : Nat) : Bool :=
  let o := s.oport p
  if s.flint.state = .scrubbing then true
  else if c = 0 then
    !(s.parkedOn p).isEmpty || s.holding || decide (524288 - s.used0 p ≤ 1024 * o.threshold)
  else decide (524288 - s.used1 p ≤ 1024 * o.threshold)

/-- Bring a port's stop bits up to date; a change goes out in the next codeword, an idle flit at least (R285). -/
def State.stopCheck (s : State) (p : Nat) : State :=
  let o := s.oport p
  if o.state ≠ 3 then s
  else
    let b : BitVec 2 := BitVec.ofNat 2 ((s.wantsStop p 0).toNat + 2 * (s.wantsStop p 1).toNat)
    if b = o.stopping then s else (s.modOport p fun o => { o with stopping := b }).idleFlit p

/-- Bring every port's stop bits up to date. -/
def State.stopCheckAll (s : State) : State := (List.range 24).foldl State.stopCheck s

/-- The device has left SCRUBBING: the controllers write no more zeros, and the ports send again and withdraw their stops (R195, R277). -/
def State.endScrub (s : State) : State :=
  let s : State := { s with mems := s.mems.map fun d => (d.1, if d.2.state = 5 then { d.2 with state := 2 } else d.2) }
  ((List.range 24).foldl State.flush s).stopCheckAll

/-- Queue a message on a port and send what is ready; the handshake wakes the port's die (R33). -/
def State.sendMessage (s : State) (p cls src : Nat) (control : Bool) (poison : Nat) (bytes : Rec) : State :=
  let ws := (List.range (bytes.length / 16)).map fun i =>
    ({ cls := cls, src := src, start := i == 0, control := control, poison := bit poison i, word := slice bytes (16 * i) 16 } : TxWord)
  (((s.stir (portDie p)).modOport p fun o => { o with txq := o.txq ++ ws }).flush p).stopCheck src

/-! ## Contexts by ring tag -/

/-- The loaded context that carries a ring tag, the resident one first. -/
def State.tagged (s : State) (tag : Nat) : Option (Context × Plan) :=
  let has := fun (c : Context) => match c.plan with | some p => if le p.settings 4 4 = tag then some (c, p) else none | none => none
  match s.residentCtx.bind has with
  | some x => some x
  | none => s.contexts.findSome? fun c => has c.2

/-- Whether the ring of a context runs: it is resident, the device RUNNING, no switch under way. (log 13: DEDUCED) -/
def State.ringRuns (s : State) (c : Context) : Bool :=
  s.resident == c.id && s.flint.state == .running && !s.holding

/-- The epoch bit of the resident context. -/
def State.epochBit (s : State) : Bool := s.residentCtx.any (·.epoch)

/-! ## Violations and faults -/

/-- A peer violation (R275, event 0x73). -/
def State.ringViolation (s : State) (q row tag : Nat) : State :=
  (((s.setBit (.ringStatus q) 62).bump (.ringCount q) 63 52 1).logEvent 5 0x73 6 0 q ([BitVec.ofNat 8 row, 0, 0, 0] ++ toLe 4 tag))

/-- The plane whose registers a violation goes to: the message's own, or that of the receive port. -/
def State.violPlane (s : State) (port q : Nat) : Nat :=
  if q < 12 then q else ((List.range 12).find? fun k => planeUsed (s.plane k) && planeUp (s.plane k) == port).getD 0

/-! ## Plane entries in use (R240) -/

/-- Whether a plan's plane entry agrees with the complement beside it. -/
def Plan.planeSound (p : Plan) (q : Nat) : Bool := match p.planes[q]? with | some (e, c) => c == e.map (~~~ ·) | none => true

/-- Whether the plane entry of the plan in effect agrees with the complement beside it. -/
def State.planeAgrees (s : State) (q : Nat) : Bool := s.plan?.all (·.planeSound q)

/-- A plane entry whose complement does not agree: fault 0x34; the plane's open collectives stop. -/
def State.planeFault (s : State) (q : Nat) : State := s.ringFault q 0x34 (s.openSeqs q)

/-! ## Routes (R267, R268) -/

/-- The plane whose port route `i` of a detour entry leaves by: its entry is used as the plane's own is. -/
def Plan.routePlane (p : Plan) (q i : Nat) : Nat := bits (le (p.detours.getD q (zeros 16)) (4 * i) 4) 4 0 / 2

/-- The first of a plane's data routes (`i` = 0) or control routes (`i` = 2) whose first port is up. -/
def State.liveRoute (s : State) (p : Plan) (q i : Nat) : Option (Nat × Nat) :=
  [i, i + 1].findSome? fun k => (p.route q k).bind fun r => if (s.oport r.1).usable then some r else none

/-- The plane of the route that `liveRoute` finds, when its entry does not agree with its complement. -/
def State.routeFault (s : State) (p : Plan) (q i : Nat) : Option Nat :=
  ([i, i + 1].find? fun k => (p.route q k).any fun r => (s.oport r.1).usable).bind fun k =>
    if p.planeSound (p.routePlane q k) then none else some (p.routePlane q k)

/-- A chunk or control message with its route word. -/
def setRoute (m : Rec) (w : Nat) : Rec := patch m 16 (toLe 8 w)

/-- A chunk header with the detoured bit. -/
def setDetoured (h : Rec) (d : Bool) : Rec := patch h 24 (toLe 2 (le h 24 2 % 32768 + 32768 * d.toNat))

/-- A control message of this chip (Table 8.7). -/
def controlMsg (tag type q sender dest : Nat) (number : Word32) (w : Nat) : Rec :=
  toLe 4 tag ++ [BitVec.ofNat 8 (16 * type + q), 0] ++ toLe 2 sender ++ toLe 2 dest ++ [0, 0] ++ toLe 4 number.toNat ++ toLe 8 w ++ zeros 8

/-- Send a control message upstream, or along control route 0, then 1, while the upstream port is down (R259). -/
def State.sendUp (s : State) (pl : Plan) (type q sender dest : Nat) (number : Word32) : State :=
  if !pl.planeSound q then s.planeFault q
  else
    let e := pl.plane q
    let m := controlMsg (le pl.settings 4 4) type q sender dest number
    if (s.oport (planeUp e)).usable then s.sendMessage (planeUp e) 1 24 true 0 (m 0)
    else match s.routeFault pl q 2, s.liveRoute pl q 2 with
      | some k, _ => s.planeFault k
      | none, some (p, w) => s.sendMessage p 1 24 true 0 (m w)
      | none, none => s

/-- A chunk to be passed on finds the class-1 buffer of its port full (R266): dropped, a violation, and a refuse to its sender that names
the member link it was sent on. (log 164: DEDUCED) -/
def State.class1Full (s : State) (pl : Plan) (src q tag : Nat) (m : Rec) : State :=
  (s.sendUp pl 3 q (bits (le m 12 2) 11 0) (bits (le m 14 2) 11 0) (BitVec.ofNat 32 (le m 28 4))).ringViolation (s.violPlane src q) 6 tag

/-- Pass on a chunk or control message in class 1 (R268, R269): on its first hop, else along the key's plane, else on the
plane's detour. A port that is dormant is woken, and the message waits for it (R460). A hop this chip has no port for is a violation; with no route it is dropped; a chunk that finds its class-1 buffer full
is dropped and refused (R266). (log 92: DEDUCED) -/
def State.forward (s : State) (pl : Plan) (src q tag : Nat) (control : Bool) (poison : Nat) (m : Rec) : State :=
  let w := le m 16 8
  let n := bits w 63 62
  let uses := if n > 0 then bits w 4 0 / 2 else q
  let target : Option (Option (Nat × Nat)) :=
    if n > 0 then (pl.hopPort (bits w 4 0)).map fun p =>
      if (s.oport p).usable then some (p, (n - 1) * 2 ^ 62 + bits w 14 0 / 32)
      else s.liveRoute pl (bits w 4 0 / 2) (if control then 2 else 0)
    else if pl.linked q then
      let p := if control then planeUp (pl.plane q) else planeDown (pl.plane q)
      some (if (s.oport p).usable then some (p, 0) else s.liveRoute pl q (if control then 2 else 0))
    else none
  if pl.linked uses && !pl.planeSound uses then s.planeFault uses
  else if !control && decide (s.used1 src + m.length > 524288) then s.class1Full pl src q tag m
  else match target with
  | none => s.ringViolation (s.violPlane src q) 7 tag
  | some none => s
  | some (some (p, w')) =>
    let detour := !(s.oport (if n > 0 then (pl.hopPort (bits w 4 0)).getD 0 else if control then planeUp (pl.plane q) else planeDown (pl.plane q))).usable
    let m := setRoute m w'
    match (if detour then s.routeFault pl uses (if control then 2 else 0) else none) with
    | some k => s.planeFault k
    | none => s.sendMessage p 1 src control poison (if detour && !control then setDetoured (slice m 0 48) true ++ m.drop 48 else m)

/-! ## Control messages (R259) -/

/-- Send a control message of this member upstream. In a local replay the chip sends nothing (R278). -/
def State.tellUp (s : State) (pl : Plan) (type q dest : Nat) (number : Word32) : State :=
  if s.replayMode = 3 then s else s.sendUp pl type q (planePos (pl.plane q)) dest number

/-! ## Member links (R260 to R262) -/

/-- The state kept for a peer of a plane. -/
def linkOf (ls : List Link) (q peer : Nat) : Link := (ls.find? fun l => l.plane = q ∧ l.peer = peer).getD (Link.init q peer)

/-- Store a member link's state. -/
def putLink (ls : List Link) (l : Link) : List Link :=
  if ls.any fun k => k.plane = l.plane ∧ k.peer = l.peer then ls.map fun k => if k.plane = l.plane ∧ k.peer = l.peer then l else k
  else ls ++ [l]

/-- Change the sender's end of a member link. -/
def State.modUp (s : State) (q peer : Nat) (f : Link → Link) : State :=
  s.modRing fun r => { r with up := putLink r.up (f (linkOf r.up q peer)) }

/-- Change the receiver's end of a member link. -/
def State.modDown (s : State) (q peer : Nat) (f : Link → Link) : State :=
  s.modRing fun r => { r with down := putLink r.down (f (linkOf r.down q peer)) }

/-- A chunk's link chunk number. -/
def Chunk.number (c : Chunk) : Word32 := BitVec.ofNat 32 (le c.header 28 4)

/-- Whether number `a` comes after `b`, modulo 2^32 (R260). -/
def after (a b : Word32) : Bool := decide (a ≠ b) && decide ((a - b).toNat < 2147483648)

/-- Acknowledged up to `n`: the chunks up to it leave the send hold. A number that was not sent changes nothing. -/
def Link.ackTo (l : Link) (n : Word32) : Link :=
  if after n l.acked && !after n (l.next - 1) then { l with acked := n, hold := l.hold.filter fun c => after c.number n } else l

/-- The ring class a chunk to a peer takes on the direct link: class 0 to the next chip, class 1 through it (R264). (log 90: DEDUCED) -/
def directClass (e : Rec) (dest : Nat) : Nat := if dest = (planePos e + 1) % planeLen e then 0 else 1

/-- Bytes of a downstream port's send hold taken in a class. -/
def State.holdBytes (s : State) (port cls : Nat) : Nat :=
  ((s.chip.ring.up.filter fun l => planeDown (s.plane l.plane) = port ∧ directClass (s.plane l.plane) l.peer = cls).map
    fun l => (l.hold.map fun c => c.header.length + c.payload.length).sum).sum

/-- Whether the send hold takes a chunk to a peer now (R262); none goes while a link that is up again waits for its detoured
chunks (Table 8.9 step 7). (log 91: DEDUCED) -/
def State.canSend (s : State) (q peer len : Nat) : Bool :=
  let e := s.plane q
  s.replayMode == 3 ||
  (decide (s.holdBytes (planeDown e) (directClass e peer) + 48 + len ≤ 524288) && !(linkOf s.chip.ring.up q peer).upAgain)

/-- Whether a link that is up again is free to be queried: every detoured chunk is acknowledged (Table 8.9 step 7). -/
def Link.settled (l : Link) : Bool := l.upAgain && l.hold.all fun c => !bit (le c.header 24 2) 15

/-- Send a resume query along the link's route, or over the link itself once it is up again and its detoured chunks are acknowledged
(Table 8.9). In a local replay nothing is sent (R278). -/
def State.query (s : State) (pl : Plan) (q peer : Nat) : State :=
  let l := linkOf s.chip.ring.up q peer
  let e := pl.plane q
  let m := controlMsg (le pl.settings 4 4) 1 q (planePos e) peer 0
  let s := s.modUp q peer fun l => { l with query := true, direct := l.settled }
  if s.replayMode = 3 then s
  else if !pl.planeSound q then s.planeFault q
  else if !l.settled && !pl.planeSound (pl.routePlane q (l.route - 2)) then s.planeFault (pl.routePlane q (l.route - 2))
  else
  let s := s.bump (.ringCount q) 51 40 1
  if l.settled then s.sendMessage (planeDown e) 1 24 true 0 (m 0)
  else match pl.route q (l.route - 2) with
    | some (p, w) => if l.route = 2 ∨ l.route = 3 then s.sendMessage p 1 24 true 0 (m w) else s
    | none => s

/-- Move a link to data route 0 or 1, whichever the plan declares from route `k` on, and query along it; with none left its open
collectives stop with 0x31 (Table 8.9). -/
def State.takeRoute (s : State) (pl : Plan) (q peer k : Nat) : State :=
  match ((List.range 2).filter (k ≤ ·)).find? fun i => (pl.route q i).isSome with
  | some i => (s.modUp q peer fun l => { l with route := 2 + i, silent := 0 }).query pl q peer
  | none =>
    let s := s.modUp q peer fun l => { l with route := 4, silent := 0, query := false }
    match s.openSeqs q with
    | [] => s
    | xs => s.ringFault q 0x31 xs

/-- Put a chunk on its way as its link stands: directly, or on data route 0 or 1 with the detoured bit and the route word; it is
kept in the hold as sent. A link found down is left for data route 0, and a chunk waits in the hold while a resume query is
unanswered (Table 8.9 steps 3 and 5). In a local replay nothing is sent (R278). -/
def State.transmit (s : State) (pl : Plan) (q peer : Nat) (c : Chunk) : State :=
  let l := linkOf s.chip.ring.up q peer
  let keep := fun (s : State) (c : Chunk) => s.modUp q peer fun l => { l with hold := l.hold.map fun k => if k.number = c.number then c else k }
  if s.replayMode = 3 then s
  else if !pl.planeSound q then s.planeFault q
  else if l.route = 1 then
    let c := { c with header := setDetoured (setRoute c.header 0) false }
    if !(s.oport (planeDown (pl.plane q))).usable then s.takeRoute pl q peer 0
    else (keep s c).sendMessage (planeDown (pl.plane q)) (directClass (pl.plane q) peer) 24 false 0 (c.header ++ c.payload)
  else if l.query then s
  else if !pl.planeSound (pl.routePlane q (l.route - 2)) then s.planeFault (pl.routePlane q (l.route - 2))
  else match pl.route q (l.route - 2) with
    | some (port, w) =>
      if l.route = 2 ∨ l.route = 3 then
        let c := { c with header := setDetoured (setRoute c.header w) true }
        let s := ((keep s c).setBit (.ringStatus q) 60).bump (.ringCount q) 27 0 1
        let s := s.modColl (le c.header 4 2) fun k => { k with detoured := k.detoured + 1 }
        s.sendMessage port 1 24 false 0 (c.header ++ c.payload)
      else s
    | none => s

/-- Send a chunk to a peer: it takes the next link chunk number and stands in the send hold until acknowledged. In a local
replay nothing is sent. With no route left the collective stops with 0x31. -/
def State.sendChunk (s : State) (pl : Plan) (x level kind q peer b code mask : Nat) (payload : Rec) : State :=
  if s.replayMode = 3 then s
  else
    let l := linkOf s.chip.ring.up q peer
    let e := pl.plane q
    let h := slice pl.settings 4 4 ++ toLe 2 x ++ [BitVec.ofNat 8 (128 * s.epochBit.toNat + 8 * q + 4 * level + kind), 0] ++ toLe 4 b ++
      toLe 2 peer ++ toLe 2 (planePos e) ++ zeros 8 ++ toLe 2 payload.length ++ [BitVec.ofNat 8 code, ~~~BitVec.ofNat 8 code] ++
      toLe 4 l.next.toNat ++ toLe 8 mask ++ zeros 8
    let c : Chunk := { header := h, payload := payload }
    let s := s.modUp q peer fun l => { l with next := l.next + 1, hold := l.hold ++ [c] }
    if l.route = 4 then s.ringFault q 0x31 [x] else s.transmit pl q peer c

/-- Send again, in order, every chunk of the hold from number `n` on. -/
def State.resendFrom (s : State) (pl : Plan) (q peer : Nat) (n : Word32) : State :=
  ((linkOf s.chip.ring.up q peer).hold.filter fun c => c.number == n || after c.number n).foldl (fun s c => s.transmit pl q peer c) s

/-- A downstream port went down: each member link on it detours, and what waited on the port to be passed on goes its other
way (R269). (log 95: DEDUCED) -/
def State.linkLost (s : State) (port : Nat) : State :=
  let lost := (s.oport port).txq
  let s := s.modOport port fun o => { o with txq := [] }
  let s := match s.plan? with
    | none => s
    | some pl => (s.chip.ring.up.filter fun l => pl.linked l.plane && planeDown (pl.plane l.plane) == port && (l.route == 1 || l.upAgain)).foldl
        (fun s l =>
          if pl.planeSound l.plane then (s.modUp l.plane l.peer fun l => { l with upAgain := false }).takeRoute pl l.plane l.peer 0
          else s.planeFault l.plane) s
  -- messages wholly unsent: from the first start on, per class
  let whole := fun (c : Nat) => ((lost.filter fun w => w.cls = c).dropWhile fun w => !w.start)
  let msgs := fun (c : Nat) => (whole c).foldl (fun (a : List (TxWord × Rec × Nat)) w =>
    if w.start then (w, w.word, w.poison.toNat) :: a
    else match a with
      | (f, r, p) :: rest => (f, r ++ w.word, p + w.poison.toNat * 2 ^ (r.length / 16)) :: rest
      | [] => []) []
  ((msgs 1).reverse ++ (msgs 0).reverse).foldl (fun s m =>
    if m.1.src = 24 ∧ !m.1.control then s
    else match s.tagged (le m.2.1 0 4) with
      | some (_, pl) => s.forward pl m.1.src (if m.1.control then bits (le m.2.1 4 1) 3 0 else bits (le m.2.1 6 1) 6 3) (le m.2.1 0 4) m.1.control m.2.2 m.2.1
      | none => s) s

/-- A downstream port is up again: its detoured links wait for their detoured chunks (Table 8.9 step 7). -/
def State.linkBack (s : State) (port : Nat) : State :=
  match s.plan? with
  | none => s
  | some pl =>
    let on := fun (l : Link) => pl.linked l.plane && planeDown (pl.plane l.plane) == port && decide (l.route ≠ 1)
    let back := fun (l : Link) => on l && pl.planeSound l.plane
    let s := (((s.chip.ring.up.filter fun l => on l && !pl.planeSound l.plane).map (·.plane)).eraseDups).foldl State.planeFault s
    s.modRing fun r => { r with up := r.up.map fun l => if back l then { l with upAgain := true } else l }

end Sys2Proof.Machine
end

