-- ==== Sys2Proof/Machine/Collectives.lean ====
section
/-! DEFINITION. Collectives on a member (R240 to R280): what each kind stores, adds, writes and sends, output transfers by ring
block, agreements, acceptance of chunks, control messages, completion and the meanings of the ring's rows. -/

namespace Sys2Proof.Machine

/-! ## Collective streams (R249, R152) -/

/-- The transfer counted since step start that the running slot begins with. -/
def Stream.first (t : Stream) : Nat := t.completed - (t.running.map (·.done)).getD 0

/-- Transfer `i` from the running slot's first on: its slot, its transfers, its number within the slot. -/
def findXfer (e : Rec) : List (Nat × Rec) → Nat → Option (Nat × Xfer × Nat)
  | [], _ => none
  | (sl, d) :: r, i => if i < (xferOf e d).count then some (sl, xferOf e d, i) else findXfer e r (i - (xferOf e d).count)

/-- Start the next transfer of a collective stream, waiting for none before it (R249): its gate token is taken. (log 96: DEDUCED) -/
def startRing (id : Nat) (e : Rec) (s : State) : State :=
  if !s.moves id e then s
  else
    let s := (s.stir (ownerDie id)).modStream id Stream.prime
    let t := s.stream id
    match t.running with
    | none => s
    | some r =>
      match findXfer e t.slots r.started with
      | none => s
      | some (sl, x, _) =>
        if r.stale then s
        else if t.rearm ∧ r.started ≥ (xferOf e r.desc).count then s
        else match s.checkDesc id sl with
        | none => s.streamFault id 0x02
        | some s => match (if x.gate then s.waitTokens x.gateQ.1 x.gateQ.2 1 else some s) with
          | none => s.moveStop id .wait
          | some s => s.modStream id fun t => { t with state := 1, running := some { r with started := r.started + 1 } }

/-- Signal, in transfer order, the transfers of a collective stream that are in place (R249); a full queue holds the stream. -/
def State.settleSignals (id : Nat) (e : Rec) : Nat → State → State
  | 0, s => s
  | n + 1, s =>
    let t := s.stream id
    match t.running with
    | none => s
    | some r =>
      if !t.inPlace.contains t.completed then s
      else match s.checkDesc id r.slot with
      | none => s.streamFault id 0x02
      | some s =>
        let x := xferOf e r.desc
        match (if x.signal then s.signalTokens x.sigQ.1 x.sigQ.2 1 else some s) with
        | none => s.modStream id fun t => { t with signalled := 1, state := 2 }
        | some s =>
          let s := s.modStream id fun t =>
            { t with signalled := 0, completed := t.completed + 1, inPlace := t.inPlace.filter (· ≠ t.completed), state := 1,
                     running := some { r with done := r.done + 1 } }
          let s := if r.done + 1 = x.count then
              (s.slotDone id e x { r with done := r.done + 1 }).modStream id fun t =>
                let t := t.prime
                { t with running := t.running.map fun k => { k with started := r.started - x.count } }
            else s
          State.settleSignals id e n s

/-- A transfer of a collective stream, counted since step start, is in place. -/
def State.placed (s : State) (id : Nat) (e : Rec) (T : Nat) : State :=
  let s := s.modStream id fun t => { t with inPlace := t.inPlace ++ [T] }
  State.settleSignals id e ((s.stream id).inPlace.length + 1) s

/-- The stream of a collective faults: the collective stops with 0x37 on the plane of its ring block, and with it what else takes the
stream. -/
def State.collStream (s : State) (q x id : Nat) (m : MoveStop) : State := s.moveStop id (m.onState fun s => s.ringFault q 0x37 [x])

/-- Whether a transfer's rows fit a collective's ring block in a format (R247, R155). -/
def fitsBlock (x : Xfer) (f : Nat) : Bool := x.rows == 64 && x.rowBytes == valueBytes f 64 && x.sfx == (if f = 3 then 9 else 1)

/-! ## Records a collective writes (R272) -/

/-- Write a tile status entry or status record: 0x38 outside the writable regions or on a failed device. (log 97: DEDUCED) -/
def State.ringWrite (s : State) (q x a : Nat) (r : Rec) : State :=
  match s.rangesOk true [(a, r.length)] with
  | .ok () => match s.devWrite a r with
    | .ok s => s
    | .error (.dead d t) => t.memFaultAs d 0x20 1
    | .error .unmapped => s.ringFault q 0x38 [x]
  | .error _ => s.ringFault q 0x38 [x]

/-- The tile status bits of a store by a unit that is not a drain: bits [62:35] only (Table 7.13). -/
def storeStatus (sats vugs : Nat) : Word64 := tileEntry false 0 0 sats vugs

/-- A ring block's digest record (R272). -/
def State.ringDigest (s : State) (q x store b : Nat) (stored : Rec) (sats vugs : Nat) : State :=
  s.digest (100 + q) (x % 32768) (x / 32768 * 128 + store) 0 b 0 stored (storeStatus sats vugs)

/-- The digest record of a ring block written to output transfer b; one that no output stream took has none (R232, R272). -/
def State.writtenDigest (s : State) (q x b : Nat) (stored : Rec) : State :=
  if (s.coll x).outputs.contains b then s.ringDigest q x 2 b stored 0 0 else s

/-- The bytes of transfer T of a collective stream, counted since step start, at its destination. -/
def Stream.bytesOf (t : Stream) (e : Rec) (T : Nat) : List (Nat × Nat) :=
  match findXfer e t.slots (T - t.first) with
  | some (_, x, i) => x.to.ranges x x.rowBytes i
  | none => []

/-- Whether transfer T of a collective stream has bytes in common with an earlier one that has started and is not in place (R152). -/
def Stream.overlapsEarlier (t : Stream) (e : Rec) (T : Nat) : Bool :=
  let mine := t.bytesOf e T
  (List.range T).any fun u => decide (t.completed ≤ u) && !t.inPlace.contains u &&
    (t.bytesOf e u).any fun a => mine.any fun b => decide (a.1 < b.1 + b.2) && decide (b.1 < a.1 + a.2)

/-- Write a ring block to output transfer k of a collective: none while the transfer is not started; else the state with the
rows in place and the tile status entry written, or with the collective stopped. A collective without an output stream writes nothing
(Table 8.3). The transfer waits while bytes of it stand in an earlier transfer that has started and is not in place (R152). -/
def State.putOut (s : State) (x : Nat) (e : Rec) (f k b : Nat) (rows : List (Rec × Rec)) (counts : Nat × Nat) : Option State :=
  let id := collOut e
  let q := s.blockPlane e b
  match (if id = 0 then none else s.streamEntry id) with
  | none => some s
  | some se =>
    let T := s.streamBase x id true + k
    let t := s.stream id
    if t.faulted then some (s.ringFault q 0x37 [x])
    else if T < t.first ∨ T - t.first ≥ (t.running.map (·.started)).getD 0 then none
    else match findXfer se t.slots (T - t.first) with
      | none => none
      | some (sl, xf, i) => match s.checkDesc id sl with
      | none => some (s.collStream q x id (.fault 0x02 s))
      | some s =>
        if !fitsBlock xf f then some (s.collStream q x id (.fault 0x05 s))
        else if t.overlapsEarlier se T then none
        else
          let tile := collTiles e
          let ranges := if xf.dst = 0 then xf.to.ranges xf xf.rowBytes i else []
          match s.rangesOk true ranges with
          | .error .wait => none
          | .error m => some (s.collStream q x id m)
          | .ok () => match s.writeRows xf.to xf i rows with
            | .error m => some (s.collStream q x id m)
            | .ok s =>
              let s := (s.placed id se T).modColl x fun c => { c with outputs := c.outputs ++ [k] }
              some (if tile = 0 then s else s.ringWrite q x (tile + 8 * k) (toLe 8 (tileEntry false b 0 counts.1 counts.2).toNat))

/-! ## Stored ring blocks -/

/-- A reduce-scatter payload (Table 8.6): scale bytes, then mantissas. -/
def reducePayload (sts : List Stored) : Rec := sts.map (·.scale) ++ sts.flatMap fun st => packCodes 2 [] (st.elems.map (elemCode 2))

/-- Element block i of a reduce-scatter payload as operands. -/
def reduceOpds (p : Rec) (i : Nat) : List Opd := opdsOf 2 (some (p.getD i 0)) 0 ((List.range 64).map (codeAt 2 (slice p (64 + 128 * i) 128)))

/-- A stored block back from operands of its own, counts left out. -/
def storedOf (os : List Opd) : Stored := { elems := os.map (·.man), scale := 0, exp := (os.head?.map (·.exp)).getD 0, sats := 0, vugs := 0 }

/-- Rows of a reduce-scatter payload as an output stream takes them. -/
def reduceRows (p : Rec) : List (Rec × Rec) := (List.range 64).map fun i => (slice p (64 + 128 * i) 128, [p.getD i 0])

/-- Rows of an all-gather block: codes, and each block's scale byte (R253). -/
def gatherRows (p : Rec) (code mask : Nat) : List (Rec × Rec) :=
  (List.range 64).map fun i => (slice p (64 * i) 64, [if bit mask i then 0x80 else BitVec.ofNat 8 code])

/-- Bytes of rows in digest order. -/
def rowBytes (rows : List (Rec × Rec)) : Rec := rows.flatMap fun r => r.1 ++ r.2

/-- Saturations and vugs of stores, with the substitutions made. -/
def countsOf (sts : List (Stored × Nat)) : Nat × Nat := ((sts.map (·.1.sats)).sum, (sts.map fun x => x.1.vugs + x.2).sum)

/-- Count stores in a collective. -/
def State.collCounts (s : State) (x : Nat) (n : Nat × Nat) : State :=
  s.modColl x fun c => { c with sats := c.sats + n.1, vugs := c.vugs + n.2 }

/-- Feed a collective's instrument entry with stored blocks and counts (R228). -/
def State.collFeed (s : State) (e : Rec) (blocks : List (List Opd)) (n : Nat × Nat) : State :=
  match collInstr e with
  | none => s
  | some i =>
    let a := blocks.foldl (fun a os => a.feedBlock (storedOf os) 0) Accum.init
    s.feed i { a with sats := n.1, vugs := n.2 }

/-- Store one contribution row into I16: fit, class-3 draws, selector of R250. -/
def State.narrowOwn (s : State) (x p b i : Nat) (os : List Opd) : Stored × Nat :=
  let z := s.zeroPolicy
  (Machine.storeBlock 2 .fit true (fun j => s.draw 3 (p * 65536 + x % 32768) (64 * b + i) j) none (os.map (Opd.subst z)), (os.map (Opd.subs z)).sum)

/-- Add two element blocks into I16: fit-above, selector of R251. -/
def State.addBlocks (s : State) (x p b i : Nat) (us vs : List Opd) : Stored × Nat :=
  let z := s.zeroPolicy
  let sum := (us.zip vs).map fun o => match o.1.subst z, o.2.subst z with | some a, some c => some (a.add c) | _, _ => none
  (Machine.storeBlock 2 .fitAbove true (fun j => s.draw 3 (p * 65536 + 32768 + x % 32768) (64 * b + i) j) (maxExp ((us ++ vs).flatMap Opd.terms)) sum,
   ((us ++ vs).map (Opd.subs z)).sum)

/-- Store one row of an all-gather owner into I8 at the agreed scale (R252). -/
def State.narrowGather (s : State) (x p b i : Nat) (code : Byte) (os : List Opd) : Stored × Nat :=
  let z := s.zeroPolicy
  (Machine.storeBlock 1 (.fixed (scaleExp code)) true (fun j => s.draw 4 (p * 65536 + x % 32768) (64 * b + i) j) none (os.map (Opd.subst z)), (os.map (Opd.subs z)).sum)

/-- The next logical member's plane position. -/
def State.nextPeer (s : State) (e : Rec) (q p : Nat) : Nat := s.physical e q ((p + 1) % s.ringLen e)

/-! ## What a ring block does once its parts are here (Table 8.10) -/

/-- The part of a collective's tables that a ring block leaves. -/
def State.clearBlock (s : State) (x b : Nat) : State :=
  s.modColl x fun c => { c with own := Tab.erase c.own b, partials := Tab.erase c.partials b }

/-- A reduce-scatter's ring block (R251): start, adder, or owner. `own` is the stored contribution with its counts. -/
def State.tryReduce (s : State) (pl : Plan) (x : Nat) (e : Rec) (b : Nat) (own : Rec) : State :=
  let q := s.blockPlane e b
  let p := s.posFor e b
  let L := s.ringLen e
  let peer := s.nextPeer e q p
  let k := (s.ownedBlocks e).idxOf b
  let mine := (le own 8256 4, le own 8260 4)
  if L = 1 then match s.putOut x e 2 k b (reduceRows own) mine with
    | none => s
    | some s => ((s.collFeed e ((List.range 64).map (reduceOpds own)) mine).clearBlock x b)
  else if p = s.startOf e b then
    if s.canSend q peer 8256 then (s.clearBlock x b).sendChunk pl x (collLevel e) 0 q peer b 0 0 (own.take 8256) else s
  else match Tab.find? (s.coll x).partials b with
    | none => s
    | some got =>
      let sums := (List.range 64).map fun i => s.addBlocks x p b i (reduceOpds (got.drop 48) i) (reduceOpds own i)
      let n := countsOf sums
      let out := reducePayload (sums.map (·.1))
      let store := fun (s : State) => (s.collCounts x n).ringDigest q x 1 b (rowBytes (reduceRows out)) n.1 n.2
      if p = s.ownerOf e b then match s.putOut x e 2 k b (reduceRows out) (mine.1 + n.1, mine.2 + n.2) with
        | none => s
        | some s => ((store s).collFeed e ((List.range 64).map (reduceOpds out)) n).clearBlock x b
      else if s.canSend q peer 8256 then ((store s).clearBlock x b).sendChunk pl x (collLevel e) 0 q peer b 0 0 out
      else s

/-- An all-gather's ring block at its owner (R253): `own` is codes, scale code, mask, counts. -/
def State.tryOwned (s : State) (pl : Plan) (x : Nat) (e : Rec) (b : Nat) (own : Rec) : State :=
  let q := s.blockPlane e b
  let p := s.posFor e b
  let peer := s.nextPeer e q p
  let code := le own 4096 1
  let mask := le own 4097 8
  let alone := s.ringLen e == 1
  if !alone && !s.canSend q peer 4096 then s
  else match s.putOut x e 1 b b (gatherRows own code mask) (le own 4105 4, le own 4109 4) with
    | none => s
    | some s =>
      let s := s.clearBlock x b
      if alone then s else s.sendChunk pl x (collLevel e) 1 q peer b code mask (own.take 4096)

/-- An all-gather's ring block received (R253): written as it came, passed on unless the next member is its owner. -/
def State.tryGathered (s : State) (pl : Plan) (x : Nat) (e : Rec) (b : Nat) (got : Rec) : State :=
  let q := s.blockPlane e b
  let p := s.posFor e b
  let peer := s.nextPeer e q p
  let last := (p + 1) % s.ringLen e == s.ownerOf e b
  let code := le got 26 1
  let mask := le got 32 8
  if !last && !s.canSend q peer 4096 then s
  else
    let rows := gatherRows (got.drop 48) code mask
    match s.putOut x e 1 b b rows (0, 0) with
    | none => s
    | some s =>
      let s := (s.writtenDigest q x b (rowBytes rows)).clearBlock x b
      if last then s else s.sendChunk pl x (collLevel e) 1 q peer b code mask (got.drop 48)

/-- A shift's own ring block (R257): sent on, or on a ring of one written at once, with the digest record of a ring block written
(R272). -/
def State.tryShiftOwn (s : State) (pl : Plan) (x : Nat) (e : Rec) (b : Nat) (own : Rec) : State :=
  let q := s.blockPlane e b
  let peer := s.nextPeer e q (s.posFor e b)
  let n := valueBytes (collFmt e) 64
  let w := own.length / 64
  if s.ringLen e = 1 then
    match s.putOut x e (collFmt e) b b ((List.range 64).map fun i => (slice own (w * i) n, slice own (w * i + n) (w - n))) (0, 0) with
    | none => s
    | some s => (s.writtenDigest q x b own).modColl x fun c => { c with own := Tab.erase c.own b }
  else if s.canSend q peer own.length then
    (s.modColl x fun c => { c with own := Tab.erase c.own b }).sendChunk pl x (collLevel e) 3 q peer b 0 0 own
  else s

/-- A shift's ring block received: a bit copy to output transfer b. -/
def State.tryShifted (s : State) (x : Nat) (e : Rec) (b : Nat) (got : Rec) : State :=
  let q := s.blockPlane e b
  let body := got.drop 48
  let n := valueBytes (collFmt e) 64
  let w := body.length / 64
  let rows := (List.range 64).map fun i => (slice body (w * i) n, slice body (w * i + n) (w - n))
  match s.putOut x e (collFmt e) b b rows (0, 0) with
  | none => s
  | some s => (s.writtenDigest q x b (rowBytes rows)).modColl x fun c => { c with partials := Tab.erase c.partials b }

/-- Let a ring block go as far as its parts, its output and the send hold allow; its plane entry is compared with its complement, as at
every use (R240). -/
def State.tryBlock (s : State) (x b : Nat) : State :=
  match s.plan?, s.collEntry? x with
  | some pl, some e =>
    let c := s.coll x
    if c.stopped || c.complete then s
    else if !pl.planeSound (s.blockPlane e b) then s.ringFault (s.blockPlane e b) 0x34 [x]
    else match collKind e with
      | 0 => match Tab.find? c.own b with
        | some own => s.tryReduce pl x e b own
        | none => s
      | 1 => match Tab.find? c.own b, Tab.find? c.partials b with
        | some own, _ => s.tryOwned pl x e b own
        | none, some got => s.tryGathered pl x e b got
        | none, none => s
      | 3 =>
        let s := match Tab.find? c.own b with
          | some own => s.tryShiftOwn pl x e b own
          | none => s
        match Tab.find? c.partials b with
        | some got => if (s.coll x).stopped then s else s.tryShifted x e b got
        | none => s
      | _ => s
  | _, _ => s

/-- Let every waiting ring block of a collective go as far as it can. -/
def State.tryAll (s : State) (x : Nat) : State :=
  let c := s.coll x
  ((c.own.map (·.1) ++ c.partials.map (·.1)).eraseDups).foldl (fun s b => s.tryBlock x b) s

/-! ## Opening a collective (R240, R242) -/

/-- The first use of a collective in a step: its plane entries are compared with their complements, and the reported peers with
the plane table on the first collective to use a plane. -/
def State.openColl (s : State) (x : Nat) (e : Rec) : State :=
  if (s.coll x).started then s
  else
    let s := s.modColl x fun c => { c with started := true }
    let check := fun (s : State) (q : Nat) =>
      match s.planeEntry q with
      | none => s
      | some (pe, comp) =>
        if comp ≠ pe.map (~~~ ·) then s.ringFault q 0x34 [x]
        else if planeLen pe = 1 ∨ s.chip.ring.checked.contains q then s
        else
          let wrong := fun (p a : Nat) => let o := s.oport p
            o.peerValid && (bits o.peer.toNat 16 0 != a || !bit o.peer.toNat 22)
          let s := s.modRing fun r => { r with checked := q :: r.checked }
          if wrong (planeDown pe) (bits (le pe 8 4) 16 0) || wrong (planeUp pe) (bits (le pe 12 4) 16 0) then s.ringFault q 0x35 [x] else s
    (collPlanes e).foldl check s

/-! ## Agreements (R255) -/

/-- One entry of an agreement's vector. -/
def vecAt (v : Rec) (i : Nat) : Nat × Int := (le v (16 * i) 8, sgn 16 (le v (16 * i + 8) 2))

/-- A vector from its entries. -/
def vecOf (xs : List (Nat × Int)) : Rec := xs.flatMap fun x => toLe 8 x.1 ++ toLe 2 (unsgn 16 x.2) ++ zeros 6

/-- The element-wise maximum. -/
def vecMax (m : Nat) (u v : Rec) : Rec :=
  vecOf ((List.range m).map fun i =>
    let a := vecAt u i
    let b := vecAt v i
    if (Exact.ofInt a.1 a.2).lt (Exact.ofInt b.1 b.2) then b else a)

/-- This chip's vector: the maxima gathered so far as wide values. -/
def State.ownVector (s : State) (e : Rec) : Rec :=
  vecOf ((List.range (collCount e)).map fun i =>
    match Tab.find? s.chip.instruments (collEntry e + i) with
    | some a => wide a.maxMag a.maxMagExp
    | none => (0, 0))

/-- Signal an agreement's queue once its entries are fed; a full queue leaves it to a later try. -/
def State.agreeSignal (s : State) (x : Nat) (e : Rec) : State :=
  let c := s.coll x
  if c.vector.isNone || !c.outputs.isEmpty || c.stopped then s
  else match s.signalTokens (collSignal e).1 (collSignal e).2 1 with
    | some s => s.modColl x fun c => { c with outputs := [0] }
    | none => s

/-- The agreed vector is known: each listed entry is raised to it and marked written, then the token is signalled. -/
def State.agreed (s : State) (x : Nat) (e : Rec) (v : Rec) : State :=
  let s := (List.range (collCount e)).foldl (fun s i =>
    let a := vecAt v i
    s.feed (collEntry e + i) { Accum.init with maxMag := a.1, maxMagExp := a.2, written := true }) s
  (s.modColl x fun c => { c with vector := some v }).agreeSignal x e

/-- Let an agreement go as far as it can. -/
def State.tryAgree (s : State) (pl : Plan) (x : Nat) (e : Rec) : State :=
  let q := (collPlanes e).headD 0
  match s.logical e q, Tab.find? (s.coll x).own 0 with
  | some (p, L), some own =>
    let m := collCount e
    let peer := s.nextPeer e q p
    let c := s.coll x
    if c.stopped then s
    else if !pl.planeSound q then s.ringFault q 0x34 [x]
    else if L = 1 then (if c.vector.isNone then s.agreed x e own else s.agreeSignal x e)
    else
      let s := if c.inputs.contains 0 || !s.canSend q peer (16 * m) then s
        else if p = 0 then (s.modColl x fun c => { c with inputs := c.inputs ++ [0] }).sendChunk pl x (collLevel e) 2 q peer 0 0 0 own
        else match Tab.find? c.partials 0 with
          | none => s
          | some got =>
            let v := vecMax m own (got.drop 48)
            let s := s.modColl x fun c => { c with inputs := c.inputs ++ [0], partials := Tab.erase c.partials 0 }
            if p = L - 1 then (s.sendChunk pl x (collLevel e) 2 q peer 1 0 0 v).agreed x e v
            else s.sendChunk pl x (collLevel e) 2 q peer 0 0 0 v
      match Tab.find? (s.coll x).partials 1 with
      | some got =>
        if (s.coll x).vector.isSome then s
        else if p + 2 < L ∧ !s.canSend q peer (16 * m) then s
        else
          let v := got.drop 48
          let s := s.modColl x fun c => { c with partials := Tab.erase c.partials 1 }
          (if p + 2 < L then s.sendChunk pl x (collLevel e) 2 q peer 1 0 0 v else s).agreed x e v
      | none => s.agreeSignal x e
  | _, _ => s

/-- Let everything of an open collective that waits go as far as it can. -/
def State.tryColl (s : State) (x : Nat) : State :=
  match s.plan?, s.collEntry? x with
  | some pl, some e => if collKind e = 2 then s.tryAgree pl x e else s.tryAll x
  | _, _ => s

/-- Let every waiting ring block and agreement go as far as it can: a send hold or an output has room again (R262). -/
def State.tryColls (s : State) : State := (s.chip.ring.colls.map (·.1)).foldl State.tryColl s

/-! ## Acceptance of chunks (R261, Table 8.14) -/

/-- The payload bytes of a kind (Table 8.6). -/
def payloadBytes (e : Rec) : Nat :=
  match collKind e with
  | 0 => 8256
  | 1 => 4096
  | 2 => 16 * collCount e
  | _ => 64 * (valueBytes (collFmt e) 64 + if collFmt e = 3 then 9 else 1)

/-- Whether the sender is the logical member before this one, of a ring block that reaches this member from upstream. -/
def State.expectedSender (s : State) (e : Rec) (q b sender : Nat) : Bool :=
  let bq := if collKind e = 2 then (collPlanes e).headD 0 else s.blockPlane e b
  match s.logical e q with
  | none => false
  | some (p, L) =>
    let none' := match collKind e with
      | 0 => p == s.startOf e b
      | 1 => p == s.ownerOf e b
      | 2 => if b = 0 then p == 0 else p == L - 1
      | _ => false
    bq == q && !none' && sender == s.physical e q ((p + L - 1) % L)

/-- Row 5 of Table 8.14: what makes a chunk's header invalid. -/
def State.chunkBad (s : State) (h payload : Rec) : Bool :=
  let kind := bits (le h 6 1) 1 0
  let q := bits (le h 6 1) 6 3
  let b := le h 8 4
  (kind == 2 && (List.range (payload.length / 16)).any fun i => !zeroAt payload (16 * i + 10) 6) || !zeroAt h 7 1 || decide (bits (le h 12 2) 15 12 ≠ 0) || decide (bits (le h 14 2) 15 12 ≠ 0) || decide (bits (le h 16 8) 61 0 ≠ 0) ||
  !zeroAt h 40 8 || (h.getD 27 0 != ~~~(h.getD 26 0)) || (kind != 1 && (!zeroAt h 26 1 || !zeroAt h 32 8)) ||
  decide (bits (le h 24 2) 14 0 ≠ payload.length) ||
  match s.collEntry? (le h 4 2) with
  | none => true
  | some e => collKind e != kind || payloadBytes e != payload.length || decide (b ≥ (if kind = 2 then 2 else collCount e)) ||
      !s.expectedSender e q b (bits (le h 14 2) 11 0)

/-- An accepted chunk of the running step takes effect (R251, R253, R254, R255, R257). -/
def State.deliver (s : State) (h payload : Rec) : State :=
  let x := le h 4 2
  let b := le h 8 4
  match s.plan?, s.collEntry? x with
  | some pl, some e =>
    let s := (s.openColl x e).logRingInput h payload
    if (s.coll x).stopped || (s.coll x).complete then s
    else
      let s := s.modColl x fun c => { c with partials := Tab.set c.partials b (h ++ payload) }
      if collKind e = 2 then s.tryAgree pl x e
      else
        let own := s.scaleEntry (collEntry e)
        let code := h.getD 26 0
        let s := if collKind e = 1 ∧ own ≠ some code then
            let q := s.blockPlane e b
            let shown := match s.residentCtx with | some c => ((c.scale[collEntry e]?).map (·.1)).getD 0 | none => 0
            let s := (s.setBit (.ringStatus q) 61).bump (.ringCount q) 39 28 1
            let first := !(s.coll x).mismatchLogged
            let s := s.modColl x fun c => { c with mismatches := c.mismatches + 1, mismatchLogged := true }
            if first then s.logEvent 5 0x72 0 0 q (toLe 2 x ++ [code, shown]) else s
          else s
        s.tryBlock x b
  | _, _ => s

/-- An uncorrectable word of a chunk or control message counts as an integrity error, not a violation (Table 8.14): a count of the port that
no register shows. (log 165: DESIGN CHOICE) -/
def State.integrityError (s : State) (port : Nat) : State := s.modOport port fun o => { o with integrity := o.integrity + 1 }

/-- A chunk addressed to this chip, of the context whose ring runs: accepted in link-number order, or dropped (R261, R266,
Table 8.14). (log 94: DEDUCED) -/
def State.acceptChunk (s : State) (pl : Plan) (port : Nat) (h payload : Rec) (bad : Bool) : State :=
  let tag := le h 0 4
  let q := bits (le h 6 1) 6 3
  let sender := bits (le h 14 2) 11 0
  let l := linkOf s.chip.ring.down q sender
  let n : Word32 := BitVec.ofNat 32 (le h 28 4)
  let want := l.accepted + 1
  let det := bit (le h 24 2) 15
  let refuse := fun (s : State) => s.tellUp pl 3 q sender want
  if s.replayMode = 3 then s
  else if n ≠ want then
    if after n want then
      let s := refuse s
      if det || l.lastDetoured then s else s.ringViolation q 4 tag
    else s
  else if s.chunkBad h payload then (refuse s).ringViolation q 5 tag
  else if bad then (refuse s).integrityError port
  else if s.used0 port + h.length + payload.length > 524288 then (refuse s).ringViolation q 6 tag
  else match s.planeEntry q with
    | none => s
    | some (pe, comp) =>
      if comp ≠ pe.map (~~~ ·) then s.ringFault q 0x34 [le h 4 2]
      else
        let s := s.modDown q sender fun l => { l with accepted := n, lastDetoured := det }
        if bit (le h 6 1) 7 ≠ s.epochBit then
          s.modRing fun r => { r with held := r.held ++ [(port, { header := h, payload := payload })] }
        else (s.tellUp pl 0 q sender n).deliver h payload

/-- A chunk on a receive port (R268, Table 8.14): passed on, parked for a loaded context that does not run, or accepted. (log 87: DEDUCED; log 88: DESIGN CHOICE) -/
def State.receiveChunk (s : State) (port : Nat) (h payload : Rec) (bad : Bool) (poison : Option Nat) : State :=
  let tag := le h 0 4
  let q := bits (le h 6 1) 6 3
  match s.tagged tag with
  | none => s.ringViolation (s.violPlane port q) 1 tag
  | some (c, pl) =>
    let (mask, s) := match poison with
      | some m => (m, s)
      | none => if bad then (let (v, s) := s.take; (v.toNat % 2 ^ ((h.length + payload.length) / 16), s)) else (0, s)
    if !pl.planeSound q then s.planeFault q
    else if bits (le h 16 8) 63 62 ≠ 0 ∨ !pl.linked q ∨ bits (le h 12 2) 11 0 ≠ planePos (pl.plane q) then
      s.forward pl port q tag false mask (h ++ payload)
    else if s.ringRuns c && (s.oport port).parked.isEmpty then (s.acceptChunk pl port h payload bad).stopCheck port
    else if s.used0 port + h.length + payload.length > 524288 then
      (s.tellUp pl 3 q (bits (le h 14 2) 11 0) (BitVec.ofNat 32 (le h 28 4))).ringViolation q 6 tag
    else (s.modOport port fun o => { o with parked := o.parked ++ [{ header := h, payload := payload, bad := bad }] }).stopCheck port

/-- Let chunks at the head of a port's class 0 in while their context runs. -/
def State.unpark (port : Nat) : Nat → State → State
  | 0, s => s
  | n + 1, s =>
    match (s.oport port).parked with
    | [] => s
    | k :: rest => match s.tagged (le k.header 0 4) with
      | some (c, pl) =>
        if s.ringRuns c then
          State.unpark port n (((s.modOport port fun o => { o with parked := rest }).acceptChunk pl port k.header k.payload k.bad).stopCheck port)
        else s
      | none => State.unpark port n ((s.modOport port fun o => { o with parked := rest }).ringViolation (s.violPlane port (bits (le k.header 6 1) 6 3)) 1 (le k.header 0 4))

/-- Parked chunks of every port, once a context runs. -/
def State.unparkAll (s : State) : State := (List.range 24).foldl (fun s p => State.unpark p ((s.oport p).parked.length) s) s

/-- Serve a local replay's receives from the reference record's ring input log (R237, R278), in log order: every logged chunk
is here from the start of the step. (log 64: DEDUCED) -/
def State.serveLog (log : Rec) : Nat → Nat → State → State
  | 0, _, s => s
  | fuel + 1, at', s =>
    if at' + 32 > log.length then s
    else
      let n := le log (at' + 16) 4
      let key := slice log at' 16
      let h := key ++ zeros 32
      -- the rest of the header is not logged: an all-gather's scale code is the entry's own, its vug blocks are those all of
      -- whose codes are vug (R48)
      let x := le key 4 2
      let code : Byte := match s.collEntry? x with
        | some e => if collKind e = 1 then (s.scaleEntry (collEntry e)).getD 0x80 else 0
        | none => 0
      let payload := slice log (at' + 32) n
      let mask := if bits (le key 6 1) 1 0 = 1 then (List.range 64).foldl (fun m i => m + if (slice payload (64 * i) 64).all (· = 0x80) then 2 ^ i else 0) 0 else 0
      State.serveLog log fuel (at' + 32 + (n + 31) / 32 * 32) (s.deliver (patch (patch h 26 [code, ~~~code]) 32 (toLe 8 mask)) payload)

/-- The ring at step start (R244, R261): no collective has begun; chunks held for this epoch are acknowledged in acceptance order
and take effect; parked chunks of the context come in. A local replay takes its receives from the log alone (R278). -/
def State.ringStart (s : State) : State :=
  let held := s.chip.ring.held
  let s := s.modRing fun r => { r with colls := [], checked := [], held := if s.replayMode = 3 then held else [] }
  match (if s.replayMode = 3 then none else s.plan?) with
  | none => s.stopCheckAll
  | some pl =>
    let s := held.foldl (fun (s : State) k =>
      let h := k.2.header
      if bit (le h 6 1) 7 = s.epochBit then
        (s.tellUp pl 0 (bits (le h 6 1) 6 3) (bits (le h 14 2) 11 0) (BitVec.ofNat 32 (le h 28 4))).deliver h k.2.payload
      else s.modRing fun r => { r with held := r.held ++ [k] }) s
    (s.unparkAll).stopCheckAll

/-! ## Input transfers (R248, R250, R252, R257) -/

/-- A row of zero elements on a collective's flow side, for a row the drain did not store (R248). -/
def zeroRow (f : Nat) : Rec := zeros (valueBytes f 64 + if f = 3 then 9 else 1)

/-- The 64 rows of an input transfer, or what stops it: from memory by address, from an engine by tile identity once the tile
is closed. -/
def State.inputRows (s : State) (id f b : Nat) (xf : Xfer) (i : Nat) : Except MoveStop (List Rec × State) :=
  if xf.src = 3 then
    let rows := (s.stream id).flow.filter fun r => le r 0 4 = b
    if !rows.any (fun r => le r 5 1 = 1) then .error .wait
    else
      let row := fun (j : Nat) => match rows.find? fun r => le r 4 1 = j ∧ le r 5 1 = 0 with | some r => r.drop 6 | none => zeroRow f
      let s := s.modStream id fun t => { t with flow := t.flow.filter fun r => le r 0 4 ≠ b }
      .ok ((List.range 64).map row, s)
  else do
    s.rangesOk false (if xf.src = 0 then xf.from.ranges xf xf.rowBytes i else [])
    let (rows, s) ← s.readRows xf.from xf xf.rowBytes i
    .ok (rows.map fun r => r.1 ++ r.2, s)

/-- Store the contribution of a ring block: none when the scale-table entry of an all-gather does not match its complement. -/
def State.contribute (s : State) (x : Nat) (e : Rec) (b : Nat) (rows : List Rec) : Option State :=
  let f := collFmt e
  let p := s.posFor e b
  let q := s.blockPlane e b
  let opds := rows.map (rowOpds f 1 false)
  let keep := fun (s : State) (r : Rec) => s.modColl x fun c => { c with own := Tab.set c.own b r, inputs := c.inputs ++ [b] }
  match collKind e with
  | 0 =>
    let sts := opds.mapIdx fun i os => s.narrowOwn x p b i os
    let n := countsOf sts
    let out := reducePayload (sts.map (·.1))
    some (((keep s (out ++ toLe 4 n.1 ++ toLe 4 n.2)).collCounts x n).ringDigest q x 0 b (rowBytes (reduceRows out)) n.1 n.2)
  | 1 => (s.scaleEntry (collEntry e)).map fun code =>
    let sts := opds.mapIdx fun i os => s.narrowGather x p b i code os
    let n := countsOf sts
    let mask := (sts.zipIdx).foldl (fun m st => m + if st.1.1.scale = 0x80 then 2 ^ st.2 else 0) 0
    let out := sts.flatMap fun st => packCodes 1 [] (st.1.elems.map (elemCode 1))
    let s := (keep s (out ++ [code] ++ toLe 8 mask ++ toLe 4 n.1 ++ toLe 4 n.2)).collCounts x n
    let s := s.ringDigest q x 0 b (rowBytes (gatherRows out code.toNat mask)) n.1 n.2
    match collInstr e with
    | none => s
    | some k => s.feed k ({ sts.foldl (fun a st => a.feedBlock { st.1 with sats := 0, vugs := 0 } 0) Accum.init with sats := n.1, vugs := n.2 } : Accum)
  | _ => some (keep s rows.flatten)

/-- One input transfer of a collective moves: its contribution is stored, and the ring block goes on. -/
def inputTransfer (x b : Nat) (s : State) : State :=
  match s.collEntry? x with
  | none => s
  | some e =>
    let id := collIn e
    match s.streamEntry id with
    | none => s
    | some se =>
      let c := s.coll x
      if collKind e = 2 ∨ !s.moves id se ∨ c.stopped ∨ c.complete ∨ b ≥ collCount e ∨ c.inputs.contains b ∨ c.inputs.length ≥ s.inputsOf e then s
      else
        let t := s.stream id
        let T := t.completed + t.inPlace.length
        let k := c.inputs.length
        if T - t.first ≥ (t.running.map (·.started)).getD 0 then s
        else match findXfer se t.slots (T - t.first) with
          | none => s
          | some (sl, xf, i) =>
            let mapped := if xf.src = 3 then true
              else decide (T = s.streamBase x id false + k) && (if collKind e = 1 then (s.ownedBlocks e).getD k (collCount e) == b else k == b)
            if !mapped then s
            else
              let s := (s.stir (ownerDie id)).openColl x e
              let q := s.blockPlane e b
              if (s.coll x).stopped then s
              else if !s.planeAgrees q then s.ringFault q 0x34 [x]
              else match s.checkDesc id sl with
              | none => s.collStream q x id (.fault 0x02 s)
              | some s =>
              if !fitsBlock xf (collFmt e) then s.collStream q x id (.fault 0x05 s)
              else match s.inputRows id (collFmt e) b xf i with
                | .error .wait => s.moveStop id .wait
                | .error m => s.collStream q x id m
                | .ok (rows, s) => match s.contribute x e b rows with
                  | none => s.ringFault q 0x36 [x]
                  | some s => (s.placed id se T).tryBlock x b

/-! ## Completion (R263) -/

/-- Whether a collective has nothing left to do on this member but be acknowledged. -/
def State.collDone (s : State) (x : Nat) (e : Rec) : Bool :=
  let c := s.coll x
  !c.stopped && c.own.all (fun _ => collKind e == 2) && c.partials.isEmpty &&
  (if collKind e = 2 then !c.outputs.isEmpty else c.inputs.length == s.inputsOf e && c.outputs.length == s.outputsOf e) &&
  s.chip.ring.up.all fun l => l.hold.all fun k => le k.header 4 2 ≠ x

/-- A collective completes: its status record is written (R272). -/
def completeColl (x : Nat) (s : State) : State :=
  match s.plan?, s.collEntry? x with
  | some pl, some e =>
    if (s.flint.state ≠ .running ∧ s.flint.state ≠ .loaded) ∨ !s.member e then s
    else
      let s := if collKind e = 2 then s.tryAgree pl x e else s.tryAll x
      if (s.coll x).complete || !s.collDone x e then s
      else
        let c := s.coll x
        let top := fun (n w : Nat) => min n (2 ^ w - 1)
        let full := decide (c.sats ≥ 2 ^ 32 - 1) || decide (c.vugs ≥ 2 ^ 32 - 1) || decide (c.mismatches ≥ 2 ^ 32 - 1) || decide (c.detoured ≥ 2 ^ 31 - 1)
        let rec' := toLe 4 (top c.sats 32) ++ toLe 4 (top c.vugs 32) ++ toLe 4 (top c.mismatches 32) ++ toLe 4 (top c.detoured 31 + full.toNat * 2 ^ 31)
        let s := if collRecord e = 0 then s else s.ringWrite ((collPlanes e).headD 0) x (collRecord e) rec'
        if (s.coll x).stopped then s else s.modColl x fun c => { c with started := true, complete := true }
  | _, _ => s

/-! ## Control messages received (R259, R266, R269) -/

/-- A control message on a receive port: an unknown tag or a reserved type is a violation; one for another chip is passed on, with the words
that are uncorrectable marked; one for this chip runs `f` with the plan, the plane, the sender's position and the number, when its type is
`type`, and is dropped when a word of it is uncorrectable. A reserved field that is set is a violation (Table 8.14). (log 89: DEDUCED) -/
def State.onControl (s : State) (port type : Nat) (m : Rec) (poison : Nat) (f : State → Plan → Nat → Nat → Word32 → State) : State :=
  let tag := le m 0 4
  let q := bits (le m 4 1) 3 0
  let ty := bits (le m 4 1) 7 4
  match s.tagged tag with
  | none => s.ringViolation (s.violPlane port q) 9 tag
  | some (c, pl) =>
    if !pl.planeSound q then s.planeFault q
    else if ty ≥ 4 then s.ringViolation (s.violPlane port q) 9 tag
    else if !zeroAt m 5 1 || decide (bits (le m 6 2) 15 12 ≠ 0) || decide (bits (le m 8 2) 15 12 ≠ 0) || !zeroAt m 10 2 ||
        decide (bits (le m 16 8) 61 15 ≠ 0) || !zeroAt m 24 8 then s.ringViolation (s.violPlane port q) 5 tag
    else if bits (le m 16 8) 63 62 ≠ 0 ∨ !pl.linked q ∨ bits (le m 8 2) 11 0 ≠ planePos (pl.plane q) then s.forward pl port q tag true poison m
    else if poison ≠ 0 then s.integrityError port
    else if ty = type ∧ s.resident = c.id then f s pl q (bits (le m 6 2) 11 0) (BitVec.ofNat 32 (le m 12 4))
    else s

/-- An acknowledgement (R261, R271). -/
def State.acked (s : State) (_pl : Plan) (q peer : Nat) (n : Word32) : State :=
  (s.modUp q peer fun l => { l.ackTo n with silent := 0 }).tryColls

/-- A refuse (R266): resend from the number; a fourth refuse of one number is fault 0x32. -/
def State.refused (s : State) (pl : Plan) (q peer : Nat) (n : Word32) : State :=
  let l := linkOf s.chip.ring.up q peer
  let times := if l.refusedNo = n then l.refused + 1 else 1
  let s := s.modUp q peer fun l => { l with refused := times, refusedNo := n }
  if times ≥ 4 then s.ringFault q 0x32 ((l.hold.find? fun c => c.number == n).map fun c => le c.header 4 2).toList
  else s.resendFrom pl q peer n

/-- A resume answer (R269, R271): what it names counts as acknowledged, the rest is sent again; over the link once it is up. -/
def State.resumed (s : State) (pl : Plan) (q peer : Nat) (n : Word32) : State :=
  let l := linkOf s.chip.ring.up q peer
  if !l.query then s.ringViolation q 9 (le pl.settings 4 4)
  else
    let s := s.modUp q peer fun l =>
      { l.ackTo n with query := false, silent := 0, route := if l.direct then 1 else l.route, upAgain := l.upAgain && !l.direct, direct := false }
    (s.resendFrom pl q peer (n + 1)).tryColls

/-! ## Meanings -/

/-- TRANSFER_START (R151, R249). -/
def execTransferStart (stream : Nat) (s : State) : Host.Outcome State Fault Refusal :=
  .next (match s.streamEntry stream with
    | some e => if streamClass e = 5 then startRing stream e s else startTransfer stream s
    | none => s)

/-- TRANSFER_COMPLETE (R151, R249): a collective stream writes the ring blocks that wait for its started transfers and signals
those in place. -/
def execTransferComplete (stream : Nat) (s : State) : Host.Outcome State Fault Refusal :=
  .next (match s.streamEntry stream with
    | some e =>
      if streamClass e = 5 then
        if s.moves stream e then
          let xs := s.chip.ring.colls.filterMap fun k => (s.collEntry? k.1).bind fun c => if collOut c = stream then some k.1 else none
          let s := xs.foldl State.tryAll s
          (State.settleSignals stream e ((s.stream stream).inPlace.length + 1) s).stopCheckAll
        else s
      else completeTransfer stream s
    | none => s)

/-- COLLECTIVE_INPUT_TRANSFER (R250). -/
def execCollectiveInputTransfer (seq block : Nat) (s : State) : Host.Outcome State Fault Refusal :=
  .next (inputTransfer seq block s).stopCheckAll

/-- The 16-byte words of a message. -/
def wordsOf (m : Rec) : List Rec := (List.range (m.length / 16)).map fun i => slice m (16 * i) 16

/-- How many words the message at the head of a class stream has, by its headers (R258, R259): bytes 26 and 27 of a chunk are complements
and those of a control message are both 0. (log 203: DEDUCED) -/
def headWords (ws : List RxWord) : Option Nat :=
  match ws with
  | _ :: w :: _ => if w.word.getD 11 0 == ~~~(w.word.getD 10 0) then some (3 + bits (le w.word 8 2) 14 0 / 16) else some 2
  | _ => none

/-- A message is taken from the class stream at whose head it stands (R287): the stream without its words, and the mask of those stored
as uncorrectable. -/
def OPort.takeMessage (o : OPort) (m : Rec) : Option (Nat × OPort) :=
  let ws := wordsOf m
  [0, 1].findSome? fun c =>
    let mine := (o.rxq.filter fun w => w.cls = c).take ws.length
    if headWords mine == some ws.length && mine.map (·.word) == ws then
      let rest := (o.rxq.filter fun w => w.cls = c).drop ws.length
      some ((mine.zipIdx).foldl (fun a w => a + w.1.poison.toNat * 2 ^ w.2) 0, { o with rxq := o.rxq.filter (fun w => w.cls ≠ c) ++ rest })
    else none

/-- Take a message's words from their class stream; a message whose words no flit brought is taken as it comes. -/
def State.takeMessage (s : State) (port : Nat) (m : Rec) : Option Nat × State :=
  match (s.oport port).takeMessage m with
  | some (mask, o) => (some mask, s.modOport port fun _ => o)
  | none => (none, s)

/-- CHUNK_RECEIVED (R261, R287). (log 86: DESIGN CHOICE) -/
def execChunkReceived (port : Nat) (header payload : Rec) (bad : Bool) (s : State) : Host.Outcome State Fault Refusal :=
  .next (if (s.oport port).state = 3 then
      let h := slice header 0 48
      let (mask, s) := s.takeMessage port (h ++ payload)
      s.receiveChunk port h payload (bad || mask.any (· ≠ 0)) mask
    else s)

/-- STOP_RECEIVED (R265). -/
def execStopReceived (port cls : Nat) (s : State) : Host.Outcome State Fault Refusal :=
  .next (s.modOport port fun o => { o with stoppedBy := o.stoppedBy ||| ((1 : BitVec 2) <<< cls) })

/-- GO_RECEIVED (R265): the class resumes where it stood. -/
def execGoReceived (port cls : Nat) (s : State) : Host.Outcome State Fault Refusal :=
  .next (((s.modOport port fun o => { o with stoppedBy := o.stoppedBy &&& ~~~((1 : BitVec 2) <<< cls) }).flush port).tryColls.stopCheckAll)

/-- Take a control message from its class stream and answer it. -/
def State.takeControl (s : State) (port type : Nat) (m : Rec) (f : State → Plan → Nat → Nat → Word32 → State) : State :=
  let (mask, s) := s.takeMessage port m
  s.onControl port type m (mask.getD 0) f

/-- ACKNOWLEDGE_RECEIVED (R259). -/
def execAcknowledgeReceived (port : Nat) (msg : Rec) (s : State) : Host.Outcome State Fault Refusal :=
  .next ((s.takeControl port 0 msg State.acked).stopCheckAll)

/-- REFUSE_RECEIVED (R266). -/
def execRefuseReceived (port : Nat) (msg : Rec) (s : State) : Host.Outcome State Fault Refusal :=
  .next (s.takeControl port 3 msg State.refused)

/-- RESUME_QUERY_RECEIVED (R269): answered with the highest number accepted. -/
def execResumeQueryReceived (port : Nat) (msg : Rec) (s : State) : Host.Outcome State Fault Refusal :=
  .next (s.takeControl port 1 msg fun s pl q peer _ => s.tellUp pl 2 q peer (linkOf s.chip.ring.down q peer).accepted)

/-- RESUME_ANSWER_RECEIVED (R269). -/
def execResumeAnswerReceived (port : Nat) (msg : Rec) (s : State) : Host.Outcome State Fault Refusal :=
  .next (s.takeControl port 2 msg State.resumed)

/-- RESUME_QUERY_TIMEOUT (R269): the route stayed silent; query again, after three silent queries move on. A link that is up again goes on
so until its detoured chunks are acknowledged. -/
def execResumeQueryTimeout (plane peer : Nat) (s : State) : Host.Outcome State Fault Refusal :=
  .next (match s.plan? with
    | none => s
    | some pl =>
      let l := linkOf s.chip.ring.up plane peer
      if l.route = 1 ∨ l.route = 4 ∨ (!l.query ∧ l.hold.isEmpty) then s
      else if l.settled then s.query pl plane peer
      else if l.silent + 1 ≥ 3 then s.takeRoute pl plane peer (l.route - 1)
      else (s.modUp plane peer fun l => { l with silent := l.silent + 1 }).query pl plane peer)

/-- DETOUR_END (R269): the link is up again and every detoured chunk acknowledged; query over the link. -/
def execDetourEnd (plane peer : Nat) (s : State) : Host.Outcome State Fault Refusal :=
  .next (match s.plan? with
    | none => s
    | some pl =>
      let l := linkOf s.chip.ring.up plane peer
      if l.settled then s.query pl plane peer else s)

/-- AGREEMENT_START (R255): the gate token is taken, the vector read and sent or held for the one from upstream. -/
def execAgreementStart (seq : Nat) (s : State) : Host.Outcome State Fault Refusal :=
  .next (match s.plan?, s.collEntry? seq with
    | some pl, some e =>
      if collKind e = 2 ∧ s.flint.state = .running ∧ s.member e ∧ (Tab.find? (s.coll seq).own 0).isNone ∧ !(s.coll seq).stopped ∧
          !(s.chip.step.any (·.aborting)) ∧ !s.holding then
        match s.waitTokens (collGate e).1 (collGate e).2 1 with
        | none => s
        | some s =>
          let s := s.openColl seq e
          if (s.coll seq).stopped then s
          else (s.modColl seq fun c => { c with own := Tab.set c.own 0 (s.ownVector e) }).tryAgree pl seq e
      else s
    | _, _ => s)

/-- COLLECTIVE_COMPLETE (R263). -/
def execCollectiveComplete (seq : Nat) (s : State) : Host.Outcome State Fault Refusal := .next (completeColl seq s)

/-- COLLECTIVE_HOLD_LIMIT (R263): an open collective that stood still for the hold limit stops with 0x30, on the lowest plane it takes. (log 192: DESIGN CHOICE) -/
def execCollectiveHoldLimit (seq : Nat) (s : State) : Host.Outcome State Fault Refusal :=
  .next (match s.collEntry? seq with
    | some e =>
      let c := s.coll seq
      if s.flint.state = .running ∧ s.chip.step.isSome ∧ s.member e ∧ !c.complete ∧ !c.stopped then s.ringFault ((collPlanes e).headD 0) 0x30 [seq] else s
    | none => s)

/-- HELD_CHUNK_HOLD_LIMIT (R275): the chunk parked at the head of a port's class 0 is dropped; those behind it come in if their
context runs. -/
def execHeldChunkHoldLimit (port : Nat) (s : State) : Host.Outcome State Fault Refusal :=
  .next (match (s.oport port).parked with
    | [] => s
    | k :: rest =>
      let s := (s.modOport port fun o => { o with parked := rest }).ringViolation (s.violPlane port (bits (le k.header 6 1) 6 3)) 2 (le k.header 0 4)
      (State.unpark port rest.length s).stopCheck port)

end Sys2Proof.Machine
end

