-- ==== Sys2Proof/Machine/Optical.lean ====
section
/-! DEFINITION. Optical ports (R281 to R323): going down and up, flits and link-level replay, training and identity, dormant
ports, overload, lasers and their hand-over, the monitor chain, rings and their searches. -/

namespace Sys2Proof.Machine

/-! ## Faults, violations, going down and coming up -/

/-- A port fault (R322): the first code since fault was clear is kept, and it is reported. -/
def State.portFault (s : State) (p code : Nat) : State :=
  let r := Reg.portStatus p
  (if (s.reg r).getLsbD 63 then s else (s.setBit r 63).setField r 55 48 code).report 3 p 0 code

/-- A peer violation, by its row of Table 9.17 (R323, event 0x74). -/
def State.portViolation (s : State) (p row : Nat) : State :=
  ((s.setBit (.portStatus p) 62).bump (.portCount p) 15 8 1).logEvent 3 0x74 6 0 p [BitVec.ofNat 8 row]

/-- What a port forgets when its link goes down (R292): the replay buffer, the numbers, the words not yet taken, the peer. -/
def OPort.drop (o : OPort) (state step : Nat) : OPort :=
  { o.train step with state := state, stepNo := step, replay := [], nacking := false, nacks := 0, stoppedBy := 0, stopping := 0,
                      txNext := 0, rxNext := 0, acked := ~~~0, rxq := [], peerDormant := false, wakeAsked := false, grantDue := false,
                      draining := false, sinceIdle := 0, rxSinceIdle := 0 }

/-! ## Going down and coming up -/

/-- A port goes down into a state of Table 9.11 and a step: an up or dormant link counts as lost, collectives on it detour, the
port notice is raised (Table 11.5). -/
def State.portOff (s : State) (p state step : Nat) : State :=
  let was := (s.oport p).state
  let waking := (s.oport p).waking
  let s := s.modOport p fun o => { o.drop state step with txq := o.txq }
  if was = 3 ∨ was = 4 ∨ waking then
    (((s.setBit (.portStatus p) 60).bump (.portCount p) 7 0 1).linkLost p).raiseBoth 2
  else s

/-- A link goes down and the port starts to relink at once, by step 4 of Table 9.8 (R292): it searches, or waits for light. (log 99: DEDUCED) -/
def State.portDown (s : State) (p : Nat) : State :=
  let s := s.portOff p 1 (if (s.oport p).light then 5 else 4)
  s.sendTraining p 0

/-- R_req of R264 in KiB for a fibre delay in ns, a multiple of 4. -/
def reqKiB (d : Nat) : Nat := (200 * (2 * d + 310) + 4095) / 4096 * 4

/-- A port comes up with a fibre delay (R264, R311 step 8, R313): threshold and pacing, the peer, event 0x76 and the port notice; the path
baselines are taken with the first M readings of this link. The first codeword each way carries counter 0 (R285). (log 102: DEDUCED) -/
def State.portUp (s : State) (p d : Nat) : State :=
  let o := s.oport p
  let changed := o.reported.any (· != o.peer)
  let s := if changed then s.setBit (.portStatus p) 61 else s
  let s := s.modOport p fun o =>
    { o with state := 3, stepNo := 8, delay := d, threshold := min 448 (max 256 (reqKiB d)),
             pacedTo := if reqKiB d > 448 then 200000 * 448 / reqKiB d else 0, peerValid := true, reported := some o.peer,
             txNext := 0, rxNext := 0, acked := ~~~0, replay := [], nacking := false, nacks := 0, rxq := [],
             rxCounter := some (o.rxCounter.getD 65535), txCounter := 0, sinceIdle := 0, rxSinceIdle := 0, pathPending := true,
             peerDormant := false, wakeAsked := false, grantDue := false, waking := false }
  let s := (s.raiseBoth 2).logEvent 3 0x76 0 0 p (toLe 4 o.peer.toNat ++ toLe 2 d)
  ((s.linkBack p).flush p).stopCheck p

/-- Retire a port (R299, R440): the repair map and reduced capability. -/
def State.retirePort (s : State) (p : Nat) : State :=
  let s := s.portOff p 6 0
  if s.repair.retiredPorts.contains p then s
  else ((((s.modRepair fun r => { r with retiredPorts := p :: r.retiredPorts }).mapEntry 8 p 0 2 0).capability).summary (portDie p) 62)

/-- An up port relinks from step 6 of Table 9.8, sending training blocks. -/
def State.relink (s : State) (p : Nat) : State := if (s.oport p).state = 3 then (s.portOff p 2 6).sendTraining p 0 else s

/-! ## Replay (R290, R291) -/

/-- Flits acknowledged up to `n` leave the replay buffer; a number not yet sent is a violation (Table 9.17). An empty buffer ends what a
scrub waits for (R318). -/
def State.ackTo (s : State) (p : Nat) (n : Word32) : State :=
  let o := s.oport p
  if after n (o.txNext - 1) then s.portViolation p 3
  else if after n o.acked then
    s.modOport p fun o =>
      let left := o.replay.filter fun f => after f.1 n
      { o with acked := n, replay := left, draining := o.draining && !left.isEmpty }
  else s

/-- An acknowledgement: the buffer has room again. -/
def State.flitAck (s : State) (p : Nat) (n : Word32) : State := (s.ackTo p n).flush p

/-- Whether a port still waits for its replay buffer at a scrub: until it is acknowledged, for at most the link-down time (R318). -/
def State.drains (s : State) (p : Nat) : Bool := (s.oport p).draining && decide (s.localTime.toNat ≤ (s.oport p).drainUntil.toNat)

/-- Send again every flit after the acknowledged number, bit for bit (R291). While SCRUBBING only a port that still waits for its replay
buffer does (R277, R318). -/
def State.replayAll (s : State) (p : Nat) : State :=
  let fs := (s.oport p).replay
  if fs.isEmpty ∨ (s.flint.state = .scrubbing ∧ !s.drains p) then s
  else fs.foldl (fun s f => s.dataFlit p f.2) ((s.setBit (.portStatus p) 59).bump (.portCount p) 27 16 fs.length)

/-- Discard a flit: nack is set from here on until the expected flit comes (R291). -/
def State.nack (s : State) (p : Nat) : State :=
  if (s.oport p).nacking then s
  else (s.modOport p fun o => { o with nacking := true, nacks := 1 }).idleFlit p

/-- A nack received: everything after the acknowledged number goes again, before anything new. -/
def State.nacked (s : State) (p : Nat) (n : Word32) : State :=
  if after n ((s.oport p).txNext - 1) then s.portViolation p 3 else ((s.ackTo p n).replayAll p).flush p

/-- Take a codeword's counter and stop bits: the next counter in order; a multiple of 256 is due as a management codeword and
nothing else (R285, Table 9.17). The Bool says whether the codeword stands in order. -/
def State.codeword (s : State) (p : Nat) (control : BitVec 20) (management : Bool) : Bool × State :=
  let c := bits control.toNat 15 0
  let o := s.oport p
  let inOrder := (match o.rxCounter with | some k => c == (k + 1) % 65536 | none => true) && (management == (c % 256 == 0))
  let stops : BitVec 2 := BitVec.ofNat 2 (bits control.toNat 17 16)
  if inOrder then
    if o.rxCounter.isNone && !management then (false, s)
    else (true, (s.modOport p fun o => { o with rxCounter := some c, stoppedBy := stops }).flush p)
  else if management && c % 256 == 0 then
    (true, ((s.modOport p fun o => { o with rxCounter := some c, stoppedBy := stops }).flush p).portViolation p 4)
  else (false, (s.modOport p fun o => { o with rxCounter := none }).portViolation p 4)

/-- Whether a flit has the form of Table 9.3: reserved fields and codes clear. -/
def flitForm (f : Rec) : Bool :=
  let c := le f 8 1
  let n := le f 9 1
  bits c 5 2 == 0 && decide (bits c 1 0 < 2) && decide (n ≤ 38) && (!bit c 6 || n == 0) && zeroAt f 10 6 &&
  decide (le f 624 5 < 2 ^ 38) && zeroAt f 629 3

/-- Whether the receive buffer overflows at a flit that is not idle: after 4,095 of them it may (R289, Table 9.17). How far the two clocks
stand apart is nothing a command says: a free value. (log 166: DESIGN CHOICE) -/
def State.overflows (s : State) (p : Nat) (idle : Bool) : Bool × State :=
  if idle || decide ((s.oport p).rxSinceIdle < 4095) then (false, s)
  else
    let (v, s) := s.take
    (v.getLsbD 0, s)

/-- An accepted flit's payload words enter their class stream, a poisoned one as uncorrectable (R287, R290). -/
def State.keepWords (s : State) (p : Nat) (f : Rec) : State :=
  let ws := (List.range (le f 9 1)).map fun i =>
    ({ cls := bits (le f 8 1) 1 0, poison := bit (le f 624 5) i, word := slice f (16 * (i + 1)) 16 } : RxWord)
  (s.modOport p fun o => { o with rxq := o.rxq ++ ws }).stopCheck p

/-- A codeword that reaches a port in step 7 of Table 9.8, whose peer is up first, or a dormant one: only its counter is taken. -/
def State.early (s : State) (p : Nat) (control : BitVec 20) : State :=
  if ((s.oport p).state = 2 ∧ (s.oport p).stepNo = 7) ∨ (s.oport p).state = 4 then s.modOport p fun o => { o with rxCounter := some (bits control.toNat 15 0) } else s

/-- A flit codeword (R290, R291). More than 15 symbols in error cannot be corrected (R284). (log 100: DEDUCED) -/
def flitIn (p : Nat) (control : BitVec 20) (f : Rec) (corrected : Nat) (uncorrectable : Bool) (s : State) : State :=
  if (s.oport p).state ≠ 3 then s.early p control
  else if uncorrectable || decide (corrected > 15) then
    let s := s.modOport p fun o => { o with rxCounter := o.rxCounter.map fun c => (c + 1) % 65536 }
    (s.bump (.portCount p) 39 28 1).nack p
  else
    if bits control.toNat 19 18 ≠ 0 then ((s.codeword p control (bits control.toNat 7 0 == 0)).2.nack p).portViolation p 2
    else match s.codeword p control false with
      | (false, s) => s.nack p
      | (true, s) => match s.overflows p (bit (le f 8 1) 6) with
      | (true, s) => (s.nack p).portViolation p 5
      | (false, s) =>
        if (crc64 (slice f 0 632)).toNat ≠ le f 632 8 then s.nack p
        else if !flitForm f then (s.nack p).portViolation p 2
        else
          let seq : Word32 := BitVec.ofNat 32 (le f 0 4)
          let ack : Word32 := BitVec.ofNat 32 (le f 4 4)
          let s := if bit (le f 8 1) 7 then s.nacked p ack else s.flitAck p ack
          let o := s.oport p
          if bit (le f 8 1) 6 then
            let s := s.modOport p fun o => { o with rxSinceIdle := 0 }
            if after seq o.rxNext then (if o.nacking then s else (s.nack p).portViolation p 1) else s.bump (.portCount p) 63 40 corrected
          else if seq = o.rxNext then
            let s := if bits (le f 8 1) 1 0 = 1 then s.noteClass1 p p else s
            let s := s.modOport p fun o => { o with rxNext := o.rxNext + 1, nacking := false, nacks := 0, rxSinceIdle := o.rxSinceIdle + 1 }
            ((s.bump (.portCount p) 63 40 corrected).keepWords p f).idleFlit p
          else if after seq o.rxNext && !o.nacking then (s.nack p).portViolation p 1
          else s.nack p

/-! ## Training and identity (R303, R304, R309, R310) -/

/-- The cost of a rotation: the largest heater code, none when a ring finds no resonance (R304). -/
def rotationCost (h : List (List Nat)) (r : Nat) : Option Nat :=
  (List.range 16).foldl (fun a k => match a with
    | none => none
    | some c =>
      let v := (h.getD k []).getD ((k + r) % 16) 0xFFFFFFFF
      if v = 0xFFFFFFFF then none else some (max c v)) (some 0)

/-- The rotation of least cost, ties to the smaller (R304). -/
def assignRotation (h : List (List Nat)) : Option Nat :=
  ((List.range 16).foldl (fun (a : Option (Nat × Nat)) r => match rotationCost h r with
    | none => a
    | some c => match a with
      | some (_, best) => if c < best then some (r, c) else a
      | none => if c < 0xFFFFFFFF then some (r, c) else a) none).map (·.1)

/-- What a full sweep records of a ring and a channel (R303): a code from 1,000 to 60,000, or that there is no resonance. -/
def sweepCode (v : Nat) : Nat := if 1000 ≤ v ∧ v ≤ 60000 then v else 0xFFFFFFFF

/-- What a local search records (R306, R311): a code within ±150 GHz of the recorded one, at 0.0671 GHz a code. -/
def localCode (last v : Nat) : Nat := if v ≤ last + 2235 ∧ last ≤ v + 2235 ∧ v ≤ 65535 then v else 0xFFFFFFFF

/-- A ring's measured free spectral range in codes: the manual gives no bound; at most 64,000, so that a hop stays within the codes.
(log 101: DESIGN CHOICE) -/
def rangeOf (v : Word64) : Nat := 1 + v.toNat % 64000

/-- The receive search ends (R311 step 5): codes assigned, or a failed local search followed by a full one, or fault 0x42. A full
search measures each ring's free spectral range, which the readings do not carry: a free value. (log 101: DESIGN CHOICE) -/
def searchDone (p : Nat) (full : Bool) (h : List (List Nat)) (s : State) : State :=
  let o := s.oport p
  let h := (List.range 16).map fun k => (List.range 16).map fun n =>
    let v := (h.getD k []).getD n 0xFFFFFFFF
    if full then sweepCode v else localCode (s.ochan p n).rxCode v
  if o.state ≠ 1 ∨ o.stepNo ≠ 5 then s
  else match assignRotation h with
    | none => if full then (s.portOff p 5 4).portFault p 0x42 else s
    | some r =>
      let s := (List.range 16).foldl (fun s k =>
        let n := (k + r) % 16
        let (range, s) := if full then (let (v, s) := s.take; (rangeOf v, s)) else ((s.ochan p n).rxRange, s)
        s.modOchan p n fun c => { c with rxCode := (h.getD k []).getD n 0, rxRange := range }) s
      (s.modOport p fun o => { o.train 6 with rxLocked := ~~~0 }).sendTraining p 0

/-- A link codeword of this chip (R288): identity, the peer's identity as last received, times. -/
def State.linkContent (s : State) (p : Nat) : Rec :=
  let o := s.oport p
  toLe 4 (s.ownIdentity p).toNat ++ toLe 4 o.peer.toNat ++ toLe 8 s.localTime.toNat ++ toLe 8 o.lastSent.toNat ++ zeros 8 ++ zeros 608

/-- A port up whose peer is dormant trains again when the peer does (R317): from step 6 of Table 9.8, its words kept. -/
def State.rouse (s : State) (p : Nat) : State :=
  if (s.oport p).state = 3 ∧ (s.oport p).peerDormant then (s.modOport p OPort.rewake).sendTraining p 0 else s

/-- A training block (R309): marker, channel beside its complement, the peer's receive state. A channel seen on another ring is not
accepted. The exchange of step 7 opens with a link codeword of this port (R310); its counter starts at a free value. -/
def trainingIn (p ring : Nat) (block : BitVec 340) (s : State) : State :=
  let s := s.rouse p
  let o := s.oport p
  if o.state ≠ 2 ∨ o.stepNo ≠ 6 ∨ bits block.toNat 31 0 ≠ 0x0F35C6A9 then s
  else
    let n := bits block.toNat 35 32
    let st := bits block.toNat 43 40
    let elsewhere : Bool := match Tab.find? o.seen n with | some k => k != ring | none => false
    if bits block.toNat 39 36 ≠ 15 - n ∨ elsewhere then s.portViolation p 6
    else if st > 2 then s.portViolation p 2
    else
      let o := { o with seen := Tab.set (o.seen.filter fun e => e.2 ≠ ring) n ring, peerRx := st }
      let aligned := decide (o.seen.length = 16) && (o.rxLocked == (~~~0 : BitVec 16))
      let ready := aligned && decide (st ≥ 1)
      let o := { o with sentReady := o.sentReady || ready }
      let s := s.modOport p fun _ => o
      let s := s.sendTraining p (if o.sentReady then 2 else if aligned then 1 else 0)
      if o.sentReady && st == 2 then
        let (v, s) := s.take
        let s := s.modOport p fun o => { o with stepNo := 7, samples := [], echoed := false, txCounter := v.toNat % 65536 }
        s.sendLink p (s.linkContent p)
      else s

/-- The median of five samples. -/
def median5 (xs : List Int) : Int :=
  let place := fun (x : Int) => (xs.filter (· < x)).length
  ((xs.find? fun x => place x ≤ 2 ∧ 2 < place x + (xs.filter (· = x)).length)).getD 0

/-- Identity inconsistent (R310): fault 0x44, a violation, and a retry after 10 ms. -/
def State.identityFault (s : State) (p : Nat) : State :=
  ((s.modOport p fun o => { o with stepNo := 9 }).portFault p 0x44).portViolation p 7

/-- A codeword of step 7 by its counter: the first of the exchange sets it, each later one is one more; a multiple of 256 is no link
codeword's (R285). One out of order is dropped, and the next sets the counter anew (Table 9.17). -/
def OPort.linkOrder (o : OPort) (control : BitVec 20) : Bool :=
  let c := bits control.toNat 15 0
  decide (c % 256 ≠ 0) && match o.rxCounter with | some k => c == (k + 1) % 65536 | none => true

/-- A link codeword received in step 7 (R310). -/
def linkWordIn (p : Nat) (control : BitVec 20) (c : Rec) (s : State) : State :=
  let o := s.oport p
  if o.state ≠ 2 ∨ o.stepNo ≠ 7 then s
  else if bits control.toNat 19 18 = 2 ∧ !o.linkOrder control then (s.modOport p fun o => { o with rxCounter := none }).portViolation p 4
  else
  let o := { o with rxCounter := some (bits control.toNat 15 0) }
  let s := s.modOport p fun _ => o
  if bits control.toNat 19 18 ≠ 2 ∨ bits (le c 0 4) 31 23 ≠ 0 ∨ !zeroAt c 32 608 then s.portViolation p 2
  else
    let id : BitVec 32 := BitVec.ofNat 32 (le c 0 4)
    let own := s.ownIdentity p
    let echo := le c 4 4
    let restart := o.heard ∧ o.peer ≠ id
    let o := if restart then { o with samples := [], echoed := false } else o
    let sample := ((s.localTime.toNat : Int) - (le c 16 8 : Nat) - (le c 24 8 : Nat)).fdiv 2
    let o := { o with heard := true, peer := id, lastSent := BitVec.ofNat 64 (le c 8 8), echoed := echo = own.toNat,
                      samples := if le c 16 8 ≠ 0 ∧ o.samples.length < 5 ∧ !restart then o.samples ++ [sample] else o.samples }
    let s := s.modOport p fun _ => o
    let s := s.sendLink p (s.linkContent p)
    if (echo ≠ 0 ∧ echo ≠ own.toNat) ∨ (bit id.toNat 22 ∧ s.fabricValid ∧ bits id.toNat 16 0 = s.fabric.toNat) then s.identityFault p
    else if o.echoed ∧ o.samples.length = 5 then
      let d := (median5 o.samples).toNat
      if d > 10000 then (s.portOff p 5 7).portFault p 0x47 else s.portUp p d
    else s

/-- A dormant request (R317): granted in the next management codeword. (log 104: DEDUCED) -/
def State.dormantRequest (s : State) (p : Nat) : State :=
  if (s.oport p).state = 3 then (s.modOport p fun o => { o with grantDue := true }).nextManagement p else s

/-- A dormant grant (R317): the port becomes dormant; a grant without a request is a violation. -/
def State.dormantGrant (s : State) (p : Nat) : State :=
  let o := s.oport p
  if o.state = 3 ∧ o.dormantAsked then
    (s.modOport p fun o => { o with state := 4, dormantAsked := false }).settleRetain (portDie p)
  else if o.state = 3 ∨ o.state = 4 then s.portViolation p 8 else s

/-- A wake request (R317): the die wakes and the port retrains; it withdraws a dormant request that crosses it (Table 9.10); else a
wake request to a port that is not dormant is a violation. -/
def State.wakeRequest (s : State) (p : Nat) : State :=
  let o := s.oport p
  if o.state = 4 then
    let s := s.wakeDie (portDie p)
    if (s.oport p).state = 4 then (s.modOport p OPort.rewake).sendTraining p 0 else s
  else if o.dormantAsked then (s.modOport p fun o => { o with dormantAsked := false }).wakeDie (portDie p)
  else if o.state = 3 then s.portViolation p 8 else s

/-- The requests of a management codeword (Table 9.4). -/
def State.takeRequests (s : State) (p r : Nat) : State :=
  let s := if bit r 1 then s.dormantGrant p else s
  let s := if bit r 0 then s.dormantRequest p else s
  if bit r 2 then s.wakeRequest p else s

/-- The path baselines of a link are taken with the first M readings its peer sends on it (Table 9.7). -/
def State.takeBaselines (s : State) (p : Nat) : State :=
  if (s.oport p).pathPending then
    ((List.range 16).foldl (fun s n => s.modOchan p n fun c => { c with pathLoss := c.peerM - c.d }) s).modOport p fun o => { o with pathPending := false }
  else s

/-- A management codeword (R288): the peer's M readings, its identity, its port state, its requests, the acknowledgement. A dormant port
takes it whatever codewords went before. The symbols that were corrected in it, at most 15, are nothing the command says: a free value
(Table 9.13). (log 204: DESIGN CHOICE) -/
def managementIn (p : Nat) (control : BitVec 20) (c : Rec) (s : State) : State :=
  let o := s.oport p
  if o.state ≠ 3 ∧ o.state ≠ 4 then s.early p control
  else
  let s := if o.state = 4 then s.modOport p fun o => { o with rxCounter := none } else s
  if bits control.toNat 19 18 ≠ 1 then ((s.codeword p control (bits control.toNat 7 0 == 0)).2.nack p).portViolation p 2
  else match s.codeword p control true with
    | (false, s) => s
    | (true, s) =>
      if bits (le c 16 4) 31 23 ≠ 0 ∨ bits (le c 21 1) 7 3 ≠ 0 ∨ !zeroAt c 26 614 then (s.nack p).portViolation p 2
      else
        let (v, s) := s.take
        let s := s.bump (.portCount p) 63 40 (v.toNat % 16)
        let s := (List.range 16).foldl (fun s n => s.modOchan p n fun k => { k with peerM := sgn 8 (le c n 1) }) s
        let s := (s.takeBaselines p).modOport p fun o => { o with peerState := le c 20 1 }
        if BitVec.ofNat 32 (le c 16 4) ≠ o.peer then ((s.portDown p).portFault p 0x44).portViolation p 7
        else (s.flitAck p (BitVec.ofNat 32 (le c 22 4))).takeRequests p (le c 21 1)

/-! ## Lasers (R293 to R299) -/

/-- Event 0x79. -/
def State.laserEvent (s : State) (o n what action : Nat) : State := s.logEvent 4 0x79 action 0 (16 * o + n) [BitVec.ofNat 8 what]

/-- The Opal that shares the Slate waveguides. -/
def neighbour (o : Nat) : Nat := if o % 2 = 0 then o + 1 else o - 1

/-- A laser state or the serving laser changed (Table 9.14). -/
def State.changeLaser (s : State) (o n : Nat) (f : Laser → Laser) : State := (s.modLaser o n f).setBit (.laser o n) 63

/-- The serving laser has no successor available (R299). -/
def State.noSuccessor (s : State) (o n : Nat) : State := s.modLaser o n fun l => { l with noSpare := true }

/-- The state of the successor claimed. -/
def State.successorState (s : State) (o n : Nat) : Option Nat :=
  (s.laser o n).successor.map fun k => if k = 1 then (s.laser o n).spare else (s.laser (neighbour o) n).spare

/-- Set the state of the claimed successor. -/
def State.setSuccessor (s : State) (o n st : Nat) : State :=
  match (s.laser o n).successor with
  | some 1 => s.changeLaser o n fun l => { l with spare := st }
  | some _ => s.changeLaser (neighbour o) n fun l => { l with spare := st }
  | none => s

/-- Whether a laser has a successor to claim: its Opal's spare when cold and neither lent nor serving, else the neighbour's (R295). -/
def State.canClaim (s : State) (o n : Nat) : Bool :=
  let l := s.laser o n
  let k := s.laser (neighbour o) n
  (l.spare == 0 && !l.claimed && l.serving != 1) || (k.spare == 0 && !k.claimed)

/-- A spare is cold again: a serving laser that had no successor has one (Table 9.14). -/
def State.spareBack (s : State) (o n : Nat) : State :=
  [o, neighbour o].foldl (fun s x => if (s.laser x n).noSpare ∧ (s.laser x n).serving ≠ 3 ∧ s.canClaim x n then s.modLaser x n fun l => { l with noSpare := false } else s) s

/-- Claim a successor (R295): the own spare when cold, else the neighbour's when cold; it warms. The Bool says whether one was
claimed. -/
def State.claimSuccessor (s : State) (o n : Nat) : Bool × State :=
  let l := s.laser o n
  if l.spare = 0 ∧ !l.claimed ∧ l.serving ≠ 1 then (true, s.changeLaser o n fun l => { l with successor := some 1, spare := 1, noSpare := false })
  else
    let k := s.laser (neighbour o) n
    if k.spare = 0 ∧ !k.claimed then
      (true, (s.changeLaser (neighbour o) n fun k => { k with spare := 1, claimed := true }).modLaser o n fun l => { l with successor := some 2, noSpare := false })
    else (false, s)

/-- The repair-map site of a laser: spare, owner Opal of the pair (Table 13.11). -/
def laserSite (o which : Nat) : Nat :=
  (decide (which ≠ 0)).toNat * 2 ^ 23 + (if which = 2 then neighbour o % 2 else o % 2) * 2 ^ 22

/-- The baseline output of a laser an Opal is served by: the primary's, its spare's, the neighbour's spare's (R294). -/
def State.laserBase (s : State) (o n which : Nat) : Int :=
  if which = 0 then (s.laser o n).base else if which = 1 then (s.laser o n).spareBase else (s.laser (neighbour o) n).spareBase

/-- Record a laser's state in the repair map, its baseline kept (Table 13.11). -/
def State.mapLaser (s : State) (o n which st : Nat) : State :=
  s.mapEntry 6 (16 * o + n) (laserSite o which) st (unsgn 8 (s.laserBase o n which))

/-- The hand-over completes (Table 9.6 steps 5 and 6): the old laser failed, the successor serves, the repair map and the log. -/
def State.handOver (s : State) (o n : Nat) : State :=
  let l := s.laser o n
  match l.successor with
  | none => s
  | some k =>
    let old := l.serving
    let s := if old = 0 then s.changeLaser o n fun l => { l with primary := 5 }
      else if old = 1 then s.changeLaser o n fun l => { l with spare := 5 }
      else if old = 2 then s.changeLaser (neighbour o) n fun l => { l with spare := 5 } else s
    let s := s.setSuccessor o n (if k = 1 then 3 else 4)
    let s := s.changeLaser o n fun l =>
      { l with serving := k, successor := none, fading := false, atHandover := false, noSpare := false, decline := l.succDecline, succDecline := 0, loss := 0 }
    -- the split section compares with the baselines for the new source (Table 9.7)
    let s := [3 * o, 3 * o + 1, 3 * o + 2].foldl (fun s p => s.modOchan p n fun c => { c with splitLoss := 0 }) s
    let s := if old ≤ 2 then s.mapLaser o n old 3 else s
    let s := s.mapLaser o n k (if k = 2 then 6 else 0)
    (s.laserEvent o n 2 3).summary (o / 2) 61

/-- Ports that fail together, those that are a plane's upstream port first (Table 8.10). -/
def State.upstreamFirst (s : State) (ps : List Nat) : List Nat :=
  let up := fun (p : Nat) => (List.range 12).any fun q => planeUsed (s.plane q) && decide (planeLen (s.plane q) > 1) && planeUp (s.plane q) == p
  ps.filter up ++ ps.filter fun p => !up p

/-- A channel goes dark with no laser left (R299): its Opal's three ports report 0x43, go down and are retired. -/
def State.channelDark (s : State) (o n : Nat) : State :=
  if (s.laser o n).serving = 3 then s
  else
    let old := (s.laser o n).serving
    let s := if old = 2 then s.changeLaser (neighbour o) n fun l => { l with spare := 5 } else s
    let s := s.changeLaser o n fun l => { l with serving := 3, noSpare := true, primary := if l.serving = 0 then 5 else l.primary, spare := if l.serving = 1 then 5 else l.spare }
    let s := s.mapLaser o n old 3
    (s.upstreamFirst [3 * o, 3 * o + 1, 3 * o + 2]).foldl (fun s p => (s.retirePort p).portFault p 0x43) s

/-- The serving laser of a channel against the thresholds (R294 to R299). -/
def State.watchLaser (s : State) (o n : Nat) (dark : Bool) : State :=
  let l := s.laser o n
  let st := s.successorState o n
  if l.serving = 3 then s
  else if dark then
    if st = some 2 ∨ l.fading then s.handOver o n
    else if st.isSome then s.modLaser o n fun l => { l with atHandover := true }
    else match s.claimSuccessor o n with
      | (true, s) => s.modLaser o n fun l => { l with atHandover := true }
      | (false, s) => s.channelDark o n
  else if l.decline ≥ s.cfg.laserHand then
    if st = some 2 then (if l.fading then s else s.modLaser o n fun l => { l with fading := true })
    else if l.atHandover then s
    else
      let s := s.modLaser o n fun l => { l with atHandover := true }
      if st.isSome then s
      else match s.claimSuccessor o n with
        | (true, s) => s.laserEvent o n 0 0
        | (false, s) => (s.noSuccessor o n).laserEvent o n 2 0
  else if l.decline ≥ s.cfg.laserWarn ∧ st.isNone ∧ !l.noSpare then
    match s.claimSuccessor o n with
    | (true, s) => s.laserEvent o n 0 0
    | (false, s) => (s.noSuccessor o n).laserEvent o n 1 0
  else s

/-- A monitor section loss event (R301, 0x77). (log 103: DEDUCED) -/
def State.lossEvent (s : State) (p sect mask : Nat) : State :=
  s.logEvent 3 0x77 0 0 p ([BitVec.ofNat 8 sect, 0] ++ toLe 2 mask)

/-- The decline of a laser (R294): its baseline less an output in 0.05 dBm, in whole tenths of a dB; 25.5 dB or more shows as 255. -/
def declineOf (base output : Int) : Nat := min 255 ((5 * base - output).fdiv 2).toNat

/-- Whether a loss in 0.25 dB has grown from `last` by a threshold in 0.1 dB. -/
def grewBy (now last : Int) (thr : Nat) : Bool := decide ((now - last) * 5 ≥ 2 * (thr : Int))

/-- Whether the path section of a channel has lost as much since its baseline or its last report (R301). -/
def State.pathGrown (s : State) (p thr k : Nat) : Bool :=
  decide (((s.ochan p k).peerM - (s.ochan p k).d - (s.ochan p k).pathLoss) * 5 ≥ 2 * (thr : Int))

/-- A monitor sample (R300, R301): the readings, the sections' losses, the laser thresholds. A loss is reported when it has grown
by the threshold since its baseline or its last report: the split section L to S by branch, with the baseline of the source that
serves, the modulate section S to M by port, and the path section of a whole port once its last channel is sampled. (log 201: DESIGN CHOICE) At the bias of a retained die (R317) the readings say nothing of age or loss: they are
only held. (log 171: DEDUCED) -/
def monitorIn (o n : Nat) (r : MonitorReadings) (s : State) : State :=
  let thr := s.cfg.lossLoc
  let serving := (s.laser o n).serving
  let decline := declineOf (s.laserBase o n serving) r.output
  let s := (List.range 3).foldl (fun s i =>
    (s.modOchan (3 * o + i) n fun c => { c with m := r.modulator.getD i 0, d := r.drop.getD i 0 }).modOport (3 * o + i) fun k =>
      { k with total := r.total.getD i 0 }) s
  let s := s.modLaser o n fun l => { l with branch := r.branch }
  if (s.die (o / 2)).lowBias then s
  else
  let s := s.modLaser o n fun l => { l with decline := decline, succDecline :=
    match l.successor with
    | some k => if s.successorState o n = some 2 then declineOf (s.laserBase o n k) r.successor else 0
    | none => 0 }
  let l := s.laser o n
  let s := if decline ≥ l.loss + thr then (s.modLaser o n fun l => { l with loss := decline }).lossEvent (3 * o) 0 (2 ^ n) else s
  let s := (List.range 3).foldl (fun s i =>
    let p := 3 * o + i
    let c := s.ochan p n
    let split := r.output.fdiv 5 - r.branch.getD i 0 - c.splitBase.getD serving 0
    let s := if serving < 3 ∧ grewBy split c.splitLoss thr then (s.modOchan p n fun c => { c with splitLoss := split }).lossEvent p 1 (2 ^ n) else s
    let modulate := r.branch.getD i 0 - r.modulator.getD i 0 - c.modBase
    let s := if grewBy modulate c.modLoss thr then (s.modOchan p n fun c => { c with modLoss := modulate }).lossEvent p 2 (2 ^ n) else s
    if n = 15 ∧ (s.oport p).state = 3 ∧ !(s.oport p).pathPending ∧ (List.range 16).any (s.pathGrown p thr) then
      -- every channel of the port that has grown as much is named in one event
      let grown := (List.range 16).filter (s.pathGrown p thr)
      (grown.foldl (fun s k => s.modOchan p k fun c => { c with pathLoss := c.peerM - c.d }) s).lossEvent p 3 (bitsOf grown)
    else s) s
  s.watchLaser o n (decide (declineOf (s.laserBase o n serving) r.instant ≥ 60) || r.noCurrent)

/-! ## Rings (R306, R307) -/

/-- Set whether a channel's transmit or receive ring is locked. -/
def OPort.lock (o : OPort) (n : Nat) (rx locked : Bool) : OPort :=
  let m : BitVec 16 := 1 <<< n
  let put := fun (b : BitVec 16) => if locked then b ||| m else b &&& ~~~m
  if rx then { o with rxLocked := put o.rxLocked } else { o with txLocked := put o.txLocked }

/-- The code that a search of one ring may find (R303, R306): a local one within ±150 GHz of the last, the third a full sweep's. -/
def State.ringCode (s : State) (p n : Nat) (rx : Bool) (v : Nat) : Option Nat :=
  let c := s.ochan p n
  let code := if (if rx then c.rxTries else c.txTries) < 2 then localCode (if rx then c.rxCode else c.txCode) v else sweepCode v
  if code = 0xFFFFFFFF then none else some code

/-- A search of one ring ends (R306): locked again, or after two local searches and a full sweep without success fault 0x42. -/
def ringFound (p n : Nat) (rx : Bool) (found : Option Nat) (s : State) : State :=
  let o := s.oport p
  if (if rx then o.rxLocked else o.txLocked).getLsbD n ∨ o.state = 6 then s
  else match (found.bind fun v => s.ringCode p n rx v) with
    | some code =>
      let s := s.modOport p fun o => o.lock n rx true
      s.modOchan p n fun c => if rx then { c with rxCode := code, rxTries := 0 } else { c with txCode := code, txTries := 0 }
    | none =>
      let c := s.ochan p n
      let tries := (if rx then c.rxTries else c.txTries) + 1
      let s := s.modOchan p n fun c => if rx then { c with rxTries := tries } else { c with txTries := tries }
      if tries ≥ 3 then (s.portOff p 5 4).portFault p 0x42 else s

/-! ## Meanings -/

/-- FLIT_RECEIVED (R290). -/
def execFlitReceived (port : Nat) (control : BitVec 20) (flit : Rec) (corrected : Nat) (uncorrectable : Bool) (s : State) :
    Host.Outcome State Fault Refusal := .next (flitIn port control flit corrected uncorrectable s)

/-- NACK_RECEIVED (R291). -/
def execNackReceived (port : Nat) (ack : Word32) (s : State) : Host.Outcome State Fault Refusal :=
  .next (if (s.oport port).state = 3 then s.nacked port ack else s)

/-- NACK_TIMEOUT (R291, R292): nack again; the sixteenth takes the link down. -/
def execNackTimeout (port : Nat) (s : State) : Host.Outcome State Fault Refusal :=
  .next (
    let o := s.oport port
    if o.state ≠ 3 ∨ !o.nacking then s
    else if o.nacks + 1 ≥ 16 then (s.portDown port).portFault port 0x40
    else (s.modOport port fun o => { o with nacks := o.nacks + 1 }).idleFlit port)

/-- LINK_DOWN_TIME_EXPIRY (R292); the timer is stopped at both ends while one is dormant (R317). -/
def execLinkDownTimeExpiry (port : Nat) (s : State) : Host.Outcome State Fault Refusal :=
  .next (if (s.oport port).state = 3 ∧ !(s.oport port).peerDormant then (s.portDown port).portFault port 0x40 else s)

/-- LOSS_OF_LIGHT (R292, R312). -/
def execLossOfLight (port : Nat) (s : State) : Host.Outcome State Fault Refusal :=
  .next (
    let s := s.modOport port fun o => { o with light := false }
    match (s.oport port).state with
    | 3 | 4 => (s.portDown port).portFault port 0x41
    | 1 | 2 => s.portOff port 1 4
    | _ => s)

/-- LIGHT_PRESENT (R311): the receive search begins. -/
def execLightPresent (port : Nat) (s : State) : Host.Outcome State Fault Refusal :=
  .next (
    let s := s.modOport port fun o => { o with light := true }
    let o := s.oport port
    if (o.state = 1 ∨ o.state = 5) ∧ o.stepNo = 4 ∧ !o.overload then s.modOport port fun o => { o with state := 1, stepNo := 5 } else s)

/-- RECEIVE_SEARCH_COMPLETE (R311). -/
def execReceiveSearchComplete (port : Nat) (full : Bool) (codes : List (List Nat)) (s : State) : Host.Outcome State Fault Refusal :=
  .next (searchDone port full codes s)

/-- TRAINING_BLOCK_RECEIVED (R309). -/
def execTrainingBlockReceived (port ring : Nat) (block : BitVec 340) (s : State) : Host.Outcome State Fault Refusal :=
  .next (trainingIn port ring block s)

/-- LINK_CODEWORD_RECEIVED (R310). -/
def execLinkCodewordReceived (port : Nat) (control : BitVec 20) (content : Rec) (s : State) : Host.Outcome State Fault Refusal :=
  .next (linkWordIn port control content s)

/-- IDENTITY_RETRY (R310): the exchange begins anew. -/
def execIdentityRetry (port : Nat) (s : State) : Host.Outcome State Fault Refusal :=
  .next (
    let o := s.oport port
    if o.state = 2 ∧ o.stepNo = 9 then
      let s := s.modOport port fun o => { o with stepNo := 7, samples := [], echoed := false, peer := 0, lastSent := 0, heard := false }
      s.sendLink port (s.linkContent port)
    else s)

/-- MANAGEMENT_CODEWORD_RECEIVED (R288). -/
def execManagementCodewordReceived (port : Nat) (control : BitVec 20) (content : Rec) (s : State) : Host.Outcome State Fault Refusal :=
  .next (managementIn port control content s)

/-- DORMANT_REQUEST (R317). -/
def execDormantRequest (port : Nat) (s : State) : Host.Outcome State Fault Refusal := .next (s.dormantRequest port)

/-- DORMANT_GRANT (R317). -/
def execDormantGrant (port : Nat) (s : State) : Host.Outcome State Fault Refusal := .next (s.dormantGrant port)

/-- DORMANT_GRANT_TIMEOUT (R317): the port goes down until its die wakes. -/
def execDormantGrantTimeout (port : Nat) (s : State) : Host.Outcome State Fault Refusal :=
  .next (if (s.oport port).state = 3 ∧ (s.oport port).dormantAsked then
      (s.portOff port 5 10).settleRetain (portDie port) else s)

/-- WAKE_REQUEST (R317). -/
def execWakeRequest (port : Nat) (s : State) : Host.Outcome State Fault Refusal := .next (s.wakeRequest port)

/-- RECEIVE_OVERLOAD (R323): fault 0x45, held down. -/
def execReceiveOverload (port : Nat) (s : State) : Host.Outcome State Fault Refusal :=
  .next (
    let o := s.oport port
    if o.state = 6 ∨ o.state = 0 ∨ o.overload then s
    else ((s.portOff port 5 4).modOport port fun o => { o with overload := true }).portFault port 0x45)

/-- OVERLOAD_HOLD_EXPIRY (R323): released, the port relinks. -/
def execOverloadHoldExpiry (port : Nat) (s : State) : Host.Outcome State Fault Refusal :=
  .next (if (s.oport port).overload then
      let s := s.modOport port fun o => { o with overload := false }
      if (s.oport port).state = 5 then (s.modOport port fun o => { o with state := 1, stepNo := if o.light then 5 else 4 }).sendTraining port 0 else s
    else s)

/-- MONITOR_SAMPLE (R300). -/
def execMonitorSample (opal channel : Nat) (r : MonitorReadings) (s : State) : Host.Outcome State Fault Refusal :=
  .next (monitorIn opal channel r s)

/-- SUCCESSOR_STANDBY (R296): the warming successor locks; a hand-over already reached begins its cross-fade at once. -/
def execSuccessorStandby (opal channel : Nat) (s : State) : Host.Outcome State Fault Refusal :=
  .next (if s.successorState opal channel = some 1 then
      let s := s.setSuccessor opal channel 2
      if (s.laser opal channel).atHandover then s.modLaser opal channel fun l => { l with fading := true } else s
    else s)

/-- CROSS_FADE_COMPLETE (R296). -/
def execCrossFadeComplete (opal channel : Nat) (s : State) : Host.Outcome State Fault Refusal :=
  .next (if (s.laser opal channel).fading then s.handOver opal channel else s)

/-- SUCCESSOR_RELEASE (R296): a decline back at or below warning less 0.5 dB returns a standby successor to cold. -/
def execSuccessorRelease (opal channel : Nat) (s : State) : Host.Outcome State Fault Refusal :=
  .next (
    let l := s.laser opal channel
    if s.successorState opal channel = some 2 ∧ !l.fading ∧ l.decline + 5 ≤ s.cfg.laserWarn then
      let s := s.setSuccessor opal channel 0
      let s := if l.successor = some 2 then s.modLaser (neighbour opal) channel fun k => { k with claimed := false } else s
      (s.modLaser opal channel fun l => { l with successor := none, atHandover := false, succDecline := 0 }).spareBack opal channel
    else s)

/-- RING_LOCK_LOST (R306): the flag is set and a local search begins; in training alignment begins anew (Table 9.10). -/
def execRingLockLost (port channel : Nat) (rx : Bool) (s : State) : Host.Outcome State Fault Refusal :=
  .next (
    let o := s.oport port
    if !(if rx then o.rxLocked else o.txLocked).getLsbD channel then s
    else
      let s := (s.setBit (.channel port channel) (if rx then 60 else 61)).modOchan port channel fun c =>
        if rx then { c with rxTries := 0 } else { c with txTries := 0 }
      let s := s.modOport port fun o => o.lock channel rx false
      if o.state = 2 then (s.modOport port fun o => o.train 6).sendTraining port 0 else s)

/-- RING_SEARCH_COMPLETE (R306). -/
def execRingSearchComplete (port channel : Nat) (rx : Bool) (found : Option Nat) (s : State) : Host.Outcome State Fault Refusal :=
  .next (ringFound port channel rx found s)

/-- RING_HOP (R307): tracking has driven the code of a locked ring below 500 or above 64,500, where is free, and it moves by one free
spectral range. (log 167: DESIGN CHOICE) -/
def execRingHop (port channel : Nat) (rx : Bool) (s : State) : Host.Outcome State Fault Refusal :=
  .next (
    let c := s.ochan port channel
    let range := if rx then c.rxRange else c.txRange
    if !(if rx then (s.oport port).rxLocked else (s.oport port).txLocked).getLsbD channel then s
    else
      let (v, s) := s.take
      let new := if v.getLsbD 0 then v.toNat / 2 % 500 + range else 64501 + v.toNat / 2 % 1035 - range
      let s := s.modOchan port channel fun c => if rx then { c with rxCode := new } else { c with txCode := new }
      (s.setBit (.channel port channel) 59).logEvent 3 0x78 0 0 port [BitVec.ofNat 8 channel, if rx then 1 else 0])

end Sys2Proof.Machine
end

