-- ==== Sys2Proof/Machine/Lanes.lean ====
section
/-! DEFINITION. Die-to-die lanes (R324 to R347): segments and their groups, ring and port gangs, frames received, margins,
spare lanes, half width, retired groups and failed edges. A direction is named by its receiving die and that die's local edge
number (R346). -/

namespace Sys2Proof.Machine

/-! ## Edges -/

/-- The edge number of Table 13.13, and the direction: 0 from the first die or the Basalt die named there to the second. (log 105: DEDUCED) -/
def edgeNumber (d e : Nat) : Nat × Nat :=
  if e ≥ 2 then (4 + 2 * d + e % 2, if e ≥ 4 then 0 else 1)
  else match d, (neighbours d).getD e 0 with
    | 1, 0 => (0, 0) | 0, 1 => (0, 1) | 3, 1 => (1, 0) | 1, 3 => (1, 1)
    | 2, 3 => (2, 0) | 3, 2 => (2, 1) | 0, 2 => (3, 0) | _, _ => (3, 1)

/-- The receiving die and its local edge of edge × 2 + direction (Table 13.11). -/
def edgeEnd (u : Nat) : Nat × Nat :=
  if u ≥ 8 then ((u / 2 - 4) / 2, (if u % 2 = 0 then 4 else 2) + u / 2 % 2)
  else ((List.range 4).flatMap fun d => [(d, 0), (d, 1)]).find? (fun x => edgeNumber x.1 x.2 = (u / 2, u % 2)) |>.getD (0, 0)

/-- Data lanes of a direction. -/
def dataLanes (e : Nat) : Nat := if e < 2 then 1536 else 512
/-- Spare lanes of a direction. -/
def spareLanes (e : Nat) : Nat := if e < 2 then 96 else 32

/-- A group's state (Table 10.8). -/
def Edge.group (k : Edge) (g : Nat) : Nat := Tab.get 0 k.groups g

/-- Half-width units of a group: two at full width, one at half, none retired (R332). -/
def Edge.units (k : Edge) (g : Nat) : Nat := match k.group g with | 0 => 2 | 1 => 1 | 2 => 1 | _ => 0

/-- Half-width units of some groups. -/
def Edge.unitsOf (k : Edge) (gs : List Nat) : Nat := (gs.map k.units).sum

/-- Groups in ring gangs. -/
def Edge.ganged (k : Edge) : List Nat := k.gangs.flatMap (·.2)

/-- The lowest-numbered pool group that is free, not in a ring gang and not retired (R330). -/
def Edge.freeGroup (k : Edge) : Option Nat :=
  (List.range 94).find? fun g => (Tab.find? k.bound g).isNone && !k.ganged.contains g && decide (k.group g ≠ 3)

/-- Half-width units of a Basalt–Basalt pool less its ring gangs (R342). -/
def Edge.poolUnits (k : Edge) : Nat := k.unitsOf ((List.range 94).filter fun g => !k.ganged.contains g)

/-- Whether a group is one of the service groups (Table 10.2). -/
def isService (e g : Nat) : Bool := if e < 2 then decide (94 ≤ g) else decide (30 ≤ g)

/-- Whether a group carries ring words, which are never resent: a ring gang's or a port gang's. -/
def Edge.ringGroup (k : Edge) (e g : Nat) : Bool := if e < 2 then k.ganged.contains g else decide (g < 30)

/-- The dealing round of a gang (R332, R333): its groups in ascending number, one word for each half in use. -/
def Edge.round (k : Edge) (gs : List Nat) : List Nat :=
  (List.range 96).flatMap fun g => if gs.contains g then List.replicate (k.units g) g else []

/-- Set a sticky bit of an edge status register; a direction that an Opal receives has none (R346). -/
def State.edgeBit (s : State) (d e b : Nat) : State := if e < 4 then s.setBit (.edgeStatus d e) b else s

/-- Add to a count of an edge count register. -/
def State.edgeBump (s : State) (d e hi lo n : Nat) : State := if e < 4 then s.bump (.edgeCount d e) hi lo n else s

/-- The second number of a lane fault's report: whether the fault escalates a step, the die, whether its Opal receives the direction. -/
def laneSub (d e : Nat) (escalates : Bool) : Nat := escalates.toNat + 2 * d + 8 * (decide (4 ≤ e)).toNat

/-- A lane fault (R347): the first code since fault was clear is kept. -/
def State.laneFault (s : State) (d e code : Nat) (escalates : Bool) : State :=
  let r := Reg.edgeStatus d e
  let s := if (s.reg r).getLsbD 63 ∨ e ≥ 4 then s else (s.setBit r 63).setField r 57 50 code
  s.report 1 (edgeNumber d e).1 (laneSub d e escalates) code

/-- A maintenance message on the sideband, or over a service group once both sideband lanes are lost (R342). -/
def State.lane (s : State) (d e : Nat) (msg : String) (arg : Nat) : State := s.emit (.lane d e (s.edge d e).sidebandLost msg arg)

/-- A message over a service group (Table 10.2, R330). -/
def State.serviceLane (s : State) (d e : Nat) (msg : String) (arg : Nat) : State := s.emit (.lane d e true msg arg)

/-! ## Failing edges and gangs (R340 to R342) -/

/-- An edge fails: 0x52, and reduced capability. -/
def State.failEdge (s : State) (d e : Nat) : State :=
  if (s.edge d e).failed then s
  else
    let n := (edgeNumber d e).1
    let s := (s.modEdge d e fun k => { k with failed := true }).modRepair fun r =>
      { r with failedEdges := if r.failedEdges.contains n then r.failedEdges else n :: r.failedEdges }
    (s.laneFault d e 0x52 true).capability

/-- The port whose gang a Basalt–Opal group belongs to (Table 10.2). -/
def gangPort (d e g : Nat) : Nat := 3 * (2 * d + e % 2) + g / 10

/-- After a group lost width: a port gang below 16 units retires its port with 0x54; lost service groups or a thin pool fail the
edge. A ring gang below 16 takes in a group by GANG_TAKE_IN. -/
def State.widthLost (s : State) (d e g : Nat) : State :=
  let k := s.edge d e
  if e ≥ 2 then
    if g ≥ 30 then (if k.group 30 = 3 ∧ k.group 31 = 3 then s.failEdge d e else s)
    else
      let p := gangPort d e g
      if k.unitsOf ((List.range 10).map (g / 10 * 10 + ·)) < 16 ∧ !s.repair.retiredPorts.contains p then
        (s.retirePort p).laneFault d e 0x54 false
      else s
  else if (k.group 94 = 3 ∧ k.group 95 = 3) ∨ k.poolUnits < 16 then s.failEdge d e
  else s

/-! ## Segments and the pool (R330, R331) -/

/-- Bind a segment to the lowest-numbered free pool group and announce it on a service group; with none free it waits for one. One that goes on
from a retired group comes there in frames sent again, from the first unacknowledged one (R340). (log 168: DESIGN CHOICE) -/
def State.bindSegment (s : State) (d e : Nat) (seg : Nat × Nat) : State :=
  match (s.edge d e).freeGroup with
  | some g => (s.modEdge d e fun k =>
      { k with bound := Tab.set k.bound g seg, again := k.again.erase seg,
               resent := if k.again.contains seg then g :: k.resent.filter (· ≠ g) else k.resent.filter (· ≠ g) }).serviceLane d e "bind" g
  | none => s.modEdge d e fun k => { k with waiting := k.waiting ++ [seg] }

/-- A ring gang below 16 units takes in the lowest free pool group (R341); a pool left too thin fails the edge. -/
def State.takeIn (s : State) (d e q : Nat) : State :=
  let k := s.edge d e
  match Tab.find? k.gangs q, k.freeGroup with
  | some gs, some g =>
    if e < 2 ∧ k.unitsOf gs < 16 then
      let s := s.modEdge d e fun k => { k with gangs := Tab.set k.gangs q (gs ++ [g]) }
      if (s.edge d e).poolUnits < 16 then s.failEdge d e else s
    else s
  | _, _ => s

/-- A pool group has become free: a ring gang below 16 units takes it first, in ascending plane order (R341), else the segment that has
waited longest is bound. (log 168: DESIGN CHOICE) -/
def State.groupFreed (s : State) (d e : Nat) : State :=
  let k := s.edge d e
  match k.gangs.find? fun q => decide (k.unitsOf q.2 < 16) with
  | some q => s.takeIn d e q.1
  | none => match k.waiting with
    | seg :: rest => if k.freeGroup.isSome && s.flint.state != .scrubbing then (s.modEdge d e fun k => { k with waiting := rest }).bindSegment d e seg else s
    | [] => s

/-- Whether a hop is the first on a way to a flow-side destination of a stream (R331), an engine its transfer feeds or the lode buffer of the
next member of its chain: the room for its words is taken there before they leave, once for all the hops of a diagonal way. -/
def State.landsAt (s : State) (id a b : Nat) : Bool :=
  let first := fun (diag : Bool) (x y : Nat) => (s.hopsOf diag x y).head? == some (a, b)
  let flow := match s.streamEntry id, (s.stream id).running with
    | some e, some r =>
      let x := xferOf e r.desc
      decide (x.dst = 3) && (s.sideDies id e x.from x r.done).any fun f => first x.diag f (ownerDie id)
    | _, _ => false
  let next := match s.chainOf id with
    | some c => if c.1 = id then c.2.head? else nextMember c id
    | none => none
  flow || next.any fun m => first false (ownerDie id) (ownerDie m)

/-- Retire a group (R340): 0x51; a segment's frames go on on another pool group, a service group's on the other one, as frames sent again; a
gang's round leaves it out. -/
def State.retireGroup (s : State) (d e g : Nat) : State :=
  let n := edgeNumber d e
  let seg := Tab.find? (s.edge d e).bound g
  let s := s.modEdge d e fun k =>
    { k with groups := Tab.set k.groups g 3, gangs := k.gangs.map (fun q => (q.1, q.2.filter (· ≠ g))), bound := Tab.erase k.bound g,
             resending := k.resending.filter (· ≠ g), again := k.again ++ seg.toList,
             resent := if isService e g then (if e < 2 then 189 - g else 61 - g) :: k.resent else k.resent.filter (· ≠ g) }
  let s := match seg with | some seg => s.bindSegment d e seg | none => s
  let s := ((((s.edgeBit d e 61)).mapEntry 5 (2 * n.1 + n.2) g 2 0).capability).summary d 62
  (s.laneFault d e 0x51 false).widthLost d e g

/-! ## Spare lanes (R336 to R338) -/

/-- The lowest-numbered free spare of a direction. -/
def freeSpare (k : Edge) (e : Nat) : Option Nat :=
  (List.range (spareLanes e)).findSome? fun i =>
    let n := dataLanes e + i
    if k.sparesUsed.contains n ∨ k.swap.any (fun w => w.spare = n) then none else some n

/-- The data lane that a logical lane number carries: its own, or the one it stands in for. -/
def Edge.dataLane (k : Edge) (e lane : Nat) : Option Nat :=
  if lane < dataLanes e then some lane else (k.standIn.find? fun x => x.2 = lane).map (·.1)

/-- A failing data lane is served (R335, R336, R339): its turn at the spare arbiter, a swap request, or a width agreement when no
spare is free. -/
def State.serveLane (s : State) (d e lane : Nat) (urgent : Bool) : State :=
  let k := s.edge d e
  let g := lane / 16
  let lost := match k.group g with
    | 1 => decide (lane % 16 ≥ 8)
    | 2 => decide (lane % 16 < 8)
    | 3 => true
    | _ => false
  if lost || k.swap.any (fun w => w.lane = lane) then s
  else match freeSpare k e with
    | none => s.lane d e "half width" lane
    | some n =>
      if k.swap.isSome then
        s.modEdge d e fun k =>
          { k with wanted := k.wanted.filter (fun w => w.1 ≠ lane) ++ [(lane, urgent || k.wanted.contains (lane, true))] }
      else (s.modEdge d e fun k => { k with swap := some { lane := lane, spare := n, step := 1 } }).lane d e "swap" n

/-- The claim that the spare arbiter grants next (R336): an urgent one before the others, then the lower-numbered data lane. -/
def Edge.nextClaim (k : Edge) : Option (Nat × Bool) :=
  let urgent := (k.wanted.filter (·.2)).map (·.1)
  match urgent.min? with
  | some l => some (l, true)
  | none => (k.wanted.map (·.1)).min?.map fun l => (l, false)

/-- The swap in progress is over: the next claim has its turn. -/
def State.nextSwap (s : State) (d e : Nat) : State :=
  let s := s.modEdge d e fun k => { k with swap := none }
  match (s.edge d e).nextClaim with
  | none => s
  | some w => (s.modEdge d e fun k => { k with wanted := k.wanted.filter (fun x => x.1 ≠ w.1) }).serveLane d e w.1 w.2

/-! ## Ring gangs (R315, R332) -/

/-- The directions, each as receiving die and edge, that ring traffic between two dies crosses. -/
def routeEnds (a b : Nat) : List (Nat × Nat) :=
  let hop := fun (x y : Nat) => [(y, (neighbours y).idxOf x), (x, (neighbours x).idxOf y)]
  if a = b then []
  else if a + b = 3 then (let v := if a = 0 ∨ b = 0 then 1 else 0; hop a v ++ hop v b)
  else hop a b

/-- The used planes of a plan with their downstream and upstream ports, the pairs of ports that ring gangs follow (R332). -/
def Plan.portPairs (pl : Plan) : List (Nat × Nat × Nat) :=
  (List.range 12).filterMap fun q => if pl.linked q then some (q, planeDown (pl.plane q), planeUp (pl.plane q)) else none

/-- Deal a plan's ring gangs their groups: nine pool groups of each direction of each edge on the route, from the highest-numbered down,
in ascending plane order. -/
def State.dealGangs (s : State) (pl : Plan) : State :=
  let s : State := { s with edges := s.edges.map fun e => (e.1, { e.2 with gangs := [] }) }
  pl.portPairs.foldl (fun s x =>
    (routeEnds (x.2.1 / 6) (x.2.2 / 6)).foldl (fun s de =>
      s.modEdge de.1 de.2 fun k =>
        let free := ((List.range 94).reverse.filter fun g => (Tab.find? k.bound g).isNone && !k.ganged.contains g && decide (k.group g ≠ 3)).take 9
        { k with gangs := Tab.set k.gangs x.1 free.reverse }) s) s

/-- Form the gangs of a plan that becomes the running one, unless its port pairs are those in place. A pool left too thin fails its edge
(R342). -/
def State.formGangs (s : State) (pl : Plan) : State :=
  if pl.portPairs = s.gangPairs then s
  else
    let s : State := { s.dealGangs pl with gangPairs := pl.portPairs }
    (List.range 4).foldl (fun s d => (List.range 2).foldl (fun s e => if (s.edge d e).poolUnits < 16 then s.failEdge d e else s) s) s

/-- The directions whose gangs a plan would need, with the groups needed. -/
def Plan.gangNeeds (pl : Plan) : List ((Nat × Nat) × Nat) :=
  let all := (List.range 12).flatMap fun q => if pl.linked q then routeEnds (planeDown (pl.plane q) / 6) (planeUp (pl.plane q) / 6) else []
  all.eraseDups.map fun de => (de, 9 * (all.filter (· = de)).length)

/-- No spare is free (R339, R340): the group keeps the half without the failing lane, or is retired when that half is the one it
kept. A swap in the half that is given up is abandoned; one in the half that is kept completes first (Table 10.5). -/
def State.halfWidth (s : State) (die edge group lane : Nat) : State :=
  let k := s.edge die edge
  if (freeSpare k edge).isSome ∨ lane / 16 ≠ group ∨ k.group group = 3 then s
  else
    let upper := decide (lane % 16 ≥ 8)
    if (k.group group = 1 ∧ upper) ∨ (k.group group = 2 ∧ !upper) then s
    else if k.swap.any (fun w => w.lane / 16 == group && decide (w.lane % 16 ≥ 8) != upper) then
      s.modEdge die edge fun k => { k with halfAfter := k.halfAfter.filter (· ≠ (group, lane)) ++ [(group, lane)] }
    else
      let n := edgeNumber die edge
      let inHalf := fun (l : Nat) => decide (l / 16 = group) && (decide (l % 16 ≥ 8) == upper)
      let abandoned := k.swap.any fun w => inHalf w.lane
      let s := s.modEdge die edge fun k =>
        { k with margins := k.margins.filter (fun m => !inHalf m.1), wanted := k.wanted.filter (fun w => !inHalf w.1) }
      let s := if abandoned then s.nextSwap die edge else s
      let s := s.lane die edge "acknowledge" lane
      if k.group group ≠ 0 then s.retireGroup die edge group
      else
        let kept := if upper then 1 else 2
        let s := (s.modEdge die edge fun k => { k with groups := Tab.set k.groups group kept }).edgeBit die edge 61
        ((s.mapEntry 5 (2 * n.1 + n.2) group (if upper then 4 else 5) 0).capability).widthLost die edge group

/-- A swap has ended: the half-width switches that waited for it take effect. -/
def State.swapEnded (s : State) (d e : Nat) : State :=
  let waiting := (s.edge d e).halfAfter
  waiting.foldl (fun s x => s.halfWidth d e x.1 x.2) (s.modEdge d e fun k => { k with halfAfter := [] })

/-! ## Frames (R328) -/

/-- Mark `n` words of a port's send queue, of those that cross a gang, that were dealt to a group; and how many are left to mark. The Nat
before the list is the place of its first word in the round. -/
def markSent (round : List Nat) (crosses : TxWord → Bool) (g : Nat) : Nat → Nat → List TxWord → List TxWord × Nat
  | n, _, [] => ([], n)
  | n, i, w :: ws =>
    let hit := crosses w && decide (n > 0) && !w.poison && round.getD (i % round.length) 96 == g
    let r := markSent round crosses g (if hit then n - 1 else n) (if crosses w then i + 1 else i) ws
    ({ w with poison := w.poison || hit } :: r.1, r.2)

/-- Mark `n` received words that were dealt to a group. -/
def markReceived (round : List Nat) (g : Nat) : Nat → Nat → List RxWord → List RxWord
  | _, _, [] => []
  | n, i, w :: ws =>
    let hit := decide (n > 0) && !w.poison && round.getD (i % round.length) 96 == g
    { w with poison := w.poison || hit } :: markReceived round g (if hit then n - 1 else n) (i + 1) ws

/-- The port that the words of a plane's gang come from and the port they go to, in a direction that die d receives. -/
def gangEnds (d e : Nat) (x : Nat × Nat × Nat) : Nat × Nat :=
  let src := (neighbours d).getD e 0
  if portDie x.2.1 = d ∨ portDie x.2.2 = src then (x.2.2, x.2.1) else (x.2.1, x.2.2)

/-- Words of a ring or port group delivered marked uncorrectable (R328): on their way to a transmitter, or received and on their way to a
collective mover. A frame does not say which of the words dealt to its group they are: the first of those that wait.
(log 169: DESIGN CHOICE) -/
def State.poisonGang (s : State) (d e g n : Nat) : State :=
  let k := s.edge d e
  if e < 2 then
    match k.gangs.find? fun q => q.2.contains g with
    | none => s
    | some q => match s.gangPairs.find? fun x => x.1 = q.1 with
      | none => s
      | some x =>
        let round := k.round q.2
        let (src, dst) := gangEnds d e x
        -- a plane's movers stand on the die of its upstream port: their own words cross toward the downstream one
        let crosses := fun (w : TxWord) => w.src == src || (w.src == 24 && dst == x.2.1)
        let r := markSent round crosses g n 0 (s.oport dst).txq
        (s.modOport dst fun o => { o with txq := r.1 }).modOport src fun o => { o with rxq := markReceived round g r.2 0 o.rxq }
  else
    let p := gangPort d e g
    let round := k.round ((List.range 10).map (g / 10 * 10 + ·))
    if e < 4 then s.modOport p fun o => { o with rxq := markReceived round g n 0 o.rxq }
    else s.modOport p fun o => { o with txq := (markSent round (fun _ => true) g n 0 o.txq).1 }

/-- The CRC mismatches of a lane within the last second. -/
def Edge.recent (k : Edge) (l : Nat) (now : Word64) : List Word64 :=
  (Tab.get [] k.crcTimes l).filter fun t => decide (now.toNat - t.toNat < 1000000000)

/-- Count a frame's lane CRC mismatches (R335): frames in a row and times, for the lanes that carry the group. -/
def Edge.crc (k : Edge) (g : Nat) (now : Word64) (bad : List Nat) : Edge :=
  ((List.range 16).map (16 * g + ·)).foldl (fun k data =>
    let l := (Tab.find? k.standIn data).getD data
    if bad.contains l then
      { k with crcRun := Tab.set k.crcRun l (Tab.get 0 k.crcRun l + 1), crcTimes := Tab.set k.crcTimes l (k.recent l now ++ [now]) }
    else { k with crcRun := Tab.erase k.crcRun l }) k

/-- Serve the lanes whose CRC mismatches have come to a threshold of Table 10.3. -/
def State.serveCrc (s : State) (d e : Nat) (bad : List Nat) : State :=
  bad.foldl (fun s l =>
    let k := s.edge d e
    let urgent := decide (Tab.get 0 k.crcRun l ≥ 3)
    match k.dataLane e l with
    | some data => if urgent || decide ((Tab.get [] k.crcTimes l).length ≥ 8) then s.serveLane d e data urgent else s
    | none => s) s

/-- What a stream or service group does with a frame: an uncorrectable word holds it and every later frame back until the frame comes
again, word for word once. The sender sends again every frame from that one on, and each counts; the first that is not one of them ends the
resend. (log 205: DESIGN CHOICE) -/
def State.frameKept (s : State) (d e g : Nat) (f : LaneFrame) : State :=
  let wanted := (s.edge d e).resending.contains g
  let again := f.resent && (wanted || (s.edge d e).resent.contains g)
  if wanted && !f.resent then s
  else
    let s := if again then (s.edgeBump d e 39 28 1).edgeBit d e 60 else s
    let s := s.modEdge d e fun k =>
      { k with resending := (if f.bad > 0 then [g] else []) ++ k.resending.filter (· ≠ g),
               resent := (if again && f.bad == 0 then [g] else []) ++ k.resent.filter (· ≠ g) }
    if f.bad > 0 then s.lane d e "resend" g else s.edgeBump d e 63 40 f.corrected

/-- A word that is uncorrectable in the sender's replay buffer (Table 10.9, 0x50): nothing more is asked for. -/
def State.replayLost (s : State) (d e g : Nat) (what : ReplayLoss) : State :=
  let k := s.edge d e
  let gone := s.modEdge d e fun k => { k with resending := k.resending.filter (· ≠ g) }
  match what with
  | .none => s
  | .word => match Tab.find? k.bound g with
    | some (id, _) => (gone.laneFault d e 0x50 false).streamFault id 0x0A
    | none => if isService e g then gone.laneFault d e 0x50 true else s
  | .token c => if isService e g then (gone.laneFault d e 0x50 false).coreFault c 0 0x17 0 0 0 else s

/-! ## Meanings -/

/-- SEGMENT_BIND (R330, R331): die `die` sends a segment of a stream that crosses its edge; toward a flow-side destination only once its
landing buffer of 4 KiB has room for every word. -/
def execSegmentBind (die edge stream words : Nat) (s : State) : Host.Outcome State Fault Refusal :=
  .next (if edge ≥ 2 ∨ words = 0 ∨ words > 256 ∨ s.flint.state = .scrubbing then s
    else
      let (d, e) := farEnd die edge
      let lands := s.landsAt stream die d
      if (die, d) ∉ s.streamHops stream ∨ (lands ∧ (s.stream stream).landed + 16 * words > 4096) then s
      else
        let s := if lands then s.modStream stream fun t => { t with landed := t.landed + 16 * words } else s
        s.bindSegment d e (stream, words))

/-- SEGMENT_ACKNOWLEDGED (R330): the group is free again. -/
def execSegmentAcknowledged (die edge group : Nat) (s : State) : Host.Outcome State Fault Refusal :=
  .next (if edge ≥ 2 then s
    else
      let (d, e) := farEnd die edge
      if (Tab.find? (s.edge d e).bound group).isNone then s
      else (s.modEdge d e fun k => { k with bound := Tab.erase k.bound group }).groupFreed d e)

/-- LANE_FRAME_RECEIVED (R328); a maintenance message that fails its check counts as a lane CRC mismatch (R347).
The lanes of a clamped sender are idle (R464). -/
def execLaneFrameReceived (die edge group : Nat) (f : LaneFrame) (s : State) : Host.Outcome State Fault Refusal :=
  .next (if (s.die (if edge < 2 then (farEnd die edge).1 else die)).clamped then s else
    let k := s.edge die edge
    let s := (s.edgeBump die edge 27 16 (f.crcLanes.length + f.messages)).modEdge die edge fun k => k.crc group s.localTime f.crcLanes
    let s := if k.ringGroup edge group then ((s.edgeBump die edge 63 40 f.corrected).edgeBump die edge 15 8 f.bad).poisonGang die edge group f.bad
      else s.frameKept die edge group f
    (s.replayLost die edge group f.replay).serveCrc die edge f.crcLanes)

/-- LANE_MARGIN_UPDATE (R335): the averaged margin of a lane, reported to the other end (R326), and the CRC mismatches of the frames that
deliver nothing, beside those that LANE_FRAME_RECEIVED counted. (log 107: DEDUCED) -/
def execLaneMarginUpdate (die edge lane margin crcPerSecond crcRun : Nat) (s : State) : Host.Outcome State Fault Refusal :=
  .next (
    let k := s.edge die edge
    match k.dataLane edge lane with
    | none => s
    | some data =>
      let above : Bool := match Tab.find? k.margins lane with | some m => decide (m > s.cfg.laneWarn) | none => true
      let s := (s.modEdge die edge fun k => { k with margins := Tab.set k.margins lane margin }).lane die edge "margin" lane
      let s := if margin ≤ s.cfg.laneWarn ∧ above then
          s.logEvent 1 0x7A 0 0 (edgeNumber die edge).1 (toLe 2 lane ++ [BitVec.ofNat 8 margin])
        else s
      let urgent := decide (crcRun ≥ 3) || decide (Tab.get 0 k.crcRun lane ≥ 3)
      if margin ≤ s.cfg.laneSwap ∨ crcPerSecond + (k.recent lane s.localTime).length ≥ 8 ∨ crcRun ≥ 3 then s.serveLane die edge data urgent else s)

/-- LANE_SWAP_REQUEST (R337 step 2): the sender drives the spare and acknowledges. -/
def execLaneSwapRequest (die edge lane spare : Nat) (s : State) : Host.Outcome State Fault Refusal :=
  .next (match (s.edge die edge).swap with
    | some w =>
      if w.lane = lane ∧ w.spare = spare ∧ w.step = 1 then
        (s.modEdge die edge fun k => { k with swap := some { w with step := 2 } }).lane die edge "acknowledge" spare
      else s
    | none => s)

/-- SPARE_COMPARE_COMPLETE (R337 steps 3 and 4, R338). -/
def execSpareCompareComplete (die edge : Nat) (matched : Bool) (s : State) : Host.Outcome State Fault Refusal :=
  .next (
    match (s.edge die edge).swap with
    | some w =>
      if w.step ≠ 2 then s
      else if matched then (s.modEdge die edge fun k => { k with swap := some { w with step := 3 } }).lane die edge "switch" w.spare
      else
        let n := edgeNumber die edge
        let s := s.modEdge die edge fun k => { k with sparesUsed := w.spare :: k.sparesUsed, swap := none }
        let s := (s.mapEntry 4 (2 * n.1 + n.2) (w.lane * 2 ^ 13 + w.spare * 4) 3 0).laneFault die edge 0x53 false
        (s.serveLane die edge w.lane false).swapEnded die edge
    | none => s)

/-- SPARE_SWITCH (R337 steps 4 to 6): the spare stands in; the old lane is retired. -/
def execSpareSwitch (die edge : Nat) (s : State) : Host.Outcome State Fault Refusal :=
  .next (
    match (s.edge die edge).swap with
    | some w =>
      if w.step ≠ 3 then s
      else
        let n := edgeNumber die edge
        let old := (Tab.find? (s.edge die edge).standIn w.lane).getD w.lane
        let s := s.modEdge die edge fun k =>
          { k with sparesUsed := w.spare :: k.sparesUsed, standIn := Tab.set k.standIn w.lane w.spare, margins := Tab.erase k.margins old }
        let s := ((s.edgeBit die edge 62).edgeBump die edge 7 0 1).lane die edge "acknowledge" w.spare
        let s := (s.mapEntry 4 (2 * n.1 + n.2) (w.lane * 2 ^ 13 + w.spare * 4) 1 0).summary die 61
        ((s.logEvent 1 0x7B 3 0 n.1 (toLe 2 w.lane ++ toLe 2 w.spare)).nextSwap die edge).swapEnded die edge
    | none => s)

/-- HALF_WIDTH_SWITCH (R339, R340). -/
def execHalfWidthSwitch (die edge group lane : Nat) (s : State) : Host.Outcome State Fault Refusal := .next (s.halfWidth die edge group lane)

/-- GANG_TAKE_IN (R341): a ring gang below 16 units takes in the lowest free pool group. -/
def execGangTakeIn (die edge plane : Nat) (s : State) : Host.Outcome State Fault Refusal :=
  .next (s.takeIn die edge plane)

end Sys2Proof.Machine
end

