-- ==== Sys2Proof/Machine/Units.lean ====
section
/-! DEFINITION. The vector, function and row-reduction units (R115 to R121): exact values, the counts of R65, the term
exponents of R506, tiles, instruments and digests, and the meanings of the instructions that run on them. -/

namespace Sys2Proof.Machine

/-! ## One element -/

/-- The value of two operands under the policy, vug when either is (Table 2.7). -/
def both (z : Bool) (a b : Opd) (f : Exact → Exact → Option Exact) : Option Exact :=
  match a.subst z, b.subst z with
  | some x, some y => f x y
  | _, _ => none

/-- Table 4.7: the exact value of a vector operation. `n` is the constant of a power-of-two scale. -/
def vecElem (z : Bool) (op : Nat) (n : Int) (a b c : Opd) : Elem :=
  let one := fun (f : Exact → Exact) => ({ val := (a.subst z).map f, subs := a.subs z, terms := a.terms } : Elem)
  let two := fun (f : Exact → Exact → Option Exact) (t : List Int) =>
    ({ val := both z a b f, subs := a.subs z + b.subs z, terms := t } : Elem)
  let sep := a.terms ++ b.terms
  if op = 0x00 then one id
  else if op = 0x01 then two (fun x y => some (x.add y)) sep
  else if op = 0x02 then two (fun x y => some (x.sub y)) sep
  else if op = 0x03 then two (fun x y => some (x.mul y)) (pairTerm a b (a.exp + b.exp))
  else if op = 0x04 then
    { val := match both z a b (fun x y => some (x.mul y)), c.subst z with | some p, some q => some (p.add q) | _, _ => none,
      subs := a.subs z + b.subs z + c.subs z, terms := pairTerm a b (a.exp + b.exp) ++ c.terms }
  else if op = 0x05 then two (fun x y => x.div y) (pairTerm a b (a.exp - b.exp))
  else if op = 0x06 then two (fun x y => some (if y.lt x then y else x)) sep
  else if op = 0x07 then two (fun x y => some (if x.lt y then y else x)) sep
  else if op = 0x08 then one Exact.neg
  else if op = 0x09 then one Exact.abs
  else if op = 0x0A then
    match c.subst z with
    | none => { val := none, subs := 0, terms := sep }
    | some q =>
      let o := if q.num ≠ 0 then a else b
      { val := o.subst z, subs := c.subs z + o.subs z, terms := sep }
  else if op = 0x0B then two (fun x y => some (Exact.ofInt (if y.lt x then 1 else 0) 0)) []
  else if op = 0x0C then two (fun x y => some (Exact.ofInt (if x.eqv y then 1 else 0) 0)) []
  else { val := (a.subst z).map (·.shift n), subs := a.subs z, terms := a.terms.map (· + n) }

/-- A function table's header and segments, as a core's store of 64 KiB holds them (R119). -/
def segCoeff (store : Rec) (hdr : Rec) (s j : Nat) : Int := sgn 32 (le store (1024 + 16 * (le hdr 18 2 + s) + 4 * j) 4)

/-- The exact polynomial of a segment at offset d (R120 steps 4 and 5), with its term exponents. -/
def polyAt (store hdr : Rec) (deriv : Bool) (s : Nat) (d : Int) : Exact × List Int :=
  let deg := le hdr 9 1
  let ein := sgn 8 (le hdr 8 1)
  let a := fun (j : Nat) => sgn 8 (le hdr (12 + j) 1)
  if deriv then
    let js : List Nat := (List.range deg).map (· + 1)
    (js.foldl (fun v (j : Nat) => v.add (Exact.ofInt ((j : Int) * segCoeff store hdr s j * d ^ (j - 1)) (a j - ein))) Exact.zero,
     js.map fun j => a j - ein)
  else
    let js := List.range (deg + 1)
    (js.foldl (fun v j => v.add (Exact.ofInt (segCoeff store hdr s j * d ^ j) (a j))) Exact.zero, js.map a)

/-- R120: a function evaluation. `g` is the gradient operand when present. An input replaced by zero takes every term with it, that of
c_0 included. (log 157: DEDUCED) -/
def funElem (z : Bool) (store hdr : Rec) (deriv : Bool) (x : Opd) (g : Option Opd) : Elem :=
  let gs := match g with | some g => g.subs z | none => 0
  match x.subst z with
  | none => { val := none, subs := gs, terms := [] }
  | some v =>
    let lo := sgn 32 (le hdr 0 4)
    let hi := sgn 32 (le hdr 4 4)
    let xi := v.floorAt (sgn 8 (le hdr 8 1))
    if xi < lo ∨ hi < xi then { val := none, subs := x.subs z + gs, terms := [] }
    else
      let h := le hdr 10 1
      let s := ((xi - lo) / (2 ^ h : Nat)).toNat
      let d := xi - lo - ((s * 2 ^ h : Nat) : Int)
      let (p, ts) := polyAt store hdr deriv s d
      let counted := x.man.isSome && (match g with | some g => g.man.isSome | none => true)
      let eg := match g with | some g => g.exp | none => 0
      { val := match g with | some g => (g.subst z).map fun q => q.mul p | none => some p,
        subs := x.subs z + gs, terms := if counted then ts.map (· + eg) else [] }

/-- One step of a row reduction (Table 4.9): the value so far, none before the first element. -/
def redStep (kind : Nat) (acc : Option Exact) (x y : Exact) : Exact :=
  match kind, acc with
  | 0, some v => v.add x
  | 0, none => x
  | 1, some v => v.add (x.mul x)
  | 1, none => x.mul x
  | 2, some v => v.add (x.mul y)
  | 2, none => x.mul y
  | 3, some v => if v.lt x then x else v
  | 4, some v => if x.lt v then x else v
  | 5, some v => if v.lt x.abs then x.abs else v
  | 5, none => x.abs
  | _, _ => x

/-- The exact value of a row (R121): a vug in A, or in B for kind 2, makes it vug under the propagate policy. -/
def redRow (z : Bool) (kind : Nat) (as bs : List Opd) : Elem :=
  let step := fun (r : Elem × Option Exact × Bool) (ab : Opd × Opd) =>
    let (e, acc, dead) := r
    let (a, b) := ab
    let two := kind == 2
    let subs := e.subs + a.subs z + (if two then b.subs z else 0)
    let t := if kind = 1 then a.terms.map (2 * ·) else if two then pairTerm a b (a.exp + b.exp) else a.terms
    match a.subst z, (if two then b.subst z else some Exact.zero) with
    | some x, some y => ({ e with subs := subs, terms := e.terms ++ t }, some (redStep kind acc x y), dead)
    | _, _ => ({ e with subs := subs, terms := e.terms ++ t }, acc, true)
  let (e, acc, dead) := (as.zip (bs ++ List.replicate (as.length - bs.length) ⟨some 0, 0⟩)).foldl step (⟨none, 0, []⟩, none, false)
  { e with val := if dead then none else acc }

/-! ## Tiles -/

/-- How an instruction of these units stores: its control block (Table 4.3), destination, format, rule, rounding. -/
structure Sink where
  core : Nat
  dst : Ref
  fmt : Nat
  rule : ExpRule
  stoch : Bool
  rows : Nat
  elems : Nat
  rowBase : Nat
  colBase : Nat
  site : Nat
  deriving DecidableEq, Repr

/-- What a run of an instruction has come to: the state, what it feeds its instrument, the stored bytes and counts of the
tile being written, and the bank that stopped it. -/
structure Run where
  s : State
  acc : Accum
  tile : Rec
  sats : Nat
  vugs : Nat
  dead : Option Nat
  deriving DecidableEq, Repr

/-- The status word of a tile of a core unit: bits [62:35] of Table 3.4. -/
def tileStatus (vugs sats : Nat) : Word64 :=
  BitVec.ofNat 64 (min vugs 8191 * 2 ^ 48 + min sats 8191 * 2 ^ 35 + (decide (vugs ≠ 0)).toNat * 2 ^ 62 + (decide (sats ≠ 0)).toNat * 2 ^ 61)

/-- Store the elements of one block and gather what the store counts. (log 66: DEDUCED) Terms of an element that is vug for another
reason than their own operands count toward T. (log 156: DEDUCED) -/
def Run.store (r : Run) (k : Sink) (es : List Elem) (us : Nat → Word32)
    (put : State → Stored → Except BankErr (Rec × State)) : Run :=
  let st := storeBlock k.fmt k.rule k.stoch us (maxExp (es.flatMap (·.terms))) (es.map (·.val))
  let subs := (es.map (·.subs)).sum
  match put r.s st with
  | .ok (b, s) => { r with s := s, acc := r.acc.feedBlock st subs, tile := r.tile ++ b, sats := r.sats + st.sats, vugs := r.vugs + st.vugs + subs }
  | .error e => { r with s := e.s, dead := some e.bank }

/-- The end of a tile: its digest (R232). -/
def Run.close (r : Run) (k : Sink) (fl : Flight) (t b : Nat) : Run :=
  { r with s := r.s.digest k.core fl.pc fl.entry fl.ordinal t b r.tile (tileStatus r.vugs r.sats), tile := [], sats := 0, vugs := 0 }

/-- Elements of block `b` of a row of `e`. -/
def present (e b : Nat) : Nat := min 64 (e - 64 * b)

/-- One block of one row of a row-form instruction. -/
def Run.rowBlock (k : Sink) (src : State → Nat → Nat → Except BankErr (List Elem × State)) (r : Run) (m b : Nat) : Run :=
  if r.dead.isSome then r
  else match src r.s m b with
    | .error x => { r with s := x.s, dead := some x.bank }
    | .ok (es, s) =>
      Run.store { r with s := s } k es (fun i => s.draw 2 k.site (k.rowBase + m) (k.colBase + 64 * b + i))
        (fun s st => s.writeBlock k.core k.dst k.fmt m b st)

/-- Every tile of a row-form instruction, tile rows outermost (R115, R232). -/
def Run.rowForm (k : Sink) (fl : Flight) (src : State → Nat → Nat → Except BankErr (List Elem × State)) (r : Run) : Run :=
  (List.range ((k.rows + 63) / 64)).foldl (fun r t =>
    (List.range ((k.elems + 63) / 64)).foldl (fun r b =>
      let r := (List.range (present k.rows t)).foldl (fun r i => r.rowBlock k src (64 * t + i) b) r
      if r.dead.isSome then r else r.close k fl t b) r) r

/-- Every tile of a row reduction: 64 rows to one column-form block (R121). -/
def Run.colForm (k : Sink) (fl : Flight) (src : State → Nat → Except BankErr (Elem × State)) (r : Run) : Run :=
  (List.range ((k.rows + 63) / 64)).foldl (fun r t =>
    if r.dead.isSome then r
    else
      let step := fun (x : Run × List Elem) i =>
        if x.1.dead.isSome then x
        else match src x.1.s (64 * t + i) with
          | .error b => ({ x.1 with s := b.s, dead := some b.bank }, x.2)
          | .ok (e, s) => ({ x.1 with s := s }, x.2 ++ [e])
      let (r, es) := (List.range (present k.rows t)).foldl step (r, [])
      if r.dead.isSome then r
      else
        let r := r.store k es (fun i => r.s.draw 2 k.site (k.rowBase + 64 * t + i) k.colBase)
          (fun s st => s.writeColBlock k.core k.dst k.fmt t st)
        if r.dead.isSome then r else r.close k fl t 0) r

/-! ## The instructions' operands -/

/-- The constant operand of a control block (Table 4.3). -/
def constOpd (rec : Rec) : Opd := { man := some (sgn 64 (le rec 120 8)), exp := sgn 8 (le rec 118 1) }

/-- Whether a vector operation consumes its B element, given its C element: a select only when C is zero. -/
def takesB (z : Bool) (op : Nat) (c : Opd) : Bool :=
  (1 ≤ op && op ≤ 7) || op == 0x0B || op == 0x0C || (op == 0x0A && (match c.subst z with | some q => q.num == 0 | none => false))

/-- A row scalar is one element of its row (R65): the first element that consumes it counts its substitution, `before` when one of
an earlier block of the row did. (log 67: DEDUCED) -/
def countOnce (n : Nat) : Bool → List (Elem × Bool) → List Elem
  | _, [] => []
  | before, (e, uses) :: es => (if before && uses then { e with subs := e.subs - n } else e) :: countOnce n (before || uses) es

/-- Whether an element of an earlier block of row `m` consumes the row scalar B. -/
def usedBefore (c : Nat) (w : Word64) (rec : Rec) (s : State) (m b : Nat) : Except BankErr Bool :=
  let op := fieldOf w 37 32
  if op ≠ 0x0A then .ok (decide (b ≠ 0))
  else (List.range b).foldlM (fun u k => do
    let (cs, _) ← s.readBlock c (refAt rec 48) (fieldOf w 27 26) m k (present (le rec 100 4) k)
    .ok (u || cs.any (takesB s.zeroPolicy op))) false

/-- The elements of block `b` of row `m` of a vector instruction. -/
def vecSource (c : Nat) (w : Word64) (rec : Rec) (s : State) (m b : Nat) : Except BankErr (List Elem × State) := do
  let z := s.zeroPolicy
  let n := present (le rec 100 4) b
  let op := fieldOf w 37 32
  let form := fieldOf w 23 22
  let (as, s) ← s.readBlock c (refAt rec 0) (fieldOf w 31 30) m b n
  let (bs, s) ← if form = 0 then s.readBlock c (refAt rec 24) (fieldOf w 29 28) m b n
    else if form = 1 then do
      let (x, s) ← s.readCol c (refAt rec 24) (fieldOf w 29 28) m
      .ok (List.replicate n x, s)
    else .ok (List.replicate n (constOpd rec), s)
  let (cs, s) ← if takesC op then s.readBlock c (refAt rec 48) (fieldOf w 27 26) m b n else .ok (List.replicate n ⟨some 0, 0⟩, s)
  let zero : Opd := ⟨some 0, 0⟩
  let es := (List.range n).map fun i => vecElem z op (sgn 64 (le rec 120 8)) (as.getD i zero) (bs.getD i zero) (cs.getD i zero)
  let scalar := bs.getD 0 zero
  if form = 1 ∧ scalar.subs z ≠ 0 then do
    let before ← usedBefore c w rec s m b
    .ok (countOnce (scalar.subs z) before (es.zip (cs.map (takesB z op))), s)
  else .ok (es, s)

/-- The function table store of a core in the plan in effect. -/
def State.ftable (s : State) (c : Nat) : Rec := match s.plan?.bind fun p => Tab.find? p.ftables c with | some t => t | none => []

/-- The 16-byte words of the function table store that an evaluation reads: the header's two, and a segment's for each input inside the
table's domain. -/
def tableWords (z : Bool) (table : Nat) (hdr : Rec) (xs : List Opd) : List Nat :=
  let lo := sgn 32 (le hdr 0 4)
  [2 * table, 2 * table + 1] ++ xs.filterMap fun x => match x.subst z with
    | none => none
    | some v =>
      let xi := v.floorAt (sgn 8 (le hdr 8 1))
      if xi < lo ∨ sgn 32 (le hdr 4 4) < xi then none else some (64 + le hdr 18 2 + ((xi - lo) / (2 ^ le hdr 10 1 : Nat)).toNat)

/-- Read words of the function table store; 128 stands for an uncorrectable one, where a bank would stand. -/
def State.readTables (s : State) (c : Nat) (ws : List Nat) : Except BankErr State :=
  ws.foldlM (fun s w => match s.readTable c w with | some s => .ok s | none => .error ⟨128, s⟩) s

/-- The elements of block `b` of row `m` of a function instruction: references A and B in row form, for no field selects another.
(log 155: DEDUCED) -/
def funSource (c : Nat) (w : Word64) (rec : Rec) (s : State) (m b : Nat) : Except BankErr (List Elem × State) := do
  let z := s.zeroPolicy
  let n := present (le rec 100 4) b
  let store := s.ftable c
  let hdr := slice store (32 * fieldOf w 37 33) 32
  let (xs, s) ← s.readBlock c (refAt rec 0) (fieldOf w 31 30) m b n
  let (gs, s) ← if fieldOf w 27 27 = 1 then do
      let (g, s) ← s.readBlock c (refAt rec 24) (fieldOf w 29 28) m b n
      .ok (g.map some, s)
    else .ok (List.replicate n none, s)
  let s ← s.readTables c (tableWords z (fieldOf w 37 33) hdr xs)
  .ok ((List.range n).map fun i => funElem z store hdr (fieldOf w 32 32 == 1) (xs.getD i ⟨some 0, 0⟩) (gs.getD i none), s)

/-- The value of row `m` of a row reduction. -/
def redSource (c : Nat) (w : Word64) (rec : Rec) (s : State) (m : Nat) : Except BankErr (Elem × State) := do
  let z := s.zeroPolicy
  let e := le rec 100 4
  let kind := fieldOf w 37 35
  let step := fun (x : Except BankErr (List Opd × List Opd × State)) b => do
    let (as, bs, s) ← x
    let (a, s) ← s.readBlock c (refAt rec 0) (fieldOf w 31 30) m b (present e b)
    let (b', s) ← if kind = 2 then s.readBlock c (refAt rec 24) (fieldOf w 29 28) m b (present e b) else .ok ([], s)
    .ok (as ++ a, bs ++ b', s)
  let (as, bs, s) ← (List.range ((e + 63) / 64)).foldl step (.ok ([], [], s))
  .ok (redRow z kind as bs, s)

/-! ## Running one -/

/-- Run an instruction in flight on its unit. A bank's uncorrectable word stops it with core fault 0x14 (R99, R139), its
destination partly written; one of the function table store with 0x11; a scale-table entry that does not match its complement keeps it from storing, with 0x64 (R43,
Table 13.3). (log 65: DESIGN CHOICE) -/
def State.runUnit (s : State) (c : Nat) (fl : Flight) : State :=
  let w := fl.word
  let rec' := fl.record
  let dst := refAt rec' 72
  match s.expRule dst.unscaled (fieldOf w 21 20) (bits (le rec' 116 2) 11 0) with
  | none => (s.stopFlight c fl.id 0x64).report 0 0 0 0x64
  | some rule =>
    let k : Sink := { core := c, dst := dst, fmt := fieldOf w 25 24, rule := rule, stoch := fieldOf w 19 19 == 1, rows := le rec' 96 4,
                      elems := le rec' 100 4, rowBase := le rec' 104 4, colBase := le rec' 108 4, site := bits (le rec' 112 4) 27 0 }
    let r0 : Run := { s := s, acc := Accum.init, tile := [], sats := 0, vugs := 0, dead := none }
    let r := if wOp w = 0x08 then r0.rowForm k fl (vecSource c w rec') else if wOp w = 0x09 then r0.rowForm k fl (funSource c w rec')
      else r0.colForm k fl (redSource c w rec')
    match r.dead with
    | some 128 => (r.s.stopFlight c fl.id 0x11).coreFault c 2 0x11 0 fl.pc fl.id
    | some b => r.s.bankError c b (some fl.id)
    | none => match dst.instr with
      | some i => if fl.fed then r.s else (r.s.modFlight c fl.id fun f => { f with fed := true }).feed i r.acc
      | none => r.s

/-- Issue an instruction of these units: read its record, hold it if R103 says so, put it in flight and run it. -/
def issueUnit (c : Nat) (s : State) (w : Word64) : State :=
  match s.argRecord c w with
  | .error s => s
  | .ok (rec, s) =>
    let (reads, writes) := unitSpans w rec
    match (s.core c).held reads writes with
    | 0 =>
      let id := (s.core c).nextId
      let s := s.launch c w rec reads writes [] (.unit (wOp w)) (!ivsMeet (unitTouched w rec).2 (unitTouched w rec).1)
      match (s.core c).flight? id with
      | some fl => s.runUnit c fl
      | none => s
    | h => s.holdAt c h 0 0

/-! ## Instructions released (R103) -/

/-- Issue the word a core is held at again, now that what held it may be gone. -/
def State.reissue (s : State) (c : Nat) : State :=
  match s.wordAt c with
  | none => s
  | some w =>
    let op := wOp w
    let again := fun (f : State → Word64 → State) => s.issue c op [4, 5, 6, 7] f
    if op = 0x01 then again (issueLoad c)
    else if op = 0x02 then again (issuePreload c)
    else if op = 0x03 then again (issueDrain c)
    else if op = 0x04 then again (issuePass c)
    else if op = 0x08 ∨ op = 0x09 ∨ op = 0x0A then again (issueUnit c)
    else if op = 0x1C then again (issueFence c)
    else if op = 0x1F then again (issueStepEnd c)
    else s

/-! ## Line substitution (R439) -/

/-- The words of a scratchpad line. -/
def lineWords (c b l : Nat) : List Nat := (List.range 4).map fun i => scrKey c (l * 8192 + b * 64 + 16 * i) / 16

/-- Whether a line returned an uncorrectable error: a word of it stands uncorrectable (one written poisoned
is no fault of the line). -/
def State.lineDead (s : State) (c b l : Nat) : Bool := (lineWords c b l).any fun w => s.chip.scratchFlips.get w != poison && seen (s.chip.scratchFlips.get w) == .dead

/-- Whether a line returned a corrected error twice within 24 h. -/
def State.lineWorn (s : State) (c b l : Nat) : Bool :=
  let es := s.repair.lineEvents.filter fun e => e.1 = c * 2 ^ 19 + l * 128 + b
  decide ((es.filter fun e => decide (s.localTime.toNat - e.2.toNat ≤ 86400000000000)).length ≥ 2)

/-- Copy one word of a core's line to the spare: as corrected, which counts, or poisoned when uncorrectable (R422, Table 4.14). -/
def State.copyWord (c : Nat) (s : State) (w : Nat) : State :=
  match settleWord s.chip.scratch s.chip.scratchFlips w with
  | some (m, f, n) => (s.modChip fun h => { h with scratch := m, scratchFlips := f }).bump (.coreFault c) 40 29 n
  | none => s.modChip fun h => { h with scratchFlips := h.scratchFlips.set w poison }

/-- Retire a logical core (Table 13.9). -/
def State.retireCore (s : State) (c : Nat) : State :=
  if s.repair.retiredCores.contains c then s
  else (((s.modRepair fun r => { r with retiredCores := r.retiredCores ++ [c] }).mapEntry 1 c 0 2 0).capability).summary (coreDie c) 62

/-- The lowest spare line of a bank that is neither in use nor failed. -/
def Repair.nextLine (r : Repair) (c b : Nat) : Nat :=
  ((List.range 16).find? fun k => !(Tab.get [] r.spareLines (128 * c + b)).contains k).getD 0

/-- A spare line of a bank is in use or failed from now on. -/
def Repair.takeLine (r : Repair) (c b k : Nat) : Repair :=
  { r with linesUsed := Tab.upd 0 r.linesUsed (128 * c + b) (· + 1), spareLines := Tab.upd [] r.spareLines (128 * c + b) (k :: ·) }

/-- The site of a line and its spare in the repair map (Table 13.11). -/
def lineSite (b l k : Nat) : Nat := b * 2 ^ 17 + l * 32 + k * 2

/-- R439: a line is substituted by the bank's lowest free spare; a bank with none retires its core at an uncorrectable
error. -/
def State.substitute (s : State) (c b l : Nat) : State :=
  if !(s.lineDead c b l || s.lineWorn c b l) then s
  else
    let used := Tab.get 0 s.repair.linesUsed (128 * c + b)
    if used ≥ 16 then (if s.lineDead c b l then s.retireCore c else s)
    else
      let k := s.repair.nextLine c b
      let s := (lineWords c b l).foldl (State.copyWord c) s
      let s := s.modRepair fun r => { r.takeLine c b k with
        lineEvents := r.lineEvents.filter fun e => e.1 ≠ c * 2 ^ 19 + l * 128 + b }
      ((s.mapEntry 3 c (lineSite b l k) 1 0).summary (coreDie c) 61).logEvent 7 0x7D 3 0 c ([BitVec.ofNat 8 b, 0] ++ toLe 2 l)

/-! ## Meanings -/

/-- INSTRUCTION_RELEASED (R103, R75, Table 3.8): the held instruction is issued once nothing holds it. -/
def execInstructionReleased (core : Nat) (s : State) : Host.Outcome State Fault Refusal := .next (s.reissue core)

/-- LINE_SUBSTITUTION (R439). -/
def execLineSubstitution (core bank line : Nat) (s : State) : Host.Outcome State Fault Refusal := .next (s.substitute core bank line)

/-- VECTOR (R115, R116). -/
def execVector (core : Nat) (s : State) : Host.Outcome State Fault Refusal := .next (s.issue core 0x08 [0] (issueUnit core))

/-- FUNCTION (R120). -/
def execFunction (core : Nat) (s : State) : Host.Outcome State Fault Refusal := .next (s.issue core 0x09 [0] (issueUnit core))

/-- ROW_REDUCTION (R121). -/
def execRowReduction (core : Nat) (s : State) : Host.Outcome State Fault Refusal := .next (s.issue core 0x0A [0] (issueUnit core))

/-- INSTRUCTION_COMPLETE (R103): a vector, function or row-reduction instruction in flight, not stopped by a fault,
completes. -/
def execInstructionComplete (core id : Nat) (s : State) : Host.Outcome State Fault Refusal :=
  .next (match (s.core core).flight? id with
    | some f => match f.work, f.stopped with
      | .unit _, none => s.retireFlight core id
      | _, _ => s
    | none => s)

end Sys2Proof.Machine
end

