-- ==== Sys2Proof/Machine/Handler.lean ====
section
/-! DEFINITION. Flint's fault handler (R425 to R437): reports, their answers, recovery windows and their order, retirement,
the watchdog; the writes of the repair map and of cuts. -/

namespace Sys2Proof.Machine

/-! ## What a report names -/

/-- The instruction in flight that a report of a core or an engine names. -/
def State.reportFlight (s : State) (r : Report) : Option Flight :=
  if r.kind = 8 ∨ (r.kind = 7 ∧ (r.code = 0x11 ∨ r.code = 0x14 ∨ r.code = 0x15)) then (s.core r.unit).flight? r.sub else none

/-- The die whose summary register shows a report (R445): Flint's and the management port's are die 0's. -/
def State.reportDie (s : State) (r : Report) : Nat :=
  match r.kind with
  | 1 => r.sub / 2 % 4
  | 2 => devDie r.unit
  | 3 => portDie r.unit
  | 4 => r.unit / 32
  | 5 => (s.planeDie r.unit).getD 0
  | 6 => ownerDie r.unit
  | 7 => if r.code < 0x10 then r.unit else coreDie r.unit
  | 8 => coreDie r.unit
  | 11 => r.unit
  | _ => 0

/-- The core unit of an opcode (Table 4.14): 1 vector, 2 function, 3 row reduction. -/
def unitOfOp (op : Nat) : Nat := if op = 0x08 then 1 else if op = 0x09 then 2 else 3

/-- The instructions in flight whose units a report names: for a bank every pass it stopped (R93), else the one it names. -/
def State.reportFlights (s : State) (r : Report) : List Flight :=
  let named := (s.reportFlight r).toList
  match r.bank with
  | some _ =>
    if named.isEmpty then []
    else (s.core r.unit).inflight.filter fun f => f.stopped == some 0x03 && (r.units.contains (wSeam f.word) || f.id == r.sub)
  | none => named

/-- The units a report names, as domain members: the engines of its passes and of the unit descriptors it lists, the unit of an
instruction, the unit itself. -/
def State.reportUnits (s : State) (r : Report) : List (Nat × Nat) :=
  let listed := r.units.flatMap fun v => (seamOf v).engines.map fun e => (8, 16 * r.unit + e)
  match s.reportFlight r with
  | some f => match f.work with
    | .unit op => [(7, 8 * r.unit + unitOfOp op)]
    | _ => if listed.isEmpty then f.engines.map fun e => (8, 16 * r.unit + e) else listed
  | none => if r.kind = 7 then [(7, 8 * r.unit)] else if listed.isEmpty then [(r.kind, r.unit)] else listed

/-- The recovery path of a re-run (Table 13.6): engines or unit, the banks used, the banks of the weight-load source. -/
def State.reportPath (s : State) (r : Report) : List (Nat × Nat) :=
  match s.reportFlights r with
  | [] => s.reportUnits r
  | fs =>
    let ivs := fs.flatMap (s.flightBytes r.unit)
    s.reportUnits r ++ ((List.range 128).filter fun b => ivs.any (·.usesBank b)).map fun b => (20, 128 * r.unit + b)

/-- Whether a report's fault and an open window share a domain (R430). The window's mark of its die is no member. (log 110: DEDUCED) -/
def Window.shares (w : Window) (units path : List (Nat × Nat)) : Bool :=
  units.any (w.path.contains ·) || w.units.any (path.contains ·)

/-! ## The answer (Table 13.5, R428) -/

/-- How a fault is answered. -/
inductive Answer where
  | logged | recovered | contained | retired | rerun | escalate
  deriving DecidableEq, Repr

/-- Whether a stopped pass can be re-run: the validator's mark, no engine of it retired, and every invalid plane of it loaded
by this step from the scratchpad (R94). -/
def State.canRerun (s : State) (c : Nat) (f : Flight) : Bool :=
  f.stopped.isSome && f.rerunnable && !s.repair.retiredCores.contains c && match f.work with
    | .pass p => p.unit.engines.all fun e =>
        let pl := (s.core c).plane e p.plane
        !s.repair.retiredEngines.contains (c, e) &&
        (pl.state != 3 || (match pl.source with | some (_, _, rec) => (refAt rec 0).stream.isNone | none => false))
    | .unit _ => true
    | .load _ => false

/-- The answer to a report, shared domains apart. (log 113: DEDUCED) -/
def State.answer (s : State) (r : Report) : Answer :=
  match r.kind with
  | 0 => if r.code = 0x60 ∨ r.code = 0x61 ∨ r.code = 0x64 ∨ r.code = 0x66 then .escalate
         else if r.code = 0x62 ∨ r.code = 0x63 then .recovered else .logged
  | 1 => if r.sub % 2 = 1 ∨ r.code = 0x52 then .escalate
         else if r.code = 0x51 ∨ r.code = 0x54 then .retired else if r.code = 0x53 then .recovered else .contained
  | 2 => if r.sub = 1 then .escalate else if r.code = 0x20 then .contained else .retired
  | 3 => if r.code = 0x43 then .retired else .contained
  | 4 => .contained
  | 5 => .escalate
  | 6 => if (s.streamEntry r.unit).any fun e => streamClass e == 4 then .contained else .escalate
  | 7 | 8 =>
    if r.kind = 8 ∧ (r.code = 0x04 ∨ r.code = 0x06) then .escalate
    else
      let fs := s.reportFlights r
      if !fs.isEmpty && fs.all (s.canRerun r.unit) then .rerun else .escalate
  | 11 => .escalate
  | _ => .logged

/-- The action code of a report's event (Table 13.16); an escalation has an event of its own (Table 13.7). -/
def Answer.action : Answer → Nat
  | .logged | .escalate => 0
  | .recovered | .rerun => 1
  | .contained => 2
  | .retired => 4

/-! ## Noting a report (R427 steps 1 and 2, R445) -/

/-- Write the report's event, raise the fault notice, and show it in the die's summary register. The manual gives the detail of
a fault's event to the source's chapter, which lays none out: it is free, and so is whether it holds physical numbers, flag bit 0 (R4).
(log 109: DEDUCED) -/
def State.note (s : State) (r : Report) (action flags : Nat) : State :=
  let (detail, s) := s.takeBytes 12
  let (v, s) := s.take
  ((s.logEvent r.kind r.code action (flags + (v.getLsbD 0).toNat) r.unit detail).raiseBoth 4).summarise (s.reportDie r) r.kind r.code

/-! ## Flint-run recoveries (R429 to R432) -/

/-- The order recoveries run in: source kind, then unit, then the number within the unit. -/
def reportBefore (a b : Report) : Bool :=
  decide (a.kind < b.kind) || (a.kind == b.kind && (decide (a.unit < b.unit) || (a.unit == b.unit && decide (a.sub ≤ b.sub))))

/-- Insert a report at its place. -/
def insertReport (r : Report) : List Report → List Report
  | [] => [r]
  | x :: xs => if reportBefore r x then r :: x :: xs else x :: insertReport r xs

/-- The reports in the order of R431. (log 111: DEDUCED) -/
def sortReports : List Report → List Report
  | [] => []
  | r :: rs => insertReport r (sortReports rs)

/-- Reload an invalid plane of an engine from its tile of the source; the error when a word of it is uncorrectable (R428) is the state as
the words read before it left it. -/
def State.reloadPlane (s : State) (c plane e : Nat) : Except State State :=
  let pl := (s.core c).plane e plane
  if pl.state ≠ 3 then .ok s
  else match pl.source with
    | some (f, u, rec) => match u.places.find? fun ij => u.engine ij.1 ij.2 == e with
      | some ij => match s.fillPlane c { unit := u, plane := plane, fmt := f, source := rec, tiles := [] } ij with
        | .ok s => .ok s
        | .error e => .error e.s
      | none => .error s
    | none => .error s

/-- Reload the invalid planes of a pass from their sources, and no other (R94). -/
def State.reloadPlanes (s : State) (c : Nat) (p : Pass) : Except State State :=
  p.unit.engines.foldl (fun x e => match x with | .ok s => s.reloadPlane c p.plane e | .error s => .error s) (.ok s)

/-- A pass from row 0 again; a bias row in the scratchpad is read again. (log 112: DEDUCED) -/
def Pass.restart (p : Pass) : Pass :=
  let streamed := match p.preload with | some (_, rec) => (refAt rec 0).stream.isSome | none => false
  { p with next := 0, sub := 0, fed := 0, counts := [], tile := [], acc := Accum.init, lead := [], taken := [], bias := if streamed then p.bias else none }

/-- Escalate for a report. -/
def State.escalateReport (s : State) (r : Report) (flags : Nat) : State := s.escalate r r.unit (s.reportDie r) flags

/-- Begin re-running one instruction; a plane source that cannot be read escalates. -/
def State.rerunFlight (s : State) (r : Report) (f : Flight) : State :=
  let c := r.unit
  let free := fun (s : State) => s.modFlight c f.id fun x => { x with stopped := none, rerun := true }
  match f.work with
  | .pass p => match s.reloadPlanes c p with
    | .ok s => (free s).putPass c f.id p.restart
    | .error s => s.escalateReport r 2
  | .unit _ => (free s).runUnit c { f with stopped := none, rerun := true }
  | .load _ => s

/-- Start the recovery at the front of the batch. -/
def State.startRecovery (s : State) : State :=
  match s.flint.waiting with
  | [] => s
  | r :: _ => (s.reportFlights r).foldl (fun s f => if s.flint.waiting.isEmpty then s else s.rerunFlight r f) s

/-- A report that Flint recovers joins the set being gathered, or starts the 20 µs wait; its window opens. -/
def State.gather (s : State) (r : Report) : State :=
  let w : Window := { report := r, units := s.reportUnits r, path := s.reportPath r, die := s.reportDie r }
  s.modFlint fun f => { f with windows := f.windows ++ [w], gathering := some ((f.gathering.getD []) ++ [r]) }

/-- Tasks whose instructions are all re-run are done (R135). -/
def Core.settleTasks (k : Core) : Core :=
  { k with scree := k.scree.map fun e =>
      if e.2 = 2 ∧ !(k.fill.any fun f => f.entry = e.1) ∧ !k.taskStopped e.1 then (e.1, 3) else e }

/-- The recovery at the front has ended: its window closes and the next one runs; after the last, those gathered meanwhile. -/
def State.endRecovery (s : State) (r : Report) (rest : List Report) : State :=
  let s := (s.modCore r.unit Core.settleTasks).modFlint fun f =>
    let next := if rest.isEmpty then sortReports (f.gathering.getD []) else rest
    { f with windows := f.windows.filter (fun w => w.report ≠ r), waiting := next, gathering := if rest.isEmpty then none else f.gathering }
  s.startRecovery

/-- Whether the recovery at the front is over: no instruction of it is in flight. -/
def State.recovered (s : State) (r : Report) : Bool :=
  !((s.core r.unit).inflight.any fun f => f.rerun || f.id == r.sub || (r.bank.isSome && f.stopped == some 0x03 && r.units.contains (wSeam f.word)))

/-! ## Retirement (R440) -/

/-- A core fault of Table 13.9 that strikes the core a second time within 24 h retires it. -/
def State.countCoreFault (s : State) (r : Report) : Bool × State :=
  if r.kind = 7 ∧ (r.code = 0x11 ∨ r.code = 0x12 ∨ r.code = 0x15) then
    let again := s.flint.past.any fun x => x.1.unit = r.unit ∧ s.localTime.toNat - x.2.toNat ≤ 86400000000000
    let s := s.modFlint fun f => { f with past := (r, s.localTime) :: f.past }
    (again, if again then s.retireCore r.unit else s)
  else (false, s)

/-- Retire the unit a repair-map entry names (Table 13.3, 0x62). -/
def State.retireNamed (s : State) (e : BitVec 128) : State :=
  let u := bits e.toNat 57 40
  let site := bits e.toNat 39 16
  match bits e.toNat 63 58 with
  | 1 | 3 => s.retireCore u
  | 2 =>
    let k := (u / 16, u % 16)
    if s.repair.retiredEngines.contains k then s
    else (((s.modRepair fun r => { r with retiredEngines := r.retiredEngines ++ [k] }).mapEntry 2 u 0 2 0).capability).summary (coreDie k.1) 62
  | 5 =>
    let (d, e) := edgeEnd u
    s.retireGroup d e site
  | 8 => s.retirePort u
  | 9 => (((s.modMem u fun m => { m with state := 6, failed := some 0x24 }).mapEntry 9 u 0 3 0).capability).summary (devDie u) 62
  | _ => s

/-- A repair-map entry that does not agree with its complement: read again from the copy in flash, else its unit is retired
(Table 13.3). (log 114: DEDUCED) -/
def State.restoreEntry (s : State) (i : Nat) : State :=
  match s.repair.entries[i]? with
  | none => s
  | some e =>
    let copies := s.flash.repairs.filter fun c => c.1.signed && c.1.version == s.repair.version
    match (copies.head?.bind fun c => c.2[i]?) with
    | some x => if entrySound x then s.modRepair fun r => { r with entries := r.entries.set i x } else s.retireNamed e
    | none => s.retireNamed e

/-! ## The watchdog (R436, R437) -/

/-- Answer every mailbox that is submitted and not answered with INTEGRITY_FAIL. -/
def State.failMailboxes (s : State) : State :=
  [0, 1].foldl (fun s p => (List.range 32).foldl (fun s b =>
    if (s.host p).submitted.getLsbD b then s.respond { port := p, box := b } (.refuse 7) false else s) s) s

/-- What Flint forgets when its core is reset: the queue, commands under way, session keys (R437). A partial reset, whose dies are off,
runs to its end without a second reply. (log 180: DESIGN CHOICE) -/
def State.forget (s : State) : State :=
  let s : State := { s with contexts := s.contexts.map fun c => (c.1, { c.2 with sessions := [] }),
                            mgmt := { s.mgmt with role := none, update := if s.mgmt.update = 3 then 3 else 0, staged := false } }
  s.modFlint fun f => { f with queue := [], aborting := none, resetReply := none,
                               background := (f.background.filter fun b => b.kind == .reset).map fun b => { b with discarded := true },
                               windows := [], gathering := none, waiting := [], reports := [] }

/-- The watchdog expires (R437): the units stop, the Flint core restarts, event 0x67, the cut, HALTED with reason 4; during
boot, boot resumes from step 4 (Table 15.8); a second expiry within 60 s leaves the core in reset. (log 115: DEDUCED) -/
def State.watchdog (s : State) : State :=
  if !s.flint.alive || s.flint.heldInReset then s
  else
    let again := s.flint.lastExpiry.any fun t => decide (s.localTime.toNat - t.toNat < 60000000000)
    let s := s.modFlint fun f => { f with lastExpiry := some s.localTime }
    if again then (s.stopUnits).modFlint fun f => { f with heldInReset := true, alive := false, queue := [], lastBeat := s.localTime.toNat / 1000000 }
    else
      let running := s.chip.step.isSome
      let outcome := if s.chip.step.any (·.aborting) then 2 else 3
      let cutting := s.flint.cutWriting
      let scrub := s.flint.background.any fun b => b.kind == .scrub
      let s := (s.failStep outcome).forget
      let s := s.logEvent 0 0x67 (if running then 5 else 0) 0 0 []
      let s := s.modFlint fun f => { f with cutWriting := none }
      let redo := (cutting.map fun k => le k.header 4 1).getD 0
      let s := if s.flint.state = .booting then (if cutting.isSome then s.cutFor redo else s).modFlint fun f => { f with progress := 4 }
        else
          let s := s.halt 4
          let s := if scrub then s.endScrub else s
          if cutting.isSome then s.modFlint fun f => { f with cutWanted := f.cutWanted + 1, cutReasons := f.cutReasons ++ [redo] } else s
      s.failMailboxes

/-! ## Brown-out and thermal trip (R465, R467) -/

/-- Whether a register shows state of a Basalt die that a brown-out loses; what stands in its always-on domain and its Opals stays. -/
def State.lostReg (s : State) (d : Nat) (r : Reg) : Bool :=
  match r with
  | .faultSummary _ | .diePower _ | .powerCount _ | .moduleSupply | .portStatus _ | .portLink _ | .portCount _ | .laser _ _ | .channel _ _ => false
  | .ringStatus q | .ringCount q => s.planeDie q == some d
  | r => regDie r == some d

/-- A die's state is lost: scratchpads, registers, planes, token queues, streams (R465). -/
def State.loseDie (s : State) (d : Nat) : State :=
  let s : State := { s with regs := s.regs.filter fun r => !s.lostReg d r.1 }
  s.modChip fun h => { h with
    scratch := h.scratch.filter fun x => coreDie (x.1 / 2 ^ 25) ≠ d,
    scratchFlips := h.scratchFlips.filter fun x => coreDie (16 * x.1 / 2 ^ 25) ≠ d,
    cores := h.cores.filter fun x => coreDie x.1 ≠ d, streams := h.streams.filter fun x => ownerDie x.1 ≠ d,
    lode := h.lode.filter fun x => ownerDie x.1 ≠ d, arena := Tab.erase h.arena d, updates := Tab.erase h.updates d }

/-- A die loses its power: its ports go off, its memory controllers and lanes have to train again. -/
def State.darkDie (s : State) (d : Nat) : State :=
  let s := (List.range 6).foldl (fun (s : State) i =>
    let p := 6 * d + i
    if (s.oport p).state = 6 then s else s.portOff p 0 0) s
  let s := (List.range 6).foldl (fun (s : State) e => s.modEdge d e fun k => { k with swap := none, wanted := [], resending := [] }) s
  let s : State := { s with mems := s.mems.map fun m => if devDie m.1 = d ∧ m.2.failed.isNone then (m.1, { m.2 with state := 1, due := [], exitDue := [], held := [] }) else m }
  s.modDie d fun k => { k with pstate := 0, lowMode := false, clamped := false, due := false, coreMv := 0, moverMv := 0, arrayMv := 0, holdAdmission := 0, stayQuiet := false, lowBias := false, opalMv := 0 }

/-- A die is powered, initialised and trained again: its memory runs, its ports relink. -/
def State.lightDie (s : State) (d : Nat) : State :=
  let s := s.setVolts d
  let s := (List.range 6).foldl (fun (s : State) i => if (s.mem (6 * d + i)).failed.isSome then s else s.trainDevice (6 * d + i)) s
  (List.range 6).foldl (fun (s : State) i =>
    let p := 6 * d + i
    if (s.oport p).state = 6 ∨ s.repair.retiredPorts.contains p then s
    else (s.modOport p fun o => o.drop 1 (if o.light then 5 else 4)).sendTraining p 0) s

/-- A brown-out of a die (R465): before READY boot answers it (Table 15.8), otherwise HALTED with reason 2. (log 124: DEDUCED) -/
def State.brownOut (s : State) (d : Nat) : State :=
  let s := s.setBit (.diePower d) 61
  if s.flint.state = .booting then s
  else
    let s := (((s.loseDie d).fatal 2).darkDie d)
    s.modFlint fun f => { f with reinit := if f.reinit.contains d then f.reinit else f.reinit ++ [d] }

/-- The floor of R467: 0.62 V, 0.70 V for a mover domain that carries class 1 forwarding; a die in Retain stays below it. (log 125: DEDUCED) -/
def State.floorVolts (s : State) (d : Nat) : State :=
  if (s.die d).coreMv = 0 ∨ (s.die d).pstate ≥ 2 then s
  else s.modDie d fun k => { k with coreMv := 620, moverMv := if s.onPlane d then 700 else 620 }

/-- A thermal trip (R467). During boot it only holds the steps (Table 15.10). (log 125: DEDUCED) -/
def State.trip (s : State) : State :=
  if s.flint.state = .booting then s.modFlint fun f => { f with tripWait := true }
  else
    let s := (List.range 4).foldl (fun (s : State) d => if (s.die d).pstate = 3 then s.wakeDie d else s) s
    let s := (s.fatal 3).modFlint fun f => { f with tripped := true }
    (List.range 4).foldl State.floorVolts s

/-! ## Handling one report -/

/-- The row of Table 6.11 that a memory fault's code follows, where it names one. (log 200: DESIGN CHOICE) -/
def faultRow (code : Nat) : Option Nat := if code = 0x21 then some 1 else if code = 0x23 ∨ code = 0x24 then some 7 else if code = 0x25 then some 8 else none

/-- A memory device fails (R190, R198): with a failure of Table 6.11 it breaks the protocol as well (R199). -/
def State.deviceFails (s : State) (d code sub : Nat) : State :=
  (match faultRow code with | some n => s.memViolation d n | none => s).memFaultAs d code sub

/-- What a port does on a fault that strikes it outside any command: it records the fault, and goes down where Table 9.16's fault takes the
link down, with its replay buffer (R292, R303, R299, R310, R323). -/
def State.portStrike (s : State) (p code : Nat) : State :=
  if (s.oport p).state = 6 ∨ (s.oport p).state = 0 then s.portFault p code
  else if code = 0x43 then (s.retirePort p).portFault p code
  else if code = 0x42 then (s.portOff p 5 4).portFault p code
  else if code = 0x45 then ((s.portOff p 5 4).modOport p fun o => { o with overload := true }).portFault p code
  else if code = 0x47 then (s.portOff p 5 7).portFault p code
  else (s.portDown p).portFault p code

/-- Whether a source kind has a fault of a code: the other codes are reserved (Tables 3.7, 4.17, 5.10, 6.10, 8.13, 9.16, 10.9, 13.4,
14.9). -/
def faultKnown (kind code : Nat) : Bool :=
  match kind with
  | 0 => decide (0x60 ≤ code ∧ code ≤ 0x67)
  | 1 => decide (0x50 ≤ code ∧ code ≤ 0x55)
  | 2 => decide (0x20 ≤ code ∧ code ≤ 0x25)
  | 3 => decide (0x40 ≤ code ∧ code ≤ 0x47)
  | 5 => decide (0x30 ≤ code ∧ code ≤ 0x38)
  | 6 => decide (1 ≤ code ∧ code ≤ 0x0C)
  | 7 => decide (1 ≤ code ∧ code ≤ 3 ∨ 0x10 ≤ code ∧ code ≤ 0x17)
  | 8 => decide (1 ≤ code ∧ code ≤ 8)
  | 11 => decide (code = 0x58 ∨ code = 0x59 ∨ code = 0x5B)
  | _ => false

/-- A lane fault that strikes an edge direction (Table 10.9), with what its code does. Where the report names a group, as its bank, the
group's words meet the fault; both sideband lanes lost send maintenance messages over the service groups from now on (R342).
(log 206: DESIGN CHOICE) -/
def State.laneStrike (s : State) (r : Report) : State :=
  let die := r.sub / 2 % 4
  match (List.range 6).find? fun e => (edgeNumber die e).1 = r.unit ∧ laneSub die e false / 8 = r.sub / 8 with
  | none => s.report r.kind r.unit r.sub r.code
  | some e => match r.code, r.bank with
    | 0x50, some g => s.replayLost die e g .word
    | 0x51, some g => s.retireGroup die e g
    | 0x52, _ => if (s.edge die e).failed then s.laneFault die e 0x52 true else s.failEdge die e
    | 0x54, some g => (s.retirePort (gangPort die e g)).laneFault die e 0x54 false
    | 0x55, _ => (s.modEdge die e fun k => { k with sidebandLost := true }).laneFault die e 0x55 false
    | code, _ => s.laneFault die e code (r.sub % 2 == 1)

/-- A fault of a core's unit or sequencer. One of a bank stops whatever else uses the bank, and what met it is not re-runnable (R99, R428). -/
def State.coreStrike (s : State) (r : Report) : State :=
  match s.reportFlight r with
  | some f => match f.work, r.bank with
    | .unit op, none => (s.stopFlight r.unit f.id r.code).coreFault r.unit (unitOfOp op) r.code 0 f.pc f.id
    | .unit op, some b => if r.code = 0x14 then s.bankError r.unit b (some f.id)
        else (s.stopFlight r.unit f.id r.code).coreFault r.unit (unitOfOp op) r.code 0 f.pc f.id
    | _, _ => s.coreFault r.unit 0 r.code 0 (s.core r.unit).pc r.sub
  | none =>
    let s := if r.code = 0x10 ∨ r.code = 0x12 then s.modCore r.unit fun k => { k with state := 3, hold := 8 } else s
    let s := s.coreFault r.unit (if r.code = 0x16 then 5 else 0) r.code (if r.code = 0x10 ∨ r.code = 0x14 then r.bank.getD 0 else 0)
      (if r.code = 0x16 ∨ r.code = 0x17 then 0 else (s.core r.unit).pc) r.sub
    match r.bank with
    | some b => if r.code = 0x10 ∨ r.code = 0x14 then s.bankError r.unit b none else s
    | none => s

/-- Set what the reporting unit sets itself, for a fault that strikes outside any command (R427): its register, and the stop of
what it struck. The report comes to stand in Flint's list. (log 116: DESIGN CHOICE) -/
def State.strike (s : State) (r : Report) : State :=
  match r.kind with
  | 1 => s.laneStrike r
  | 2 => s.deviceFails r.unit r.code r.sub
  | 3 => s.portStrike r.unit r.code
  | 5 => s.ringFault r.unit r.code []
  | 6 => s.streamStrike r.unit r.code
  | 7 => if r.code < 0x10 then s.updFault r.unit r.code else s.coreStrike r
  | 8 => match r.bank, (s.core r.unit).runningPass r.sub with
    | some b, _ => s.bankError r.unit b (some r.sub)
    | none, some (f, p) =>
      let s := s.stopPass r.unit f p r.code
      if [1, 2, 5, 7].contains r.code then s.retireEngine r.unit (r.engine.getD (p.unit.engine 0 0)) else s
    | none, none => s.report r.kind r.unit r.sub r.code
  | _ => s.report r.kind r.unit r.sub r.code

/-- What an integrity code asks for besides its answer (Table 13.3, R436). -/
def State.integrity (s : State) (r : Report) : State :=
  match r.code with
  | 0x60 => match Tab.find? s.contexts r.unit with
    | some c => s.putContext { c with regions := Tab.erase c.regions r.sub }
    | none => s
  | 0x62 => s.restoreEntry r.sub
  | _ => s

/-- Whether the domain that would report is clamped: its fault report reads as none (R464, Table 14.3). Opal control, Flint, the host ports and
the power controllers are never clamped. -/
def State.clampedReport (s : State) (r : Report) : Bool := [1, 2, 5, 6, 7, 8].contains r.kind && (s.die (s.reportDie r)).clamped

/-- A report 0x63 that names an event, `sub` 1 and the slot as its unit, strikes that event: it no longer verifies under the check code
(R424, R448). (log 194: DESIGN CHOICE) -/
def State.strikeEvent (s : State) (r : Report) : State :=
  if r.sub = 1 then s.modFlint fun f => { f with struck := r.unit :: f.struck.filter (· ≠ r.unit) } else s

/-- Flint handles one report (R427 to R432). -/
def State.handle (s : State) (r : Report) : State :=
  let s := s.modFlint fun f => { f with reports := f.reports.erase r }
  let units := s.reportUnits r
  let path := s.reportPath r
  let a := s.answer r
  let own := s.flint.windows.any fun w => w.shares units path
  let shared := own && a != .contained && a != .logged
  let a := if shared then .escalate else a
  let flags := if shared then 2 else 0
  let s := if r.kind = 0 ∧ r.code = 0x63 then (s.strikeEvent r).rebuildHeader else s
  let (gone, s) := s.countCoreFault r
  let a := if gone ∧ a = .rerun then .escalate else a
  let s := s.note r (if gone then 4 else a.action) flags
  let s := if r.kind = 0 then s.integrity r else s
  if r.kind = 0 ∧ r.code = 0x66 then s.watchdog
  else if r.kind = 11 then
    if r.code = 0x58 ∨ r.code = 0x59 then s.brownOut r.unit else if r.code = 0x5B then s.trip else s
  else match a with
    | .rerun => s.gather r
    | .escalate => s.escalateReport r flags
    | _ => s

/-! ## Meanings -/

/-- FAULT_REPORT (R427): Flint takes a report that a unit has handed it; a report that stands in no list is a fault that strikes
now, whose unit first sets its own fields. A reserved code is no fault's, and a clamped domain's report reads as none. -/
def execFaultReport (r : Report) (s : State) : Host.Outcome State Fault Refusal :=
  .next (if !s.flint.alive || s.flint.heldInReset then s
    else
      let s := if s.flint.reports.contains r ∨ !faultKnown r.kind r.code ∨ s.clampedReport r then s else s.strike r
      if s.flint.reports.contains r then s.handle r else s)

/-- GATHER_WINDOW_END (R431): the 20 µs are over and the recoveries gathered run in their order. -/
def execGatherWindowEnd (s : State) : Host.Outcome State Fault Refusal :=
  .next (if s.flint.waiting.isEmpty then
      match s.flint.gathering with
      | some rs => (s.modFlint fun f => { f with gathering := none, waiting := sortReports rs }).startRecovery
      | none => s
    else s)

/-- RECOVERY_COMPLETE (R429): the recovery that runs has ended. -/
def execRecoveryComplete (s : State) : Host.Outcome State Fault Refusal :=
  .next (match s.flint.waiting with
    | r :: rest => if s.recovered r then s.endRecovery r rest else s
    | [] => s)

/-- FLINT_WATCHDOG_EXPIRY (R437). -/
def execFlintWatchdogExpiry (s : State) : Host.Outcome State Fault Refusal := .next s.watchdog

/-- REPAIR_MAP_WRITE (R443): the write that carries every change so far. -/
def execRepairMapWrite (s : State) : Host.Outcome State Fault Refusal :=
  .next (if s.repair.changed && s.flint.alive && !s.flint.heldInReset && s.flint.state != .scrubbing then s.tryWriteMap else s)

/-- STRATA_LOG_CUT_COMPLETE (R449): the cut stands in its slot; a cut asked for meanwhile follows. -/
def execStrataLogCutComplete (s : State) : Host.Outcome State Fault Refusal :=
  .next (match s.flint.cutWriting with
    | none => s
    | some c =>
      let s : State := { s with flash := { s.flash with cuts := c :: s.flash.cuts.filter fun x => x.slot ≠ c.slot } }
      let more := s.flint.cutWanted ≠ 0
      let reason := s.flint.cutReasons.headD 0
      let s := s.modFlint fun f => { f with cutWriting := none, cutWanted := f.cutWanted - 1, cutReasons := f.cutReasons.drop 1 }
      if more then s.cutFor reason else s)

end Sys2Proof.Machine
end

