-- ==== Sys2Proof/Machine/HostCmds.lean ====
section
/-! DEFINITION. Mailbox commands on the device as a whole (R368 to R371, R377, R378, R444, R450, R470): state and capability
queries, register access, the epoch offset and the fabric address, ownership, acknowledging a halt, the strata log, arming a
stream, the idle timers. -/

namespace Sys2Proof.Machine

/-! ## Queries -/

/-- The reply of QUERY_STATE (R368). -/
def State.queryReply (s : State) (p : Nat) : Rec :=
  toLe 8 (s.readReg (.deviceStatus p)).toNat ++ toLe 8 s.localTime.toNat ++ toLe 8 s.epochOffset.toNat ++
  toLe 4 (s.fabricValid.toNat * 2 ^ 31 + (if s.fabricValid then s.fabric.toNat else 0)) ++ toLe 4 s.leaseLeft

/-- QUERY_STATE. -/
def rowQueryState : CmdRow := { code := 0x0001, legal := [], ownerOnly := false, namesContext := false }

/-- The state of an edge of Table 13.13: the worse of its directions (Table 10.6). -/
def State.edgeState (s : State) (n : Nat) : Nat :=
  let ends := if n ≥ 4 then [((n - 4) / 2, 2 + (n - 4) % 2), ((n - 4) / 2, 4 + (n - 4) % 2)]
    else ((List.range 4).flatMap fun d => [(d, 0), (d, 1)]).filter fun x => (edgeNumber x.1 x.2).1 == n
  if s.repair.failedEdges.contains n then 2 else (ends.map fun x => (s.edge x.1 x.2).status).foldl max 0

/-- Spare core sites of a die not taken and not failed. -/
def State.freeCoreSites (s : State) (d : Nat) : Nat := 2 - ((s.repair.usedCoreSites.filter fun x => x.1 = d).eraseDups.length)

/-- Cores whose spare engine site is unused. -/
def State.freeEngineSites (s : State) : Nat :=
  ((List.range 96).filter fun c => !s.repair.spareEngineUsed.contains c && !s.repair.spareEngineFailed.contains c).length

/-- The retired engines by core, then engine. -/
def State.retiredList (s : State) : List (Nat × Nat) :=
  (List.range 96).flatMap fun c => ((List.range 12).filter fun e => s.repair.retiredEngines.contains (c, e)).map fun e => (c, e)

/-- The reply of QUERY_CAPABILITY (Table 13.12a). -/
def State.capabilityReply (s : State) : Rec :=
  let es := s.retiredList
  let cold := fun o => ((List.range 16).filter fun n => (s.laser o n).spare == 0).length
  let lines := (s.repair.linesUsed.map (·.2)).foldl max 0
  [BitVec.ofNat 8 s.reduced.toNat, 0, 0, 0] ++ toLe 12 (bitsOf s.repair.retiredCores) ++
  (List.range 4).map (fun d => BitVec.ofNat 8 (s.freeCoreSites d)) ++ toLe 2 s.freeEngineSites ++ toLe 2 es.length ++
  toLe 4 (bitsOf s.repair.retiredPorts) ++ toLe 4 (bitsOf ((List.range 24).filter fun d => (s.mem d).failed.isSome)) ++
  (List.range 12).map (fun n => BitVec.ofNat 8 (s.edgeState n)) ++ (List.range 8).map (fun o => BitVec.ofNat 8 (cold o)) ++
  toLe 2 (16 - lines) ++ zeros 10 ++ es.flatMap fun e => toLe 2 (e.1 * 16 + e.2)

/-- QUERY_CAPABILITY. -/
def rowQueryCapability : CmdRow := { code := 0x0002, legal := allBut, ownerOnly := false, namesContext := false }

/-! ## Registers (R369) -/

/-- Whether a register name is invalid in itself. -/
def regNameBad (n : Nat) : Bool :=
  decide (bits n 61 47 ≠ 0) || decide (bits n 39 20 ≠ 0) || decide (bits n 19 0 % 8 ≠ 0) || decide (bits n 63 62 ≥ 2) ||
  decide (bits n 46 40 ≥ if bits n 63 62 = 0 then 4 else 96)

/-- The form of a register command: a count up to `most`, reserved bytes, entries of `size` bytes that begin with a name. -/
def regForm (most size : Nat) (args : Rec) (n : Nat) : Option Ans :=
  let k := le args 0 2
  if n < 8 ∨ k = 0 ∨ k > most ∨ n ≠ 8 + size * k ∨ !zeroAt args 2 6 then some (.refuse 3)
  else match (List.range k).find? fun i => regNameBad (le args (8 + size * i) 8) with
    | some i => some (.failing 3 0 i)
    | none => none

/-- The die a register name belongs to. -/
def nameDie (n : Nat) : Nat := if bits n 63 62 = 0 then bits n 46 40 else coreDie (bits n 46 40)

/-- One register read by name, in its die, which wakes (R364); an offset the block does not list reads as 0. -/
def State.readNamed (s : State) (n : Nat) : Word64 × State :=
  let s := s.wakeDie (nameDie n)
  match s.regNamed n with
  | some (some r) => s.readClear r
  | _ => (0, s)

/-- Read registers in name order. (log 24: DEDUCED) -/
def State.readNames (s : State) : List Nat → Rec × State
  | [] => ([], s)
  | n :: ns =>
    let (v, s) := s.readNamed n
    let (rest, s) := s.readNames ns
    (toLe 8 v.toNat ++ rest, s)

/-- A write to a register's fields (R369): clearing a stream's fault bit ends its stopped state (R173). -/
def State.writeNamed (s : State) (n : Nat) (v : Word64) : State :=
  let s := s.wakeDie (nameDie n)
  match s.regNamed n with
  | some (some r) =>
    let t := s.writeReg r v
    match r with
    | .streamStatus id => if (s.reg r).getLsbD 63 && v.getLsbD 63 then t.clearFault id else t
    | _ => t
  | _ => s

/-- READ_REGISTER. -/
def rowReadRegister : CmdRow :=
  { code := 0x0003, legal := [.ready, .loaded, .running, .halted, .updating], ownerOnly := false, namesContext := false }
/-- WRITE_REGISTER. -/
def rowWriteRegister : CmdRow :=
  { code := 0x0004, legal := [.ready, .loaded, .running, .halted], ownerOnly := true, namesContext := false }

/-! ## Time, fabric address, ownership -/

/-- SET_EPOCH_OFFSET. -/
def rowSetEpochOffset : CmdRow :=
  { code := 0x0005, legal := [.ready, .loaded, .running, .halted], ownerOnly := true, namesContext := false }
/-- SET_FABRIC_ADDRESS. -/
def rowSetFabricAddress : CmdRow := { code := 0x0006, legal := [.ready], ownerOnly := true, namesContext := false }
/-- CLAIM_OWNERSHIP. -/
def rowClaimOwnership : CmdRow := { code := 0x0007, legal := allBut, ownerOnly := false, namesContext := false }
/-- RELEASE_OWNERSHIP. -/
def rowReleaseOwnership : CmdRow := { code := 0x0008, legal := allBut, ownerOnly := true, namesContext := false }

/-- The form of SET_FABRIC_ADDRESS: 4 bytes, bits [30:17] 0. -/
def fabricForm (args : Rec) (n : Nat) : Option Ans :=
  if n ≠ 4 ∨ bits (le args 0 4) 30 17 ≠ 0 then some (.refuse 3) else none

/-- Set or clear the fabric address (R370). -/
def State.setFabric (s : State) (w : Nat) : State :=
  { s with fabricValid := bit w 31, fabric := if bit w 31 then BitVec.ofNat 17 w else 0 }

/-- Every port that is up relinks from step 6 of Table 9.8 (R370). -/
def State.relinkAll (s : State) : State := (List.range 24).foldl State.relink s

/-- A change of owner raises ownership changed on both ports (Table 11.5). -/
def State.setOwner (s : State) (o : Option Nat) : State :=
  if s.flint.owner = o then s
  else (s.modFlint fun f => { f with owner := o, leaseExpired := false, leaseStart := s.localTime }).raiseBoth 7

/-- Whether a claim is granted (R377). -/
def Flint.claimable (f : Flint) (p : Nat) : Bool := f.owner.isNone || f.owner == some p || f.leaseExpired

/-! ## Acknowledging a halt (R365, R366, R398) -/

/-- ACKNOWLEDGE_HALT. -/
def rowAcknowledgeHalt : CmdRow := { code := 0x0009, legal := [.halted], ownerOnly := true, namesContext := false }

/-- A context that loses its on-chip or saved state: it keeps its regions, loses plan and step, and its save area is initial
(R398). -/
def Context.lose (c : Context) : Context :=
  { c with initial := true, plan := none, saved := none, scale := [], digests := [], slots := [], completed := 0, epoch := false }

/-- The resident context loses its state and is left saved; none is resident. Where the identifier does not agree with its complement
(Table 13.3), the context that is neither saved nor initial is the one on chip: a context with nothing saved loses nothing more. -/
def State.loseResident (s : State) : State :=
  let slot := s.resident.toNat / 4096
  let s : State :=
    if s.residentComp ≠ ~~~s.resident then
      { s with contexts := s.contexts.map fun c => (c.1, if c.2.saved.isNone then c.2.lose else c.2) }
    else match Tab.find? s.contexts slot with
      | some c => if c.id = s.resident then { s with contexts := Tab.set s.contexts slot c.lose } else s
      | none => s
  { s.setResident 0 with chip := Chip.init }

/-- Whether some temperature sensor reads 85 °C or more. -/
def State.hot (s : State) : Bool := s.dies.any fun d => d.2.basalt.any (fun t => decide (t ≥ 85)) || d.2.opal.any fun t => decide (t ≥ 85)

/-- The conditions under which ACKNOWLEDGE_HALT is answered BUSY (R366 check 5). -/
def State.haltHeld (s : State) : Bool := s.flint.haltedReason == 5 || !s.flint.reinit.isEmpty || (s.flint.tripped && s.hot)

/-- The halt is acknowledged: the context is released, the trip output too (R498), the device is READY; an update that a fatal fault
ended is over. -/
def State.acknowledge (s : State) : State :=
  let s : State := if s.mgmt.update = 1 ∨ s.mgmt.update = 2 then { s with mgmt := { s.mgmt with update := 0, staged := false } } else s
  ((s.loseResident).modFlint fun f => { f with haltedReason := 0, tripped := false }).enter .ready

/-! ## The strata log (R450, R507) -/

/-- READ_STRATA_LOG. -/
def rowReadStrataLog : CmdRow := { code := 0x000A, legal := allBut, ownerOnly := false, namesContext := false }

/-- The form of its 8 argument bytes. -/
def logForm (args : Rec) (n : Nat) : Option Ans :=
  if n ≠ 8 ∨ le args 0 1 > 4 ∨ !zeroAt args 1 1 ∨ !zeroAt args 6 2 ∨ le args 4 2 = 0 ∨ le args 4 2 > 125 then some (.refuse 3) else none

/-- The reply to a log read: a header and events from an index, or BAD_ARGUMENT for an index at or beyond the valid count; an
empty cut slot gives 32 zero bytes. (log 25: DEDUCED) -/
def State.logReply (s : State) (args : Rec) : Ans :=
  let first := le args 2 2
  let n := le args 4 2
  let events := fun (es : List Event) => ((es.drop first).take n).flatMap Event.bytes
  if le args 0 1 = 0 then
    let es := s.flint.eventsOldest
    if first ≥ es.length then .refuse 3 else .ok (toLe 16 s.flint.logHeader.toNat ++ zeros 16 ++ events es)
  else match s.flash.cuts[le args 0 1 - 1]? with
    | none => .ok (zeros 32)
    | some c =>
      let k := c.events.length
      if first ≥ k then .refuse 3
      else .ok (toLe 2 (k % 4096) ++ toLe 2 k ++ toLe 4 ((c.events.head?.map (·.number)).getD 0) ++ slice c.header 20 4 ++
                slice c.header 16 4 ++ slice c.header 0 16 ++ events c.events)

/-! ## Streams and idle timers -/

/-- The form of ARM_STREAM: one arm word whose operation and reserved fields are valid in themselves (R366, R371). (log 26: DEDUCED) -/
def armForm (args : Rec) (n : Nat) : Option Ans := if n ≠ 8 ∨ armBad (BitVec.ofNat 64 (le args 0 8)) then some (.refuse 3) else none

/-- ARM_STREAM. -/
def rowArmStream : CmdRow := { code := 0x0022, legal := [.loaded, .running], ownerOnly := true, namesContext := true }

/-- Whether a header names the resident context; another answer is STALE with failing check 1 (R389). -/
def State.names (s : State) (req : Rec) : Bool := (s.residentCtx.map fun c => c.id.toNat) == some (le req 8 2)

/-- SET_IDLE_TIMERS. -/
def rowSetIdleTimers : CmdRow :=
  { code := 0x0028, legal := [.ready, .loaded, .running, .halted], ownerOnly := true, namesContext := false }

/-- The value that disables a timer. -/
def timerOff : Nat := 0xFFFFFFFF

/-- The form of SET_IDLE_TIMERS (R470). -/
def timerForm (args : Rec) (n : Nat) : Option Ans :=
  let q := le args 0 4
  let r := le args 4 4
  let bad := fun (v lo hi : Nat) => decide (v ≠ timerOff) && (decide (v < lo) || decide (hi < v))
  if n ≠ 16 ∨ bad q 10 1000000 ∨ bad r 100 10000000 ∨ (r ≠ timerOff ∧ q ≠ timerOff ∧ r < q) ∨ le args 8 1 = 0 ∨ le args 8 1 > 15 ∨
    !zeroAt args 9 7 then some (.refuse 3) else none

/-- The new timers of the named dies; a Quiet timer switched off switches Retain off as well. -/
def State.setTimers (s : State) (args : Rec) : State :=
  let q := le args 0 4
  let r := if q = timerOff then timerOff else le args 4 4
  (List.range 4).foldl (fun s d => if bit (le args 8 1) d then s.modDie d fun k => { k with quietUs := q, retainUs := r } else s) s

/-! ## Meanings -/

/-- QUERY_STATE (R368). -/
def execQueryState (m : Mbx) (s : State) : Host.Outcome State Fault Refusal :=
  .next (serve s m rowQueryState (formOf 0 []) fun s _ => (s, some (.ok (s.queryReply m.port))))

/-- QUERY_CAPABILITY (R444). -/
def execQueryCapability (m : Mbx) (s : State) : Host.Outcome State Fault Refusal :=
  .next (serve s m rowQueryCapability (formOf 0 []) fun s _ => (s, some (.ok s.capabilityReply)))

/-- READ_REGISTER (R369). -/
def execReadRegister (m : Mbx) (s : State) : Host.Outcome State Fault Refusal :=
  .next (serve s m rowReadRegister (regForm 500 8) fun s req =>
    let (d, s) := s.readNames ((List.range (le req 64 2)).map fun i => le req (72 + 8 * i) 8)
    (s, some (.ok d)))

/-- WRITE_REGISTER (R369). -/
def execWriteRegister (m : Mbx) (s : State) : Host.Outcome State Fault Refusal :=
  .next (serve s m rowWriteRegister (regForm 250 16) fun s req =>
    ((List.range (le req 64 2)).foldl (fun s i => s.writeNamed (le req (72 + 16 * i) 8) (BitVec.ofNat 64 (le req (80 + 16 * i) 8))) s,
     some (.ok [])))

/-- SET_EPOCH_OFFSET (R370): times logged after the reply use it. (log 23: DESIGN CHOICE) -/
def execSetEpochOffset (m : Mbx) (s : State) : Host.Outcome State Fault Refusal :=
  .next (serve s m rowSetEpochOffset (formOf 8 []) fun s req =>
    let s := s.respond m (.ok []) false
    ({ s with epochOffset := BitVec.ofNat 64 (le req 64 8) }, none))

/-- SET_FABRIC_ADDRESS (R370): after the reply, every port that is up relinks. -/
def execSetFabricAddress (m : Mbx) (s : State) : Host.Outcome State Fault Refusal :=
  .next (serve s m rowSetFabricAddress fabricForm fun s req => (((s.setFabric (le req 64 4)).respond m (.ok []) false).relinkAll, none))

/-- CLAIM_OWNERSHIP (R377). -/
def execClaimOwnership (m : Mbx) (s : State) : Host.Outcome State Fault Refusal :=
  .next (serve s m rowClaimOwnership (formOf 0 []) fun s _ =>
    if s.flint.claimable m.port then (s.setOwner (some m.port), some (.ok []))
    else (s, some { code := 4, check := 0, index := 0, data := [BitVec.ofNat 8 (s.flint.owner.getD 0)] }))

/-- RELEASE_OWNERSHIP (R377). -/
def execReleaseOwnership (m : Mbx) (s : State) : Host.Outcome State Fault Refusal :=
  .next (serve s m rowReleaseOwnership (formOf 0 []) fun s _ => (s.setOwner none, some (.ok [])))

/-- ACKNOWLEDGE_HALT (R365, R398). -/
def execAcknowledgeHalt (m : Mbx) (s : State) : Host.Outcome State Fault Refusal :=
  .next (serve s m rowAcknowledgeHalt (formOf 0 []) fun s _ => if s.haltHeld then (s, some (.refuse 1)) else (s.acknowledge, some (.ok [])))

/-- READ_STRATA_LOG (R450). -/
def execReadStrataLog (m : Mbx) (s : State) : Host.Outcome State Fault Refusal :=
  .next (serve s m rowReadStrataLog logForm fun s req => (s.soundLog, some (s.soundLog.logReply (slice req 64 8))))

/-- ARM_STREAM (R371): rows 2 to 5 of Table 5.8 give the reply code. -/
def execArmStream (m : Mbx) (s : State) : Host.Outcome State Fault Refusal :=
  .next (serve s m rowArmStream armForm fun s req =>
    if !s.residentSound then (s.useResident, some (.refuse 7))
    else if !s.names req then (s, some (.failing 9 1 0))
    else match s.armFrom m.port (BitVec.ofNat 64 (le req 64 8)) with
      | .ok s => (s, some (.ok []))
      | .error c => (s, some (.refuse c)))

/-- SET_IDLE_TIMERS (R470). -/
def execSetIdleTimers (m : Mbx) (s : State) : Host.Outcome State Fault Refusal :=
  .next (serve s m rowSetIdleTimers timerForm fun s req => (s.setTimers (slice req 64 16), some (.ok [])))

end Sys2Proof.Machine
end

