-- ==== Sys2Proof/Machine/Contexts.lean ====
section
/-! DEFINITION. Contexts, regions, context switches, sessions, scrubs and attestation (R385 to R412). -/

namespace Sys2Proof.Machine

/-! ## Creating and destroying (R385 to R388) -/

/-- CREATE_CONTEXT. -/
def rowCreateContext : CmdRow := { code := 0x0010, legal := [.ready, .loaded], ownerOnly := true, namesContext := false }
/-- DESTROY_CONTEXT. -/
def rowDestroyContext : CmdRow := { code := 0x0011, legal := [.ready, .loaded], ownerOnly := true, namesContext := true }

/-- The form of CREATE_CONTEXT (R387). -/
def contextForm (args : Rec) (n : Nat) : Option Ans :=
  if n ≠ 16 ∨ le args 0 8 % 4096 ≠ 0 ∨ le args 8 1 > 1 ∨ !zeroAt args 9 7 then some (.refuse 3) else none

/-- The lowest slot that is free and whose generation counter is below 4,095 (R385). -/
def State.freeSlot (s : State) : Option Nat :=
  (List.range 16).find? fun i => (Tab.find? s.contexts i).isNone && decide (Tab.get 0 s.generations i < 4095)

/-- A new context: saved, without a plan, its save area initial. -/
def Context.new (id : BitVec 16) (confidential : Bool) (base : Nat) : Context :=
  { id := id, confidential := confidential, saveBase := base, initial := true, plan := none, regions := [], scale := [], digests := [],
    slots := [], completed := 0, epoch := false, sessions := [], saved := none }

/-- Where a range may not lie (R387, R391): in no one window, in an unmapped one, over pages taken. -/
def State.rangeRefused (s : State) (a n : Nat) : Option Ans :=
  match windowOfRange a n with
  | none => some (.failing 3 1 0)
  | some w =>
    if !s.windowMapped w then some (.failing 5 2 0)
    else if s.pagesTaken a n then some (.failing 6 3 0) else none

/-- CREATE_CONTEXT's checks 6 and effect. -/
def State.createContext (s : State) (args : Rec) : State × Ans :=
  let base := le args 0 8
  match s.rangeRefused base saveBytes with
  | some a => (s, a)
  | none => match s.freeSlot with
    | none => (s, .failing 6 4 0)
    | some i =>
      let g := Tab.get 0 s.generations i + 1
      let id := BitVec.ofNat 16 (idOf i g)
      let s : State := { s with generations := Tab.set s.generations i g, contexts := Tab.set s.contexts i (Context.new id (bit (le args 8 1) 0) base) }
      (s.modFlint fun f => { f with memoryClean := false }, .ok (toLe 2 id.toNat))

/-- The state that the resident context implies (Table 11.12). -/
def State.implied (s : State) : DevState :=
  match s.residentCtx with
  | none => .ready
  | some c => if s.chip.step.isSome then .running else if c.plan.isSome then .loaded else .ready

/-- What stays on chip once no context is resident: no step, no ring state (R276, R277). Nothing else is cleared: the next context to become
resident overwrites all of it (R397, R404). (log 28: DEDUCED) -/
def Chip.leave (h : Chip) : Chip := { h with step := none, keptScale := none, ring := Chip.init.ring }

/-- Destroy a context (R388): everything it held goes; pages keep their bytes. -/
def State.destroyContext (s : State) (slot : Nat) : State :=
  let was := s.resident.toNat / 4096 == slot && s.resident != 0
  let s : State := { s with contexts := Tab.erase s.contexts slot }
  if was then { s.setResident 0 with chip := s.chip.leave } else s

/-! ## Regions (R390 to R392) -/

/-- CREATE_REGION. -/
def rowCreateRegion : CmdRow := { code := 0x0013, legal := [.ready, .loaded], ownerOnly := true, namesContext := true }
/-- DESTROY_REGION. -/
def rowDestroyRegion : CmdRow := { code := 0x0014, legal := [.ready, .loaded], ownerOnly := true, namesContext := true }

/-- The form of CREATE_REGION. -/
def regionForm (args : Rec) (n : Nat) : Option Ans :=
  let size := le args 8 8
  if n ≠ 24 ∨ le args 0 8 % 4096 ≠ 0 ∨ size % 4096 ≠ 0 ∨ size < 4096 ∨ size > windowSize 4 ∨ le args 16 1 > 3 ∨ !zeroAt args 17 7 then
    some (.refuse 3)
  else none

/-- Wake the dies whose memory devices a window reaches. -/
def State.wakeWindow (s : State) (a : Nat) : State :=
  match windowOf a with
  | some w => if w < 4 then s.wakeDie w else s.wakeAll
  | none => s

/-- CREATE_REGION's checks 6 and effect: the entry, its zero cursor at its base. -/
def State.createRegion (s : State) (c : Context) (args : Rec) : State × Ans :=
  let base := le args 0 8
  let size := le args 8 8
  match s.rangeRefused base size with
  | some a => (s, a)
  | none => match (List.range 64).find? fun i => (Tab.find? c.regions i).isNone with
    | none => (s, .failing 6 4 0)
    | some i =>
      let r : Region := { base := base, size := size, readable := bit (le args 16 1) 0, writable := bit (le args 16 1) 1, cursor := base, comp := 0 }
      ((s.wakeWindow base).putContext { c with regions := Tab.set c.regions i r.sealed }, .ok [BitVec.ofNat 8 i])

/-- The controllers have zeroed a region's pages: the cursor stands at its end (R391). (log 85: DEDUCED) -/
def zeroingDone (slot index : Nat) (s : State) : State :=
  match Tab.find? s.contexts slot with
  | none => s
  | some c => match Tab.find? c.regions index with
    | none => s
    | some r =>
      if !r.zeroing then s
      else (s.devZero r.base r.size).putContext { c with regions := Tab.set c.regions index ({ r with cursor := r.base + r.size }).sealed }

/-! ## Switching (R396 to R398) -/

/-- SWITCH_CONTEXT. -/
def rowSwitchContext : CmdRow := { code := 0x0012, legal := [.ready, .loaded, .running], ownerOnly := true, namesContext := false }

/-- A background command just taken. -/
def Background.begin (kind : BgKind) (m : Mbx) : Background :=
  { kind := kind, mbx := m, discarded := false, target := 0, addr := 0, len := 0, host := false, image := [], failed := 0,
    nonce := [], offset := 0, snapshot := [], reformed := false, dies := 0, savedCtx := 0 }

/-- Start a background command. -/
def State.begin (s : State) (b : Background) : State := s.modFlint fun f => { f with background := some b }

/-- End the background command with its reply. -/
def State.endBackground (s : State) (b : Background) (a : Ans) : State :=
  (s.modFlint fun f => { f with background := none }).respond b.mbx a b.discarded

/-- Whether the window of an address is mapped. -/
def State.reachable (s : State) (a : Nat) : Bool := match windowOf a with | some w => s.windowMapped w | none => false

/-- SWITCH_CONTEXT's checks 6 and start. (log 29: DEDUCED) -/
def State.switchTo (s : State) (m : Mbx) (id : Nat) : State × Option Ans :=
  let go := fun (s : State) =>
    (((s.wakeAll).begin { Background.begin .switch m with target := BitVec.ofNat 16 id }).stopCheckAll, none)
  if !s.residentSound then (s.useResident, some (.refuse 7))
  else if id = s.resident.toNat then (s, some (.ok []))
  else if id = 0 then go s
  else match s.context? id with
    | none => (s, some (.failing 9 1 0))
    | some c => if s.reachable c.saveBase then go s else (s, some (.refuse 5))

/-- Whether a started transfer stands where nothing of a held context takes it further: rows that no pass takes from the flow side or
gives to it, a lode tile without a free slot before it, a member's tile that has not come or that no weight load takes, or a host port
that holds it (R350). -/
def State.standsHeld (s : State) (id : Nat) (e : Rec) (x : Xfer) : Bool :=
  let t := s.stream id
  if streamClass e = 4 ∧ s.hostHeld id e then true
  else if x.src = 3 then decide (t.flow.length < x.rows)
  else if x.src = 5 then x.dst != 6 || !(s.lodeTiles id).any (!·.taken)
  else if x.dst = 3 then t.offered && !t.flow.isEmpty
  else if x.dst = 5 then !t.flow.isEmpty && (match s.chainOf id with
    | some c => c.2.head?.all fun m => decide (8 ≤ (s.lodeTiles m).length)
    | none => true)
  else false

/-- Whether a stream has a transfer in flight that a switch waits for (R174): started, not in place or its signal not sent, and not one
that stands held. -/
def State.inFlight (s : State) (id : Nat) : Bool :=
  match (s.stream id).running, s.streamEntry id with
  | some r, some e =>
    streamClass e != 5 && decide (r.started > r.done) && !r.stale &&
      ((s.stream id).signalled == 1 || !s.standsHeld id e (xferOf e r.desc))
  | _, _ => false

/-- Whether the resident context stands at handshake boundaries (Table 12.4 step 1): every transfer in place (R174), every in-flight set
empty and no fill task part-way through issue (R69, R109), no stream segment on the lanes (R345). (log 30: DEDUCED) -/
def State.settled (s : State) : Bool :=
  (s.chip.streams.all fun t => !s.inFlight t.1) && (s.chip.cores.all fun c => c.2.inflight.isEmpty && c.2.fill.isNone) &&
  s.edges.all fun k => k.2.bound.isEmpty && k.2.waiting.isEmpty

/-- The bytes of the scratchpad image, and where the plan part begins (Table 12.3). -/
def scratchImage : Nat := 0xC0000000
/-- As `scratchImage`. -/
def planPart : Nat := 0xC8000000

/-- The offset of a device byte among the `n` addresses from `base`, by either of the two addresses that reach it. -/
def offsetIn (base n k : Nat) : Option Nat :=
  let (x, y) := keyAddrs k
  if base ≤ x ∧ x < base + n then some (x - base) else if base ≤ y ∧ y < base + n then some (y - base) else none

/-- Write a part of a save area whole: `r`, then zeros. -/
def State.writePart (s : State) (a n : Nat) (r : Rec) : State := (s.devZero a n).devPut a r

/-- Write every scratchpad word into the image of a save area (R397 step 2). -/
def State.writeImage (s : State) (base : Nat) : State :=
  s.chip.scratch.foldl (fun (t : State) e => if e.1 < scratchImage then t.devPut (base + e.1) [s.chip.scratch.read e.1] else t)
    (s.devZero base scratchImage)

/-- The offset of a stored byte in the image of a save area, if it is one of the image's. -/
def State.imageOffset (s : State) (base k : Nat) : Option Nat :=
  ([(keyAddrs k).1, (keyAddrs k).2].find? fun a => decide (base ≤ a ∧ a < base + scratchImage ∧ s.keyOf a = some k)).map (· - base)

/-- The scratchpad as the image of a save area holds it (step 4). -/
def State.readImage (s : State) (base : Nat) : Mem :=
  s.devmem.foldl (fun (m : Mem) e => match s.imageOffset base e.1 with | some o => m.write o (s.devmem.read e.1) | none => m) []

/-- Read every word of a save area that holds an error: single errors are corrected; an uncorrectable one, or an unmapped area, is an
error (R184, R398). -/
def State.readSaved (s : State) (base : Nat) : List (Nat × BitVec 144) → Except MemErr State
  | [] => .ok s
  | f :: fs => match offsetIn base saveBytes (16 * f.1) with
    | none => State.readSaved s base fs
    | some o => match s.devRead (base + o) 16 with
      | .ok (_, s) => State.readSaved s base fs
      | .error e => .error e

/-- The stream status words, which are saved with their context (R174). -/
def streamWord (r : Reg × Word64) : Bool := match r.1 with | .streamStatus _ => true | _ => false

/-- What a save writes of the chip beside the scratchpad image: fetched descriptors are discarded, the running one too (R174); a transfer held by its host port starts
again. (log 12: DESIGN CHOICE) -/
def State.saveImage (s : State) : Chip :=
  { s.chip with scratch := [], scratchFlips := [], streams := s.chip.streams.map fun t =>
      let x := { t.2 with fetched := [], descFlips := [], running := t.2.running.map fun r => { r with stale := true } }
      (t.1, if (s.streamEntry t.1).any fun e => streamClass e == 4 then x.hold else x) }

/-- The program and function table stores are loaded again from the plan part (R109). -/
def Chip.reloadStores (h : Chip) : Chip :=
  { h with cores := h.cores.map fun c => (c.1, { c.2 with progFlips := [], tableFlips := [] }) }

/-- Read every scratchpad word that holds an error, as step 2 does: single errors are corrected and counted (R99). The Bool says whether
one could not be. -/
def State.readScratch (s : State) : Bool × State :=
  s.chip.scratchFlips.foldl (fun (x : Bool × State) f => match x.2.scrRead (16 * f.1 / 2 ^ 25) (16 * f.1 % 2 ^ 25) 16 with
    | .ok (_, s) => (x.1, s)
    | .error e => (true, e.s)) (false, s)

/-- Steps 2 and 3 of Table 12.4: the outgoing context is saved, or loses its state when a word of it is uncorrectable or its save
area unreachable. The Bool says whether it lost it. An identifier that does not agree with its complement is reported, and the context on
chip, which nothing names, loses its state (Table 13.3). What is on chip stays there. -/
def State.saveOut (s : State) (err : Bool) : Bool × State :=
  match s.residentCtx with
  | none => if s.residentSound then (false, s) else (true, (s.useResident).loseResident)
  | some c =>
    let (dead, s) := s.readScratch
    let lost := err || dead || !s.reachable c.saveBase
    let c' := if lost then c.lose else { c with saved := some s.saveImage, initial := false, status := s.regs.filter streamWord }
    let s := if lost then s else s.writeImage c.saveBase
    (lost, { (s.putContext c').setResident 0 with chip := s.chip.leave })

/-- Steps 4 and 5: the incoming context's state comes back, zeros and initial planes for an initial save area. -/
def State.restoreIn (s : State) (id : Nat) : State :=
  match s.context? id with
  | none => s
  | some c =>
    let chip := if c.initial then Chip.init else { (c.saved.getD Chip.init).reloadStores with scratch := s.readImage c.saveBase }
    { (s.putContext { c with saved := none, status := [] }).setResident c.id with
      chip := chip, regs := c.status ++ s.regs.filter fun r => !streamWord r }

/-- Step 4's read of the incoming context's save area: the Bool says that a word of it cannot be corrected, or that it is unmapped. -/
def State.readIncoming (s : State) (id : Nat) : Bool × State :=
  match s.context? id with
  | none => (false, s)
  | some c =>
    if c.initial then (false, s)
    else match s.readSaved c.saveBase s.devFlips with
      | .ok s => (!s.reachable c.saveBase, s)
      | .error (.dead d t) => (true, t.memFault d 0x20)
      | .error .unmapped => (true, s)

/-- The resident context takes up its work: discarded descriptors fetched again, gangs formed for its plan, parked chunks and held
doorbell arms taken. -/
def State.resume (s : State) : State :=
  let s : State := s.enter s.implied
  let s := (s.chip.streams.map (·.1)).foldl (fun s id => match s.streamEntry id with | some e => s.fetchAgain id e | none => s) s
  let s : State := match s.plan? with
    | some p => if s.flint.state = DevState.running then s.formGangs p else s
    | none => s
  let arms := s.flint.heldArms
  let s := (s.modFlint fun f => { f with heldArms := [] }).unparkAll
  (arms.foldl (fun s a => s.doorbellArm a.1 a.2) s).stopCheckAll

/-- Table 12.4 from step 2 on. -/
def switchDone (saveErr restoreErr : Bool) (s : State) : State :=
  match s.flint.background with
  | none => s
  | some b =>
    if b.kind ≠ .switch || !s.settled then s
    else
      let had := s.residentCtx.isSome
      let (lost, s) := s.saveOut (had && saveErr)
      let (dead, s) := s.readIncoming b.target.toNat
      let bad := (restoreErr || dead) && b.target != 0
      let s := if bad then (match s.context? b.target.toNat with | some c => s.putContext c.lose | none => s)
        else s.restoreIn b.target.toNat
      let s := (s.modFlint fun f => { f with background := none }).resume
      s.respond b.mbx (if lost || bad then .failing 7 (lost.toNat + 2 * bad.toNat) 0 else .ok []) b.discarded

/-! ## Scrubbing (R404, R195) -/

/-- SCRUB. -/
def rowScrub : CmdRow := { code := 0x0016, legal := [.ready], ownerOnly := true, namesContext := false }

/-- SCRUB's first two stages: every context is destroyed, the ring buffers are discarded (R277), the controllers write zeros. A port
whose replay buffer is not empty waits for its acknowledgement (R318), and the pool groups carry no segments (R345). -/
def State.startScrub (s : State) (m : Mbx) : State :=
  let s := (s.contexts.map (·.1)).foldl State.destroyContext s.wakeAll
  let s : State := { s.setResident 0 with
    chip := s.chip.leave,
    oports := s.oports.map (fun o => (o.1, { o.2 with parked := [], txq := [], rxq := [], draining := !o.2.replay.isEmpty, drainUntil := s.localTime + BitVec.ofNat 64 (100000 * s.cfg.linkDown) })),
    mems := s.mems.map (fun d => (d.1, if d.2.failed.isNone then { d.2 with state := 5 } else d.2)),
    edges := s.edges.map fun e => (e.1, { e.2 with bound := [], waiting := [], again := [] }) }
  (((s.begin (Background.begin .scrub m)).enter .scrubbing)).stopCheckAll

/-- The devices not failed. -/
def State.present (s : State) : List Nat := (List.range 24).filter fun d => (s.mem d).failed.isNone

/-- Every word of every present device reads as 0 with no error. -/
def State.zeroMemory (s : State) : State :=
  let keep := fun (dev : Nat) => (s.mem dev).failed.isSome
  { s with devmem := s.devmem.filter (fun e => keep (e.1 / 2 ^ 36)), devFlips := s.devFlips.filter fun e => keep (16 * e.1 / 2 ^ 36) }

/-- SCRUB's end: READY, the memory-clean mark (R406), the reply. A scrub that a fatal fault has met is not done: it writes nothing more and
is answered REFUSED_STATE, and the mark stays clear. (log 180: DESIGN CHOICE) -/
def scrubDone (s : State) : State :=
  match s.flint.background with
  | some b =>
    if b.kind ≠ .scrub then s
    else if s.flint.state ≠ .scrubbing then s.endScrub.endBackground b (.refuse 2)
    else
      let ds := s.present
      let s := ((s.zeroMemory).modFlint fun f => { f with memoryClean := true }).enter .ready
      s.endScrub.endBackground b (.ok (toLe 3 (bitsOf ds) ++ [BitVec.ofNat 8 (24 - ds.length)]))
  | none => s

/-! ## Confidential sessions (R400, R401) -/

/-- OPEN_SESSION. -/
def rowOpenSession : CmdRow := { code := 0x0017, legal := [.ready, .loaded], ownerOnly := true, namesContext := true }
/-- CLOSE_SESSION. -/
def rowCloseSession : CmdRow := { code := 0x0018, legal := [.ready, .loaded], ownerOnly := true, namesContext := true }

/-- The form of OPEN_SESSION: the port, reserved bytes, a key that passes the standard's input check. -/
def sessionForm (args : Rec) (n : Nat) : Option Ans :=
  if n ≠ 1248 ∨ le args 0 1 > 1 ∨ !zeroAt args 1 31 ∨ !Config.mlKemKeyOk (slice args 64 1184) then some (.refuse 3) else none

/-- The form of CLOSE_SESSION. -/
def portForm (args : Rec) (n : Nat) : Option Ans := if n ≠ 1 ∨ le args 0 1 > 1 then some (.refuse 3) else none

/-- OPEN_SESSION's reply and keys (R400, R401). Every record counter starts at 0; records already started complete under the keys they
started with (R402, R417). -/
def State.openSession (s : State) (c : Context) (args : Rec) : State × Ans :=
  let port := le args 0 1
  let nonce := slice args 32 32
  let key := slice args 64 1184
  let (mine, s) := s.takeBytes 32
  let (rand, s) := s.takeBytes 32
  let (ct, ss) := Config.mlKemEncaps key rand
  let ct := slice ct 0 1088
  let id := toLe 2 c.id.toNat
  let msg := id ++ [BitVec.ofNat 8 port, 0] ++ nonce ++ mine ++ sha3 key ++ sha3 ct
  let sig := slice (Config.mlDsaSign s.aliasKeys.2 msg) 0 2420
  let derive := fun (dir : String) => hkdf32 (slice ss 0 32) (nonce ++ mine) (ascii dir ++ id ++ [BitVec.ofNat 8 port])
  let c := { c with sessions := Tab.set c.sessions port { h2d := derive "h2d", d2h := derive "d2h", planCounter := 0 } }
  (s.putContext c, .ok (mine ++ ct ++ sig))

/-! ## Attestation (R409 to R412) -/

/-- ATTEST. -/
def rowAttest : CmdRow :=
  { code := 0x0019, legal := [.ready, .loaded, .running, .halted, .updating], ownerOnly := false, namesContext := true }

/-- The form of ATTEST. -/
def attestForm (args : Rec) (n : Nat) : Option Ans := if n ≠ 40 ∨ !zeroAt args 36 4 then some (.refuse 3) else none

/-- SHA3-256 of a record in effect; zeros when none is. -/
def digestOf (r : Option Rec) : Rec := match r with | some r => sha3 r | none => zeros 32

/-- The configuration record's digest; zeros when neither copy is valid (Table 15.8). -/
def Flash.configDigest (f : Flash) : Rec :=
  digestOf (f.config.map (·.bytes))

/-- The repair map's digest. -/
def Flash.mapDigest (f : Flash) : Rec :=
  digestOf ((inEffect (fun c => c.1.signed) (fun c => c.1.version) (f.repairs.filter fun c => decide (f.counters.getD 1 0 ≤ c.1.version))).map (·.1.bytes))

/-- Firmware entries of the report (Table 12.6) of one slot. -/
def fwEntries (img : Rec) (slot flags : Nat) : List Rec :=
  (components img).map fun c => toLe 2 c.kind ++ [BitVec.ofNat 8 slot, BitVec.ofNat 8 flags] ++ toLe 4 c.version ++ zeros 8 ++ slice c.digest 0 32

/-- Weight entries of a context: its digest slots that are not empty, in ascending order. -/
def Context.weightEntries (c : Context) : List Rec :=
  (c.digests.filter fun d => d.2.closed || !d.2.absorbed.isEmpty).map fun d =>
    toLe 2 d.1 ++ [if d.2.closed then 2 else 1, 0] ++ (if d.2.closed then slice d.2.digest 0 32 else zeros 32)

/-- The report for a context and a nonce at a time, without its signature (Table 12.6). A context held by a partial reset is
not resident and has no plan in effect (R412). (log 33: DEDUCED) -/
def State.reportBody (s : State) (ctx : Nat) (nonce : Rec) (time : Word64) : Rec :=
  let c := s.context? ctx
  let held := s.flint.background.any fun b => b.kind == .reset && b.savedCtx.toNat == ctx && ctx != 0
  let inPlan := !held && c.any (·.plan.isSome)
  let flags := c.isSome.toNat + 2 * (c.isSome && !held && s.resident.toNat == ctx).toNat + 4 * (c.any (·.confidential)).toNat + 8 * inPlan.toNat +
    16 * (c.any fun c => (Tab.find? c.sessions 0).isSome).toNat + 32 * (c.any fun c => (Tab.find? c.sessions 1).isSome).toNat
  let dev := s.reduced.toNat + 2 * s.flint.memoryClean.toNat + 16 * (s.mgmt.partialDies % 16)
  let other := 1 - s.running
  let fws := fwEntries s.slot.image s.running 1 ++
    (if s.mgmt.staged then fwEntries ((s.flash.slots[other]?).map (·.image) |>.getD []) other 2 else [])
  let ws := (c.map Context.weightEntries).getD []
  let chain := s.certChain
  let n := 208 + 48 * fws.length + 36 * ws.length + chain.length + 2420
  toLe 4 0x41525A54 ++ toLe 2 1 ++ [BitVec.ofNat 8 s.mgmt.update, BitVec.ofNat 8 s.flint.view.code] ++ s.serial ++ slice nonce 0 32 ++
  toLe 8 time.toNat ++ toLe 2 ctx ++ [BitVec.ofNat 8 flags, BitVec.ofNat 8 dev] ++ toLe 4 n ++ toLe 4 fws.length ++ toLe 4 ws.length ++
  toLe 4 chain.length ++ zeros 4 ++ s.flash.configDigest ++ s.flash.mapDigest ++
  (if inPlan then ((c.bind (·.plan)).map (·.digest)).getD (zeros 32) else zeros 32) ++ digestOf (s.flash.operator.map OperatorCopy.bytes) ++
  fws.flatten ++ ws.flatten ++ chain

/-- A report signed by the alias key. -/
def State.signReport (s : State) (body : Rec) : Rec := body ++ slice (Config.mlDsaSign s.aliasKeys.2 body) 0 2420

/-- The reply: length, offset, up to 4,000 bytes; BAD_ARGUMENT beyond the end. -/
def attestReply (report : Rec) (off : Nat) : Ans :=
  if off ≥ report.length then .refuse 3
  else .ok (toLe 4 report.length ++ toLe 4 off ++ (report.drop off).take 4000)

/-- ATTEST after its checks: the stored report answers the same nonce and context, else forming a new one begins. -/
def State.attest (s : State) (m : Mbx) (ctx : Nat) (args : Rec) : State × Option Ans :=
  let nonce := slice args 0 32
  let off := le args 32 4
  let fresh := ((s.begin { Background.begin .attest m with
    target := BitVec.ofNat 16 ctx, nonce := nonce, offset := off, snapshot := s.reportBody ctx nonce s.logTime }), (none : Option Ans))
  if ctx ≠ 0 ∧ (s.context? ctx).isNone then (s, some (.failing 9 1 0))
  else match (s.host m.port).report with
    | some (c, n, r) => if c.toNat = ctx ∧ n = nonce then (s, some (attestReply r off)) else fresh
    | none => fresh

/-- The report is signed; a field that changed since the snapshot has it formed once more, a second change refuses with STALE
(R411). The time belongs to the snapshot. -/
def attestDone (s : State) : State :=
  match s.flint.background with
  | some b =>
    if b.kind ≠ .attest then s
    else
      let now := s.reportBody b.target.toNat b.nonce (BitVec.ofNat 64 (le b.snapshot 48 8))
      if now = b.snapshot then
        let r := s.signReport b.snapshot
        let a := attestReply r b.offset
        let s := if a.code = 0 then s.modHost b.mbx.port fun h => { h with report := some (b.target, b.nonce, r) } else s
        s.endBackground b a
      else if b.reformed then s.endBackground b (.refuse 9)
      else s.begin { b with reformed := true, snapshot := s.reportBody b.target.toNat b.nonce s.logTime }
  | none => s

/-! ## Meanings -/

/-- CREATE_CONTEXT (R385, R387). -/
def execCreateContext (m : Mbx) (s : State) : Host.Outcome State Fault Refusal :=
  .next (serve s m rowCreateContext contextForm fun s req => let (s, a) := s.createContext (slice req 64 16); (s, some a))

/-- DESTROY_CONTEXT (R388). -/
def execDestroyContext (m : Mbx) (s : State) : Host.Outcome State Fault Refusal :=
  .next (serve s m rowDestroyContext (formOf 0 []) fun s req =>
    match s.context? (le req 8 2) with
    | none => (s, some (.failing 9 1 0))
    | some c =>
      let s := if s.resident = c.id then ((s.wakeAll).destroyContext (c.id.toNat / 4096)).enter .ready else s.destroyContext (c.id.toNat / 4096)
      (s, some (.ok [])))

/-- SWITCH_CONTEXT (R397). -/
def execSwitchContext (m : Mbx) (s : State) : Host.Outcome State Fault Refusal :=
  .next (serve s m rowSwitchContext (formOf 2 []) fun s req => s.switchTo m (le req 64 2))

/-- SWITCH_CONTEXT_COMPLETE (R397, R398). -/
def execSwitchContextComplete (saveErr restoreErr : Bool) (s : State) : Host.Outcome State Fault Refusal :=
  .next (switchDone saveErr restoreErr s)

/-- CREATE_REGION (R391). -/
def execCreateRegion (m : Mbx) (s : State) : Host.Outcome State Fault Refusal :=
  .next (serve s m rowCreateRegion regionForm fun s req =>
    match s.context? (le req 8 2) with
    | none => (s, some (.failing 9 1 0))
    | some c => let (s, a) := s.createRegion c (slice req 64 24); (s, some a))

/-- REGION_ZEROING_COMPLETE (R391). -/
def execRegionZeroingComplete (slot index : Nat) (s : State) : Host.Outcome State Fault Refusal := .next (zeroingDone slot index s)

/-- DESTROY_REGION (R392). -/
def execDestroyRegion (m : Mbx) (s : State) : Host.Outcome State Fault Refusal :=
  .next (serve s m rowDestroyRegion (formOf 1 []) fun s req =>
    match s.context? (le req 8 2) with
    | none => (s, some (.failing 9 1 0))
    | some c =>
      if (Tab.find? c.regions (le req 64 1)).isNone then (s, some (.refuse 3))
      else (s.putContext { c with regions := Tab.erase c.regions (le req 64 1) }, some (.ok [])))

/-- SCRUB (R404). -/
def execScrub (m : Mbx) (s : State) : Host.Outcome State Fault Refusal :=
  .next (serve s m rowScrub (formOf 0 []) fun s _ => (s.startScrub m, none))

/-- SCRUB_COMPLETE (R195, R404). -/
def execScrubComplete (s : State) : Host.Outcome State Fault Refusal := .next (scrubDone s)

/-- OPEN_SESSION (R400). -/
def execOpenSession (m : Mbx) (s : State) : Host.Outcome State Fault Refusal :=
  .next (serve s m rowOpenSession sessionForm fun s req =>
    match s.context? (le req 8 2) with
    | none => (s, some (.failing 9 1 0))
    | some c =>
      if !c.confidential then (s, some (.refuse 3))
      else let (s, a) := s.openSession c (slice req 64 1248); (s, some a))

/-- CLOSE_SESSION (R401). -/
def execCloseSession (m : Mbx) (s : State) : Host.Outcome State Fault Refusal :=
  .next (serve s m rowCloseSession portForm fun s req =>
    match s.context? (le req 8 2) with
    | none => (s, some (.failing 9 1 0))
    | some c => (s.putContext { c with sessions := Tab.erase c.sessions (le req 64 1) }, some (.ok [])))

/-- ATTEST (R409). -/
def execAttest (m : Mbx) (s : State) : Host.Outcome State Fault Refusal :=
  .next (serve s m rowAttest attestForm fun s req => s.attest m (le req 8 2) (slice req 64 40))

/-- ATTEST_COMPLETE (R411). -/
def execAttestComplete (s : State) : Host.Outcome State Fault Refusal := .next (attestDone s)

end Sys2Proof.Machine
end

