-- ==== Sys2Proof/Machine/PlanImage.lean ====
section
/-! DEFINITION. Plan images (R394, Tables 12.1 and 12.2): the header, the section table, the sections' records, and the plan
they spell. A refusal (R418) is one `Bad`; of several, the one of lowest code and, within it, the first in image order. -/

namespace Sys2Proof.Machine

/-! ## Refusals (R418) -/

/-- What a rule of the validator finds: check code, byte offset in the image, section index and type, record, core, detail. -/
structure Bad where
  code : Nat
  off : Nat
  sec : Nat
  typ : Nat
  record : Nat
  core : Nat
  detail : Nat
  deriving DecidableEq, Repr

/-- Whether one refusal is given before another. -/
def Bad.before (a b : Bad) : Bool := decide (a.code < b.code) || (a.code == b.code && decide (a.off < b.off))

/-- The refusal that the reply gives. (log 39: DEDUCED) -/
def worst (bs : List Bad) : Option Bad := bs.foldl (fun w b => match w with
  | none => some b
  | some x => if b.before x then some b else some x) none

/-- The reply code of a check code (Table 12.9). -/
def checkReply (code : Nat) : Nat :=
  if code = 0x01 then 9 else if code = 0x17 then 6 else if code = 0x18 ∨ code = 0x1A then 5 else if code = 0x19 then 8
  else if code ≥ 0x1B then 7 else 3

/-- The 16 bytes of reply data. -/
def Bad.data (b : Bad) : Rec :=
  toLe 2 b.typ ++ [0, 0] ++ toLe 4 b.record ++ toLe 2 b.core ++ toLe 2 b.detail ++ toLe 4 b.off

/-- The answer to a refused load. -/
def Bad.ans (b : Bad) : Ans := { code := checkReply b.code, check := b.code, index := b.sec, data := b.data }

/-- A refusal of the read: no section, and bytes 0 to 11 of the data 0. -/
def Bad.read (code off : Nat) : Bad := { code := code, off := off, sec := 0xFFFF, typ := 0, record := 0, core := 0, detail := 0 }

/-! ## Sections -/

/-- An entry of the section table. -/
structure Sec where
  idx : Nat
  typ : Nat
  off : Nat
  len : Nat
  count : Nat
  deriving DecidableEq, Repr

/-- Entry i of the section table (Table 12.1). -/
def secAt (img : Rec) (i : Nat) : Sec :=
  let e := slice (img.drop (16 + 16 * i)) 0 16
  { idx := i, typ := le e 0 2, off := le e 4 4, len := le e 8 4, count := le e 12 4 }

/-- An image with its section table. -/
structure Img where
  bytes : Rec
  secs : List Sec

/-- The image of a byte string. -/
def imgOf (r : Rec) : Img := { bytes := r, secs := (List.range (min 64 (le r 6 2))).map (secAt r) }

/-- The section of a type. -/
def Img.sec? (m : Img) (t : Nat) : Option Sec := m.secs.find? fun s => s.typ = t

/-- The bytes of a section, none when the image lacks it. -/
def Img.body (m : Img) (t : Nat) : Rec := match m.sec? t with | some s => (m.bytes.drop s.off).take s.len | none => []

/-- Where a section begins. -/
def Img.base (m : Img) (t : Nat) : Nat := match m.sec? t with | some s => s.off | none => 0

/-- Its record count. -/
def Img.count (m : Img) (t : Nat) : Nat := match m.sec? t with | some s => s.count | none => 0

/-- A refusal that names a section, a record of it and a core. -/
def Img.bad (m : Img) (code off typ record core detail : Nat) : Bad :=
  { code := code, off := off, sec := ((m.sec? typ).map (·.idx)).getD 0xFFFF, typ := typ, record := record, core := core, detail := detail % 65536 }

/-- The size of a record of a section whose records are of one size (Table 12.2). -/
def recordSize (t : Nat) : Option Nat :=
  match t with
  | 0x01 => some 64
  | 0x03 => some 656
  | 0x04 => some 65540
  | 0x05 => some 36
  | 0x06 => some 72
  | 0x07 => some 16
  | 0x08 => some 12
  | 0x0B => some 48
  | 0x0C => some 8
  | 0x0E => some 8
  | 0x0F => some 4
  | _ => none

/-- Whether a section's length is what its type and record count give. -/
def Sec.lengthOk (s : Sec) : Bool :=
  (match recordSize s.typ with | some n => s.len == n * s.count | none => true) &&
  (match s.typ with
   | 0x01 => s.count == 1
   | 0x0A => s.len == 384
   | 0x0E => s.count == 4096
   | 0x10 => s.len == 4096
   | _ => true)

/-- The records of a section of records of one size: offset in the image and bytes. -/
def Img.fixed (m : Img) (t : Nat) : List (Nat × Rec) :=
  let n := (recordSize t).getD 1
  let b := m.body t
  (List.range (m.count t)).map fun i => (m.base t + n * i, (b.drop (n * i)).take n)

/-- Cut `n` records of an 8-byte head and as many units as bytes 4 to 7 of it say; none unless they fill the bytes. -/
def cutRecs (unit : Nat) : Nat → Rec → Nat → Option (List (Nat × Rec))
  | 0, r, _ => if r.isEmpty then some [] else none
  | n + 1, r, off =>
    if r.length < 8 then none
    else
      let k := 8 + unit * le r 4 4
      if r.length < k then none else (cutRecs unit n (r.drop k) (off + k)).map ((off, r.take k) :: ·)

/-- The unit of a section of records of variable length (Table 12.2). -/
def unitSize (t : Nat) : Nat := if t = 0x02 then 8 else if t = 0x09 then 4 else 128

/-- The records of such a section. -/
def Img.varied? (m : Img) (t : Nat) : Option (List (Nat × Rec)) := cutRecs (unitSize t) (m.count t) (m.body t) (m.base t)

/-- As `varied?`; nothing of a section whose records do not fill it. -/
def Img.varied (m : Img) (t : Nat) : List (Nat × Rec) := (m.varied? t).getD []

/-- The units of a record. -/
def unitsOf (t : Nat) (r : Rec) : List Rec := (List.range (le r 4 4)).map fun i => (r.drop (8 + unitSize t * i)).take (unitSize t)

/-! ## Check code 0x03 (R394) -/

/-- Whether the header is not what Table 12.1 requires. -/
def headerBad (r : Rec) : Bool :=
  let n := le r 6 2
  decide (r.length < 16) || le r 0 4 != 0x50525A54 || le r 4 2 != 1 || n == 0 || decide (n > 64) || le r 8 4 != r.length || !zeroAt r 12 4 ||
  decide (16 + 16 * n > r.length)

/-- Whether byte ranges share a byte. -/
def meetBytes (a n b m : Nat) : Bool := decide (0 < n) && decide (0 < m) && decide (a < b + m) && decide (b < a + n)

/-- The faults of the section table. -/
def Img.tableBads (m : Img) : List Bad :=
  let n := m.secs.length
  (m.secs.flatMap fun s =>
    let bad := decide (s.typ = 0) || decide (s.typ > 0x11) || !zeroAt (m.bytes.drop (16 + 16 * s.idx)) 2 2 || decide (s.off % 64 ≠ 0) ||
      decide (s.off + s.len > m.bytes.length) || (decide (s.len > 0) && decide (s.off < 16 + 16 * n)) || !s.lengthOk ||
      m.secs.any fun x => decide (x.idx < s.idx) && (x.typ == s.typ || meetBytes x.off x.len s.off s.len)
    if bad then [{ code := 3, off := 16 + 16 * s.idx, sec := s.idx, typ := s.typ, record := 0, core := 0xFFFF, detail := 0 }] else []) ++
  (List.range 7).flatMap fun i => if (m.sec? (i + 1)).isNone then [m.bad 3 0 (i + 1) 0 0xFFFF 0] else []

/-- The first keys of records that an earlier record of the section carries too, or that are out of range. -/
def keyBads (m : Img) (t limit : Nat) (rs : List (Nat × Rec)) : List Bad :=
  rs.zipIdx.flatMap fun x =>
    let k := le x.1.2 0 4
    if k ≥ limit ∨ (rs.take x.2).any (fun y => le y.2 0 4 = k) then [m.bad 3 x.1.1 t x.2 0xFFFF 0] else []

/-- The faults of sections whose records do not fill them, name a core or die that does not exist, or name one twice. -/
def Img.recordBads (m : Img) : List Bad :=
  ([0x02, 0x09, 0x0D, 0x11].flatMap fun t => if (m.varied? t).isNone then [m.bad 3 (m.base t) t 0 0xFFFF 0] else []) ++
  keyBads m 0x02 96 (m.varied 0x02) ++ keyBads m 0x03 96 (m.fixed 0x03) ++ keyBads m 0x04 96 (m.fixed 0x04) ++
  keyBads m 0x0D 4 (m.varied 0x0D) ++ keyBads m 0x11 96 (m.varied 0x11) ++
  (m.varied 0x02).zipIdx.flatMap fun x => if le x.1.2 4 4 > 32768 then [m.bad 3 x.1.1 0x02 x.2 (le x.1.2 0 4) 0] else []

/-- Every fault of check code 0x03. (log 37: DEDUCED) -/
def Img.formBads (m : Img) : List Bad :=
  if headerBad m.bytes then [{ code := 3, off := 0, sec := 0xFFFF, typ := 0, record := 0, core := 0xFFFF, detail := 0 }]
  else match m.tableBads with
    | [] => m.recordBads
    | bs => bs

/-! ## The plan an image spells -/

/-- A table from keyed entries. -/
def tabOf {α : Type} (xs : List (Nat × α)) : Tbl α := xs.foldl (fun t x => Tab.set t x.1 x.2) []

/-- The plan (Table 12.2). -/
def Img.plan (m : Img) : Plan :=
  let ab := m.body 0x0A
  { image := m.bytes,
    digest := sha3 m.bytes,
    settings := m.body 0x01,
    programs := tabOf ((m.varied 0x02).map fun x => (le x.2 0 4, (unitsOf 0x02 x.2).map fun w => BitVec.ofNat 64 (ofLe w))),
    decls := tabOf ((m.fixed 0x03).map fun x => (le x.2 0 4, x.2)),
    ftables := tabOf ((m.fixed 0x04).map fun x => (le x.2 0 4, x.2.drop 4)),
    streams := tabOf ((m.fixed 0x05).map fun x => (le x.2 0 4, x.2.drop 4)),
    rings := (m.fixed 0x06).map fun x => (le x.2 0 4, le x.2 4 4, x.2.drop 8),
    inputs := (m.fixed 0x07).map fun x => (le x.2 0 8, le x.2 8 8),
    groups := (m.fixed 0x08).map fun x => BitVec.ofNat 96 (ofLe x.2),
    lodes := (m.varied 0x09).map fun x => (le x.2 0 4, (unitsOf 0x09 x.2).map ofLe),
    planes := (List.range 12).map fun q => let e := slice ab (16 * q) 16; (e, e.map (~~~ ·)),
    detours := (List.range 12).map fun q => slice ab (192 + 16 * q) 16,
    colls := (m.fixed 0x0B).map (·.2),
    backward := (m.fixed 0x0C).map fun x => BitVec.ofNat 64 (ofLe x.2),
    updates := tabOf ((m.varied 0x0D).map fun x => (le x.2 0 4, unitsOf 0x0D x.2)),
    instruments := (m.fixed 0x0E).map (·.2),
    scaleUpdates := (m.fixed 0x0F).map fun x => BitVec.ofNat 32 (ofLe x.2),
    initScale := m.body 0x10,
    args := tabOf ((m.varied 0x11).map fun x => (le x.2 0 4, unitsOf 0x11 x.2)) }

/-! ## Check code 0x04 in sections of plain records (R7, R41) -/

/-- Reserved fields and codes of the plan settings. -/
def Img.settingsBads (m : Img) : List Bad :=
  let r := m.body 0x01
  if le r 0 1 > 1 ∨ le r 1 1 > 3 ∨ !zeroAt r 2 2 ∨ !zeroAt r 24 40 then [m.bad 4 (m.base 0x01) 0x01 0 0xFFFF 0] else []

/-- Reserved fields of declarations: bytes 4 to 7 and bits [20:15] of every scree-list entry. -/
def Img.declReserved (m : Img) : List Bad :=
  (m.fixed 0x03).zipIdx.flatMap fun x =>
    let r := x.1.2
    let c := le r 0 4
    (if zeroAt r 4 4 then [] else [m.bad 4 (x.1.1 + 4) 0x03 x.2 c 0]) ++
    (List.range 128).flatMap fun e => if bits (le r (144 + 4 * e) 4) 20 15 = 0 then [] else [m.bad 4 (x.1.1 + 144 + 4 * e) 0x03 x.2 c 0]

/-- Reserved fields of backward products, instrument declarations and scale updates; reserved scale codes (R41). -/
def Img.recordReserved (m : Img) : List Bad :=
  ((m.fixed 0x0C).zipIdx.flatMap fun x =>
    let v := ofLe x.1.2
    if bits v 63 62 ≥ 2 ∨ bits v 54 40 ≠ 0 then [m.bad 4 x.1.1 0x0C x.2 0xFFFF 0] else []) ++
  ((m.fixed 0x0E).zipIdx.flatMap fun x =>
    if le x.1.2 4 1 > 5 ∨ !zeroAt x.1.2 5 3 then [m.bad 4 x.1.1 0x0E x.2 0xFFFF 0] else []) ++
  ((m.fixed 0x0F).zipIdx.flatMap fun x =>
    let v := ofLe x.1.2
    if bits v 7 6 = 3 ∨ bits v 2 0 ≠ 0 then [m.bad 4 x.1.1 0x0F x.2 0xFFFF 0] else []) ++
  ((m.body 0x10).zipIdx.flatMap fun x =>
    if 0x81 ≤ x.1.toNat ∧ x.1.toNat ≤ 0x87 then [m.bad 4 (m.base 0x10 + x.2) 0x10 x.2 0xFFFF 0] else [])

/-- Reserved fields of the update lists (Table 7.6): kind, working exponent rule, the unlisted bits. -/
def updateReserved (r : Rec) : Bool :=
  let c := le r 0 4
  decide (bits c 31 30 = 3) || decide (bits c 28 27 ≥ 2) || decide (bits c 26 12 ≠ 0) || decide (bits (le r 80 2) 15 13 ≠ 0) ||
  decide (bits (le r 82 2) 15 13 ≠ 0) || ([84, 86, 88].any fun o => decide (bits (le r o 2) 14 12 ≠ 0)) || !zeroAt r 100 28

/-- The same, over the section. -/
def Img.updateReserveds (m : Img) : List Bad :=
  (m.varied 0x0D).zipIdx.flatMap fun x =>
    (unitsOf 0x0D x.1.2).zipIdx.flatMap fun u => if updateReserved u.1 then [m.bad 4 (x.1.1 + 8 + 128 * u.2) 0x0D x.2 0xFFFF 0] else []

end Sys2Proof.Machine
end

