-- ==== Sys2Proof/Machine/PlanCode.lean ====
section
/-! DEFINITION. The validator's rules for core programs (R13 to R15, R73, R101 to R108, R111 to R119, R122, R123, R129 to R133,
R203, R204, R232): the words, the runs of the main program and of the fill tasks with every loop evaluated, what each
execution reads and writes, and the refusals that follow. -/

namespace Sys2Proof.Machine

/-! ## Words (R111, R112) -/

/-- Reserved bits and codes of a seam field (Table 4.6, R13). -/
def seamReserved (v : Nat) : Bool :=
  if bit v 9 then bit v 8 || decide (bits v 3 2 = 0) || decide (bits v 1 0 = 3) else decide (bits v 8 4 ≠ 0)

/-- A seam that R14 refuses. -/
def seamBad (v : Nat) : Bool :=
  let u := seamOf v
  if bit v 9 then decide (u.row + u.r > 3) || decide (u.col + u.c > 4) || decide (u.col % u.c ≠ 0) else decide (bits v 3 0 > 11)

/-- Whether an instruction takes an argument record. -/
def takesRecord (op : Nat) : Bool := [0x01, 0x02, 0x03, 0x04, 0x08, 0x09, 0x0A].contains op

/-- Whether an instruction names a unit. -/
def takesUnit (op : Nat) : Bool := [0x01, 0x02, 0x03, 0x04].contains op

/-- An opcode not listed, a reserved field that is not 0, or a reserved code (R111, Table 4.5). -/
def wordReserved (w : Word64) : Bool :=
  let op := wOp w
  let set := fun (hi lo : Nat) => decide (fieldOf w hi lo ≠ 0)
  let rule := decide (fieldOf w 21 20 = 3)
  (takesUnit op && seamReserved (wSeam w)) || (!takesRecord op && set 53 38) ||
  (match op with
   | 0x01 => set 26 26 || set 23 0 || decide (fieldOf w 25 24 = 3)
   | 0x02 => set 26 0
   | 0x03 => set 27 0
   | 0x04 => set 19 0 || decide (fieldOf w 25 24 = 3) || decide (fieldOf w 22 21 = 3)
   | 0x08 => set 18 0 || rule || decide (fieldOf w 37 32 ≥ 0x0E)
   | 0x09 => set 18 0 || rule || set 26 26 || set 23 22
   | 0x0A => set 18 0 || rule || set 34 32 || set 27 26 || set 23 22 || decide (fieldOf w 37 35 ≥ 6)
   | 0x10 => set 23 0
   | 0x11 => set 16 0
   | 0x14 => set 23 0
   | 0x15 => set 21 0
   | 0x16 => set 37 0
   | 0x18 => set 37 32
   | 0x19 => set 37 0
   | 0x1A => set 37 32
   | 0x1B => set 37 32
   | 0x1C => set 37 0
   | 0x1F => set 37 0
   | _ => true)

/-! ## Runs, with every loop evaluated (R102, R104) -/

/-- One execution of an instruction: its index, its word, the index registers as it issues. -/
structure Exec where
  pc : Nat
  word : Word64
  idx : List Word32
  deriving DecidableEq, Repr

/-- A run under evaluation: executions newest first; its fate: 0 running, 1 ended as it must, 2 a loop or index register misused,
3 it runs past its last instruction or reaches what it must not. -/
structure Walk where
  pc : Nat
  idx : List Word32
  loops : List LoopFrame
  out : List Exec
  fate : Nat

/-- An index register; index 0 reads 0. -/
def ixOf (idx : List Word32) (x : Nat) : Word32 := if x = 0 then 0 else idx.getD x 0

/-- One instruction of a run. A fill task may hold no token instruction, fill-arm, fill-join or step-end (Table 4.11). A step-end inside a
loop that is open ends no run. (log 176: DEDUCED) -/
def Walk.step (prog : List Word64) (task : Bool) (k : Walk) : Walk :=
  match prog[k.pc]? with
  | none => { k with fate := 3 }
  | some w =>
    let x := wX w
    let k' := { k with pc := k.pc + 1, out := ⟨k.pc, w, k.idx⟩ :: k.out }
    let stop := fun (f : Nat) => { k with out := ⟨k.pc, w, k.idx⟩ :: k.out, fate := f }
    match wOp w with
    | 0x18 =>
      if x = 0 ∨ fieldOf w 31 0 = 0 ∨ k.loops.length ≥ 8 ∨ k.loops.any (fun l => l.reg = x) then stop 2
      else { k' with idx := k.idx.set x 0, loops := { body := k.pc + 1, reg := x, count := fieldOf w 31 0, done := 0 } :: k.loops }
    | 0x19 =>
      match k.loops with
      | [] => stop 2
      | l :: rest =>
        if l.reg ≠ x then stop 2
        else if l.done + 1 < l.count then
          { k' with idx := k.idx.set x (ixOf k.idx x + 1), pc := l.body, loops := { l with done := l.done + 1 } :: rest }
        else { k' with idx := k.idx.set x (BitVec.ofNat 32 l.count), loops := rest }
    | 0x1A => if x = 0 then stop 2 else { k' with idx := k.idx.set x (BitVec.ofNat 32 (fieldOf w 31 0)) }
    | 0x1B => if x = 0 then stop 2 else { k' with idx := k.idx.set x (ixOf k.idx x + BitVec.ofNat 32 (fieldOf w 31 0)) }
    | 0x1F => if task ∨ k.loops ≠ [] then stop 3 else { k' with fate := 1 }
    | 0x16 => if task ∧ k.loops = [] then { k' with fate := 1 } else stop 3
    | 0x10 => if task then stop 3 else k'
    | 0x11 => if task then stop 3 else k'
    | 0x14 => if task then stop 3 else k'
    | 0x15 => if task then stop 3 else k'
    | _ => k'

/-- Evaluate a run. -/
def Walk.run (prog : List Word64) (task : Bool) : Nat → Walk → Walk
  | 0, k => if k.fate = 0 then { k with fate := 3 } else k
  | n + 1, k => if k.fate ≠ 0 then k else Walk.run prog task n (k.step prog task)

/-- More executions than any run of a store's 32,768 words with loops nested 8 deep can make. -/
def walkFuel : Nat := 2 ^ 280

/-- The main program's run. -/
def mainWalk (prog : List Word64) : Walk := Walk.run prog false walkFuel ⟨0, List.replicate 16 0, [], [], 0⟩

/-- A fill task's run from its start, with the index registers of its arm (R132). -/
def taskWalk (prog : List Word64) (start : Nat) (idx : List Word32) : Walk := Walk.run prog true walkFuel ⟨start, idx, [], [], 0⟩

/-! ## What an execution does -/

/-- An execution that takes an argument record: its place in its run, the record, the bytes it reads and writes, and the
pass or weight load it is. -/
structure Act where
  pc : Nat
  word : Word64
  number : Nat
  record : Rec
  at' : Nat
  reads : List Iv
  writes : List Iv
  pass : Option Pass
  set : Bool
  load : Option Load

/-- Drain and preload settings in force, by seam field. -/
structure Settings where
  drains : Tbl Rec
  preloads : Tbl (Nat × Rec)

/-- The argument record of a number as it stands in the image; those the image does not supply are zero (R105). -/
def Plan.argOf (p : Plan) (c n : Nat) : Rec := ((Tab.get [] p.args c)[n]?).getD (zeros 128)

/-- What one execution does under the settings in force, and the settings after it. -/
def Settings.act (st : Settings) (p : Plan) (c at' : Nat) (x : Exec) : Settings × Option Act :=
  let w := x.word
  let op := wOp w
  if !takesRecord op then (st, none)
  else
    let n := wArg w + (ixOf x.idx (wX w)).toNat
    let rec' := p.argOf c n
    let base : Act := { pc := x.pc, word := w, number := n, record := rec', at' := at', reads := [], writes := [], pass := none, set := true, load := none }
    match op with
    | 0x01 =>
      let u := seamOf (wSeam w)
      (st, some { base with reads := loadTouched u (fieldOf w 25 24) rec',
                            load := some { unit := u, plane := fieldOf w 27 27, fmt := fieldOf w 25 24, source := rec', tiles := [] } })
    | 0x02 => ({ st with preloads := Tab.set st.preloads (wSeam w) (fieldOf w 27 27, rec') }, some base)
    | 0x03 => ({ st with drains := Tab.set st.drains (wSeam w) rec' }, some base)
    | 0x04 =>
      let d := Tab.find? st.drains (wSeam w)
      let pass := passOf w rec' (Tab.find? st.preloads (wSeam w)) (d.getD (zeros 128))
      ({ st with preloads := Tab.erase st.preloads (wSeam w) },
       some { base with reads := pass.touched.1, writes := pass.touched.2, pass := some pass, set := d.isSome })
    | _ => (st, some { base with reads := (unitTouched w rec').1, writes := (unitTouched w rec').2 })

/-- A fill task armed in the main program's run: its entry, the positions of its fill-arm and of the fill-join that covers it, the
settings and index registers at its arm. -/
structure Task where
  entry : Nat
  arm : Nat
  join : Option Nat
  armPc : Nat
  idx : List Word32
  drains : Tbl Rec

/-- The main program's run as the validator follows it: settings, acts newest first, tasks newest first, and the (pc, entry) of
arms of an armed entry and of arms not joined. -/
structure Follow where
  st : Settings
  acts : List Act
  tasks : List Task
  misarmed : List (Nat × Nat)

/-- The start, group and ready queue of a scree-list entry. -/
def Plan.entry (p : Plan) (c e : Nat) : Nat := match Tab.find? p.decls c with | some d => le d (144 + 4 * e) 4 | none => 0

/-- Whether a core's declaration lets a queue be used: its depth. -/
def Plan.depth (p : Plan) (c q : Nat) : Nat := match Tab.find? p.decls c with | some d => le d (16 + 2 * q) 1 | none => 0

/-- Follow one execution of the main program. -/
def Follow.step (p : Plan) (c : Nat) (f : Follow) (x : Exec × Nat) : Follow :=
  let w := x.1.word
  let (st, a) := f.st.act p c x.2 x.1
  let f := { f with st := st, acts := a.toList ++ f.acts }
  match wOp w with
  | 0x14 =>
    (List.range (fieldOf w 30 24 + 1)).foldl (fun (f : Follow) i =>
      let e := fieldOf w 37 31 + i
      if f.tasks.any fun t => t.entry == e && t.join.isNone then { f with misarmed := (x.1.pc, e) :: f.misarmed }
      else { f with tasks := { entry := e, arm := x.2, join := none, armPc := x.1.pc, idx := x.1.idx, drains := f.st.drains } :: f.tasks }) f
  | 0x15 =>
    { f with tasks := f.tasks.map fun t =>
        if t.join.isNone && bit w.toNat (22 + bits (p.entry c t.entry) 24 21) then { t with join := some x.2 } else t }
  | 0x1F => { f with misarmed := (f.tasks.filter fun t => t.join.isNone).map (fun t => (x.1.pc, t.entry)) ++ f.misarmed }
  | _ => f

/-- A lane of a core: the main program (entry 255) or one fill task, with its run and what it does. -/
structure Lane where
  entry : Nat
  arm : Nat
  join : Nat
  armPc : Nat
  run : List Exec
  fate : Nat
  last : Nat
  acts : List Act

/-- The acts of a run that begins with some settings. -/
def actsOf (p : Plan) (c : Nat) (st : Settings) (run : List Exec) : List Act :=
  ((run.zipIdx.foldl (fun (acc : Settings × List Act) x =>
    let (st, a) := acc.1.act p c x.2 x.1
    (st, a.toList ++ acc.2)) (st, [])).2).reverse

/-- A core as the validator has evaluated it: its main lane, its task lanes, and the arms that Table 4.11 condition 8 refuses. -/
structure CoreRun where
  core : Nat
  main : Lane
  tasks : List Lane
  misarmed : List (Nat × Nat)

/-- Evaluate a core's program. -/
def Plan.evaluate (p : Plan) (c : Nat) (prog : List Word64) : CoreRun :=
  let m := mainWalk prog
  let run := m.out.reverse
  let f := run.zipIdx.foldl (Follow.step p c) { st := { drains := [], preloads := [] }, acts := [], tasks := [], misarmed := [] }
  let lane := fun (t : Task) =>
    let k := taskWalk prog (bits (p.entry c t.entry) 14 0) t.idx
    let r := k.out.reverse
    { entry := t.entry, arm := t.arm, join := t.join.getD run.length, armPc := t.armPc, run := r, fate := k.fate, last := k.pc,
      acts := actsOf p c { drains := t.drains, preloads := [] } r : Lane }
  { core := c,
    main := { entry := 255, arm := 0, join := run.length, armPc := 0, run := run, fate := m.fate, last := m.pc, acts := f.acts.reverse },
    tasks := f.tasks.reverse.map lane, misarmed := f.misarmed }

/-- Every lane of a core. -/
def CoreRun.lanes (r : CoreRun) : List Lane := r.main :: r.tasks

/-- Every core that the plan holds a program for. -/
def Plan.runs (p : Plan) : List CoreRun := p.programs.map fun x => p.evaluate x.1 x.2

/-! ## References (R101, R106) -/

/-- Reserved bits of a reference (Table 4.1). -/
def refReserved (r : Rec) (off : Nat) (dest : Bool) : Bool :=
  let a := le r off 4
  decide ((if bit a 31 then bits a 30 15 else bits a 30 25) ≠ 0) || decide (bits (le r (off + 8) 4) 30 25 ≠ 0) ||
  decide (bits (le r (off + 16) 4) 31 25 ≠ 0) || decide ((if dest then bits (le r (off + 20) 4) 30 12 else le r (off + 20) 4) ≠ 0)

/-- Whether `rows` rows of `len` bytes from `base` at a stride leave the scratchpad. -/
def spanBad (base stride : Int) (rows len : Nat) : Bool :=
  let last := base + ((rows - 1 : Nat) : Int) * stride
  decide (rows ≠ 0) && decide (len ≠ 0) && (decide (min base last < 0) || decide (max base last + (len : Int) > 0x2000000))

/-- Whether a scratchpad reference is misaligned in a format. -/
def Ref.misaligned (r : Ref) (f : Nat) : Bool :=
  let n : Int := max 1 (fmtBits f / 8)
  r.stream.isNone && (decide (r.base % n ≠ 0) || decide (r.rowStride % n ≠ 0) || (f == 3 && decide (r.maskBase % 8 ≠ 0)))

/-- Whether a row-form reference leaves the scratchpad or is misaligned. -/
def Ref.rowsBad (r : Ref) (f rows elems : Nat) : Bool :=
  let blocks := (elems + 63) / 64
  r.stream.isNone && (r.misaligned f || spanBad r.base r.rowStride rows (valueBytes f elems) ||
    (!r.unscaled && spanBad r.scaleBase r.scaleStride rows blocks) ||
    (f == 3 && spanBad r.maskBase (8 * r.scaleStride) rows (8 * blocks)))

/-- Whether a column-form reference leaves the scratchpad or is misaligned. -/
def Ref.colsBad (r : Ref) (f rows : Nat) : Bool :=
  let blocks := (rows + 63) / 64
  r.stream.isNone && (r.misaligned f || spanBad r.base r.rowStride rows (valueBytes f 1) ||
    (!r.unscaled && spanBad r.scaleBase r.scaleStride blocks 1) || (f == 3 && spanBad r.maskBase (8 * r.scaleStride) blocks 8))

/-- The references of a vector, function or row-reduction instruction as (offset, format, column form, destination). -/
def unitRefs (w : Word64) : List (Nat × Nat × Bool × Bool) :=
  let fb := fieldOf w 29 28
  [(0, fieldOf w 31 30, false, false)] ++
  (if wOp w = 0x08 then
    (if fieldOf w 23 22 = 0 then [(24, fb, false, false)] else if fieldOf w 23 22 = 1 then [(24, fb, true, false)] else []) ++
    (if takesC (fieldOf w 37 32) then [(48, fieldOf w 27 26, false, false)] else [])
   else if wOp w = 0x09 then (if fieldOf w 27 27 = 1 then [(24, fb, false, false)] else [])
   else if fieldOf w 37 35 = 2 then [(24, fb, false, false)] else []) ++
  [(72, fieldOf w 25 24, wOp w == 0x0A, true)]

/-- Check code 0x04 of an argument record (R108, Tables 4.2 and 4.3). -/
def Act.recordReserved (a : Act) : Bool :=
  let r := a.record
  match wOp a.word with
  | 0x01 => refReserved r 0 false || !zeroAt r 36 92
  | 0x02 => refReserved r 0 false || !zeroAt r 24 104
  | 0x03 =>
    let d := le r 36 4
    refReserved r 0 true || decide (bits d 31 30 = 3) || decide (bits d 29 28 = 3) || decide (bits d 25 12 ≠ 0) ||
    decide (bits (le r 40 4) 31 28 ≠ 0) || !zeroAt r 44 84
  | 0x04 => refReserved r 0 false || !zeroAt r 32 96
  | _ =>
    refReserved r 0 false || refReserved r 24 false || refReserved r 48 false || refReserved r 72 true ||
    decide (bits (le r 112 4) 31 28 ≠ 0) || decide (bits (le r 116 2) 15 12 ≠ 0) || !zeroAt r 119 1

/-- Check code 0x06 (R73, R108). -/
def Act.matrixBad (a : Act) : Bool :=
  match wOp a.word with
  | 0x03 => (bits (le a.record 36 4) 31 30 == 2) != (refAt a.record 0).stream.isSome
  | 0x04 => match a.pass with
    | some p => !a.set || p.rows == 0 || decide (le p.drain 24 4 + p.rows - 1 > 4294967295) ||
        decide (le p.drain 28 4 + 64 * p.blocks - 1 > 4294967295)
    | none => false
  | _ => false

/-- Check code 0x07 (R101): the references an execution uses. (log 38: DEDUCED) -/
def Act.rangeBad (a : Act) : Bool :=
  let r := a.record
  match wOp a.word with
  | 0x01 => match a.load with
    | some l =>
      let q := refAt r 0
      q.misaligned l.fmt || (q.stream.isNone && ((List.range l.unit.r).any fun (i : Nat) => (List.range l.unit.c).any fun (j : Nat) =>
        spanBad (q.base + (i : Int) * sgn 32 (le r 24 4) + (j : Int) * sgn 32 (le r 28 4)) q.rowStride 64 (valueBytes l.fmt 64) ||
        (!q.unscaled && spanBad (q.scaleBase + (64 * j * le r 32 4 : Nat) + (i : Nat)) (le r 32 4 : Nat) 64 1)))
    | none => false
  | 0x02 => false
  | 0x03 => false
  | 0x04 => match a.pass with
    | some p =>
      let width := 64 * p.blocks
      (refOf p.feeder).rowsBad p.fmt p.rows (64 * p.depth) || p.dst.rowsBad p.accFmt p.rows width ||
      (match p.preload with | some (k, q) => (refAt q 0).rowsBad p.accFmt (if k = 0 then 1 else p.rows) width | none => false) ||
      decide (le p.drain 32 4 + 8 * (p.tileRows * p.blocks) > 0x2000000) ||
      (p.maskKind == 1 && decide (p.maskOp + (p.rows + 7) / 8 > 0x2000000))
    | none => false
  | _ => (unitRefs a.word).any fun x =>
      if x.2.2.1 then (refAt r x.1).colsBad x.2.1 (le r 96 4) else (refAt r x.1).rowsBad x.2.1 (le r 96 4) (le r 100 4)

/-- A function table header the validator refuses (R119). -/
def tableBad (store : Rec) (t : Nat) : Bool :=
  let h := slice (store.drop (32 * t)) 0 32
  let lo := sgn 32 (le h 0 4)
  let hi := sgn 32 (le h 4 4)
  let n := le h 16 2
  let first := le h 18 2
  let exp := sgn 8 (le h 8 1)
  decide (hi < lo) || decide (exp < -120) || decide (le h 9 1 > 3) || decide (le h 10 1 > 24) || n == 0 || decide (n > 4032) ||
  decide (((n * 2 ^ le h 10 1 : Nat) : Int) < hi - lo + 1) || decide (first + n > 4032) ||
  (List.range n).any fun i => (List.range 4).any fun j =>
    decide (le h 9 1 < j) && !zeroAt (store.drop (1024 + 16 * (first + i))) (4 * j) 4

/-- Check code 0x09 (R108, R116, R119, Table 4.3). -/
def Act.unitBad (p : Plan) (c : Nat) (a : Act) : Bool :=
  let w := a.word
  let r := a.record
  let op := wOp w
  if op ≠ 0x08 ∧ op ≠ 0x09 ∧ op ≠ 0x0A then false
  else
    let v := fieldOf w 37 32
    let takesB := !([0x00, 0x08, 0x09, 0x0D].contains v)
    ([0, 24, 48, 72].any fun o => (refAt r o).stream.isSome) || decide (le r 96 4 = 0) || decide (le r 100 4 = 0) ||
    decide (le r 100 4 > 16777216) || decide (sgn 8 (le r 118 1) < -120) ||
    (op == 0x08 && ((fieldOf w 23 22 == 3) == takesB || (!takesC v && !zeroAt r 48 24) ||
      (v == 0x0D && decide ((sgn 64 (le r 120 8)).natAbs > 255)))) ||
    (op == 0x09 && le (((Tab.find? p.ftables c).getD []).drop (32 * fieldOf w 37 33)) 11 1 != 1)

/-! ## Streams a program names -/

/-- How an execution uses streams: (stream, the classes the use allows, whether the stream must be this core's). -/
def Act.uses (a : Act) : List (Nat × List Nat × Bool) :=
  match a.pass, a.load with
  | some p, _ =>
    ((refOf p.feeder).stream.toList.map fun i => (i, [0], true)) ++
    (match p.preload with | some (_, q) => (refAt q 0).stream.toList.map fun i => (i, [0], true) | none => []) ++
    p.dst.stream.toList.map fun i => (i, [1, 5], false)
  | none, some l => (refAt l.source 0).stream.toList.map fun i => (i, [2], true)
  | none, none => []

/-- The stream table entry of a stream the plan uses. -/
def Plan.stream? (p : Plan) (id : Nat) : Option Rec := (Tab.find? p.streams id).bind fun e => if bit (le e 9 1) 7 then some e else none

/-- The stream that a PRELOAD or DRAIN record names, whether or not a pass takes the record. -/
def Act.setting (a : Act) : Option Nat := if wOp a.word = 0x02 ∨ wOp a.word = 0x03 then (refAt a.record 0).stream else none

/-- A stream named that is absent (R144), or of a class or owner that cannot serve the use (R141, R147). -/
def Act.streamBad (p : Plan) (c : Nat) (a : Act) : Option Nat :=
  match (a.uses.find? fun u => match p.stream? u.1 with
    | some e => !u.2.1.contains (streamClass e) || (u.2.2 && ownerCore u.1 != some c) || (streamClass e == 1 && ownerCore u.1 != some c)
    | none => true) with
  | some u => some u.1
  | none => a.setting.bind fun id => if (p.stream? id).isNone then some id else none

/-! ## Refusals of a core's program -/

/-- A core's program in the image: its record, the offset of its first word. -/
structure Prog where
  core : Nat
  record : Nat
  off : Nat
  words : List Word64

/-- The programs of an image. -/
def Img.progs (m : Img) : List Prog :=
  (m.varied 0x02).zipIdx.map fun x =>
    { core := le x.1.2 0 4, record := x.2, off := x.1.1 + 8, words := (unitsOf 0x02 x.1.2).map fun w => BitVec.ofNat 64 (ofLe w) }

/-- Whether an instruction writes its index register: LOOP, LOOP_END, SET_INDEX and ADD_INDEX (R104). -/
def writesIndex (op : Nat) : Bool := [0x18, 0x19, 0x1A, 0x1B].contains op

/-- A refusal at an instruction. -/
def Prog.bad (g : Prog) (m : Img) (code pc detail : Nat) : Bad := m.bad code (g.off + 8 * pc) 0x02 g.record g.core detail

/-- What each word breaks by itself, whether or not a run reaches it (R14, R104, R34, R111, R122, R123), and a program of a retired core. -/
def Prog.wordBads (g : Prog) (m : Img) (s : State) (p : Plan) : List Bad :=
  (if s.repair.retiredCores.contains g.core then [g.bad m 0x18 0 g.core] else []) ++
  g.words.zipIdx.flatMap fun x =>
    let w := x.1
    let pc := x.2
    let op := wOp w
    let es := (seamOf (wSeam w)).engines
    if wordReserved w then [g.bad m 0x04 pc pc]
    else if writesIndex op && wX w == 0 then [g.bad m 0x08 pc pc]
    else if takesUnit op then
      (if seamBad (wSeam w) then [g.bad m 0x05 pc pc] else []) ++
      (match es.find? fun e => s.repair.retiredEngines.contains (g.core, e) with | some e => [g.bad m 0x18 pc (16 * g.core + e)] | none => [])
    else if op = 0x10 ∨ op = 0x11 then
      let (c, q, n) := if op = 0x10 then (g.core, (waitOf w).1, (waitOf w).2) else signalOf w
      (if c ≥ 96 ∨ n = 0 ∨ n > p.depth c q then [g.bad m 0x0A pc q] else []) ++
      (if op = 0x11 ∧ s.repair.retiredCores.contains c then [g.bad m 0x18 pc c] else [])
    else if op = 0x14 ∧ fieldOf w 37 31 + fieldOf w 30 24 ≥ 128 then [g.bad m 0x0B pc (fieldOf w 37 31 * 256 + 8)]
    else []

/-- What one execution breaks. -/
def Prog.actBads (g : Prog) (m : Img) (p : Plan) (a : Act) : List Bad :=
  let d := (Tab.find? p.decls g.core).getD []
  let area : Iv := { lo := le d 8 4, hi := le d 8 4 + 128 * le d 12 4 - 1 }
  if a.number ≥ le d 12 4 then [g.bad m 0x08 a.pc a.pc]
  else if a.recordReserved then [g.bad m 0x04 a.pc a.pc]
  else
    (if a.matrixBad then [g.bad m 0x06 a.pc a.pc] else []) ++
    (if a.rangeBad then [g.bad m 0x07 a.pc a.pc] else []) ++
    (if ivsMeet a.writes [area] then [g.bad m 0x08 a.pc a.pc] else []) ++
    (if a.unitBad p g.core then [g.bad m 0x09 a.pc a.pc] else []) ++
    (match a.streamBad p g.core with | some id => [g.bad m 0x0D a.pc id] | none => [])

/-! ## Fill tasks (R133) -/

/-- The acts of the main program inside a window. -/
def Lane.within (main t : Lane) : List Act := main.acts.filter fun a => decide (t.arm < a.at') && decide (a.at' < t.join)

/-- Whether two windows share an instruction of the main program. -/
def Lane.overlaps (a b : Lane) : Bool := decide (a.arm < b.join) && decide (b.arm < a.join)

/-- Weight planes, as (engine, plane), that acts load. -/
def loadsOf (as : List Act) : List (Nat × Nat) :=
  as.flatMap fun a => match a.load with | some l => l.unit.engines.map fun e => (e, l.plane) | none => []

/-- Weight planes that acts stream rows through. -/
def readsOf (as : List Act) : List (Nat × Nat) :=
  as.flatMap fun a => match a.pass with | some p => p.unit.engines.map fun e => (e, p.plane) | none => []

/-- Streams that acts give rows to. -/
def drainsTo (as : List Act) : List Nat := as.flatMap fun a => match a.pass with | some p => p.dst.stream.toList | none => []

/-- Every stream that acts use. -/
def usedBy (as : List Act) : List Nat := as.flatMap fun a => a.uses.map (·.1)

/-- The accumulate-pass drains of acts: site, ordinal, running-sum bytes. -/
def sumsOf (as : List Act) : List (Nat × Nat × Nat × List Iv) :=
  as.filterMap fun a => match a.pass with
    | some p => if p.dest = 1 then some (a.pc, bits (le p.drain 40 4) 19 0, bits (le p.drain 40 4) 27 20, p.dst.touched p.accFmt p.rows (64 * p.blocks))
                else none
    | none => none

/-- Whether some element of one list is in the other. -/
def share {α : Type} [BEq α] (xs ys : List α) : Bool := xs.any fun x => ys.any (· == x)

/-- The conditions of Table 4.11 that a task breaks, but for those on tokens (conditions 4 and, of 8, the ready token). The other tasks of
conditions 2, 3, 5 and 6 are those whose windows share an instruction with the task's: condition 6 says "used by no other task" and names no
window for it. (log 184: DEDUCED) -/
def CoreRun.taskConditions (r : CoreRun) (p : Plan) (words : List Word64) (t : Lane) (i : Nat) : List Nat :=
  let others := (r.tasks.zipIdx.filter fun o => o.2 ≠ i ∧ t.overlaps o.1).map (·.1)
  let beside := r.main.within t ++ others.flatMap (·.acts)
  let w := t.acts.flatMap (·.writes)
  let rd := t.acts.flatMap (·.reads)
  let ow := beside.flatMap (·.writes)
  let ord := beside.flatMap (·.reads)
  let start := bits (p.entry r.core t.entry) 14 0
  let e := p.entry r.core t.entry
  let mine := loadsOf t.acts
  let readyAlso := (List.range 128).any fun j => j ≠ t.entry && bit (p.entry r.core j) 31 && bits (p.entry r.core j) 30 25 == bits e 30 25
  let waited := words.any fun x => wOp x == 0x10 && (waitOf x).1 == bits e 30 25
  let sums := sumsOf t.acts
  (if t.fate = 1 ∧ t.last - start ≤ 256 then [] else [1]) ++
  (if ivsMeet w (ow ++ ord) || (r.tasks.zipIdx.any fun o => o.2 != i && (sumsOf o.1.acts).any fun x =>
      sums.any fun y => ivsMeet x.2.2.2 y.2.2.2) then [2] else []) ++
  (if ivsMeet rd ow then [3] else []) ++
  (if share mine (loadsOf beside ++ readsOf beside) || share ((readsOf t.acts).filter fun x => !mine.contains x) (loadsOf beside) then [5] else []) ++
  (if (drainsTo t.acts).any fun id => (match p.stream? id with | some x => streamClass x != 5 | none => true) && (usedBy beside).contains id
    then [6] else []) ++
  (if bit e 31 && (readyAlso || waited) then [7] else [])

/-- Refusals of fill tasks: the first condition of each task, at its fill-arm. -/
def Prog.fillBads (g : Prog) (m : Img) (p : Plan) (r : CoreRun) : List Bad :=
  (r.misarmed.map fun x => g.bad m 0x0B x.1 (x.2 * 256 + 8)) ++
  r.tasks.zipIdx.flatMap fun x => (r.taskConditions p g.words x.1 x.2).map fun k => g.bad m 0x0B x.1.armPc (x.1.entry * 256 + k)

/-! ## Sites and counts (R114, R203, R204, R232) -/

/-- Accumulate-pass drains of one step that write overlapping running sums with one site and ordinal (R114). -/
def Prog.sumBads (g : Prog) (m : Img) (r : CoreRun) : List Bad :=
  let all := (r.lanes.flatMap fun l => sumsOf l.acts).zipIdx
  all.filterMap fun x =>
    if all.any fun y => decide (y.2 < x.2) && y.1.2.1 == x.1.2.1 && y.1.2.2.1 == x.1.2.2.1 && ivsMeet y.1.2.2.2 x.1.2.2.2 then
      some (g.bad m 0x0C x.1.1 x.1.1)
    else none

/-- How often a run executes an instruction. -/
def timesAt (run : List Exec) (pc : Nat) : Nat := (run.filter fun x => x.pc = pc).length

/-- Counts that the digest key cannot hold (R232). -/
def Prog.countBads (g : Prog) (m : Img) (r : CoreRun) : List Bad :=
  (List.range g.words.length).flatMap fun pc =>
    if timesAt r.main.run pc > 2 ^ 32 ∨ r.tasks.any (fun t => decide (timesAt t.run pc > 65536)) then [g.bad m 0x14 pc pc] else []

/-- Entries armed more than 65,536 times (R232). -/
def Prog.armBads (g : Prog) (m : Img) (r : CoreRun) : List Bad :=
  (List.range 128).flatMap fun e =>
    match r.tasks.filter fun t => t.entry = e with
    | t :: ts => if ts.length ≥ 65536 then [g.bad m 0x14 t.armPc t.armPc] else []
    | [] => []

/-- The passes of acts with a drain site: (site, engines). -/
def sitePasses (as : List Act) : List (Nat × List Nat) :=
  as.filterMap fun a => a.pass.map fun p => (bits (le p.drain 40 4) 19 0, p.unit.engines)

/-- Whether passes alternate, beginning with an input-gradient pass, each weight-gradient pass on engines of the one before. -/
def alternates (ig wg : Nat) : Option (List Nat) → List (Nat × List Nat) → Bool
  | _, [] => true
  | none, (s, es) :: rest => s == ig && alternates ig wg (some es) rest
  | some us, (s, es) :: rest => s == wg && es.all us.contains && alternates ig wg none rest

/-- Whether a product breaks the rule of its arrangement (R204). -/
def productBad (rs : List CoreRun) (v : Nat) : Bool :=
  let ig := bits v 39 20
  let wg := bits v 19 0
  match rs.find? fun r => r.core = bits v 61 55 with
  | none => false
  | some r =>
    let main := sitePasses r.main.acts
    let tasks := r.tasks.flatMap fun t => sitePasses t.acts
    if bits v 63 62 = 0 then main.any fun x => x.1 == wg
    else (tasks.any fun x => x.1 == ig || x.1 == wg) || !alternates ig wg none (main.filter fun x => x.1 == ig || x.1 == wg)

/-- Refusals of the backward product table (R203, R204). -/
def Img.productBads (m : Img) (rs : List CoreRun) : List Bad :=
  (m.fixed 0x0C).zipIdx.flatMap fun x =>
    let v := ofLe x.1.2
    let sites := fun (v : Nat) => [bits v 39 20, bits v 19 0]
    let again := ((m.fixed 0x0C).take x.2).any fun y => bits (ofLe y.2) 61 55 == bits v 61 55 && share (sites (ofLe y.2)) (sites v)
    if x.2 ≥ 4096 ∨ bits v 61 55 ≥ 96 ∨ again ∨ productBad rs v then [m.bad 0x11 x.1.1 0x0C x.2 0xFFFF x.2] else []

/-! ## The whole of a core, declarations and tables -/

/-- Refusals of a core's program and of what it does. -/
def Prog.bads (g : Prog) (m : Img) (s : State) (p : Plan) (r : CoreRun) : List Bad :=
  let fates := (if r.main.fate = 2 ∨ r.main.fate = 3 then [g.bad m 0x08 (min r.main.last (g.words.length - 1)) (min r.main.last (g.words.length - 1))] else []) ++
    r.tasks.flatMap fun t => if t.fate = 2 then [g.bad m 0x08 t.last t.last] else []
  g.wordBads m s p ++
  (if g.words.any wordReserved then []
   else fates ++ (r.lanes.flatMap fun l => l.acts.flatMap (g.actBads m p)) ++ g.fillBads m p r ++ g.sumBads m r ++ g.countBads m r ++ g.armBads m r)

/-- Refusals of declarations: the argument area (R105), initial counts above depths (R122), records beyond the declared
count. -/
def Img.declBads (m : Img) (p : Plan) : List Bad :=
  ((m.fixed 0x03).zipIdx.flatMap fun x =>
    let r := x.1.2
    let c := le r 0 4
    (if le r 8 4 % 128 ≠ 0 ∨ le r 12 4 > 65536 ∨ le r 8 4 + 128 * le r 12 4 > 0x2000000 then [m.bad 0x08 (x.1.1 + 8) 0x03 x.2 c 0] else []) ++
    (List.range 64).flatMap fun q => if le r (17 + 2 * q) 1 > le r (16 + 2 * q) 1 then [m.bad 0x0A (x.1.1 + 16 + 2 * q) 0x03 x.2 c q] else []) ++
  (m.varied 0x11).zipIdx.flatMap fun x =>
    let c := le x.1.2 0 4
    if le x.1.2 4 4 > (match Tab.find? p.decls c with | some d => le d 12 4 | none => 0) then [m.bad 0x08 (x.1.1 + 4) 0x11 x.2 c 0] else []

/-- Refusals of function tables (R119) and their reserved fields. -/
def Img.tablesBads (m : Img) : List Bad :=
  (m.fixed 0x04).zipIdx.flatMap fun x =>
    let c := le x.1.2 0 4
    let store := x.1.2.drop 4
    (List.range 32).flatMap fun t =>
      let h := slice (store.drop (32 * t)) 0 32
      let at' := x.1.1 + 4 + 32 * t
      if le h 11 1 > 1 ∨ !zeroAt h 20 12 then [m.bad 0x04 at' 0x04 x.2 c 0]
      else if le h 11 1 = 1 ∧ tableBad store t then [m.bad 0x09 at' 0x04 x.2 c t] else []

/-- Declarations, function tables and argument records of a retired core (R34). -/
def Img.retiredBads (m : Img) (s : State) : List Bad :=
  [(0x03, m.fixed 0x03), (0x04, m.fixed 0x04), (0x11, m.varied 0x11)].flatMap fun t => t.2.zipIdx.flatMap fun x =>
    let c := le x.1.2 0 4
    if s.repair.retiredCores.contains c then [m.bad 0x18 x.1.1 t.1 x.2 c c] else []

/-- Refusals of the core-group table (R15). -/
def Img.groupBads (m : Img) : List Bad :=
  (m.fixed 0x08).zipIdx.flatMap fun x => if ofLe x.1.2 = 0 ∨ x.2 ≥ 256 then [m.bad 0x05 x.1.1 0x08 x.2 0xFFFF x.2] else []

end Sys2Proof.Machine
end

