-- ==== Sys2Proof/Machine/PlanStreams.lean ====
section
/-! DEFINITION. The validator's rules for streams, their rings, lode chains, arena transforms, weight digests, update lists and
instruments (R141 to R153, R156, R164 to R166, R170, R207, R210, R214, R215, R227, R231, R402). -/

namespace Sys2Proof.Machine

/-! ## The stream table (R141 to R144) -/

/-- Reserved fields and codes of a stream table entry (Table 5.3). -/
def entryReserved (e : Rec) : Bool :=
  let k := le e 9 1
  decide (bits (le e 0 8) 63 48 ≠ 0) || decide (le e 8 1 > 16) || bit k 6 || decide (bits k 2 0 ≥ 6) || decide (bits (le e 10 1) 7 6 ≠ 0) ||
  (!bit k 3 && decide (le e 10 1 ≠ 0)) || (bit k 3 && (decide (bits (le e 10 1) 2 0 = 7) || decide (bits (le e 10 1) 5 3 = 7))) || !zeroAt e 11 1 || decide (bits (le e 12 4) 31 17 ≠ 0) || decide (bits (le e 16 2) 15 13 ≠ 0) ||
  decide (bits (le e 18 2) 15 13 ≠ 0) || !zeroAt e 20 4

/-- Whether a class may stand on an identifier (Table 5.2). -/
def classAllowed (cls id : Nat) : Bool :=
  let core := (ownerCore id).isSome
  match cls with
  | 0 => core
  | 1 => core
  | 2 => true
  | _ => !core

/-- Bytes of a slot. -/
def slotBytes (e : Rec) : Nat := if pebbleRing e then 16 else 64

/-- Whether a range lies within one region of a context. -/
def Context.oneRegion (c : Context) (a n : Nat) : Bool :=
  c.regions.any fun r => decide (r.2.base ≤ a) && decide (a + n ≤ r.2.base + r.2.size)

/-- A present entry that R141 to R145 refuse. -/
def entryBad (c : Context) (id : Nat) (e : Rec) : Bool :=
  let cls := streamClass e
  let k := le e 9 1
  decide (id ≥ 0x8000) || !classAllowed cls id || (pebbleRing e && pebbleKindsBad e) || decide (le e 0 8 % 4096 ≠ 0) || decide (bits (le e 12 4) 16 0 > ringSize e) ||
  (bit k 5 && (cls == 2 || cls == 5)) || (bit k 4 && cls != 4) || !c.oneRegion (le e 0 8) (ringSize e * slotBytes e)

/-- Whether the entry format differs from the class's configured path (R142). -/
def State.pathDiffers (s : State) (e : Rec) : Bool :=
  let cls := streamClass e
  (bits s.cfg.paths (2 * cls + 1) (2 * cls) == 3) != pebbleRing e

/-- The number of a failed device, for a refusal's detail. -/
def State.failedDevice (s : State) : Nat := ((List.range 24).find? fun d => (s.mem d).failed.isSome).getD 0

/-- Whether an address lies in a window that a failed device unmapped (R198). (log 48: DEDUCED) -/
def State.unmapped (s : State) (a : Nat) : Bool := match windowOf a with | some w => !s.windowMapped w | none => false

/-- Refusals of the stream table. -/
def Img.streamBads (m : Img) (s : State) (c : Context) : List Bad :=
  (m.fixed 0x05).zipIdx.flatMap fun x =>
    let id := le x.1.2 0 4
    let e := x.1.2.drop 4
    let b := fun (code detail : Nat) => m.bad code x.1.1 0x05 x.2 0xFFFF detail
    if entryReserved e then [b 0x04 0]
    else if ((m.fixed 0x05).take x.2).any fun y => le y.2 0 4 == id then [b 0x0D id]
    else if !bit (le e 9 1) 7 then []
    else
      (if entryBad c id e then [b 0x0D id] else []) ++
      (match ownerCore id with | some k => if s.repair.retiredCores.contains k then [b 0x18 k] else [] | none => []) ++
      (if s.unmapped (le e 0 8) then [b 0x18 s.failedDevice] else []) ++
      (if s.pathDiffers e then [b 0x19 id] else [])

/-! ## Ring images (R147 to R151, R156) -/

/-- Reserved fields and codes of a descriptor (Table 5.4). -/
def descReserved (d : Rec) : Bool :=
  let c := le d 0 4
  decide (bits c 8 0 ≠ 0) || decide (bits c 24 23 = 3) || decide (bits c 30 28 = 7) || decide (bits c 27 25 = 7) ||
  decide (bits (le d 56 2) 15 13 ≠ 0) || decide (bits (le d 58 2) 15 13 ≠ 0) || bit (le d 60 2) 15 || decide (bits (le d 62 2) 15 12 ≠ 0)

/-- Reserved fields of a pebble entry in its 64 bytes. -/
def pebbleReserved (d : Rec) : Bool := decide (bits (le d 13 1) 4 0 ≠ 0) || !zeroAt d 14 2

/-- A pebble entry that R156 refuses. -/
def pebbleRefused (id : Nat) (e d : Rec) : Bool := pebbleBad id e d || !zeroAt d 16 48

/-- Queues that a slot's transfers name: the gate's and the signal's. -/
def Xfer.queues (x : Xfer) : List (Nat × Nat) := (if x.gate then [x.gateQ] else []) ++ (if x.signal then [x.sigQ] else [])

/-- A gate or signal that R151 refuses for a stream. -/
def queuesBad (id : Nat) (x : Xfer) : Bool :=
  (x.gate && (decide (x.gateQ.1 ≥ 96) || (ownerCore id).any (fun c => c != x.gateQ.1))) || (x.signal && decide (x.sigQ.1 ≥ 96))

/-- The scratchpad bytes a side touches, as (core, interval). -/
def Side.scratch (d : Side) (x : Xfer) (len k : Nat) : List (Nat × Iv) :=
  if d.kind ≠ 1 then []
  else (List.range x.rows).flatMap fun j =>
    let (v, f) := d.at x k j
    let a := bits v 24 0
    let b := bits f 24 0
    (bits d.addr 31 25, { lo := a, hi := a + len - 1 }) :: (if x.sfx = 0 then [] else [(bits d.addr 31 25, { lo := b, hi := b + x.sfx - 1 })])

/-- The device addresses a slot's sides name (R198). -/
def Xfer.addresses (x : Xfer) : List Nat :=
  (if x.src = 0 then x.srcAddr :: (if x.sfx = 0 then [] else [x.srcSfx]) else []) ++
  (if x.dst = 0 then x.dstAddr :: (if x.sfx = 0 then [] else [x.dstSfx]) else [])

/-- A transform descriptor that R207, R210 or R211 refuses. -/
def arenaBad (cls : Nat) (x : Xfer) : Bool :=
  decide (x.transform ≠ 0) &&
  (x.sfx == 0 || !([32, 64, 128].any fun n => x.rowBytes == n * x.sfx) || x.srcBuf != 0 || x.dstBuf != 0 ||
   (x.transform == 1 && (if cls = 0 then x.srcAddr != 0 || x.srcRow != 0 || x.srcStep != 0
                         else x.dstRow != 0 || x.dstStep != 0 || decide (x.dstAddr % 64 ≠ 0))))

/-- The ring image of a slot, if the plan gives one. -/
def Plan.slotAt (p : Plan) (id slot : Nat) : Option Rec := (p.rings.find? fun r => r.1 == id && r.2.1 == slot).map (·.2.2)

/-- Whether a slot is the first of its stream that compresses, and has no cursor to start from (R210). -/
def Plan.cursorless (p : Plan) (id slot : Nat) (x : Xfer) : Bool :=
  x.transform == 1 && x.dstAddr == 0 &&
  !((List.range slot).any fun i => match p.slotAt id i with | some d => (descOf d).transform == 1 | none => false)

/-- Whether passes give a stream's flow side I32 rows, or take such rows from it (R149, R207). -/
def wideRows (rs : List CoreRun) (id : Nat) : Bool :=
  rs.any fun r => r.lanes.any fun l => l.acts.any fun a => match a.pass with
    | some p => p.accFmt == 3 && (p.dst.stream == some id || p.preload.any fun q => (refAt q.2 0).stream == some id)
    | none => false

/-- The cores whose scratchpads or queues a slot's transfers name. -/
def Xfer.cores (x : Xfer) : List Nat :=
  (if x.src = 1 then [bits x.srcAddr 31 25] else []) ++ (if x.dst = 1 then [bits x.dstAddr 31 25] else []) ++ x.queues.map (·.1)

/-- Refusals of one ring image record. -/
def ringBads (m : Img) (s : State) (p : Plan) (rs : List CoreRun) (off i id slot : Nat) (d : Rec) : List Bad :=
  let b := fun (code detail : Nat) => m.bad code off 0x06 i 0xFFFF detail
  match p.stream? id with
  | none => [b 0x0D id]
  | some e =>
    let cls := streamClass e
    let x := xferOf e d
    if slot ≥ ringSize e then [b 0x0D id]
    else if if pebbleRing e then pebbleReserved d else descReserved d then [b 0x04 0]
    else if (if pebbleRing e then pebbleRefused id e d else descBad cls id d) || queuesBad id x || (x.link && (p.stream? x.linkTo).isNone) ||
      (cls == 4 && !pebbleRing e && s.residentCtx.any (·.confidential) && (x.sfx != 0 || x.transform != 0))
      then [b 0x0D id]
    else
      (x.queues.flatMap fun q => if p.depth q.1 q.2 = 0 then [m.bad 0x0A off 0x06 i q.1 q.2] else []) ++
      (if (List.range x.count).any fun k => (x.to.scratch x x.rowBytes k).any fun t =>
          match Tab.find? p.decls t.1 with
          | some a => decide (le a 12 4 ≠ 0) && t.2.meets { lo := le a 8 4, hi := le a 8 4 + 128 * le a 12 4 - 1 }
          | none => false
        then [b 0x08 0] else []) ++
      (if (x.digest || x.final) && (p.rings.any fun r => r.1 != id && (match p.stream? r.1 with
          | some e' => !pebbleRing e' && ((descOf r.2.2).digest || (descOf r.2.2).final) && (descOf r.2.2).slot == x.slot
          | none => false)) then [b 0x10 x.slot] else []) ++
      (match x.cores.find? s.repair.retiredCores.contains with | some c => [b 0x18 c] | none => []) ++
      (if arenaBad cls x || (x.transform != 0 && (if cls = 0 then x.dst == 3 else x.src == 3) && wideRows rs id) || (cls != 0 && p.cursorless id slot x) then [b 0x12 id] else []) ++
      (if x.addresses.any s.unmapped then [b 0x18 s.failedDevice] else [])

/-- Refusals of the ring images. -/
def Img.ringsBads (m : Img) (s : State) (p : Plan) (rs : List CoreRun) : List Bad :=
  (m.fixed 0x06).zipIdx.flatMap fun x => ringBads m s p rs x.1.1 x.2 (le x.1.2 0 4) (le x.1.2 4 4) (x.1.2.drop 8)

/-! ## Slots a step runs (R145, R159) -/

/-- The descriptors of the first `n` slots of a stream, in ring order. -/
def Plan.firstSlots (p : Plan) (id n : Nat) : List Xfer :=
  match p.stream? id with
  | some e => (List.range n).filterMap fun i => (p.slotAt id (i % ringSize e)).map (xferOf e)
  | none => []

/-- Slots each stream runs in a step when each of a number of them completes: the initial ones and one for each arm link. -/
def Plan.armedWith (p : Plan) (t : Tbl Nat) : Tbl Nat :=
  let links := t.flatMap fun x => ((p.firstSlots x.1 x.2).filter (·.link)).map (·.linkTo)
  t.map fun x => (x.1, (match p.stream? x.1 with | some e => bits (le e 12 4) 16 0 | none => 0) + (links.filter (· = x.1)).length)

/-- Iterate to the slots a step runs; every round but the last adds a link. -/
def Plan.armedAfter (p : Plan) : Nat → Tbl Nat → Tbl Nat
  | 0, t => t
  | n + 1, t => let t' := p.armedWith t; if t' = t then t else p.armedAfter n t'

/-- Slots that each stream of classes 0, 1, 2, 3 and 5 runs in a step by the plan's own arms. -/
def Plan.armed (p : Plan) : Tbl Nat :=
  p.armedAfter (2 ^ 40) ((p.streams.filter fun x => bit (le x.2 9 1) 7 && streamClass x.2 != 4).map fun x => (x.1, 0))

/-- The transfers of a stream in a step, in order, as (slot's transfers, transfer number within it). -/
def Plan.transfers (p : Plan) (armed : Tbl Nat) (id : Nat) : List (Xfer × Nat) :=
  (p.firstSlots id (Tab.get 0 armed id)).flatMap fun x => (List.range x.count).map fun k => (x, k)

/-! ## Lode chains (R164 to R166) -/

/-- A head descriptor that R165 refuses. -/
def headBad (x : Xfer) : Bool :=
  x.rows != 64 || x.sfx != 1 || !([32, 64, 128].contains x.rowBytes) || decide (x.srcRow ≠ (x.rowBytes : Int)) ||
  decide (x.srcStep ≠ (64 * x.rowBytes : Nat)) || x.srcBuf != 0

/-- Whether a chain breaks R164, R165 or R166. -/
def Plan.chainBad (p : Plan) (armed : Tbl Nat) (i : Nat) (head : Nat) (ms : List Nat) : Bool :=
  let isLode := fun (id : Nat) => match p.stream? id with | some e => streamClass e == 2 | none => false
  let slots := fun (id : Nat) => (p.rings.filter fun r => r.1 == id).map fun r => descOf r.2.2
  let bytes := ((slots head).head?.map (·.rowBytes)).getD 0
  let tiles := (p.transfers armed head).length
  let cores := ms.filterMap ownerCore
  decide (i ≥ 32) || (ownerCore head).isSome || !isLode head || ms.isEmpty || decide (ms.length > 96) || decide (cores.length ≠ ms.length) ||
  decide (cores.eraseDups.length ≠ ms.length) || ms.any (fun id => !isLode id) || ms.head?.any (fun id => ownerDie id != ownerDie head) ||
  (p.lodes.zipIdx.any fun y => y.2 != i && (y.1.1 == head || share y.1.2 ms)) ||
  (slots head).any (fun x => headBad x || x.rowBytes != bytes) ||
  ms.any (fun id => (slots id).any (fun x => x.rowBytes != bytes || x.sfx != 1) || (p.transfers armed id).length != tiles)

/-- Refusals of lode chains; a class 2 stream of no chain is one too. -/
def Img.lodeBads (m : Img) (p : Plan) (armed : Tbl Nat) : List Bad :=
  ((m.varied 0x09).zipIdx.flatMap fun x =>
    if p.chainBad armed x.2 (le x.1.2 0 4) ((unitsOf 0x09 x.1.2).map ofLe) then [m.bad 0x0F x.1.1 0x09 x.2 0xFFFF x.2] else []) ++
  (m.fixed 0x05).zipIdx.flatMap fun x =>
    let id := le x.1.2 0 4
    match p.stream? id with
    | some e => if streamClass e = 2 ∧ !(p.lodes.any fun y => y.1 == id || y.2.contains id) then [m.bad 0x0F x.1.1 0x05 x.2 0xFFFF 0] else []
    | none => []

/-! ## Update lists, instruments, scale updates (R214, R215, R227, R231) -/

/-- The device addresses an update entry names. -/
def updateAddresses (r : Rec) : List Nat :=
  [8, 14, 20, 50, 56, 74, 94].map (fun o => le r o 6) ++ (if bits (le r 0 4) 31 30 ≥ 1 then [le r 26 6, le r 32 6] else []) ++
  (if bits (le r 0 4) 31 30 = 2 then [le r 38 6, le r 44 6] else []) ++ (if bit (le r 0 4) 29 then [le r 62 6, le r 68 6] else [])

/-- Refusals of update lists. -/
def Img.updateBads (m : Img) (s : State) (p : Plan) : List Bad :=
  (m.varied 0x0D).zipIdx.flatMap fun x =>
    let d := le x.1.2 0 4
    (unitsOf 0x0D x.1.2).zipIdx.flatMap fun u =>
      let at' := x.1.1 + 8 + 128 * u.2
      let qs := [queueOf (le u.1 80 2), queueOf (le u.1 82 2)]
      (if u.2 ≥ 1024 ∨ le u.1 4 4 = 0 ∨ qs.any (fun q => decide (q.1 ≥ 96)) then [m.bad 0x13 at' 0x0D x.2 0xFFFF d] else []) ++
      (qs.flatMap fun q => if q.1 < 96 ∧ p.depth q.1 q.2 = 0 then [m.bad 0x0A at' 0x0D x.2 q.1 q.2] else []) ++
      (match qs.find? fun q => s.repair.retiredCores.contains q.1 with | some q => [m.bad 0x18 at' 0x0D x.2 q.1 q.1] | none => []) ++
      (if (updateAddresses u.1).any s.unmapped then [m.bad 0x18 at' 0x0D x.2 0xFFFF s.failedDevice] else [])

/-- Refusals of the instrument table's address, of scale update records, and of settings in unmapped windows. (log 47: DEDUCED) -/
def Img.instrumentBads (m : Img) (s : State) (c : Context) : List Bad :=
  let set := m.body 0x01
  let a := le set 8 8
  (if a % 64 ≠ 0 ∨ s.rangeCheck c true a (64 * 4096) = .denied then [m.bad 0x14 (m.base 0x01 + 8) 0x01 0 0xFFFF 0] else []) ++
  (if s.unmapped a || s.unmapped (le set 16 8) then [m.bad 0x18 (m.base 0x01 + 8) 0x01 0 0xFFFF s.failedDevice] else []) ++
  (m.fixed 0x0F).zipIdx.flatMap fun x =>
    let e := bits (ofLe x.1.2) 31 20
    if x.2 ≥ 1024 ∨ ((m.fixed 0x0F).take x.2).any (fun y => bits (ofLe y.2) 31 20 = e) then [m.bad 0x14 x.1.1 0x0F x.2 0xFFFF x.2] else []

end Sys2Proof.Machine
end

