-- ==== Sys2Proof/Machine/PlanRing.lean ====
section
/-! DEFINITION. The validator's rules for the ring: plane table and detours (R241, R267, R299), the collective table (R244, R247,
R248, R255), member links and gangs (R260, R280, R332). -/

namespace Sys2Proof.Machine

/-! ## Planes and detours -/

/-- Reserved fields of a plane table entry; a used plane of length 1 has neither ports nor peers (R241). -/
def planeReserved (e : Rec) : Bool :=
  decide (bits (le e 0 2) 14 12 ≠ 0) || decide (bits (le e 2 2) 15 12 ≠ 0) || decide (bits (le e 4 1) 7 5 ≠ 0) ||
  decide (bits (le e 5 1) 7 5 ≠ 0) || !zeroAt e 6 2 || decide (bits (le e 8 4) 31 17 ≠ 0) || decide (bits (le e 12 4) 31 17 ≠ 0) ||
  (planeUsed e && planeLen e == 1 && (!zeroAt e 4 2 || !zeroAt e 8 8))

/-- The plane table of a plan. -/
def Plan.planeAt (p : Plan) (q : Nat) : Rec := ((p.planes[q]?).map (·.1)).getD (zeros 16)

/-- Ports that a plane's length gives it. -/
def planePorts (e : Rec) : List Nat := if planeUsed e && planeLen e != 1 then [planeDown e, planeUp e] else []

/-- A used plane that R241 refuses. -/
def Plan.planeBad (p : Plan) (q : Nat) : Bool :=
  let e := p.planeAt q
  planeUsed e && (decide (planePos e ≥ planeLen e) ||
    (planeLen e != 1 && (planeDown e == planeUp e || decide (planeDown e > 23) || decide (planeUp e > 23) ||
      (List.range 12).any fun r => r != q && share (planePorts e) (planePorts (p.planeAt r)))))

/-- Refusals of the plane table and the detour entries. (log 40: DEDUCED; log 41: DEDUCED) -/
def Img.planeBads (m : Img) (s : State) (p : Plan) : List Bad :=
  (List.range 12).flatMap fun q =>
    let e := p.planeAt q
    let at' := m.base 0x0A + 16 * q
    (if planeReserved e then [m.bad 0x04 at' 0x0A q 0xFFFF 0] else []) ++
    (if p.planeBad q then [m.bad 0x15 at' 0x0A q 0xFFFF q] else []) ++
    (match (planePorts e).find? fun x => s.repair.retiredPorts.contains x with | some x => [m.bad 0x18 (at' + 4) 0x0A q 0xFFFF x] | none => []) ++
    (List.range 4).flatMap fun i =>
      let w := le (p.detours.getD q (zeros 16)) (4 * i) 4
      let off := m.base 0x0A + 192 + 16 * q + 4 * i
      let n := bits w 31 29
      if bits w 28 20 ≠ 0 then [m.bad 0x04 off 0x0A (12 + q) 0xFFFF 0]
      else if n > 4 ∨ (List.range n).any (fun h => decide (bits w (5 * h + 4) (5 * h + 1) ≥ 12)) then [m.bad 0x15 off 0x0A (12 + q) 0xFFFF q]
      else []

/-! ## The collective table (R244) -/

/-- Whether a class 5 stream's ring images take their rows from engines. -/
def Plan.engineFed (p : Plan) (id : Nat) : Bool := id != 0 && p.rings.any fun r => r.1 == id && (descOf r.2.2).src == 3

/-- Reserved levels, fields and values of a unit descriptor (Table 1.2). -/
def unitReserved (d : Nat) : Bool :=
  match bits d 31 29 with
  | 0 => decide (bits d 17 0 ≠ 0)
  | 1 => decide (bits d 17 16 = 0) || decide (bits d 15 14 = 3) || decide (bits d 13 0 ≠ 0)
  | 2 => decide (bits d 21 0 ≠ 0)
  | 3 => if bit d 28 then decide (bits d 27 8 ≠ 0) else decide (bits d 13 0 ≠ 0)
  | 4 => decide (bits d 26 0 ≠ 0)
  | 5 => if bit d 28 then decide (bits d 27 0 ≠ 0) else decide (bits d 27 17 ≠ 0)
  | 6 => bit d 0 || decide (bits d 28 25 ≥ 12)
  | _ => true

/-- A unit descriptor that R14 refuses in a plan: a core or engine that does not exist, a seam or a range that leaves its level, a core
group the plan does not hold, a chip group whose plane is not used or of which it names more positions than the ring has. -/
def Plan.unitBad (p : Plan) (d : Nat) : Bool :=
  match bits d 31 29 with
  | 0 => decide (bits d 28 22 > 95) || decide (bits d 21 18 > 11)
  | 1 =>
    let c := 2 ^ bits d 15 14
    decide (bits d 28 22 > 95) || decide (bits d 21 20 + bits d 17 16 > 3) || decide (bits d 19 18 + c > 4) || decide (bits d 19 18 % c ≠ 0)
  | 2 => decide (bits d 28 22 > 95)
  | 3 => if bit d 28 then decide (bits d 7 0 ≥ p.groups.length) else decide (bits d 27 21 + bits d 20 14 + 1 > 96)
  | 6 =>
    let e := p.planeAt (bits d 28 25)
    !planeUsed e || decide (bits d 12 1 + 1 > planeLen e)
  | _ => false

/-- Bits that Table 8.3 lists for no field, in any entry, present or not, and the fields that kind 2 reserves. The bits above the count are a count beyond its limit (Table 8.15), but for kind 2. -/
def collUnlisted (e : Rec) : Bool :=
  (collKind e == 2 && (le e 2 1 != 0 || !zeroAt e 8 4)) ||
  decide (bits (le e 2 1) 7 2 ≠ 0) || !zeroAt e 3 1 || (collKind e == 2 && decide (bits (le e 4 4) 31 26 ≠ 0)) || bit (le e 8 2) 15 ||
  bit (le e 10 2) 15 || decide (bits (le e 16 4) 31 27 ≠ 0) || decide (bits (le e 20 2) 15 12 ≠ 0) || decide (bits (le e 22 2) 14 12 ≠ 0) ||
  decide (bits (le e 24 2) 15 13 ≠ 0) || decide (bits (le e 26 2) 15 13 ≠ 0) || !zeroAt e 40 8

/-- Reserved fields and codes of a present collective table entry (Table 8.3): a field that a kind does not take is reserved
in it. -/
def collReserved (p : Plan) (e : Rec) : Bool :=
  let k := collKind e
  collUnlisted e || (k != 2 && collFmt e == 0) ||
  (!p.engineFed (collIn e) && !zeroAt e 16 4) || ((k == 0 || k == 3) && !zeroAt e 20 2) || (decide (k ≥ 2) && !zeroAt e 22 2) ||
  (k != 2 && !zeroAt e 24 4) || (collGroup e != 0 && unitReserved (collGroup e))

/-- An entry that R244 refuses. -/
def Plan.collBad (p : Plan) (e : Rec) : Bool :=
  let ps := collPlanes e
  let lens := ps.map fun q => planeLen (p.planeAt q)
  let cls5 := fun (id : Nat) => id == 0 || (match p.stream? id with | some x => streamClass x == 5 | none => true)
  ps.isEmpty || ps.any (fun q => !planeUsed (p.planeAt q)) || lens.any (fun l => l != lens.getD 0 1) ||
  (collGroup e != 0 && (bits (collGroup e) 31 29 != 6 || bits (collGroup e) 28 25 != ps.getD 0 0)) ||
  (collKind e == 2 && (ps.length != 1 || decide (collCount e > 64) || decide (collEntry e + collCount e > 4096) ||
    decide ((collGate e).1 ≥ 96) || decide ((collSignal e).1 ≥ 96))) ||
  (collKind e != 2 && (!cls5 (collIn e) || !cls5 (collOut e) ||
    (p.engineFed (collIn e) && decide ((p.colls.filter fun x => collPresent x && collKind x != 2 && collIn x == collIn e).length > 1))))

/-- The row bytes and suffix of a format's ring rows (R247). -/
def ringRow (f : Nat) : Nat × Nat := (64 * fmtBits f / 8, if f = 3 then 9 else 1)

/-- The format a collective writes. -/
def collOutFmt (e : Rec) : Nat := match collKind e with | 0 => 2 | 1 => 1 | _ => collFmt e

/-- A descriptor of a collective's stream whose sides or rows do not fit the collective (R247). -/
def collDescBad (e : Rec) (out : Bool) (x : Xfer) : Bool :=
  let want := ringRow (if out then collOutFmt e else collFmt e)
  (if out then !(x.src == 4 && decide (x.dst ≤ 1)) else !(x.dst == 4 && [0, 1, 3].contains x.src)) || x.rows != 64 || x.rowBytes != want.1 ||
  x.sfx != want.2

/-- The tiles that drains deliver to a stream, over every lane of every core (R248), with each pass's bases. -/
def deliveries (rs : List CoreRun) (id w : Nat) : List (Nat × Nat × List Nat) :=
  rs.flatMap fun r => r.lanes.flatMap fun l => l.acts.filterMap fun a => match a.pass with
    | some p => if p.dst.stream = some id then
        some (le p.drain 24 4, le p.drain 28 4, (List.range p.tileRows).flatMap fun t => (List.range p.blocks).map fun b =>
          (le p.drain 24 4 / 64 + t) * w + le p.drain 28 4 / 64 + b)
      else none
    | none => none

/-- Deliveries that R248 refuses. -/
def deliveryBad (s : State) (rs : List CoreRun) (e : Rec) : Bool :=
  let ds := deliveries rs (collIn e) (collCols e)
  let bs := ds.flatMap (·.2.2)
  let want := if collKind e = 1 then s.ownedBlocks e else List.range (collCount e)
  ds.any (fun d => decide (d.1 % 64 ≠ 0) || decide (d.2.1 % 64 ≠ 0)) || bs.any (fun b => !want.contains b) ||
  want.any fun b => (bs.filter (· = b)).length != 1

/-- Refusals of the collective table, seen from a state in which the plan is the resident context's. -/
def Img.collBads (m : Img) (s : State) (p : Plan) (rs : List CoreRun) : List Bad :=
  (m.fixed 0x0B).zipIdx.flatMap fun x =>
    let e := x.1.2
    let b := fun (code core detail : Nat) => m.bad code x.1.1 0x0B x.2 core detail
    if x.2 ≥ 65536 then [b 0x17 0xFFFF 0]
    else if !collPresent e then (if collUnlisted e then [b 0x04 0xFFFF 0] else [])
    else if collReserved p e then [b 0x04 0xFFFF 0]
    else if collGroup e ≠ 0 ∧ p.unitBad (collGroup e) then [b 0x05 0xFFFF 0]
    else
      (if collKind e ≠ 2 ∧ bits (le e 4 4) 31 26 ≠ 0 then [b 0x17 0xFFFF 0] else []) ++
      (if collKind e = 2 then (match [collGate e, collSignal e].find? fun q => s.repair.retiredCores.contains q.1 with
        | some q => [b 0x18 q.1 q.1] | none => []) else []) ++
      (if collKind e = 2 then
         [collGate e, collSignal e].flatMap fun q => if q.1 < 96 ∧ p.depth q.1 q.2 = 0 then [m.bad 0x0A x.1.1 0x0B x.2 q.1 q.2] else []
       else [collIn e, collOut e].flatMap fun id => if id ≠ 0 ∧ (p.stream? id).isNone then [b 0x0D 0xFFFF id] else []) ++
      (if p.collBad e then [b 0x16 0xFFFF x.2]
       else
         (if collKind e ≠ 2 ∧ p.engineFed (collIn e) ∧ bits (le e 4 4) 31 26 = 0 ∧ deliveryBad s rs e then [b 0x16 0xFFFF x.2] else []) ++
         (if collKind e = 2 then [] else
           (m.fixed 0x06).zipIdx.flatMap fun y =>
             let id := le y.1.2 0 4
             let d := descOf (y.1.2.drop 8)
             if (id = collIn e ∧ id ≠ 0 ∧ collDescBad e false d) ∨ (id = collOut e ∧ id ≠ 0 ∧ collDescBad e true d) then
               [m.bad 0x16 y.1.1 0x06 y.2 0xFFFF x.2] else [])) ++
      (if [collTiles e, collRecord e].any (fun a => a ≠ 0 && s.unmapped a) then [b 0x18 0xFFFF s.failedDevice] else [])

/-- Drains into a class 5 stream that no collective takes its input from. -/
def Prog.strayBads (g : Prog) (m : Img) (p : Plan) (r : CoreRun) : List Bad :=
  r.lanes.flatMap fun l => l.acts.flatMap fun a => (drainsTo [a]).flatMap fun id => match p.stream? id with
    | some e => if streamClass e = 5 ∧ !(p.colls.any fun x => collPresent x && collKind x != 2 && collIn x == id) then [g.bad m 0x16 a.pc 0] else []
    | none => []

/-! ## Member links and gangs (R260, R332) -/

/-- Peer positions that a plan's collectives give a plane: upstream or downstream. -/
def State.peersOf (s : State) (p : Plan) (q : Nat) (up : Bool) : List Nat :=
  (p.colls.filterMap fun e =>
    if !collPresent e || !(collPlanes e).contains q then none
    else match s.logical e q with
      | some (x, l) => if l ≤ 1 then none else some (s.physical e q ((if up then x + l - 1 else x + 1) % l))
      | none => none).eraseDups

/-- Whether an edge direction cannot hold a plan's gangs (R332): more than 72 groups, too few pool groups, or fewer than 16
half-width units left in the pool. -/
def State.gangBad (s : State) (p : Plan) : Option ((Nat × Nat) × Nat) :=
  let t := ({ s with edges := s.edges.map fun e => (e.1, { e.2 with bound := [] }) } : State).dealGangs p
  p.gangNeeds.find? fun x =>
    let k := t.edge x.1.1 x.1.2
    decide (x.2 > 72) || decide (k.ganged.length < x.2) ||
    decide (k.poolUnits < 16)

/-- Refusals of limits. -/
def Img.limitBads (m : Img) (s : State) (p : Plan) : List Bad :=
  ((List.range 12).flatMap fun q =>
    if (s.peersOf p q true).length > 8 ∨ (s.peersOf p q false).length > 8 then [m.bad 0x17 (m.base 0x0A + 16 * q) 0x0A q 0xFFFF q] else []) ++
  match s.gangBad p with
  | some x => [m.bad 0x17 (m.base 0x0A) 0x0A 0 0xFFFF (edgeNumber x.1.1 x.1.2).1]
  | none => []

end Sys2Proof.Machine
end

