-- ==== Sys2Proof/Machine/PlanOrder.lean ====
section
/-! DEFINITION. The validator's rules on tokens and on the order they give (R127, R133 condition 4, R153, R214, R256): what each
agent of a step does in order, the balance of every queue, and whether a chain of tokens orders every pair of conflicting
accesses. -/

namespace Sys2Proof.Machine

/-! ## What the agents of a step do -/

/-- Where the chunk of a compressing transfer can stand (R210): the stream, the run of its cursor since that was set, the chunk's number in
the run, its directory entry, and the first byte and the end of where it may lie. Chunks of one run follow each other and share no byte. -/
structure ArenaChunk where
  stream : Nat
  run : Nat
  index : Nat
  entry : Nat
  first : Nat
  stop : Nat
  deriving DecidableEq, Repr

/-- Whether two chunks may share a byte. -/
def ArenaChunk.meets (a b : ArenaChunk) : Bool :=
  if a.stream = b.stream ∧ a.run = b.run then a.index == b.index else decide (a.first < b.stop) && decide (b.first < a.stop)

/-- One thing an agent does: the agent (0 core with its lane, 1 stream, 2 update unit, 3 agreement; numbers), its place in the
agent's order, the tokens it waits before and signals after, the scratchpad and device bytes it touches with whether it writes
them, the chunks of arenas it touches, the instrument entries it feeds, and where the image says it (record or instruction).
(log 42: DEDUCED) -/
structure Node where
  kind : Nat
  agent : Nat
  lane : Nat
  pos : Nat
  waits : List ((Nat × Nat) × Nat)
  signals : List ((Nat × Nat) × Nat)
  scratch : List (Nat × Iv × Bool)
  device : List (Nat × Nat × Bool)
  feeds : List Nat
  place : Nat
  chunks : List (ArenaChunk × Bool) := []
  deriving DecidableEq, Repr

/-- Whether two nodes are of one agent. -/
def Node.with (a b : Node) : Bool := a.kind == b.kind && a.agent == b.agent && a.lane == b.lane

/-- Instrument entries that an act's stores feed. -/
def Act.feeds (a : Act) : List Nat :=
  match a.pass with
  | some p => p.dst.instr.toList
  | none => if [0x08, 0x09, 0x0A].contains (wOp a.word) then (refAt a.record 72).instr.toList else []

/-- The node of one execution in a lane. -/
def execNode (c lane pos : Nat) (acts : List Act) (at' : Nat) (x : Exec) : Node :=
  let op := wOp x.word
  let a := acts.find? fun a => a.at' = at'
  { kind := 0, agent := c, lane := lane, pos := pos,
    waits := if op = 0x10 then [((c, (waitOf x.word).1), (waitOf x.word).2)] else [],
    signals := if op = 0x11 then [(((signalOf x.word).1, (signalOf x.word).2.1), (signalOf x.word).2.2)] else [],
    scratch := match a with
      | some a => a.reads.map (fun i => (c, i, false)) ++ a.writes.map fun i => (c, i, true)
      | none => [],
    device := [], feeds := match a with | some a => a.feeds | none => [], place := x.pc }

/-- The nodes of a lane; a task begins with the token its ready queue gives (R130). -/
def laneNodes (p : Plan) (c i : Nat) (l : Lane) : List Node :=
  let e := p.entry c l.entry
  let start : Node := { kind := 0, agent := c, lane := i, pos := 0, waits := if i ≠ 0 ∧ bit e 31 then [((c, bits e 30 25), 1)] else [],
                        signals := [], scratch := [], device := [], feeds := [], place := l.armPc }
  start :: l.run.zipIdx.map fun x => execNode c i (x.2 + 1) l.acts x.2 x.1

/-- The nodes of a core. -/
def CoreRun.nodes (r : CoreRun) (p : Plan) : List Node := r.lanes.zipIdx.flatMap fun x => laneNodes p r.core x.2 x.1

/-- The instrument entry that transfer T of an output stream feeds: that of the collective whose output transfer it is (R228, R248), seen
from a state in which the plan is the resident context's. -/
def State.outFeeds (s : State) (p : Plan) (id T : Nat) : List Nat :=
  p.colls.zipIdx.filterMap fun x =>
    let e := x.1
    let base := s.streamBase x.2 id true
    if collPresent e && decide (collKind e ≤ 1) && collOut e == id && decide (base ≤ T) && decide (T < base + s.outputsOf e) then collInstr e else none

/-- The most bytes a transfer's chunk can have: its header, every block raw, padded (R208, R209). -/
def Xfer.chunkMost (x : Xfer) : Nat := (16 + x.rows * x.sfx * (x.rowBytes / x.sfx + 2) + 63) / 64 * 64

/-- Where the chunk of each transfer of a stream can stand; none for a transfer that compresses nothing. The cursor goes on by at least 64
bytes and by no more than each chunk's most, and no chunk passes the end of its arena's region (R210). (log 44: DEDUCED) -/
def Plan.chunks (p : Plan) (c : Context) (armed : Tbl Nat) (id : Nat) (e : Rec) : List (Option ArenaChunk) :=
  ((p.transfers armed id).foldl (fun (acc : List (Option ArenaChunk) × ArenaChunk) y =>
    let x := y.1
    if !packedDst (streamClass e) x then (acc.1 ++ [none], acc.2)
    else
      let last := acc.2
      let at' := if y.2 = 0 ∧ x.dstAddr ≠ 0 then { last with run := last.run + 1, index := 0, first := x.dstAddr, stop := x.dstAddr } else last
      let top := match c.regions.find? fun r => r.2.has at'.first with | some r => r.2.base + r.2.size | none => at'.first
      let chunk := { at' with entry := x.dstSfx + 16 * y.2, stop := min top (at'.stop + x.chunkMost) }
      (acc.1 ++ [some chunk], { chunk with index := chunk.index + 1, first := min top (chunk.first + 64) }))
    ([], ⟨id, 0, 0, 0, 0, 0⟩)).1

/-- The chunks of every stream. -/
def Plan.allChunks (p : Plan) (c : Context) (armed : Tbl Nat) : List ArenaChunk :=
  p.streams.flatMap fun x => ((p.chunks c armed x.1 x.2).filterMap id).filter fun y => decide (y.first < y.stop)

/-- The nodes of a stream: its transfers in order. -/
def State.streamNodes (s : State) (p : Plan) (c : Context) (armed : Tbl Nat) (all : List ArenaChunk) (id : Nat) (e : Rec) : List Node :=
  ((p.transfers armed id).zip (p.chunks c armed id e)).zipIdx.map fun y =>
    let x := y.1.1.1
    let k := y.1.1.2
    let chunk := y.1.2
    let rs := xferRanges (streamClass e) x k
    { kind := 1, agent := id, lane := 0, pos := y.2,
      waits := if x.gate then [(x.gateQ, 1)] else [],
      signals := if x.signal then [(x.sigQ, 1)] else [],
      scratch := (x.from.scratch x x.rowBytes k).map (fun i => (i.1, i.2, false)) ++ (x.to.scratch x x.rowBytes k).map fun i => (i.1, i.2, true),
      device := rs.1.map (fun r => (r.1, r.1 + r.2, false)) ++ rs.2.map (fun r => (r.1, r.1 + r.2, true)) ++
        (if packedSrc (streamClass e) x then [(x.srcSfx + 16 * k, x.srcSfx + 16 * k + 16, false)] else []) ++
        (if packedDst (streamClass e) x then [(x.dstSfx + 16 * k, x.dstSfx + 16 * k + 16, true)] else []),
      feeds := s.outFeeds p id y.2, place := id,
      chunks := (if packedSrc (streamClass e) x then (all.filter fun c => c.entry = x.srcSfx + 16 * k).map (·, false) else []) ++
        (chunk.filter fun c => decide (c.first < c.stop)).toList.map (·, true) }

/-- The device bytes of an update entry: reads and writes (R215 to R219). -/
def updateDevice (r : Rec) : List (Nat × Nat × Bool) :=
  let n := le r 4 4
  let kind := bits (le r 0 4) 31 30
  let tensor := fun (o w : Nat) => [(le r o 6, le r o 6 + w * n), (le r (o + 6) 6, le r (o + 6) 6 + n)]
  let both := tensor 8 256 ++ [(le r 20 6, le r 20 6 + 8 * n)] ++ (if kind ≥ 1 then tensor 26 128 else []) ++ (if kind = 2 then tensor 38 128 else [])
  let reads := both ++ tensor 50 128 ++ [(le r 74 6, le r 74 6 + 64)]
  let writes := both ++ (if bit (le r 0 4) 29 then tensor 62 64 else []) ++ [(le r 94 6, le r 94 6 + 16)]
  reads.map (fun x => (x.1, x.2, false)) ++ writes.map fun x => (x.1, x.2, true)

/-- The nodes of an update unit. -/
def updateNodes (d : Nat) (es : List Rec) : List Node :=
  es.zipIdx.map fun x =>
    { kind := 2, agent := d, lane := 0, pos := x.2, waits := [(queueOf (le x.1 80 2), 1)], signals := [(queueOf (le x.1 82 2), 1)],
      scratch := [], device := updateDevice x.1,
      feeds := [84, 86, 88].filterMap fun o => if bit (le x.1 o 2) 15 then some (bits (le x.1 o 2) 11 0) else none, place := x.2 }

/-- The nodes of the agreements. -/
def Plan.agreementNodes (p : Plan) : List Node :=
  p.colls.zipIdx.filterMap fun x =>
    if collPresent x.1 && collKind x.1 == 2 then
      some { kind := 3, agent := x.2, lane := 0, pos := 0, waits := [(collGate x.1, 1)], signals := [(collSignal x.1, 1)], scratch := [],
             device := [], feeds := (List.range (collCount x.1)).map (collEntry x.1 + ·), place := x.2 }
    else none

/-- Everything the agents of a step do; class 4 streams stand outside (R127, R153). -/
def State.planNodes (s : State) (p : Plan) (c : Context) (rs : List CoreRun) (armed : Tbl Nat) : List Node :=
  let all := p.allChunks c armed
  rs.flatMap (·.nodes p) ++
  (p.streams.flatMap fun x => if bit (le x.2 9 1) 7 && streamClass x.2 != 4 then s.streamNodes p c armed all x.1 x.2 else []) ++
  (p.updates.flatMap fun x => updateNodes x.1 x.2) ++ p.agreementNodes

/-! ## Tokens -/

/-- Tokens a node waits from a queue. -/
def Node.waited (n : Node) (q : Nat × Nat) : Nat := ((n.waits.filter (·.1 = q)).map (·.2)).sum
/-- Tokens a node signals to a queue. -/
def Node.signalled (n : Node) (q : Nat × Nat) : Nat := ((n.signals.filter (·.1 = q)).map (·.2)).sum

/-- Whether node b cannot take its tokens before node a has given its: without what a and a's agent give from there on, a queue
never holds enough for b's agent to come past b. (log 43: DEDUCED) -/
def feedsToken (p : Plan) (ns : List Node) (a b : Node) : Bool :=
  b.waits.any fun w =>
    let q := w.1
    let init : Nat := match Tab.find? p.decls q.1 with | some d => le d (17 + 2 * q.2) 1 | none => 0
    let total : Nat := (ns.map (·.signalled q)).sum
    let tail : Nat := ((ns.filter fun n => n.with a && decide (a.pos ≤ n.pos)).map (·.signalled q)).sum
    let taken : Nat := ((ns.filter fun n => n.with b && decide (n.pos ≤ b.pos)).map (·.waited q)).sum
    decide (a.signalled q ≠ 0) && decide (init + total - tail < taken)

/-- What orders two nodes directly: an agent's own order, a fill-arm before its task, a task before its fill-join, a token. -/
def follows (p : Plan) (rs : List CoreRun) (ns : List Node) (a b : Node) : Bool :=
  (a.with b && a.pos + 1 == b.pos) || feedsToken p ns a b ||
  (a.kind == 0 && b.kind == 0 && a.agent == b.agent &&
    match rs.find? fun r => r.core = a.agent with
    | some r =>
      (a.lane == 0 && decide (b.lane ≠ 0) && b.pos == 0 && (r.tasks[b.lane - 1]?).any fun t => t.arm + 1 == a.pos) ||
      (decide (a.lane ≠ 0) && b.lane == 0 && (r.tasks[a.lane - 1]?).any fun t => t.join + 1 == b.pos && a.pos == t.run.length)
    | none => false)

/-- Nodes reached from some nodes in `n` rounds. -/
def reach (edge : Node → Node → Bool) (ns : List Node) : Nat → List Node → List Node
  | 0, xs => xs
  | n + 1, xs =>
    let more := ns.filter fun b => !xs.contains b && xs.any fun a => edge a b
    if more.isEmpty then xs else reach edge ns n (xs ++ more)

/-- Whether a chain of tokens puts node a before node b. -/
def beforeNode (p : Plan) (rs : List CoreRun) (ns : List Node) (a b : Node) : Bool := (reach (follows p rs ns) ns ns.length [a]).contains b

/-- Whether two nodes are ordered one way or the other. -/
def orderedNodes (p : Plan) (rs : List CoreRun) (ns : List Node) (a b : Node) : Bool := beforeNode p rs ns a b || beforeNode p rs ns b a

/-! ## Refusals -/

/-- Queues that appear in a step. -/
def queuesOf (ns : List Node) : List (Nat × Nat) := (ns.flatMap fun n => n.waits.map (·.1) ++ n.signals.map (·.1)).eraseDups

/-- Where a core's declaration of a queue stands in the image. -/
def Img.queueAt (m : Img) (q : Nat × Nat) : Nat × Nat :=
  match (m.fixed 0x03).zipIdx.find? fun x => le x.1.2 0 4 = q.1 with
  | some x => (x.1.1 + 16 + 2 * q.2, x.2)
  | none => (m.base 0x03, 0)

/-- A refusal of a queue. -/
def Img.queueBad (m : Img) (q : Nat × Nat) : Bad := m.bad 0x0A (m.queueAt q).1 0x03 (m.queueAt q).2 q.1 q.2

/-- R127, first rule: tokens signalled and waited, over a step. (log 45: DEDUCED) -/
def Img.balanceBads (m : Img) (ns : List Node) : List Bad :=
  (queuesOf ns).flatMap fun q => if (ns.map (·.signalled q)).sum = (ns.map (·.waited q)).sum then [] else [m.queueBad q]

/-- Queues that the slots of a stream name. -/
def Plan.slotQueues (p : Plan) (id : Nat) (e : Rec) (signals : Bool) : List (Nat × Nat) :=
  (p.rings.filter fun r => r.1 == id).flatMap fun r =>
    let x := xferOf e r.2.2
    (if x.gate && !signals then [x.gateQ] else []) ++ (if x.signal then [x.sigQ] else [])

/-- R127: one producer stream for each queue; queues of class 4 streams named by nothing else. -/
def Img.producerBads (m : Img) (p : Plan) : List Bad :=
  let present := p.streams.filter fun x => bit (le x.2 9 1) 7
  let four := present.filter fun x => streamClass x.2 = 4
  let rest := present.filter fun x => streamClass x.2 ≠ 4
  let words := p.programs.flatMap fun x => x.2.filterMap fun w =>
    if wOp w = 0x10 then some (x.1, (waitOf w).1) else if wOp w = 0x11 then some ((signalOf w).1, (signalOf w).2.1) else none
  let ready := p.decls.flatMap fun x => (List.range 128).filterMap fun e =>
    let v := p.entry x.1 e
    if bit v 31 then some (x.1, bits v 30 25) else none
  let named := words ++ ready ++ rest.flatMap fun x => p.slotQueues x.1 x.2 false
  let makers := present.flatMap fun x => (p.slotQueues x.1 x.2 true).eraseDups
  ((four.flatMap fun x => p.slotQueues x.1 x.2 false).eraseDups.filter named.contains).map m.queueBad ++
  (makers.eraseDups.filter fun q => decide ((makers.filter (· = q)).length > 1)).map m.queueBad

/-- Whether nodes touch a common scratchpad byte that one of them writes. -/
def scratchClash (a b : Node) : Bool := a.scratch.any fun x => b.scratch.any fun y => x.1 == y.1 && (x.2.2 || y.2.2) && x.2.1.meets y.2.1

/-- Tokens that the declaration of a queue gives at step start. -/
def Plan.initial (p : Plan) (q : Nat × Nat) : Nat := match Tab.find? p.decls q.1 with | some d => le d (17 + 2 * q.2) 1 | none => 0

/-- Whether the token of an inbound transfer has been consumed by the main program before a task's arm, or by this start of the task
through its ready queue (Table 4.11 condition 4). The transfer's token is the one of its number among those the queue receives. -/
def tokenTaken (p : Plan) (ns : List Node) (core lane arm : Nat) (t : Node) : Bool :=
  t.signals.any fun g =>
    let q := g.1
    let number := p.initial q + ((ns.filter fun n => n.with t && decide (n.pos ≤ t.pos)).map (·.signalled q)).sum
    let mine := ns.filter fun n => n.kind == 0 && n.agent == core
    let main := ((mine.filter fun n => n.lane == 0 && decide (n.pos ≤ arm)).map (·.waited q)).sum
    let starts := mine.filter fun n => decide (n.lane ≠ 0) && n.pos == 0 && decide (n.waited q ≠ 0)
    q.1 == core && (decide (number ≤ main) ||
      ((starts.any fun n => n.lane == lane) && (starts.filter fun n => decide (n.lane ≤ lane)).length == number))

/-- Whether the start of a task can receive its token before its fill-join: what the join is not needed for gives the queue enough
(condition 8). -/
def readyMet (p : Plan) (rs : List CoreRun) (ns : List Node) (core lane join : Nat) : Bool :=
  match ns.find? fun n => n.kind == 0 && n.agent == core && n.lane == lane && n.pos == 0,
        ns.find? fun n => n.kind == 0 && n.agent == core && n.lane == 0 && n.pos == join + 1 with
  | some start, some j =>
    start.waits.all fun w =>
      let q := w.1
      let given := p.initial q + ((ns.filter fun n => !beforeNode p rs ns j n).map (·.signalled q)).sum
      decide (((ns.filter fun n => n.kind == 0 && n.agent == core && decide (n.lane ≤ lane)).map (·.waited q)).sum ≤ given)
  | _, _ => true

/-- Whether a transfer cannot start before a task's fill-join: a refill gated on what the main program signals after it (R127). -/
def afterJoin (p : Plan) (rs : List CoreRun) (ns : List Node) (core join : Nat) (t : Node) : Bool :=
  (ns.find? fun n => n.kind == 0 && n.agent == core && n.lane == 0 && n.pos == join + 1).any fun j => beforeNode p rs ns j t

/-- Conditions 4 and 8 of Table 4.11 for each fill task, at its fill-arm. -/
def Prog.tokenBads (g : Prog) (m : Img) (p : Plan) (rs : List CoreRun) (ns : List Node) (r : CoreRun) : List Bad :=
  r.tasks.zipIdx.flatMap fun x =>
    let lane := x.2 + 1
    let t := x.1
    let reads := t.acts.flatMap fun a => a.reads.map fun i => (g.core, i, false)
    let inbound := ns.filter fun n => n.kind == 1 && (n.scratch.any fun s => s.2.2 && reads.any fun i => i.1 == s.1 && i.2.1.meets s.2.1) &&
      !afterJoin p rs ns g.core t.join n
    (if inbound.all (tokenTaken p ns g.core lane t.arm) then [] else [g.bad m 0x0B t.armPc (t.entry * 256 + 4)]) ++
    (if readyMet p rs ns g.core lane t.join then [] else [g.bad m 0x0B t.armPc (t.entry * 256 + 8)])

/-- Whether nodes touch a common device byte that one of them writes. -/
def deviceClash (a b : Node) : Bool :=
  let plain := fun (x y : Nat × Nat × Bool) => (x.2.2 || y.2.2) && decide (x.1 < y.2.1) && decide (y.1 < x.2.1)
  let range := fun (c : ArenaChunk × Bool) => (c.1.first, c.1.stop, c.2)
  (a.device.any fun x => (b.device ++ b.chunks.map range).any (plain x)) || (a.chunks.any fun x => b.device.any (plain (range x))) ||
  a.chunks.any fun x => b.chunks.any fun y => (x.2 || y.2) && x.1.meets y.1

/-- R127: an instruction and an inbound transfer that touch common bytes are ordered by tokens. (log 44: DEDUCED) -/
def Prog.inboundBads (g : Prog) (m : Img) (p : Plan) (rs : List CoreRun) (ns : List Node) : List Bad :=
  let inbound := ns.filter fun n => n.kind == 1 && n.scratch.any (fun x => x.1 == g.core && x.2.2)
  (ns.filter fun n => n.kind == 0 && n.agent == g.core && !n.scratch.isEmpty).flatMap fun a =>
    (inbound.filter fun t => scratchClash a { t with scratch := t.scratch.filter (·.2.2) } && !orderedNodes p rs ns a t).map fun t =>
      g.bad m 0x0A a.place (((t.signals.head?).map (·.1.2)).getD 0)

/-- R153 and R214: device bytes of two streams, or of a stream or update unit and another, are ordered by tokens. -/
def Img.orderBads (m : Img) (p : Plan) (rs : List CoreRun) (ns : List Node) : List Bad :=
  let movers := (ns.filter fun n => n.kind == 1 || n.kind == 2).zipIdx
  movers.flatMap fun a => (movers.filter fun b => decide (a.2 < b.2) && !a.1.with b.1 && deviceClash a.1 b.1 && !orderedNodes p rs ns a.1 b.1).map
    fun b =>
      let n := if a.1.kind = 1 then a.1 else b.1
      if n.kind = 1 then
        match (m.fixed 0x06).zipIdx.find? fun x => le x.1.2 0 4 = n.agent with
        | some x => m.bad 0x0E x.1.1 0x06 x.2 0xFFFF n.agent
        | none => m.bad 0x0E (m.base 0x06) 0x06 0 0xFFFF n.agent
      else m.bad 0x0E (m.base 0x0D) 0x0D 0 0xFFFF 0

/-- R256: every store that feeds a listed entry comes before the agreement's gate; another agreement on it, before or after. -/
def Img.agreementBads (m : Img) (p : Plan) (rs : List CoreRun) (ns : List Node) : List Bad :=
  (m.fixed 0x0B).zipIdx.flatMap fun x =>
    match ns.find? fun n => n.kind == 3 && n.agent == x.2 with
    | none => []
    | some g =>
      let feeders := ns.filter fun n => n != g && share n.feeds g.feeds
      let bad := feeders.any fun n => if n.kind = 3 then !orderedNodes p rs ns n g else !beforeNode p rs ns n g
      let blind := p.colls.any fun e => collPresent e && decide (collKind e ≤ 1) && collOut e == 0 && (collInstr e).any g.feeds.contains
      if bad || blind then [m.bad 0x16 x.1.1 0x0B x.2 0xFFFF x.2] else []

end Sys2Proof.Machine
end

