-- ==== Sys2Proof/Machine/PlanLoad.lean ====
section
/-! DEFINITION. LOAD_PLAN (R393 to R395, R418, R508): the read of an image from device or host memory, the validator's verdict,
and what a successful load puts in effect. -/

namespace Sys2Proof.Machine

/-! ## The verdict (R393, R418) -/

/-- Every refusal that the validator's rules give an image whose form holds. -/
def State.planBads (s : State) (c : Context) (m : Img) (p : Plan) : List Bad :=
  let s : State := s.putContext { c with plan := some p }
  let rs := p.runs
  let armed := p.armed
  let ns := s.planNodes p c rs armed
  let progs := m.progs
  let each := fun (f : Prog → CoreRun → List Bad) => progs.flatMap fun g => match rs.find? fun r => r.core = g.core with
    | some r => f g r
    | none => []
  m.settingsBads ++ m.declReserved ++ m.recordReserved ++ m.updateReserveds ++ m.groupBads ++ m.declBads p ++ m.retiredBads s ++ m.tablesBads ++
  each (fun g r => g.bads m s p r ++ g.tokenBads m p rs ns r) ++ m.streamBads s c ++ m.ringsBads s p rs ++ m.lodeBads p armed ++ m.productBads rs ++ m.updateBads s p ++
  m.instrumentBads s c ++ m.planeBads s p ++ m.collBads s p rs ++ each (fun g r => g.strayBads m p r) ++ m.limitBads s p ++
  m.balanceBads ns ++ m.producerBads p ++ each (fun g _ => g.inboundBads m p rs ns) ++ m.orderBads m.plan rs ns ++ m.agreementBads p rs ns

/-- The validator's verdict on an image for a context. -/
def State.judge (s : State) (c : Context) (image : Rec) : Except Bad Plan :=
  let m := imgOf image
  match worst m.formBads with
  | some b => .error b
  | none => match worst (s.planBads c m m.plan) with
    | some b => .error b
    | none => .ok m.plan

/-- Whether a plan names what has been retired or failed since its load (R34, R198, R299). -/
def State.planRetired (s : State) (c : Context) (p : Plan) : Bool := (s.planBads c (imgOf p.image) p).any fun b => b.code == 0x18

/-! ## What a load puts in effect (R395) -/

/-- A stream under a new plan: only a fault that its status register still shows stays. -/
def State.freshStream (s : State) (id : Nat) : Stream :=
  let f := (s.reg (.streamStatus id)).getLsbD 63
  { Stream.init with faulted := f, state := if f then 3 else 0 }

/-- Whether a page that a ring image goes to is still being zeroed (R391). -/
def State.ringsHeld (s : State) (c : Context) (p : Plan) : Bool :=
  p.rings.any fun r => match p.stream? r.1 with
    | some e => s.rangeCheck c false (bits (le e 0 8) 47 0 + slotBytes e * r.2.1) (slice r.2.2 0 (slotBytes e)).length == .held
    | none => false

/-- Write each ring image into its ring. -/
def State.writeRings (s : State) (p : Plan) : State :=
  p.rings.foldl (fun s r => match p.stream? r.1 with
    | some e => match s.devWrite (bits (le e 0 8) 47 0 + slotBytes e * r.2.1) (slice r.2.2 0 (slotBytes e)) with
      | .ok s => s
      | .error _ => s
    | none => s) s

/-- Write every declared argument record, those the image does not supply as zero. -/
def State.writeArgs (s : State) (p : Plan) : State :=
  p.decls.foldl (fun s d =>
    (List.range (le d.2 12 4)).foldl (fun s i => match s.scrWrite d.1 (le d.2 8 4 + 128 * i) (slice (p.argOf d.1 i) 0 128) with
      | .ok s => s
      | .error e => e.s) s) s

/-- A plan takes effect in the resident context; its image goes into the plan part of the save area (R395). (log 52: DEDUCED) -/
def State.install (s : State) (p : Plan) : State :=
  let s := match s.residentCtx with
    | some c => s.writePart (c.saveBase + planPart) 0x8000000 p.image
    | none => s
  let s := s.modResident fun c =>
    { c with plan := some p, scale := scaleTable p.initScale, digests := [], slots := [], completed := 0, epoch := false }
  let s := s.modChip fun h =>
    { h.reloadStores with streams := h.streams.map (fun t => (t.1, s.freshStream t.1)), lode := [], ring := Chip.init.ring,
                          capture := Chip.init.capture, keptScale := none }
  ((s.writeArgs p).writeRings p).enter .loaded

/-! ## The read of the image (R393, R508) -/

/-- LOAD_PLAN. -/
def rowLoadPlan : CmdRow := { code := 0x0015, legal := [.ready, .loaded], ownerOnly := true, namesContext := true }

/-- The form of its arguments: 16 bytes, or 24 with a source word; a length out of range has a check code of its own. (log 49: DEDUCED) -/
def planForm (args : Rec) (n : Nat) : Option Ans :=
  if n ≠ 16 ∧ n ≠ 24 then some (.refuse 3)
  else if n = 24 ∧ (le args 16 1 > 1 ∨ !zeroAt args 17 7) then some (.refuse 3)
  else if le args 8 8 < 64 ∨ le args 8 8 > 134217728 then some (Bad.read 2 0).ans
  else none

/-- The first page of an image that the read cannot use, with its check code: 0x1A in an unmapped window, 0x02 outside the
context's read rights. -/
def State.imageFault (s : State) (c : Context) (a n : Nat) : Option Bad :=
  (spanPages a n).findSome? fun p =>
    match c.regions.find? fun r => r.2.has p with
    | some (_, r) =>
      if !r.sound || !r.readable then some (Bad.read 0x02 (p - a)) else if (s.keyOf p).isNone then some (Bad.read 0x1A (p - a)) else none
    | none => some (Bad.read (if s.unmapped p then 0x1A else 0x02) (p - a))

/-- The first word of a range that the device cannot read. -/
def State.deadWord (s : State) (a n : Nat) : Option Nat :=
  (spanWords a n).findSome? fun w => match s.keyOf (16 * w) with
    | some k => if (settle (s.devFlips.get (k / 16))).isNone then some (16 * w - a) else none
    | none => some (16 * w - a)

/-- Whether a host read of an image is held (R350, R508). -/
def State.loadHeld (s : State) (b : Background) : Bool :=
  let h := s.host b.mbx.port
  !h.busMaster || h.d3hot || !h.linkUp ||
  (s.residentCtx.any fun c => c.confidential && (Tab.find? c.sessions b.mbx.port).isNone)

/-- Where the tags of a confidential image begin: the first multiple of 16 at or above its end. -/
def tagBase (a n : Nat) : Nat := (a + n + 15) / 16 * 16

/-- Send the host requests of a load that waits for its image and is not held; once sent they are not sent again. (log 51: DEDUCED) -/
def State.askImage (s : State) : State :=
  match s.flint.background with
  | some b =>
    if b.kind ≠ .loadPlan || !b.host || b.offset != 0 || s.loadHeld b then s
    else
      let s := s.begin { b with offset := b.len }
      let s := s.askHost b.mbx.port b.addr b.len
      if s.residentCtx.any (·.confidential) then s.askHost b.mbx.port (tagBase b.addr b.len) (16 * ((b.len + 4095) / 4096)) else s
  | none => s

/-- The IV and additional data of the record at a byte offset of an image (R508). -/
def imageIv (n : Nat) : Rec := [0, 0, 1, 0] ++ toLe 8 n
/-- As `imageIv`. -/
def imageAad (ctx : BitVec 16) (off : Nat) : Rec := toLe 2 ctx.toNat ++ zeros 6 ++ toLe 8 off

/-- End a load with a refusal. -/
def State.refuseLoad (s : State) (b : Background) (x : Bad) : State := s.endBackground b x.ans

/-- Bytes of an image arrive from the host. -/
def State.imageBytes (s : State) (b : Background) (r : Rec) : State := s.begin { b with image := (b.image ++ r).take b.len }

/-- A sealed record of an image arrives: used only after its tag verifies; a tag failure refuses the load and closes the port's
session, as the fault of a class 4 stream does (R403, R508). -/
def State.imageRecord (s : State) (b : Background) (cipher tag : Rec) : State :=
  match s.residentCtx with
  | none => s
  | some c => match Tab.find? c.sessions b.mbx.port with
    | none => s
    | some k =>
      let s := s.putContext { c with sessions := Tab.set c.sessions b.mbx.port { k with planCounter := k.planCounter + 1 } }
      match Config.aesGcmOpen k.h2d (imageIv k.planCounter) (imageAad c.id b.image.length) cipher tag with
      | some r => s.imageBytes b r
      | none => ((s.closeSession b.mbx.port).stopSealed b.mbx.port none).refuseLoad b (Bad.read 0x1B b.image.length)

/-- A completion to a load's read. -/
def State.imageCompletion (s : State) (port : Nat) (cpl : Completion) : State :=
  match s.flint.background with
  | some b =>
    if b.kind ≠ .loadPlan || !b.host || b.mbx.port != port || b.offset == 0 || decide (b.image.length ≥ b.len) then s
    else
      let conf := s.residentCtx.any (·.confidential)
      let fail := s.refuseLoad b (Bad.read 0x1C b.image.length)
      match cpl with
      | .data r => if conf then s else s.imageBytes b r
      | .sealed c t => if conf then s.imageRecord b c t else s
      | .error => fail
      | .poisoned => fail
      | .timeout => fail
      | .unsupported => fail
  | none => s

/-- LOAD_PLAN's own checks and start. -/
def State.loadPlan (s : State) (m : Mbx) (req : Rec) : State × Option Ans :=
  let a := le req 64 8
  let n := le req 72 8
  let host := le req 10 2 == 24 && bit (le req 80 1) 0
  match s.residentCtx with
  | none => if s.residentSound then (s, some (Bad.read 0x01 0).ans) else (s.useResident, some (.refuse 7))
  | some c =>
    if !s.names req then (s, some (Bad.read 0x01 0).ans)
    else
      let b := { Background.begin .loadPlan m with addr := a, len := n, host := host, target := c.id }
      if host then (((s.wakeAll).begin b).askImage, none)
      else match s.imageFault c a n with
        | some x => (s, some x.ans)
        | none => ((s.wakeAll).begin b, none)

/-- LOAD_PLAN_COMPLETE: the image is read and judged; a plan that passes takes effect and its digest is the reply. A read or a
ring image that a region being zeroed holds, or host bytes still to come, leave the load waiting. (log 50: DEDUCED) -/
def loadDone (s : State) : State :=
  match s.flint.background, s.residentCtx with
  | some b, some c =>
    if b.kind ≠ .loadPlan then s
    else
      let finish := fun (s : State) (image : Rec) => match s.judge c image with
        | .error x => s.refuseLoad b x
        | .ok p => if s.ringsHeld c p then s else (s.install p).endBackground b (.ok (slice p.digest 0 32))
      if b.host then (if b.image.length < b.len then s else finish s b.image)
      else match s.imageFault c b.addr b.len with
        | some x => s.refuseLoad b x
        | none =>
          if s.rangeCheck c false b.addr b.len = .held then s
          else match s.deadWord b.addr b.len with
            | some w =>
              let s := match translate (b.addr + w) with | some (d, _) => s.memFault d 0x20 | none => s
              s.refuseLoad b (Bad.read 0x1B w)
            | none => match s.devRead b.addr b.len with
              | .ok (r, s) => finish s r
              | .error _ => s
  | some b, none => if b.kind = .loadPlan ∧ !s.residentSound then (s.useResident).endBackground b (.refuse 7) else s
  | _, _ => s

/-! ## Meanings -/

/-- LOAD_PLAN (R393). -/
def execLoadPlan (m : Mbx) (s : State) : Host.Outcome State Fault Refusal :=
  .next (serve s m rowLoadPlan planForm fun s req => s.loadPlan m req)

/-- LOAD_PLAN_COMPLETE (R393, R395, R418). -/
def execLoadPlanComplete (s : State) : Host.Outcome State Fault Refusal := .next (loadDone s)

end Sys2Proof.Machine
end

