-- ==== Sys2Proof/Machine/Steps.lean ====
section
/-! DEFINITION. The step frame (Table 7.1): START_STEP (R372 to R374), the detection of step end and stages 7 to 10, ABORT_STEP and
its stop (R375). -/

namespace Sys2Proof.Machine

/-! ## The step record (R373, R223, R224) -/

/-- START_STEP. -/
def rowStartStep : CmdRow := { code := 0x0020, legal := [.loaded], ownerOnly := true, namesContext := true }
/-- ABORT_STEP. -/
def rowAbortStep : CmdRow := { code := 0x0021, legal := [.running], ownerOnly := true, namesContext := true }

/-- A slot's sample descriptor in a step record. -/
def sampleOf (r : Rec) (i : Nat) : Rec := slice r (128 + 32 * i) 32
/-- Whether a descriptor's slot takes part. -/
def samplePresent (d : Rec) : Bool := bit (le d 0 4) 31
/-- Whether its window continues a sequence. -/
def sampleContinues (d : Rec) : Bool := bit (le d 0 4) 30
/-- Its first token. -/
def sampleFirst (d : Rec) : Nat := bits (le d 0 4) 17 0
/-- Its token count. -/
def sampleCount (d : Rec) : Nat := le d 4 4
/-- The token after its window (R225). -/
def sampleNext (d : Rec) : Nat := sampleFirst d + sampleCount d

/-- Whether a descriptor sets a reserved field, present or not (R7, R373). -/
def sampleReserved (d : Rec) : Bool := decide (bits (le d 0 4) 29 18 ≠ 0) || !zeroAt d 22 10

/-- Whether a descriptor is refused in itself: a reserved field, or of a present one check 1 of R224. -/
def sampleBad (d : Rec) : Bool :=
  sampleReserved d || (samplePresent d && (decide (sampleCount d = 0) || decide (sampleCount d > 262144)))

/-- The byte offset of the first field of a step record that R373 refuses in itself. -/
def recordBad (r : Rec) : Option Nat :=
  let mode := le r 8 1
  let zero := fun (o n : Nat) => decide (le r o n = 0)
  ([(!zero 10 6, 10), (!zero 72 8, 72), (bits (le r 9 1) 7 2 ≠ 0, 9), (mode > 3, 8), (le r 80 8 % 4096 ≠ 0, 80), (le r 88 8 % 32 ≠ 0, 88),
    (le r 96 8 % 32 ≠ 0, 96), (le r 104 8 % 32 ≠ 0, 104), (le r 112 8 % 32 ≠ 0, 112), (le r 120 8 % 4096 ≠ 0, 120),
    (mode = 0 ∧ !zero 80 8, 80), (mode = 0 ∧ !zero 88 8, 88), (mode = 0 ∧ !zero 96 8, 96), (mode = 0 ∧ !zero 104 8, 104),
    (mode = 0 ∧ !zero 112 8, 112), (mode = 0 ∧ !zero 120 8, 120), (mode = 0 ∧ !zero 9 1, 9), (mode = 1 ∧ !zero 120 8, 120),
    (mode = 1 ∧ !bit (le r 9 1) 0 ∧ !zero 104 8, 104), (mode = 1 ∧ !bit (le r 9 1) 0 ∧ !zero 112 8, 112), (mode = 1 ∧ zero 80 8, 80),
    (mode ≥ 2 ∧ !zero 9 1, 9), (mode ≥ 2 ∧ !zero 104 8, 104), (mode ≥ 2 ∧ !zero 112 8, 112), (mode ≥ 2 ∧ zero 120 8, 120)] : List (Bool × Nat)).findSome? fun x => if x.1 then some x.2 else none

/-- The form of START_STEP's arguments. (log 53: DEDUCED) -/
def stepForm (args : Rec) (n : Nat) : Option Ans :=
  if n ≠ 384 then some (.failing 3 1 0)
  else match recordBad args with
    | some o => some (.failing 3 1 o)
    | none => ((List.range 8).find? fun i => sampleBad (sampleOf args i)).map fun i => .failing 3 2 i

/-! ## Stage 2 (R373 check 6, R224, R236) -/

/-- The device ranges a step's record and plan name, each with what its refusal's index is and whether it is written. -/
def stepRanges (p : Plan) (r : Rec) : List (Nat × Bool × Nat × Nat) :=
  let mode := le r 8 1
  [(0, true, le p.settings 16 8, 256)] ++
  (if mode = 0 then [] else [(1, true, le r 80 8, 4608), (3, true, le r 88 8, le r 96 8)]) ++
  (if mode = 1 then [(4, true, le r 104 8, le r 112 8)] else []) ++
  (if mode ≥ 2 then [(5, false, le r 120 8, 4608)] else [])

/-- Whether the step asks for an input digest: the flag of a capture step; in a replay, that the reference holds one. (log 54: DEDUCED) -/
def asksDigest (r : Rec) (ref : Option Rec) : Bool :=
  match ref with
  | some h => bit (le h 2 1) 1
  | none => bit (le r 9 1) 1

/-- Checks 2 to 4 of R224 on one slot. -/
def sampleCheck (c : Context) (replay : Bool) (d : Rec) (i : Nat) : Option Ans :=
  if !samplePresent d then none
  else if sampleNext d > 262144 then some (.failing 6 2 i)
  else if replay || !sampleContinues d then none
  else match c.slots[i]? with
    | some k =>
      if k.holds && decide (k.next ≥ 262144) then some (.failing 6 2 i)
      else if !k.holds || decide (k.tag.toNat ≠ le d 8 8) || decide (k.next ≠ sampleFirst d) then some (.failing 9 2 i) else none
    | none => some (.failing 9 2 i)

/-- The checks of R236 on a reference record. -/
def State.referenceCheck (s : State) (p : Plan) (mode : Nat) (h : Rec) : Option Ans :=
  let shape := fun (q : Nat) => match s.planeEntry q with
    | some (e, _) => planeUsed e && decide (le h (176 + 4 * q) 4 ≠ 2 ^ 31 + (planeLen e - 1) * 2 ^ 12 + planePos e)
    | none => false
  if slice h 296 32 ≠ sha3 (slice h 0 296 ++ slice h 512 4096) then some (.failing 7 3 0)
  else if slice h 16 32 ≠ slice p.digest 0 32 then some (.failing 9 3 0)
  else if mode = 2 ∧ (List.range 12).any shape then some (.failing 9 3 0)
  else if mode = 3 ∧ !bit (le h 2 1) 0 then some (.failing 3 3 0)
  else none

/-- The unit of the first refusal of a plan that names what is retired. -/
def State.retiredUnit (s : State) (c : Context) (p : Plan) : Nat :=
  (((s.planBads c (imgOf p.image) p).find? fun b => b.code == 0x18).map (·.detail)).getD 0

/-- Whether an edge has failed (R342). -/
def State.edgeFailed (s : State) : Bool := !s.repair.failedEdges.isEmpty || s.edges.any fun e => e.2.failed

/-- The reference record of a replay; when it cannot be read, the answer, with the memory fault of a word that cannot be
corrected (R198). -/
def State.reference (s : State) (r : Rec) : Except (Ans × State) (Option Rec × State) :=
  if le r 8 1 < 2 then .ok (none, s)
  else match s.devRead (le r 120 8) 4608 with
    | .ok (h, s) => .ok (some h, s)
    | .error (.dead d t) => .error (.failing 7 3 0, t.memFault d 0x20)
    | .error .unmapped => .error (.failing 5 3 0, s)

/-- The failed device that unmapped a window in which a region of the context lies (R198). -/
def State.regionLost (s : State) (c : Context) : Option Nat := c.regions.findSome? fun r => (s.failedFor r.2.base).map (·.1)

/-- Checks 6.1 to 6.3 of R373, and that of R198. -/
def State.stepCheck (s : State) (c : Context) (p : Plan) (r : Rec) : Option Ans :=
  if s.planRetired c p || s.edgeFailed then some (.failing 5 4 (s.retiredUnit c p))
  else if (s.regionLost c).isSome then some (.failing 5 4 ((s.regionLost c).getD 0))
  else match (stepRanges p r).find? fun x => s.rangeCheck c x.2.1 x.2.2.1 x.2.2.2 == .denied with
    | some x => some (.failing 3 5 x.1)
    | none => (List.range 8).findSome? fun i => sampleCheck c (le r 8 1 ≥ 2) (sampleOf r i) i

/-! ## Stages 3 and 4 -/

/-- The slot table (R225). -/
def slotTable (r : Rec) : Rec :=
  (List.range 8).flatMap fun i =>
    let d := sampleOf r i
    if samplePresent d then patch d 24 (toLe 4 (sampleNext d)) else zeros 32

/-- An access of stage 4 that cannot be made: a word that cannot be corrected is reported as a memory fault too (R198, R200). `lost` says
that a failed device unmapped the address; else the context's rights forbid the access, which is answered as check 6.2 of R373 answers a
region. (log 54: DEDUCED) -/
def State.stage4Fails (s : State) (index : Nat) (lost : Bool) : MemErr → State × Option Ans
  | .dead d t => (t.memFault d 0x20, some (.failing 7 5 index))
  | .unmapped => (s.reportUnsound, some (.failing (if lost then 5 else 3) 5 index))

/-- The input ranges in declaration order (R235), each under the context's rights (R390). -/
def State.readInputs (s : State) : List (Nat × Nat) → Except MemErr (Rec × State)
  | [] => .ok ([], s)
  | (a, n) :: rest =>
    if !s.stepMay false a n then .error .unmapped
    else match s.devRead a n with
    | .error e => .error e
    | .ok (r, s) => match State.readInputs s rest with
      | .ok (r', s) => .ok (r ++ r', s)
      | .error e => .error e

/-- The input digest, zeros when it is not asked for. -/
def State.inputDigest (s : State) (p : Plan) (asked : Bool) : Except MemErr (Rec × State) :=
  if asked then match s.readInputs p.inputs with
    | .ok (r, s) => .ok (sha3 r, s)
    | .error e => .error e
  else .ok (zeros 32, s)

/-- The initial counts of a core's token queues (R122). -/
def Plan.initialTokens (p : Plan) (c : Nat) : Tbl Nat :=
  match Tab.find? p.decls c with
  | some d => (List.range 64).filterMap fun q => if le d (16 + 2 * q) 1 ≠ 0 ∧ le d (17 + 2 * q) 1 ≠ 0 then some (q, le d (17 + 2 * q) 1) else none
  | none => []

/-- A core at step start (R102): its main program at index 0, index registers 0, queues at their initial counts; its weight planes
stand, and no weight load of the step has been made into them yet. -/
def Core.begin (k : Core) (p : Plan) (c : Nat) : Core :=
  { Core.init with state := if (Tab.find? p.programs c).isSome then 1 else 0, queues := p.initialTokens c,
                   planes := k.planes.map fun x => (x.1, { x.2 with source := none }) }

/-- A stream at step start (R145); class 4 streams are not reset. (log 57: DEDUCED) -/
def Stream.begin (t : Stream) (initial : Nat) : Stream :=
  { t with head := 0, armed := initial, rearm := false, completed := 0, running := none, fetched := [], state := if t.faulted then 3 else 0,
           hostBuf := [], sealing := none, flow := [], cursor := none, inPlace := [], signalled := 0, gated := false, offered := false, again := none,
           descFlips := [], landed := 0, near := [] }

/-- The resets of stage 4 and the start of stage 5. -/
def State.resetUnits (s : State) (p : Plan) : State :=
  let ids := (p.streams.filter fun x => bit (le x.2 9 1) 7 && streamClass x.2 != 4).map fun x => (x.1, bits (le x.2 12 4) 16 0)
  s.modChip fun h => { h with
    cores := (List.range 96).filterMap fun c =>
      if (Tab.find? p.programs c).isSome || (Tab.find? h.cores c).isSome || (Tab.find? p.decls c).isSome
      then some (c, (Tab.get Core.init h.cores c).begin p c) else none,
    streams := ids.foldl (fun t x => Tab.upd Stream.init t x.1 fun k => k.begin x.2) h.streams,
    lode := [], instruments := [], arena := [], capture := Chip.init.capture,
    updates := (p.updates.filter fun x => !x.2.isEmpty).map fun x => (x.1, { Update.init with state := 1 }) }

/-- The resident context's scale table is kept aside and the reference's takes its place (stage 3 in a replay mode). -/
def State.loadReference (s : State) (c : Context) : Option Rec → State
  | some h => (s.putContext { c with scale := scaleTable (slice h 512 4096) }).modChip fun k => { k with keptScale := some c.scale }
  | none => s.modChip fun k => { k with keptScale := none }

/-- A local replay's receives come from the reference's ring input log (R237). -/
def State.replayRing (s : State) (mode : Nat) : Option Rec → State
  | some h =>
    if mode = 3 then
      let (log, s) := s.stepRead (le h 272 8) (le h 288 8)
      State.serveLog log (log.length / 32 + 1) 0 s
    else s
  | none => s

/-- The step record kept for the step: a replay that forms an input digest shows it in the header's flags. -/
def keptRecord (r : Rec) (ref : Option Rec) : Rec := if ref.isSome && asksDigest r ref then patch r 9 [2] else r

/-- The seeds of the step: its record's, or in a replay the reference's. -/
def stepSeeds (r : Rec) (ref : Option Rec) : List Word64 :=
  (List.range 7).map fun c => BitVec.ofNat 64 (match ref with | some h => le h (48 + 8 * c) 8 | none => le r (16 + 8 * c) 8)

/-- Whether stage 4 writes the context's scale table into a capture header with an entry that does not agree with its complement (R425). -/
def State.tableUnsound (c : Context) (r : Rec) : Bool := le r 8 1 = 1 && c.scale.any fun b => b.2 ≠ ~~~b.1

/-- Stages 3 to 5 of Table 7.1, and the reply. A scale table that the capture header cannot take, for an entry does not agree with its
complement, is reported as 0x64 and refuses the start as an access of stage 4 does. (log 196: DEDUCED) -/
def State.beginStep (s : State) (m : Mbx) (c : Context) (p : Plan) (r : Rec) (ref : Option Rec) : State × Option Ans :=
  if State.tableUnsound c r then (s.report 0 0 0 0x64, some (.failing 7 5 1))
  else match s.devWrite (le p.settings 16 8) (slotTable r) with
  | .error e => s.stage4Fails 0 true e
  | .ok s => match s.inputDigest p (asksDigest r ref) with
    | .error e => s.stage4Fails 2 (p.inputs.any fun x => (s.failedFor x.1).isSome) e
    | .ok (digest, s) =>
      let run : StepRun :=
        { record := keptRecord r ref, seeds := stepSeeds r ref, samples := slice r 128 256,
          table := match ref with | some h => slice h 512 4096 | none => c.scaleBytes,
          inputDigest := digest, startTime := s.localTime, aborting := false }
      let fresh : State := s.modChip fun h => { h with capture := Chip.init.capture }
      match (if le r 8 1 = 0 then .ok s else s.devWrite (le r 80 8) (fresh.captureHeader run ⟨false, false, 0, []⟩)) with
      | .error e => s.stage4Fails 1 true e
      | .ok s =>
        let s := (((s.loadReference c ref).resetUnits p).modChip fun h => { h with step := some run }).stirAll
        let s := (s.modFlint fun f => { f with lastTag := BitVec.ofNat 64 (le r 0 8) }).enter .running
        let s := (s.respond m (.ok []) false).formGangs p
        ((s.ringStart).replayRing (le r 8 1) ref, none)

/-- START_STEP after its form: R366 check 5, R389, R373 check 6, stages 2 to 5. (log 55: DEDUCED; log 56: DEDUCED) -/
def State.startStep (s : State) (m : Mbx) (req : Rec) : State × Option Ans :=
  if !s.residentSound then (s.useResident, some (.refuse 7))
  else if s.residentCtx.any (fun c => c.regions.any fun r => r.2.zeroing) then (s, some (.refuse 1))
  else if !s.names req then (s, some (.failing 9 1 0))
  else match s.residentCtx with
    | none => (s, some (.failing 9 1 0))
    | some c => match c.plan with
      | none => (s, some (.refuse 2))
      | some p =>
        let r := slice req 64 384
        match s.stepCheck c p r with
        | some a => (s, some a)
        | none => match s.reference r with
          | .error (a, t) => (t, some a)
          | .ok (ref, t) => match ref.bind fun h => t.referenceCheck p (le r 8 1) h with
            | some a => (t, some a)
            | none => t.beginStep m c p r ref

/-! ## Stages 6 to 10 -/

/-- The sequence numbers of the collectives this chip takes part in. -/
def State.ownColls (s : State) (p : Plan) : List Nat :=
  p.colls.zipIdx.filterMap fun x => if collPresent x.1 && s.member x.1 then some x.2 else none

/-- Stage 6: every core has issued step end, every stream of classes other than 4 is idle with no armed slot, every update list
has completed; and every collective of the step has (Table 8.10, last row). (log 58: DEDUCED) -/
def State.stepOver (s : State) (p : Plan) : Bool :=
  (p.programs.all fun x => (s.core x.1).ended && (s.core x.1).inflight.isEmpty) &&
  (p.streams.all fun x => !bit (le x.2 9 1) 7 || streamClass x.2 == 4 ||
    ((s.stream x.1).running.isNone && (s.stream x.1).armed == 0 && !(s.stream x.1).faulted)) &&
  (p.updates.all fun x => x.2.isEmpty || (Tab.get Update.init s.chip.updates x.1).state == 4) &&
  (s.ownColls p).all fun x => (s.coll x).complete

/-- A scale update record whose scale-table entry does not match its complement, so that stage 8 would use it. -/
def State.scaleUnsound (s : State) (p : Plan) : Bool :=
  p.scaleUpdates.any fun r => match Tab.find? s.chip.instruments (bits r.toNat 19 8) with
    | some a => a.written && decide (a.maxMag ≠ 0) && (s.scaleEntry (bits r.toNat 31 20)).isNone
    | none => false

/-- Stage 8's sequence slots (R225): each present slot takes its descriptor's tag and next token. -/
def Context.takeSlots (c : Context) (samples : Rec) : Context :=
  { c with slots := (List.range 8).map fun i =>
      let d := slice samples (32 * i) 32
      if samplePresent d then { holds := true, tag := BitVec.ofNat 64 (le d 8 8), next := sampleNext d }
      else (c.slots[i]?).getD { holds := false, tag := 0, next := 0 } }

/-- The counts of a completed step (Table 11.15). -/
def Context.countStep (c : Context) : Context :=
  { c with completed := if c.completed = ~~~0 then c.completed else c.completed + 1, epoch := !c.epoch }

/-- Whether a report of the step's end waits for Flint: a device stage 7 needed, or a scale-table mismatch. -/
def State.endFault (s : State) : Bool := s.flint.reports.any fun r => (r.kind == 2 && r.sub == 1) || (r.kind == 0 && r.code == 0x64)

/-- Stages 7 to 10 of Table 7.1; the cores that have issued step end stand idle. A fault in stage 7, 8 or 9 stops them,
and the step escalates by its report, with the scale table and the sequence slots as they were (R198, R201): the capture record, which
depends on neither, is closed first. -/
def State.finishStep (s : State) (p : Plan) (run : StepRun) : State :=
  if s.scaleUnsound p then s.report 0 0 0 0x64
  else
    let s := s.writeInstruments p
    let s := if s.endFault then s else s.closeCapture false
    if s.endFault then s
    else
      let s := p.scaleUpdates.foldl State.scaleUpdate s
      let s := s.modResident fun c => c.takeSlots run.samples
      let s := (s.modResident Context.countStep).modChip fun h => { h with
        keptScale := none, cores := h.cores.map fun k => (k.1, { k.2 with state := 0 }) }
      (s.endStep 1).enter .loaded

/-- STEP_END_DETECTED. -/
def stepEnds (s : State) : State :=
  match s.plan?, s.chip.step with
  | some p, some run =>
    if s.flint.state ≠ .running || run.aborting || s.holding || s.endFault then s
    else
      let s := (s.ownColls p).foldl (fun s x => completeColl x s) s
      if s.stepOver p then s.finishStep p run else s
  | _, _ => s

/-! ## Aborting (R375) -/

/-- ABORT_STEP after its form: the units stop, recoveries end, one event is written; the reply waits for the stop. (log 60: DEDUCED) -/
def State.abortStep (s : State) (m : Mbx) (req : Rec) : State × Option Ans :=
  if !s.residentSound then (s.useResident, some (.refuse 7))
  else if !s.names req then (s, some (.failing 9 1 0))
  else match s.chip.step with
    | none => (s, some (.refuse 2))
    | some run =>
      let s := s.stopUnits.modChip fun h => { h with step := some { run with aborting := true } }
      let s := s.logEvent 14 0x7E 0 0 0 (zeros 4 ++ slice run.record 0 8)
      (s.modFlint fun f => { f with aborting := some (m, false), windows := [], gathering := none, waiting := [] }, none)

/-- The stop is complete: the step ends with outcome 2, the plan stays loaded. -/
def stopDone (s : State) : State :=
  match s.flint.aborting, s.chip.step with
  | some (m, gone), some _ =>
    let s := (((s.closeCapture true).restoreScale).endStep 2).enter .loaded
    (s.modFlint fun f => { f with aborting := none }).respond m (.ok []) gone
  | _, _ => s

/-! ## Meanings -/

/-- START_STEP (R372, R373, R374, R200). -/
def execStartStep (m : Mbx) (s : State) : Host.Outcome State Fault Refusal :=
  .next (serve s m rowStartStep stepForm fun s req => s.startStep m req)

/-- ABORT_STEP (R375). -/
def execAbortStep (m : Mbx) (s : State) : Host.Outcome State Fault Refusal :=
  .next (serve s m rowAbortStep (formOf 0 []) fun s req => s.abortStep m req)

/-- STEP_STOP_COMPLETE (R375). -/
def execStepStopComplete (s : State) : Host.Outcome State Fault Refusal := .next (stopDone s)

/-- STEP_END_DETECTED (R200, R225, R229 to R231, R235, R374). -/
def execStepEndDetected (s : State) : Host.Outcome State Fault Refusal := .next (stepEnds s)

end Sys2Proof.Machine
end

