-- ==== Sys2Proof/Machine/HostPorts.lean ====
section
/-! DEFINITION. What a host does to a port (R348 to R357, R378 to R384): writes to BAR0 and BAR2, the mailbox doorbell, done and
interrupt registers, completions of the device's own requests, Function Level Reset, PERSTn_N, the link, the configuration
space, the lease. -/

namespace Sys2Proof.Machine

/-! ## Mailboxes and interrupts (R355 to R357) -/

/-- A mailbox doorbell write: reserved bits, a mailbox that is not idle, or the submission. -/
def State.mailboxBell (s : State) (p : Nat) (v : Word64) : State :=
  let b := fieldOf v 4 0
  let h := s.host p
  if s.flint.progress = 0 then s
  else if fieldOf v 63 5 ≠ 0 then s.violation p 0x04
  else if h.submitted.getLsbD b || h.done.getLsbD b then s.violation p 0x03
  else (s.modHost p fun h => { h with submitted := h.submitted ||| ((1 : BitVec 32) <<< b) }).modFlint fun f => { f with queue := f.queue ++ [{ port := p, box := b }] }

/-- The host clears done bits. -/
def State.clearDone (s : State) (p : Nat) (v : Word64) : State := s.modHost p fun h => { h with done := h.done &&& ~~~(v.truncate 32) }

/-- The interrupt enable register is written: an enable that rises over a set cause has its vector send a message. While SCRUBBING
only state changed sends one (Table 12.5). (log 18: DEDUCED) -/
def State.writeEnable (s : State) (p : Nat) (v : Word64) : State :=
  let rise := v &&& ~~~(s.reg (.intEnable p)) &&& s.reg (.intCause p) &&& fieldMask (regRw (.intEnable p))
  let s := s.writeReg (.intEnable p) v
  let due := fun (vec : Nat) => (List.range 8).any fun n => rise.getLsbD n && causeVector n == vec && (n == 0 || s.flint.state != .scrubbing)
  let s := if due 32 then s.sendVector p 32 else s
  if due 33 then s.sendVector p 33 else s

/-! ## Writes to the BARs (R352, R356) -/

/-- A write to a port's MSI-X table; an entry that is unmasked while its pending bit is set sends its message. -/
def State.writeMsix (s : State) (p off : Nat) (r : Rec) : State :=
  (s.modHost p fun h => { h with msix := h.msix.writeN off r }).sendPending p

/-- A write to the Message Control word of a port's MSI-X capability, which stands for its place in configuration space (R348, R355): bit 14
is the Function Mask, whose end sends what is pending. (log 188: PRESUMED) -/
def State.writeMessageControl (s : State) (p : Nat) (r : Rec) : State :=
  (s.modHost p fun h => { h with functionMask := bit (ofLe r) 14 }).sendPending p

/-- A read of a port's configuration space (Table 11.1) at an offset of the standard's header: Vendor ID, Device ID 0x4824, the class code
with revision 0 below it, the address and size bits of the two BARs, Interrupt Pin 0. (log 188: PRESUMED) -/
def configRead (off : Nat) : Word32 :=
  match off with
  | 0x00 => BitVec.ofNat 32 (0x48240000 + Config.vendorId.toNat)
  | 0x08 => 0x12000000
  | 0x10 => 0x00000004
  | 0x18 => 0x00000004
  | _ => 0

/-- What a port answers to a configuration read: Configuration Request Retry Status, none, until step 1 has powered its always-on domain and it has
left its reset (R486). -/
def State.configAnswer (s : State) (p off : Nat) : Option Word32 :=
  if s.powered && !(s.host p).perst && (decide (2 ≤ s.flint.progress) || (s.host p).linkUp) then some (configRead off) else none

/-- The Device Serial Number capability (Table 11.1, R408). -/
def State.configSerial (s : State) : Word64 := BitVec.ofNat 64 (ofLe s.serial)

/-- A write to BAR0 (Table 11.2). (log 17: DEDUCED) -/
def State.writeBar0 (s : State) (p off : Nat) (r : Rec) : State :=
  let v := BitVec.ofNat 64 (ofLe r)
  if 0x8000 ≤ off ∧ off + r.length ≤ 0x8000 + 16 * 34 then
    (if (r.length = 4 ∨ r.length = 8) ∧ off % r.length = 0 then s.writeMsix p (off - 0x8000) r else s.violation p 0x06)
  else if r.length ≠ 8 ∨ off % 8 ≠ 0 then s.violation p 0x06
  else match off with
    | 0x0010 => s.writeReg (.intCause p) v
    | 0x0018 => s.writeEnable p v
    | 0x0020 => s.mailboxBell p v
    | 0x0030 => s.clearDone p v
    | 0x0038 => s.doorbellArm p v
    | _ => s.violation p 0x06

/-- Whether a BAR2 page refuses a write: a response page, or the request page of a submitted mailbox. -/
def HostPort.pageLocked (h : HostPort) (page : Nat) : Bool := page % 2 == 1 || h.submitted.getLsbD (page / 2)

/-- A write to BAR2 (R356, R357). -/
def State.writeBar2 (s : State) (p off : Nat) (r : Rec) : State :=
  let h := s.host p
  if off + r.length > 0x40000 then s
  else if (List.range ((off % 0x1000 + r.length + 0xFFF) / 0x1000)).any fun i => h.pageLocked (off / 0x1000 + i) then s.violation p 0x05
  else s.modHost p fun h => { h with pages := h.pages.writeN off r }

/-- A host write: one that comes poisoned, or as a malformed TLP, is dropped and counted. (log 16: DEDUCED) -/
def hostWrites (w : HostWrite) (s : State) : State :=
  if w.port ≥ 2 ∨ w.bytes.isEmpty then s
  else if w.poisoned || w.malformed then s.violation w.port 0x09
  else if w.bar = 0 then (if w.offset < 0x10000 then s.writeBar0 w.port w.offset w.bytes else s)
  else if w.bar = 2 then s.writeBar2 w.port w.offset w.bytes
  else if w.bar = 8 then s.writeMessageControl w.port w.bytes
  else s

/-! ## Completions (R350, R403, Table 11.18) -/

/-- The violation a completion is counted as, if any. -/
def completionFault : Completion → Option Nat
  | .data _ => none
  | .sealed _ _ => none
  | .error => some 0x07
  | .poisoned => some 0x07
  | .timeout => some 0x08
  | .unsupported => some 0x0A

/-- The next record of a transfer from the host that is expected: its number within the transfer, from the plaintext in hand. -/
def Xfer.recordDue (x : Xfer) (have' : Nat) : Nat := if x.pebble then 0 else have' / x.rowBytes * x.pieces + have' % x.rowBytes / 4096

/-- A sealed record for a transfer in flight: kept only after its tag verifies; a tag failure is fault 0x09 (R403). Its key
and counter are those its transfer's records started with, whatever has become of the session (R417). -/
def State.sealedRows (s : State) (id : Nat) (x : Xfer) (r : Running) (cipher tag : Rec) : State :=
  let t := s.stream id
  match s.residentCtx, t.sealing with
  | some c, some (key, first) =>
    let n := x.recordDue t.hostBuf.length
    let (j, q) := x.record n
    let dev := (x.to.at x r.done j).1 + 4096 * q
    match Config.aesGcmOpen key (recordIv id false (first + n)) (recordAad c.id id false dev) cipher tag with
    | some b => s.modStream id fun t => { t with hostBuf := t.hostBuf ++ b }
    | none => s.streamFault id 0x09
  | _, _ => s

/-- A completion for a class 4 stream's transfer in flight. -/
def State.streamCompletion (s : State) (port id : Nat) (cpl : Completion) : State :=
  match s.streamEntry id, (s.stream id).running with
  | some e, some r =>
    let x := xferOf e r.desc
    if streamClass e ≠ 4 ∨ streamHost e ≠ port ∨ x.src ≠ 2 ∨ r.started ≤ r.done then s
    else match completionFault cpl with
      | some v => (s.violation port v).streamFault id 0x07
      | none =>
        let conf := s.residentCtx.any (·.confidential)
        match cpl with
        | .data b => if conf then s else s.modStream id fun t => { t with hostBuf := t.hostBuf ++ b }
        | .sealed c t => if conf then s.sealedRows id x r c t else s
        | _ => s
  | _, _ => s

/-- A completion for a load's read that is under way. -/
def State.loadCompletion (s : State) (port : Nat) (cpl : Completion) : State :=
  let s := match s.flint.background, completionFault cpl with
    | some b, some v => if b.kind = BgKind.loadPlan ∧ b.host ∧ b.mbx.port = port ∧ b.offset ≠ 0 then s.violation port v else s
    | _, _ => s
  s.imageCompletion port cpl

/-- HOST_COMPLETION. (log 19: DEDUCED) -/
def completion (port : Nat) (target : CplTarget) (cpl : Completion) (s : State) : State :=
  match target with
  | .unexpected => s.violation port 0x09
  | .loadPlan => s.loadCompletion port cpl
  | .stream id => s.streamCompletion port id cpl

/-! ## Resets of a port and its link (R379, R381, R350) -/

/-- Transfers and image reads whose requests a port has lost start again in full once it is back (R350). -/
def State.askAgain (s : State) (p : Nat) : State :=
  let s := s.modChip fun h => { h with streams := h.streams.map fun t =>
    let mine : Bool := match s.streamEntry t.1 with | some e => streamClass e == 4 && streamHost e == p | none => false
    (t.1, cond mine t.2.hold t.2) }
  s.modFlint fun f => { f with background := f.background.map fun b =>
    if b.kind = BgKind.loadPlan ∧ b.host ∧ b.mbx.port = p ∧ b.image.length < b.len then { b with offset := 0, image := [] } else b }

/-- The owner is lost when it is this port (R379). -/
def State.loseOwner (s : State) (p : Nat) : State := if s.flint.owner = some p then s.setOwner none else s

/-- A function's registers, pages, MSI-X table and submitted commands as a reset leaves them (R381). (log 20: DEDUCED; log 21: DEDUCED) -/
def State.resetFunction (s : State) (p : Nat) : State :=
  let s := s.modHost p fun h =>
    { HostPort.init with linkUp := h.linkUp, perst := h.perst, training := h.training, report := h.report }
  let s := [Reg.intCause p, .intEnable p, .stepStatus p, .stepTag p, .hostViolation p].foldl (fun s r => s.setReg r 0) s
  let mine := fun (m : Mbx) => m.port == p
  let s := s.modFlint fun f => { f with
    queue := f.queue.filter fun m => !mine m,
    background := f.background.map fun b => if mine b.mbx then { b with discarded := true } else b,
    aborting := f.aborting.map fun a => if mine a.1 then (a.1, true) else a,
    resetReply := f.resetReply.filter fun m => !mine m }
  (s.askAgain p).loseOwner p

/-- PERSTn_N goes low: a conventional reset of the endpoint. -/
def State.perst (s : State) (p : Nat) : State :=
  (s.modHost p fun h => { h with linkUp := false, perst := true, training := false }).resetFunction p

/-- The data link goes down. -/
def State.hostLinkLost (s : State) (p : Nat) : State :=
  (((s.modHost p fun h => { h with linkUp := false, training := !h.perst }).askAgain p)).loseOwner p

/-! ## Meanings -/

/-- MAILBOX_DOORBELL (R357). -/
def execMailboxDoorbell (port : Nat) (value : Word64) (s : State) : Host.Outcome State Fault Refusal := .next (s.mailboxBell port value)

/-- MAILBOX_DONE_CLEAR (R357). -/
def execMailboxDoneClear (port : Nat) (value : Word64) (s : State) : Host.Outcome State Fault Refusal := .next (s.clearDone port value)

/-- INTERRUPT_ENABLE_WRITE (R355). -/
def execInterruptEnableWrite (port : Nat) (value : Word64) (s : State) : Host.Outcome State Fault Refusal := .next (s.writeEnable port value)

/-- The 8 aligned bytes of BAR0 at an offset (Table 11.2): the mailbox and stream doorbells are WO and read 0, as does an offset not listed
(R9, R352). -/
def State.barWord (s : State) (p off : Nat) : Word64 :=
  if 0x8000 ≤ off ∧ off < 0x8000 + 16 * 34 then BitVec.ofNat 64 (ofLe ((s.host p).msix.readN (off - 0x8000) 8))
  else match off with
    | 0x0000 => s.readReg (.identity p)
    | 0x0008 => s.readReg (.deviceStatus p)
    | 0x0010 => s.readReg (.intCause p)
    | 0x0018 => s.readReg (.intEnable p)
    | 0x0028 => s.readReg (.mailboxSubmitted p)
    | 0x0030 => s.readReg (.mailboxDone p)
    | 0x0040 => s.readReg (.heartbeat p)
    | 0x0048 => s.readReg (.stepStatus p)
    | 0x0050 => s.readReg (.stepTag p)
    | 0x0058 => s.readReg (.hostViolation p)
    | 0x9000 => (s.host p).pba
    | _ => 0

/-- An aligned read of 4 or 8 bytes of BAR0, registers, MSI-X table or pending bit array (R352). -/
def State.barRead (s : State) (p off n : Nat) : Rec := slice (toLe 8 (s.barWord p (off / 8 * 8)).toNat) (off % 8) n

/-- Where a register of a port stands in BAR0 (Table 11.2). -/
def barOffset : Reg → Option (Nat × Nat)
  | .identity p => some (p, 0x0000)
  | .deviceStatus p => some (p, 0x0008)
  | .intCause p => some (p, 0x0010)
  | .intEnable p => some (p, 0x0018)
  | .mailboxSubmitted p => some (p, 0x0028)
  | .mailboxDone p => some (p, 0x0030)
  | .heartbeat p => some (p, 0x0040)
  | .stepStatus p => some (p, 0x0048)
  | .stepTag p => some (p, 0x0050)
  | .hostViolation p => some (p, 0x0058)
  | _ => none

/-- READ_CLEAR_ACCESS (R9): it returns the register's value and clears its RC fields; a host port's register is read in BAR0, and a read of
another wakes its die. -/
def execReadClearAccess (r : Reg) (s : State) : Host.Outcome State Fault Refusal :=
  .next (
    let s := match regDie r with | some d => s.wakeDie d | none => s
    let seen := match barOffset r with | some (p, off) => BitVec.ofNat 64 (ofLe (s.barRead p off 8)) | none => s.readReg r
    (s.readClear r).2.emit (.readValue r seen))

/-- REGISTER_WRITE (R9, R352, R356). -/
def execRegisterWrite (w : HostWrite) (s : State) : Host.Outcome State Fault Refusal := .next (hostWrites w s)

/-- HOST_COMPLETION (R350, Table 11.18). -/
def execHostCompletion (port : Nat) (target : CplTarget) (cpl : Completion) (s : State) : Host.Outcome State Fault Refusal :=
  .next (completion port target cpl s)

/-- FUNCTION_LEVEL_RESET (R381). -/
def execFunctionLevelReset (port : Nat) (s : State) : Host.Outcome State Fault Refusal := .next (s.resetFunction port)

/-- PERST_ASSERTED (R379, R474). -/
def execPerstAsserted (port : Nat) (s : State) : Host.Outcome State Fault Refusal := .next (s.perst port)

/-- PERST_RELEASED (R486): the endpoint trains once step 1 has powered its domain. -/
def execPerstReleased (port : Nat) (s : State) : Host.Outcome State Fault Refusal :=
  .next (if (s.host port).perst then s.modHost port fun h => { h with perst := false, training := decide (s.flint.progress ≥ 2) } else s)

/-- HOST_LINK_DOWN (R350, R379). -/
def execHostLinkDown (port : Nat) (s : State) : Host.Outcome State Fault Refusal :=
  .next (if (s.host port).linkUp then s.hostLinkLost port else s)

/-- HOST_LINK_UP (R350): what the link held resumes. -/
def execHostLinkUp (port : Nat) (s : State) : Host.Outcome State Fault Refusal :=
  .next (if (s.host port).perst then s else (s.modHost port fun h => { h with linkUp := true, training := false }).askImage)

/-- CONFIGURATION_SPACE_WRITE (R350): Bus Master Enable and the power state. -/
def execConfigurationSpaceWrite (port : Nat) (busMaster d3hot : Bool) (s : State) : Host.Outcome State Fault Refusal :=
  .next ((s.modHost port fun h => { h with busMaster := busMaster, d3hot := d3hot }).askImage)

/-- LEASE_EXPIRY (R378). -/
def execLeaseExpiry (s : State) : Host.Outcome State Fault Refusal :=
  .next (if s.flint.owner.isSome then s.modFlint fun f => { f with leaseExpired := true } else s)

end Sys2Proof.Machine
end

