-- ==== Sys2Proof/Machine/Power.lean ====
section
/-! DEFINITION. Power, supply and temperature (R452 to R473): samples and the cap, Quiet and Retain, waking, brown-out,
thermal thresholds and the trip, the input supply. -/

namespace Sys2Proof.Machine

/-- An event of Table 14.9 that is no fault: action 0 (R472). -/
def State.powerEvent (s : State) (code die : Nat) (detail : Rec) : State := s.logEvent 11 code 0 0 die detail

/-! ## Voltages (R455, R466) -/

/-- A die's voltages go down: to values between the floor and where they stand; the manual gives the bounds only. (log 120: DESIGN CHOICE) -/
def State.lowerVolts (s : State) (d : Nat) : State :=
  let (v, s) := s.take
  let (w, s) := s.take
  let floor := if s.onPlane d then 700 else 620
  s.modDie d fun k => { k with coreMv := if k.coreMv ≤ 620 then k.coreMv else 620 + v.toNat % (k.coreMv - 619),
                               moverMv := if k.moverMv ≤ floor then k.moverMv else floor + w.toNat % (k.moverMv - floor + 1) }

/-- A die's voltages may go up: to values between where they stand and 0.86 V. -/
def State.raiseVolts (s : State) (d : Nat) : State :=
  let (v, s) := s.take
  let (w, s) := s.take
  s.modDie d fun k => { k with coreMv := if k.coreMv ≥ 860 then k.coreMv else k.coreMv + v.toNat % (861 - k.coreMv),
                               moverMv := if k.moverMv ≥ 860 then k.moverMv else k.moverMv + w.toNat % (861 - k.moverMv) }

/-- Whether a die is powered and awake, so that its voltages follow the bounds of R455. -/
def Die.active (k : Die) : Bool := k.pstate == 0 && decide (k.coreMv ≠ 0) && !k.retired

/-- Whether a device's readout holds its die's voltages down (R466): above 100 °C, and not replaced (R199). -/
def MemDev.overheated (m : MemDev) : Bool := decide (m.readout > 100) && m.replaced == 0

/-- Whether a memory readout holds a die down. -/
def State.memHot (s : State) (d : Nat) : Bool := s.mems.any fun m => devDie m.1 == d && m.2.failed.isNone && m.2.overheated

/-- Whether a sensor of a die or its Opals is above its throttle threshold. -/
def State.sensorHot (s : State) (d : Nat) : Bool :=
  (s.die d).basalt.any (fun t => decide (t > s.cfg.throttleBasalt)) || (s.die d).opal.any fun t => decide (t > s.cfg.throttleOpal)

/-- Thresholds crossed on a die lower its voltages (Table 14.5): the event when a kind of threshold is first exceeded, the flag and the
count when the voltages go down. (log 121: DEDUCED) -/
def State.throttle (s : State) (d : Nat) (newSensor newMem : Bool) : State :=
  let hot := s.sensorHot d || s.memHot d
  let s := if newSensor then s.powerEvent 0x5A d [] else s
  let s := if newMem then s.powerEvent 0x5C d [] else s
  let s := if newSensor || newMem then (s.setBit (.diePower d) 63).bump (.powerCount d) 31 16 1 else s
  let s := s.modDie d fun k => { k with throttled := hot }
  if hot && decide ((s.die d).coreMv ≠ 0) && decide ((s.die d).pstate < 2) then s.lowerVolts d else s

/-- One die's answer to a power sample: its share of the cap by demand, the throttle and the trip's floor. -/
def State.sampleDie (s : State) (p : PowerSample) (d : Nat) : State :=
  let s := (s.modDie d fun k => { k with watts := p.die.getD d 0 }).liftMover d
  let k := s.die d
  if !k.active then s
  else
    let total := p.demand.sum
    let capped := decide (p.average > s.cfg.capW) && (decide (total = 0) || decide (p.die.getD d 0 * total > s.cfg.capW * p.demand.getD d 0))
    if s.flint.tripped then s
    else if p.watts ≥ 2600 || capped then
      let s := if capped then s.setBit (.diePower d) 62 else s
      s.lowerVolts d
    else if k.throttled then s else s.raiseVolts d

/-- Admission is held while the average stays above the cap with every active die at the floor (R455); the share of each interval is
the controllers' own: a free value, in thousandths. -/
def State.holdAdmission (s : State) (average : Nat) : State :=
  let floor := (List.range 4).all fun d => !(s.die d).active || decide ((s.die d).coreMv ≤ 620)
  if average > s.cfg.capW && floor then
    (List.range 4).foldl (fun (s : State) d =>
      if (s.die d).active then
        let (v, s) := s.take
        (s.setBit (.diePower d) 62).modDie d fun k => { k with holdAdmission := 1 + v.toNat % 1000 }
      else s) s
  else (List.range 4).foldl (fun (s : State) d => if (s.die d).holdAdmission = 0 then s else s.modDie d fun k => { k with holdAdmission := 0 }) s

/-- POWER_SAMPLE: the figures, the bounds, the voltages. (log 6: DESIGN CHOICE) -/
def sampled (p : PowerSample) (s : State) : State :=
  if !s.powered then s
  else
    let s : State := { s with inputMv := p.millivolts, inputW := p.watts }
    let s := if p.watts ≥ 2600 then s.setBit .moduleSupply 62 else s
    let s := (List.range 4).foldl (fun s d => s.sampleDie p d) s
    s.holdAdmission p.average

/-! ## Quiet and Retain (R458 to R462) -/

/-- The voltages of Quiet: 0.66 V, or where a throttle or the cap already holds them lower, as they stand; the mover voltage only where it
carries no class 1 forwarding (R459, R466). -/
def State.quietVolts (s : State) (d : Nat) : State :=
  let lifted := s.onPlane d
  s.modDie d fun k => { k with pstate := 1, coreMv := min 660 k.coreMv, moverMv := if lifted then k.moverMv else min 660 k.moverMv }

/-- The Quiet timer runs out (R459). No die goes Quiet in BOOTING or UPDATING (R33). -/
def quietDie (d : Nat) (s : State) : State :=
  let k := s.die d
  if !k.active || decide (k.quietUs = timerOff) || s.flint.state == .booting || s.flint.state == .updating then s
  else s.quietVolts d

/-- Whether a region being zeroed has a page on a die's devices. -/
def State.zeroingOn (s : State) (d : Nat) : Bool :=
  s.contexts.any fun c => c.2.regions.any fun r => r.2.zeroing && (windowOf r.2.base == some 4 || windowOf r.2.base == some d)

/-- Whether a class 1 word crossed the die within the last Retain-timer interval. -/
def State.recentClass1 (s : State) (d : Nat) : Bool :=
  match (s.die d).lastClass1 with
  | some t => decide (s.localTime.toNat < t.toNat + (s.die d).retainUs * 1000)
  | none => false

/-- The conditions of R460, with R33's; a context switch and a partial reset keep every die busy. (log 123: DEDUCED) -/
def State.mayRetain (s : State) (d : Nat) : Bool :=
  s.flint.state != .booting && s.flint.state != .updating && s.flint.state != .scrubbing &&
  !(s.flint.state == .running && s.onPlane d) &&
  !(s.holding || s.flint.background.any fun b => b.kind == .reset) &&
  (s.die d).basalt.all (fun t => decide (t < 80)) && !s.windowOpen d && !s.zeroingOn d && !s.recentClass1 d

/-- Retain entry begins (Table 14.2 step 2): every port that is up asks for dormancy, one that is not yet up goes down. -/
def State.beginRetain (s : State) (d : Nat) : State :=
  let s := s.modDie d fun k => { k with pstate := 3 }
  let s := (List.range 6).foldl (fun (s : State) i =>
    let p := 6 * d + i
    let o := s.oport p
    if o.state = 3 then (s.modOport p fun o => { o with dormantAsked := true }).nextManagement p
    else if o.state = 1 ∨ o.state = 2 then s.portOff p 5 10 else s) s
  s.settleRetain d

/-- The Retain timer runs out: entry begins, or is deferred and counted (R460). -/
def retainTimer (d : Nat) (s : State) : State :=
  if (s.die d).pstate ≠ 1 ∨ (s.die d).retainUs = timerOff ∨ (s.die d).due then s
  else
    let s := s.modDie d fun k => { k with due := true }
    if s.mayRetain d then s.beginRetain d else (s.setBit (.diePower d) 60).bump (.powerCount d) 47 32 1

/-! ## Temperature (R466) -/

/-- Event 0x5E for a low junction (R472): the first sensor below 5 °C. -/
def State.lowJunction (s : State) (d : Nat) (basalt : List Int) : State :=
  match basalt.zipIdx.find? fun x => decide (x.1 < 5) with
  | some (t, i) =>
    if (s.die d).lowReported then s
    else (s.modDie d fun k => { k with lowReported := true }).powerEvent 0x5E d
      [1, 0, 0, 0, BitVec.ofNat 8 d, BitVec.ofNat 8 i, BitVec.ofInt 8 t]
  | none => s.modDie d fun k => { k with lowReported := false }

/-- A forced wake: the die wakes, and stays in Quiet until it reads below 80 °C. (log 122: DEDUCED) -/
def State.forcedWake (s : State) (d : Nat) : State :=
  let s := ((s.wakeDie d).bump (.powerCount d) 15 0 1).powerEvent 0x5F d []
  (s.quietVolts d).modDie d fun k => { k with stayQuiet := true, due := true }

/-- TEMPERATURE_SAMPLE: the readings and the thresholds of Table 14.5. -/
def tempSampled (d : Nat) (basalt opal : List Int) (s : State) : State :=
  if !s.powered then s
  else
    let was := s.sensorHot d
    let s := s.modDie d fun k => { k with basalt := slice' basalt 32, opal := slice' opal 8 }
    let s := s.lowJunction d (s.die d).basalt
    let s := if (s.die d).pstate = 2 ∧ (s.die d).basalt.any (fun t => decide (t ≥ 85)) then s.forcedWake d else s
    let s := if (s.die d).basalt.all (fun t => decide (t < 80)) then s.modDie d fun k => { k with stayQuiet := false } else s
    s.throttle d (!was && s.sensorHot d) false
where
  /-- The sensors a die has. -/
  slice' (l : List Int) (n : Nat) : List Int := l.take n

/-- The die whose readings trip: the lowest with a sensor or a memory readout at its trip value. -/
def State.tripDie (s : State) : Nat :=
  ((List.range 4).find? fun d => (s.die d).basalt.any (fun t => decide (t ≥ 105)) || (s.die d).opal.any (fun t => decide (t ≥ 100)) ||
    s.mems.any fun m => devDie m.1 == d && m.2.overheated && decide (m.2.readout ≥ 110)).getD 0

/-! ## Supply (R469, R498) -/

/-- The module is Off: everything but the boot flash, the board's pins and what the world already has is lost. (log 126: DEDUCED) -/
def State.off (s : State) (pins : Pins) : State :=
  { State.reset with powered := false, flash := s.flash, pins := pins, sent := s.sent, fresh := s.fresh, pending := s.pending,
                     hosts := s.hosts.map fun h => (h.1, { HostPort.init with perst := h.2.perst }) }

/-! ## Meanings -/

/-- POWER_SAMPLE (R455). -/
def execPowerSample (p : PowerSample) (s : State) : Host.Outcome State Fault Refusal := .next (sampled p s)

/-- QUIET_TIMER_EXPIRY (R459). -/
def execQuietTimerExpiry (die : Nat) (s : State) : Host.Outcome State Fault Refusal := .next (quietDie die s)

/-- RETAIN_TIMER_EXPIRY (R460). -/
def execRetainTimerExpiry (die : Nat) (s : State) : Host.Outcome State Fault Refusal := .next (retainTimer die s)

/-- RETAIN_ENTRY (R460, R461): a die whose timer has run out enters as soon as every condition holds. -/
def execRetainEntry (die : Nat) (s : State) : Host.Outcome State Fault Refusal :=
  .next (if (s.die die).pstate = 1 ∧ (s.die die).due ∧ s.mayRetain die then s.beginRetain die else s)

/-- DIE_WAKE (R463). -/
def execDieWake (die : Nat) (s : State) : Host.Outcome State Fault Refusal := .next (s.wakeDie die)

/-- BROWN_OUT (R465): 0x58 in low-power mode, 0x59 in full mode. -/
def execBrownOut (die : Nat) (s : State) : Host.Outcome State Fault Refusal :=
  .next (if !s.powered || (s.die die).retired then s
    else s.handle { kind := 11, unit := die, sub := 0, code := if (s.die die).lowMode then 0x58 else 0x59 })

/-- BROWN_OUT_REINIT_COMPLETE (R465 step 4). -/
def execBrownOutReinitComplete (die : Nat) (s : State) : Host.Outcome State Fault Refusal :=
  .next (if s.flint.reinit.contains die then (s.modFlint fun f => { f with reinit := f.reinit.filter (· ≠ die) }).lightDie die else s)

/-- TEMPERATURE_SAMPLE (R466). -/
def execTemperatureSample (die : Nat) (basalt opal : List Int) (s : State) : Host.Outcome State Fault Refusal :=
  .next (tempSampled die basalt opal s)

/-- THERMAL_TRIP (R467). -/
def execThermalTrip (s : State) : Host.Outcome State Fault Refusal :=
  .next (if !s.powered then s
    else if s.flint.state = .booting then s.trip
    else s.handle { kind := 11, unit := s.tripDie, sub := 0, code := 0x5B })

/-- SUPPLY_LOW (R469): event 0x5E with the voltage, and the supply-low flag. -/
def execSupplyLow (millivolts : Nat) (s : State) : Host.Outcome State Fault Refusal :=
  .next (if s.powered then (s.setBit .moduleSupply 63).powerEvent 0x5E 0 ([0, 0, 0, 0] ++ toLe 4 millivolts) else s)

/-- SUPPLY_SHUTDOWN (R469): every domain off, no cut. -/
def execSupplyShutdown (s : State) : Host.Outcome State Fault Refusal := .next (s.off { s.pins with vin := false })

/-- MOD_PWROK_FALL (R498): the domains go off without a cut. -/
def execModPwrokFall (s : State) : Host.Outcome State Fault Refusal := .next (s.off { s.pins with pwrok := false })

end Sys2Proof.Machine
end

