-- ==== Sys2Proof/Machine/Memory.lean ====
section
/-! DEFINITION. The memory controllers (R175 to R199): a granted access with what its burst meets, refresh, tracking and
retraining, temperature readouts, the patrol. -/

namespace Sys2Proof.Machine

/-- Words of 16 bytes of a device (R186). -/
def deviceWords : Nat := 4000000000

/-- Device pages of a device (R186). -/
def devicePages : Nat := 15625000

/-- Where a device word stands among the model's words. -/
def devWordKey (d w : Nat) : Nat := devKey d (16 * w) / 16

/-- The first of the two raw bytes of a stack die that hold the check bits of its data word w (R183). -/
def checkByte (w : Nat) : Nat := 8000000000 + 2 * w

/-- The raw byte of a stack die (R183): of a data word in the data area, of its check bits in the check area, as the cells hold them. -/
def State.rawByte (s : State) (d die raw : Nat) : Byte :=
  let w := if raw < 8000000000 then raw / 16 else (raw - 8000000000) / 2
  let k := devKey d (8000000000 * die + 16 * w) / 16
  let cells := eccEncode (BitVec.ofNat 128 (le (s.devmem.readN (16 * k) 16) 0 16)) ^^^ s.devFlips.get k
  BitVec.ofNat 8 (cells.toNat / 256 ^ (if raw < 8000000000 then raw % 16 else 16 + raw % 2))

/-- Whether a controller grants accesses: its device is present and runs, and no scrub is under way (R195). -/
def MemDev.grants (m : MemDev) : Bool := m.failed.isNone && (m.state == 2 || m.state == 3)

/-- An access fails: the memory fault, and stream fault 0x03 for the stream whose transfer makes it (R184, R199). -/
def State.accessFails (s : State) (a : MemAccess) (code : Nat) : State :=
  let s := s.memFault a.dev code
  match a.stream with
  | some id => if (s.streamEntry id).isSome && !(s.stream id).faulted then s.streamFault id 0x03 else s
  | none => s

/-- Error bits strike a stored word. -/
def State.strikeWord (s : State) (k : Nat) (x : BitVec 144) : State := { s with devFlips := s.devFlips.set k (s.devFlips.get k ^^^ x) }

/-- A word's present value, its error bits settled by a read: corrections are written back and counted; none when it is uncorrectable
(R184). -/
def State.settleDev (s : State) (d k : Nat) : Option State :=
  (settleWord s.devmem s.devFlips k).map fun x => ({ s with devmem := x.1, devFlips := x.2.1 } : State).bump (.memCount d) 11 0 x.2.2

/-- Bytes of a word under a byte mask. -/
def State.putWord (s : State) (k : Nat) (mask : BitVec 16) (data : BitVec 128) : State :=
  (List.range 16).foldl (fun (s : State) i =>
    if mask.getLsbD i then { s with devmem := s.devmem.write (16 * k + i) (BitVec.ofNat 8 (data.toNat / 256 ^ i)) } else s) s

/-- The access itself at its ordering point (R184, R189): a read settles the word; a whole-word write replaces it with its check bits; a
narrower write reads it first, and writes nothing when it is uncorrectable. -/
def State.access (s : State) (a : MemAccess) (k : Nat) : State :=
  match a.write with
  | none => (s.settleDev a.dev k).getD (s.accessFails a 0x20)
  | some (mask, data) =>
    if mask = ~~~0 then ({ s with devFlips := s.devFlips.set k 0 } : State).putWord k mask data
    else match s.settleDev a.dev k with
      | some s => s.putWord k mask data
      | none => s.accessFails a 0x20

/-- A full retraining of a channel has completed (R191); the read timing of its eight dies is what it finds: free values (R180). -/
def State.retrained (s : State) (d c : Nat) : State :=
  let (v, s) := s.takeWords 8
  ((s.modMem d fun m =>
    { m with trainedAt := m.trainedAt.set c m.readout, due := m.due.filter (· ≠ c), exitDue := m.exitDue.filter (· ≠ c),
             timing := m.timing.take (8 * c) ++ v ++ m.timing.drop (8 * c + 8) }).bump
    (.memCount d) 35 24 1).setBit (.memStatus d) 61

/-- A channel is fully retrained after every lower one of its device that is due (R191). -/
def State.retrainInTurn (s : State) (d c : Nat) : State :=
  (((List.range c).filter fun i => (s.mem d).due.contains i) ++ [c]).foldl (fun s c => s.retrained d c) s

/-- What a burst's CRC meets (R199): up to four re-sends or re-reads, then a full retraining and one more; the Bool says whether the access
is made. Which channel serves a word is the controller's own choice: the retraining is of a channel that the manual leaves open, a free
value. -/
def State.crc (s : State) (a : MemAccess) : Bool × State :=
  if a.crcFails = 0 then (true, s)
  else
    let s := (s.memViolation a.dev (if a.write.isSome then 2 else 1)).bump (.memCount a.dev) 47 36 (min a.crcFails 5)
    if a.crcFails ≤ 4 then (true, s)
    else
      let (c, s) := s.take
      let s := s.retrainInTurn a.dev (c.toNat % 4)
      if a.retrainOk then (true, s) else (false, s.accessFails a 0x21)

/-- A report of the memory device's own error correction: 1 a corrected burst, 2 an uncorrectable one, whose words all count as
uncorrectable (Table 6.11). -/
def State.ownReport (s : State) (a : MemAccess) : Bool × State :=
  if a.eccReport = 1 then (true, s.memViolation a.dev 5)
  else if a.eccReport = 2 then (false, (s.memViolation a.dev 4).accessFails a 0x20)
  else (true, s)

/-- A granted access: the command goes to the stack die of its word, its burst crosses, and the word is read or written. (log 81: DESIGN CHOICE) -/
def State.grant (s : State) (a : MemAccess) : State :=
  if !(s.mem a.dev).grants then s
  else
    let k := devWordKey a.dev a.word
    let s := s.stackCommand a.dev (stackDie (16 * a.word)).1 (if a.write.isSome then "WRITE" else "READ")
    match (s.strikeWord k a.flips).crc a with
    | (false, s) => s
    | (true, s) => match s.ownReport a with
      | (false, s) => s
      | (true, s) => s.access a k

/-- MEMORY_ACCESS_GRANT: an access to a device in self-refresh wakes it; while channels that its exit left due are being retrained it is
held, in its turn (Table 6.6 steps 5 to 9, R196). -/
def granted (a : MemAccess) (s : State) : State :=
  if !((s.mem a.dev).grants || (s.mem a.dev).state == 4) || s.flint.state == .scrubbing || decide (a.word ≥ deviceWords) then s
  else
    let s := s.stir (devDie a.dev)
    if !(s.mem a.dev).grants then s
    else if (s.mem a.dev).exitDue.isEmpty then s.grant a
    else s.modMem a.dev fun m => { m with held := m.held ++ [a] }

/-- Step 9 of Table 6.6: with no channel of the exit left to retrain, the held accesses are granted in their order. -/
def State.grantHeld (s : State) (d : Nat) : State :=
  let m := s.mem d
  if m.held.isEmpty || !m.exitDue.isEmpty then s
  else m.held.foldl State.grant (s.modMem d fun m => { m with held := [] })

/-- A device whose retraining after an exit fails (0x25) serves none of the accesses it held: their transfers stop as for any access
that fails (R199). (log 198: DESIGN CHOICE) -/
def State.failHeld (s : State) (d : Nat) : State :=
  let held := (s.mem d).held
  held.foldl (fun (s : State) a => match a.stream with
    | some id => if (s.streamEntry id).isSome && !(s.stream id).faulted then s.streamFault id 0x03 else s
    | none => s) (s.modMem d fun m => { m with held := [] })

/-! ## Refresh, tracking, temperature, patrol -/

/-- A refresh goes to one stack die, in turn (R180, R192); the rate takes effect at the next one: a replaced readout counts as 100 °C.
(log 173: DESIGN CHOICE) -/
def refreshed (d : Nat) (s : State) : State :=
  if (s.mem d).failed.isSome || !([2, 3, 5].contains (s.mem d).state) then s
  else (s.stackCommand d (s.mem d).refreshNext "REFRESH").modMem d fun m => { m with
    refreshes := m.refreshes + 1, refreshNext := (m.refreshNext + 1) % 8, fastRefresh := decide (m.replaced ≠ 0) || decide (m.readout > 85) }

/-- Whether a readout is a violation (Table 6.11). -/
def badReadout (before now : Int) : Bool := decide (now < -40) || decide (now > 125) || decide ((now - before).natAbs > 20)

/-- The reading before a new one: the first has none before it and so is no change between readings (Table 6.11). -/
def MemDev.lastOr (m : MemDev) (t : Int) : Int := if m.measured then m.readout else t

/-- TEMPERATURE_READOUT (R176, R191, R192, R199, R466): the first readout stands for the temperature at which its channels were
trained; an implausible one too is the reading that the next change is measured from. A readout in self-refresh is judged at the exit
(R196). (log 82: DESIGN CHOICE; log 83: DEDUCED) -/
def readoutTaken (d : Nat) (t : Int) (s : State) : State :=
  let m := s.mem d
  if m.failed.isSome || !([2, 3, 4, 5].contains m.state) then s
  else
    let die := devDie d
    let was := s.memHot die
    if badReadout (m.lastOr t) t then
      let s := (s.modMem d fun m => { m with readout := t, measured := true, replaced := m.replaced + 1, due := [0, 1, 2, 3], exitDue := if m.state = 4 then [0, 1, 2, 3] else m.exitDue }).memViolation d 6
      let s := if (s.mem d).replaced = 3 then s.powerEvent 0x5D die [] else s
      s.throttle die false false
    else
      let s := s.modMem d fun m =>
        let m := { m with readout := t, measured := true, replaced := 0, trainedAt := if m.measured then m.trainedAt else List.replicate 4 t }
        if m.state = 4 then m else { m with due := ((m.due ++ m.drifted).eraseDups) }
      s.throttle die false (!was && s.memHot die)

/-- FULL_RETRAINING (R191): the lowest channel that is due; failure fails the device (R198, R199), in operation with 0x22, as training
that fails at boot does. (log 199: DESIGN CHOICE) -/
def retrain (d c : Nat) (ok : Bool) (s : State) : State :=
  let m := s.mem d
  if !m.grants || m.due.min? ≠ some c then s
  else if ok then (s.retrained d c).grantHeld d
  else if m.exitDue.contains c then (s.memFault d 0x25).failHeld d
  else (s.memFault d 0x22).failHeld d

/-- The patrol's words of one page, in order: corrections in place, an uncorrectable word recorded (R193). -/
def State.patrolWords (s : State) (d : Nat) : List Nat → State
  | [] => s
  | k :: ks => ((s.settleDev d k).getD (s.memFault d 0x20)).patrolWords d ks

/-- PATROL_READ: the page the patrol stands at, 256 words, and the next page. -/
def patrol (d : Nat) (upset : Option (Nat × BitVec 144)) (s : State) : State :=
  let m := s.mem d
  if m.failed.isSome || m.state ≠ 2 || s.flint.state == .scrubbing || s.cfg.patrolH = 0 || decide ((s.die (devDie d)).pstate ≥ 2) then s
  else
    let first := devWordKey d (256 * m.patrolPage)
    let s := match upset with | some (w, x) => s.strikeWord (first + w % 256) x | none => s
    let s := s.patrolWords d ((s.devFlips.filter fun f => decide (first ≤ f.1) && decide (f.1 < first + 256)).map (·.1))
    s.modMem d fun m => { m with patrolPage := (m.patrolPage + 1) % devicePages }

/-! ## Meanings -/

/-- MEMORY_ACCESS_GRANT (R184, R189, R199). -/
def execMemoryAccessGrant (a : MemAccess) (s : State) : Host.Outcome State Fault Refusal := .next (granted a s)

/-- REFRESH_DUE (R192). -/
def execRefreshDue (dev : Nat) (s : State) : Host.Outcome State Fault Refusal := .next (refreshed dev s)

/-- READ_TIMING_TRACKING (R191). -/
def execReadTimingTracking (dev _channel : Nat) (s : State) : Host.Outcome State Fault Refusal :=
  .next (if (s.mem dev).failed.isNone ∧ (s.mem dev).state = 2 then s.modMem dev fun m => { m with tracked := m.tracked + 1 } else s)

/-- TEMPERATURE_READOUT (R176, R192, R199). -/
def execTemperatureReadout (dev : Nat) (celsius : Int) (s : State) : Host.Outcome State Fault Refusal := .next (readoutTaken dev celsius s)

/-- FULL_RETRAINING (R191). -/
def execFullRetraining (dev channel : Nat) (ok : Bool) (s : State) : Host.Outcome State Fault Refusal := .next (retrain dev channel ok s)

/-- PATROL_READ (R193). -/
def execPatrolRead (dev : Nat) (upset : Option (Nat × BitVec 144)) (s : State) : Host.Outcome State Fault Refusal :=
  .next (patrol dev upset s)

end Sys2Proof.Machine
end

