-- ==== Sys2Proof/Machine/UpdateUnit.lean ====
section
/-! DEFINITION. The update units (R214 to R222): the gate, the inputs, the values of Table 7.8, the stores, the status record and
the signal. -/

namespace Sys2Proof.Machine

/-! ## Entries and hyperparameters -/

/-- An entry's kind (Table 7.8). -/
def updKind (r : Rec) : Nat := bits (le r 0 4) 31 30
/-- An entry's blocks. -/
def updCount (r : Rec) : Nat := le r 4 4
/-- A 48-bit address of an entry. -/
def updAddr (r : Rec) (off : Nat) : Nat := le r off 6
/-- Whether the working copy is written. -/
def updWorking (r : Rec) : Bool := bit (le r 0 4) 29
/-- The instrument entry enabled at an offset of an entry. -/
def updInstr (r : Rec) (off : Nat) : Option Nat := if bit (le r off 2) 15 then some (bits (le r off 2) 11 0) else none

/-- A constant of the hyperparameter block: mantissa × 2^exponent (R216). -/
def hyperAt (h : Rec) (i : Nat) : Exact := Exact.ofInt (sgn 32 (le h (8 * i) 4)) (sgn 8 (le h (8 * i + 4) 1))

/-- ε; a value that is not positive is taken as 2^−120 (Table 7.7). -/
def hyperEps (h : Rec) : Exact := let e := hyperAt h 6; if e.num ≤ 0 then Exact.ofInt 1 (-120) else e

/-- Whether a reserved byte of the block is not 0 (R222). -/
def hyperBad (h : Rec) : Bool := (List.range 7).any (fun i => !zeroAt h (8 * i + 5) 3) || !zeroAt h 56 8

/-- r(v′) of a stored second moment a × 2^e (R218). -/
def rootOf (a e : Int) : Exact :=
  if a ≤ 0 then Exact.zero
  else
    let p := e % 2
    Exact.ofInt (isqrt (a.toNat * 2 ^ (30 + p.toNat))) ((e - 30 - p) / 2)

/-- The ranges of an entry, each with its bytes and whether it is read and written (R214, R188). -/
def updRanges (r : Rec) : List (Nat × Nat × Bool × Bool) :=
  let n := updCount r
  [(updAddr r 8, 256 * n, true, true), (updAddr r 14, n, true, true), (updAddr r 20, 8 * n, true, true), (updAddr r 50, 128 * n, true, false),
   (updAddr r 56, n, true, false), (updAddr r 74, 64, true, false), (updAddr r 94, 16, false, true)] ++
  (if updKind r ≥ 1 then [(updAddr r 26, 128 * n, true, true), (updAddr r 32, n, true, true)] else []) ++
  (if updKind r = 2 then [(updAddr r 38, 128 * n, true, true), (updAddr r 44, n, true, true)] else []) ++
  (if updWorking r then [(updAddr r 62, 64 * n, false, true), (updAddr r 68, n, false, true)] else [])

/-- What the regions of the running context say of an entry's accesses. -/
def State.updCheck (s : State) (r : Rec) : Acc :=
  match s.residentCtx with
  | none => .denied
  | some c =>
    let one := fun (x : Nat × Nat × Bool × Bool) =>
      (if x.2.2.1 then [s.rangeCheck c false x.1 x.2.1] else []) ++ if x.2.2.2 then [s.rangeCheck c true x.1 x.2.1] else []
    let all := (updRanges r).flatMap one
    if all.any (· == .denied) then .denied
    else if all.any (· == .held) || (updRanges r).any (fun x => s.retraining x.1 x.2.1) then .held else .ok

/-! ## The values of one block (Table 7.8) -/

/-- The inputs of a block: master, moments and gradient; a kind that uses no moment has none. -/
structure Inputs where
  w : List Opd
  m : List Opd
  v : List Opd
  g : List Opd
  deriving DecidableEq, Repr

/-- The operands of element i. -/
def Inputs.at' (x : Inputs) (i : Nat) : List Opd := [x.w, x.m, x.v, x.g].filterMap fun l => l[i]?

/-- Whether an element's outputs are vug: under propagate, when an input is (R220). -/
def Inputs.vug (x : Inputs) (zero : Bool) (i : Nat) : Bool := !zero && (x.at' i).any fun o => o.man.isNone

/-- The value of an operand of element i, a vug one as 0. -/
def elemOf (l : List Opd) (i : Nat) : Exact := match l[i]? with | some o => o.val.getD Exact.zero | none => Exact.zero

/-- The new first moment of each element. -/
def newMoment1 (kind : Nat) (h : Rec) (zero : Bool) (x : Inputs) : List (Option Exact) :=
  (List.range 64).map fun i =>
    if x.vug zero i then none
    else
      let bm := (hyperAt h 2).mul (elemOf x.m i)
      some (bm.add (if kind = 2 then (hyperAt h 3).mul (elemOf x.g i) else elemOf x.g i))

/-- The new second moment of each element. -/
def newMoment2 (h : Rec) (zero : Bool) (x : Inputs) : List (Option Exact) :=
  (List.range 64).map fun i =>
    if x.vug zero i then none
    else
      let g := elemOf x.g i
      some (((hyperAt h 4).mul (elemOf x.v i)).add ((hyperAt h 5).mul (g.mul g)))

/-- The exact value of a stored element, 0 for a vug one. -/
def storedAt (st : Stored) (i : Nat) : Exact := match st.elems[i]? with | some (some a) => Exact.ofInt a st.exp | _ => Exact.zero

/-- The new master of each element from the stored new moments. -/
def newMaster (kind : Nat) (h : Rec) (zero : Bool) (x : Inputs) (m v : Stored) : List (Option Exact) :=
  (List.range 64).map fun i =>
    if x.vug zero i then none
    else
      let w := elemOf x.w i
      let eta := hyperAt h 0
      let root := match v.elems[i]? with | some (some a) => rootOf a v.exp | _ => Exact.zero
      let step := if kind = 0 then some (elemOf x.g i) else if kind = 1 then some (storedAt m i) else (storedAt m i).div (root.add (hyperEps h))
      step.map fun u => (w.sub (eta.mul u)).sub ((eta.mul (hyperAt h 1)).mul w)

/-! ## Reading and storing a block -/

/-- Read block b of a tensor. -/
def State.updRead (s : State) (f va sa b : Nat) (ma : Option Nat) : Except MemErr (List Opd × State) := do
  let (v, s) ← s.devRead (va + 8 * fmtBits f * b) (8 * fmtBits f)
  let (sc, s) ← s.devRead (sa + b) 1
  let (mb, s) ← match ma with | some a => s.devRead (a + 8 * b) 8 | none => .ok ([], s)
  .ok (opdsOf f (some (sc.getD 0 0)) (ofLe mb) ((List.range 64).map (codeAt f v)), s)

/-- The stored bytes of a block: values, scale byte, mask word (R233). -/
def Stored.bytes (st : Stored) (f : Nat) : Rec :=
  packCodes f [] (st.elems.map (elemCode f)) ++ [st.scale] ++ if f = 3 then toLe 8 (maskOf st.elems) else []

/-- Store block b of an output; an access that fails leaves what is written. -/
def State.updWrite (s : State) (f va sa b : Nat) (ma : Option Nat) (st : Stored) : State × Option MemErr :=
  let parts := [(va + 8 * fmtBits f * b, packCodes f [] (st.elems.map (elemCode f))), (sa + b, [st.scale])] ++
    match ma with | some a => [(a + 8 * b, toLe 8 (maskOf st.elems))] | none => []
  parts.foldl (fun (x : State × Option MemErr) (p : Nat × Rec) => match x.2 with
    | some _ => x
    | none => match x.1.devWrite p.1 p.2 with
      | .ok s => (s, none)
      | .error e => (x.1, some e)) (s, none)

/-- What an entry has gathered: counts, elements, the tile of each output under way (bytes, saturations, vugs), and the three
instrument contributions. -/
structure UpdAcc where
  sats : Nat
  vugs : Nat
  elements : Nat
  tiles : Tbl (Rec × Nat × Nat)
  weights : Accum
  gradient : Accum
  update : Accum
  deriving DecidableEq, Repr

/-- Nothing gathered. -/
def UpdAcc.init : UpdAcc :=
  { sats := 0, vugs := 0, elements := 0, tiles := [], weights := Accum.init, gradient := Accum.init, update := Accum.init }

/-- A store of an output, with the substitutions counted with it. (log 129: DEDUCED) -/
def UpdAcc.take (a : UpdAcc) (out f subs : Nat) (st : Stored) : UpdAcc :=
  let (b, n, v) := Tab.get ([], 0, 0) a.tiles out
  { a with sats := a.sats + st.sats, vugs := a.vugs + st.vugs + subs, tiles := Tab.set a.tiles out (b ++ st.bytes f, n + st.sats, v + st.vugs + subs) }

/-- The gradient as read: its elements, and its vug ones counted. -/
def gradStored (g : List Opd) : Accum :=
  let a := g.foldl (fun (a : Accum) o => match o.man with | some m => a.feed m o.exp | none => { a with vugs := a.vugs + 1 }) Accum.init
  { a with elements := g.length, written := true }

/-- The differences of the stored new master and the old one. -/
def diffStored (w : List Opd) (st : Stored) (zero : Bool) : Accum :=
  let a := (List.range 64).foldl (fun (a : Accum) i => match st.elems[i]?, (w[i]?).bind fun o => o.subst zero with
    | some (some _), some old =>
      let d := (storedAt st i).sub old
      a.feed d.num d.exp
    | _, _ => { a with vugs := a.vugs + 1 }) Accum.init
  { a with elements := 64, written := true }

/-- The inputs of a block. -/
def State.updInputs (s : State) (r : Rec) (b : Nat) : Except MemErr (Inputs × State) := do
  let (w, s) ← s.updRead 3 (updAddr r 8) (updAddr r 14) b (some (updAddr r 20))
  let (m, s) ← if updKind r ≥ 1 then s.updRead 2 (updAddr r 26) (updAddr r 32) b none else .ok ([], s)
  let (v, s) ← if updKind r = 2 then s.updRead 2 (updAddr r 38) (updAddr r 44) b none else .ok ([], s)
  let (g, s) ← s.updRead 2 (updAddr r 50) (updAddr r 56) b none
  .ok ({ w := w, m := m, v := v, g := g }, s)

/-- Why an entry stops: an access that could not be made, or a scale-table entry that does not match its complement. -/
inductive UpdErr where
  | mem (e : MemErr)
  | scale
  deriving DecidableEq, Repr

/-- One output of a block: the store (R219), counted and gathered. -/
def State.updStore (s : State) (a : UpdAcc) (f va sa b : Nat) (ma : Option Nat) (out subs : Nat) (st : Stored) : UpdAcc × State × Option UpdErr :=
  let (s, e) := s.updWrite f va sa b ma st
  (a.take out f subs st, s, e.map .mem)

/-- The working copy of a block; a scale-table entry that does not match its complement keeps it from storing (R43) and stops the unit with
cause 1 (Table 13.3). (log 130: DEDUCED) -/
def State.updWorkingCopy (s : State) (r : Rec) (index b : Nat) (a : UpdAcc) (st : Stored) : UpdAcc × State × Option UpdErr :=
  if !updWorking r then (a, s, none)
  else match s.expRule false (bits (le r 0 4) 28 27) (bits (le r 0 4) 11 0) with
    | none => (a, s, some .scale)
    | some rule =>
      let row := le r 90 4 + b
      let xs := st.elems.map fun (x : Option Int) => x.map fun m => Exact.ofInt m st.exp
      let k := storeBlock 1 rule true (fun i => s.draw 5 (4 * index + 3) row i) none xs
      s.updStore a 1 (updAddr r 62) (updAddr r 68) b none 3 0 k

/-- One block of an entry (R217 to R221). -/
def State.updBlock (s : State) (r h : Rec) (index b : Nat) (a : UpdAcc) : UpdAcc × State × Option UpdErr :=
  match s.updInputs r b with
  | .error e => (a, s, some (.mem e))
  | .ok (x, s) =>
    let zero := s.zeroPolicy
    let kind := updKind r
    let row := le r 90 4 + b
    let us := fun (out i : Nat) => s.draw 5 (4 * index + out) row i
    let none' : Stored := ⟨[], 0, 0, 0, 0⟩
    let m := if kind ≥ 1 then storeBlock 2 .fit true (us 1) none (newMoment1 kind h zero x) else none'
    let v := if kind = 2 then storeBlock 2 .fit true (us 2) none (newMoment2 h zero x) else none'
    let w := storeBlock 3 .fit true (us 0) none (newMaster kind h zero x m v)
    let subs := if zero then (((x.w ++ x.m ++ x.v ++ x.g).filter fun o => o.man.isNone).length) else 0
    let a := { a with elements := a.elements + 64, weights := a.weights.feedBlock w subs, gradient := a.gradient.merge (gradStored x.g),
                      update := a.update.merge (diffStored x.w w zero) }
    let (a, s, e) := if kind ≥ 1 then s.updStore a 2 (updAddr r 26) (updAddr r 32) b none 1 0 m else (a, s, none)
    if e.isSome then (a, s, e)
    else
      let (a, s, e) := if kind = 2 then s.updStore a 2 (updAddr r 38) (updAddr r 44) b none 2 0 v else (a, s, none)
      if e.isSome then (a, s, e)
      else
        let (a, s, e) := s.updStore a 3 (updAddr r 8) (updAddr r 14) b (some (updAddr r 20)) 0 subs w
        if e.isSome then (a, s, e) else s.updWorkingCopy r index b a w

/-- Digest records of the tiles under way: 4,096 elements of each output (R232). -/
def State.updDigest (s : State) (d entry tile : Nat) (a : UpdAcc) : UpdAcc × State :=
  ({ a with tiles := [] }, a.tiles.foldl (fun (s : State) t => s.digest (96 + d) entry 0xFF t.1 tile 0 t.2.1 (tileStatus t.2.2.2 t.2.2.1)) s)

/-- The blocks of an entry in order, from block b; the number of the block that failed, if one did. -/
def State.updBlocks (r h : Rec) (d entry : Nat) : Nat → Nat → UpdAcc → State → UpdAcc × State × Option (Nat × UpdErr)
  | 0, b, a, s =>
    let (a, s) := if b % 64 = 0 then (a, s) else s.updDigest d entry (b / 64) a
    (a, s, none)
  | n + 1, b, a, s =>
    match s.updBlock r h (1024 * d + entry) b a with
    | (a, s, some e) => (a, s, some (b, e))
    | (a, s, none) =>
      let (a, s) := if b % 64 = 63 then s.updDigest d entry (b / 64) a else (a, s)
      State.updBlocks r h d entry n (b + 1) a s

/-! ## The unit -/

/-- The unit stops: an uncorrectable word is a memory fault too (R184), a scale-table mismatch an integrity fault (R43). -/
def State.updStop (s : State) (d : Nat) : UpdErr → State
  | .mem (.dead dev t) => (t.memFault dev 0x20).updFault d 1
  | .mem .unmapped => s.updFault d 2
  | .scale => (s.report 0 0 0 0x64).updFault d 1

/-- The running step's update list of a die, while its units may go on. -/
def State.updList (s : State) (d : Nat) : Option (List Rec) :=
  match s.chip.step with
  | some run =>
    if s.flint.state ≠ .running || run.aborting || s.holding then none
    else s.plan?.bind fun p => Tab.find? p.updates d
  | none => none

/-- A queue named in an entry (Table 7.6). -/
def updQueue (r : Rec) (off : Nat) : Nat × Nat := (bits (le r off 2) 12 6, bits (le r off 2) 5 0)

/-- UPDATE_ENTRY_START: the gate's token, the rights, the hyperparameters. (log 127: DESIGN CHOICE; log 128: DEDUCED) -/
def updStart (d : Nat) (s : State) : State :=
  let u := s.updUnit d
  match (s.updList d).bind fun l => l[u.entry]? with
  | none => s
  | some r =>
    let chk := s.updCheck r
    if u.state ≠ 1 ∨ chk = .held then s
    else match s.waitTokens (updQueue r 80).1 (updQueue r 80).2 1 with
      | none => s
      | some s =>
        let s := s.stir d
        if chk = .denied then s.reportUnsound.updFault d 2
        else match s.devRead (updAddr r 74) 64 with
          | .error e => s.updStop d (.mem e)
          | .ok (h, s) => if hyperBad h then s.updFault d 3 else s.modUpd d fun u => { u with state := 2, block := 0, hyper := h }

/-- The entry's status record (R221). -/
def updStatus (a : UpdAcc) : Rec :=
  let top := 2 ^ 32 - 1
  let stopped := decide (a.sats ≥ top) || decide (a.vugs ≥ top)
  toLe 4 (min a.sats top) ++ toLe 4 (min a.vugs top) ++ toLe 8 (a.elements % 2 ^ 63 + stopped.toNat * 2 ^ 63)

/-- Stages 2 and 3 of an entry: every block, the instruments, the status record. -/
def State.updRun (s : State) (d : Nat) (u : Update) (r : Rec) : State :=
  match s.updCheck r with
  | .held => s
  | .denied => s.reportUnsound.updFault d 2
  | .ok =>
    match State.updBlocks r u.hyper d u.entry (updCount r) 0 UpdAcc.init (s.stir d) with
    | (_, s, some (b, e)) => (s.updStop d e).modUpd d fun u => { u with block := b }
    | (a, s, none) =>
      let feed := fun (s : State) (x : Option Nat × Accum) => match x.1 with | some i => s.feed i x.2 | none => s
      let s := [(updInstr r 84, a.weights), (updInstr r 86, a.gradient), (updInstr r 88, a.update)].foldl feed s
      match s.devWrite (updAddr r 94) (updStatus a) with
      | .error e => s.updStop d (.mem e)
      | .ok s => s.modUpd d fun u => { u with state := 3, block := updCount r - 1 }

/-- Stage 4: the signal's token; held while the queue has no room. Then the next entry waits at its gate, or the list is done. -/
def State.updSignal (s : State) (d : Nat) (r : Rec) (n : Nat) : State :=
  match s.signalTokens (updQueue r 82).1 (updQueue r 82).2 1 with
  | none => s
  | some s => s.modUpd d fun u => if u.entry + 1 < n then { u with state := 1, entry := u.entry + 1, block := 0 } else { u with state := 4 }

/-- UPDATE_ENTRY_COMPLETE. -/
def updComplete (d : Nat) (s : State) : State :=
  let u := s.updUnit d
  match s.updList d with
  | none => s
  | some l => match l[u.entry]? with
    | none => s
    | some r =>
      let s := if u.state = 2 then s.updRun d u r else s
      if (s.updUnit d).state = 3 then s.updSignal d r l.length else s

/-! ## Meanings -/

/-- UPDATE_ENTRY_START (R214, R216, R222). -/
def execUpdateEntryStart (die : Nat) (s : State) : Host.Outcome State Fault Refusal := .next (updStart die s)

/-- UPDATE_ENTRY_COMPLETE (R217 to R222). -/
def execUpdateEntryComplete (die : Nat) (s : State) : Host.Outcome State Fault Refusal := .next (updComplete die s)

end Sys2Proof.Machine
end

