-- ==== Sys2Proof/Machine/Boot.lean ====
section
/-! DEFINITION. Reset and boot (R474 to R489, R496, R498): the reset sources, the firmware slots (R481, R482), the configuration
record (R483, R484), the steps of Table 15.7, self-test and the repair map (R441), failures (Table 15.8), partial reset (Table
15.9). -/

namespace Sys2Proof.Machine

/-! ## Reset sources (Table 15.1) -/

/-- Whether a register belongs to a host port's BAR, which a full-scope RESET keeps. -/
def barReg : Reg → Bool
  | .intCause _ | .intEnable _ | .stepStatus _ | .stepTag _ | .hostViolation _ => true
  | _ => false

/-- What every source that ends in BOOTING leaves: the boot flash, the strata log with its header, the pins, and, for a full-scope
RESET, the host ports with their BAR contents and the commands that wait in them. -/
def State.moduleReset (s : State) (keepHosts : Bool) : State :=
  let f := s.flint
  let log : Flint := { Flint.init with
    logRing := f.logRing, struck := f.struck, logHeader := f.logHeader, logHeaderComp := f.logHeaderComp, refclkLost := f.refclkLost,
    queue := if keepHosts then f.queue else [], resetReply := if keepHosts then f.resetReply else none }
  { State.reset with
    powered := s.powered, flint := log, flash := s.flash, pins := s.pins, sent := s.sent, fresh := s.fresh, pending := s.pending,
    regs := if keepHosts then s.regs.filter fun r => barReg r.1 else [],
    hosts := s.hosts.map fun h => (h.1, if keepHosts then { h.2 with report := none } else { HostPort.init with perst := h.2.perst }) }

/-- Boot begins once power is good, MOD_RESET_N is high and the reference clock runs (R475, R485, R496). -/
def State.beginBoot (s : State) : State :=
  if s.powered && s.pins.pwrok && s.pins.resetN && s.pins.refclk then s.modFlint fun f => { f with progress := 1 } else s

/-- A full-scope reset (R476, R416): Flint has written its event; no port owns the device (R377); the device is BOOTING. (log 132: DEDUCED) -/
def State.fullReset (s : State) : State := (((s.loseOwner 0).loseOwner 1).enter .booting |>.moduleReset true).beginBoot

/-! ## Slots (R480 to R482) -/

/-- The selector copy in effect: the valid one with the higher sequence number. -/
def Flash.selector (f : Flash) : Option Selector := inEffect (·.valid) (·.sequence) f.selectors

/-- Write the selector: the other copy, the sequence number one higher. (log 134: DEDUCED) -/
def Flash.select (f : Flash) (slot : Nat) (trial : Bool) (attempts : Nat) : Flash :=
  let n := match f.selector with | some k => k.sequence + 1 | none => 1
  let i := lowerCopy (f.selectors.map fun k => (k.valid, k.sequence))
  { f with selectors := f.selectors.set i { valid := true, sequence := n, slot := slot, trial := trial, attempts := attempts } }

/-- Whether a slot's image verifies and its security version is at least counter 0. -/
def Flash.slotOk (f : Flash) (i : Nat) : Bool := (f.slots[i]?).any fun k => k.verified && decide (k.security ≥ f.counters.getD 0 0)

/-- The boot ROM's choice (R482). -/
def Flash.choose (f : Flash) : Flash × Option Nat :=
  let sel := f.selector
  let i := (sel.map (·.slot)).getD 0
  let (f, i) := match sel with
    | some k => if k.trial then (if k.attempts ≥ 3 then (f.select (1 - i) false 0, 1 - i) else (f.select i true (k.attempts + 1), i)) else (f, i)
    | none => (f, i)
  if f.slotOk i then (f, some i)
  else if f.slotOk (1 - i) then (f.select (1 - i) false 0, some (1 - i))
  else (f, none)

/-! ## Records in effect -/

/-- The repair map in effect (R442). -/
def Flash.map (f : Flash) : Option (SignedCopy × List (BitVec 128)) :=
  inEffect (fun k => k.1.signed && decide (k.1.version ≥ f.counters.getD 1 0)) (fun k => k.1.version) f.repairs

/-- A counter advanced to a version that is higher (R479). -/
def Flash.advance (f : Flash) (i v : Nat) : Flash := { f with counters := f.counters.set i (max (f.counters.getD i 0) v) }

/-! ## Steps 1 to 6 (Table 15.7) -/

/-- A boot failure: HALTED with reason 5, the progress field at the failing step; a cut from step 4 on (R487, R449). -/
def State.bootFail (s : State) (step : Nat) : State :=
  let s := s.modFlint fun f => { f with progress := step, haltedReason := 5 }
  if step < 4 then ({ s.modFlint (fun f => { f with alive := false }) with mgmt := { s.mgmt with up := false } } : State).enter .halted else s.halt 5

/-- The boot count one higher, stopping at its largest value. -/
def State.countBoot (s : State) : State :=
  let s := s.soundLog
  let h := s.flint.logHeader
  s.putLogHeader (logHeaderOf (hdrNext h) (hdrValid h) (bits h.toNat 63 32) (hdrLost h) (min (hdrBoots h + 1) 0xFFFFFFFF))

/-- The firmware starts: heartbeat, watchdog, mailboxes, management port; a lost reference clock is logged first (R496). -/
def State.startFirmware (s : State) (slot : Nat) : State :=
  let s : State := { s with running := slot, mgmt := { s.mgmt with up := true } }
  let s := (s.modFlint fun f => { f with alive := true, progress := 4 }).countBoot
  if s.flint.refclkLost then (s.modFlint fun f => { f with refclkLost := false }).logEvent 13 0x80 0 0 0 [] else s

/-- Whether a trip during boot holds the steps: until every sensor reads below 85 °C (Table 15.10). -/
def State.bootHeld (s : State) : Bool := s.flint.tripWait && s.hot

/-- One step of boot up to step 6, the step the progress field shows. -/
def State.bootStep (s : State) : State :=
  let s := if s.flint.tripWait && !s.hot then s.modFlint fun f => { f with tripWait := false } else s
  if s.flint.state ≠ .booting || s.flint.heldInReset || s.bootHeld then s
  else match s.flint.progress with
    | 1 =>
      let s : State := { s with hosts := s.hosts.map fun h => (h.1, if h.2.perst || h.2.linkUp then h.2 else { h.2 with training := true }) }
      s.modFlint fun f => { f with progress := 2 }
    | 2 =>
      let (sound, s) := s.readCounters
      if s.flash.helperDigest = Config.secretDigest s.secret ∧ sound = true then s.modFlint fun f => { f with progress := 3 } else s.bootFail 2
    | 3 =>
      let (fl, slot) := s.flash.choose
      let s : State := { s with flash := fl }
      match slot with
      | some i => s.startFirmware i
      | none => s.bootFail 3
    | 4 =>
      match s.flash.config with
      | some k => ({ s with cfg := cfgOf k.bytes, flash := s.flash.advance 3 k.version } : State).modFlint fun f => { f with progress := 5 }
      | none => s.bootFail 4
    | 5 =>
      let s := if s.flash.operator.isNone then s.logEvent 10 0x81 0 0 0 [] else s
      match s.flash.map with
      | some k => ({ s with repair := { Repair.init with entries := k.2, version := k.1.version } } : State).modFlint fun f => { f with progress := 6 }
      | none => s.bootFail 5
    | 6 => ((List.range 4).foldl State.setVolts s).modFlint fun f => { f with progress := 7 }
    | _ => s

/-- The boot steps below `n` that are still to be made. -/
def State.bootTo (s : State) (n : Nat) : State := (List.range 6).foldl (fun (s : State) _ => if s.flint.progress < n then s.bootStep else s) s

/-- The block with no command waiting: a step of boot, if boot stands at steps 1 to 6, and a tick of the local time counter. (log 1: DESIGN CHOICE) -/
def State.idle (s : State) : State := s.bootStep.tick

/-! ## The repair map and self-test (R441) -/

/-- What an entry of the repair map puts in effect (Table 13.11). A spare laser of the own Opal in service serves where the primary has
failed: `lightPorts`. (log 139: DESIGN CHOICE) -/
def State.applyEntry (s : State) (e : BitVec 128) : State :=
  let u := bits e.toNat 57 40
  let site := bits e.toNat 39 16
  let st := bits e.toNat 15 8
  match bits e.toNat 63 58 with
  | 1 =>
    if st = 2 then s.modRepair fun r => { r with retiredCores := r.retiredCores ++ [u] }
    else if st = 1 ∨ st = 3 then s.modRepair fun r => { r with usedCoreSites := r.usedCoreSites ++ [(bits site 23 22, bits site 21 17)] } else s
  | 2 =>
    if st = 1 then s.modRepair fun r => { r with substituted := r.substituted ++ [(u / 16, u % 16)], spareEngineUsed := r.spareEngineUsed ++ [u / 16] }
    else if st = 2 then s.modRepair fun r => { r with retiredEngines := r.retiredEngines ++ [(u / 16, u % 16)] }
    else if st = 3 then s.modRepair fun r => { r with spareEngineFailed := r.spareEngineFailed ++ [u / 16] } else s
  | 3 => s.modRepair fun r => r.takeLine u (bits site 23 17) (bits site 4 1)
  | 4 =>
    let (d, e') := edgeEnd u
    let lane := bits site 23 13
    let spare := bits site 12 2
    s.modEdge d e' fun k => { k with sparesUsed := spare :: k.sparesUsed, standIn := if st = 1 then Tab.set k.standIn lane spare else k.standIn }
  | 5 =>
    let (d, e') := edgeEnd u
    (s.modEdge d e' fun k => { k with groups := Tab.set k.groups site (if st = 2 then 3 else if st = 4 then 1 else 2) }).widthLost d e' site
  | 6 =>
    let o := u / 16
    let n := u % 16
    let owner := if bits site 22 22 = o % 2 then o else neighbour o
    let base := sgn 8 (bits e.toNat 7 0)
    if bits site 23 23 = 0 then s.modLaser o n fun l => { l with base := base, primary := if st = 3 then 5 else l.primary }
    else
      let s := s.modLaser owner n fun l => { l with spareBase := base }
      if st = 3 then s.modLaser owner n fun l => { l with spare := 5 }
      else if st = 6 then (s.modLaser o n fun l => { l with serving := 2 }).modLaser (neighbour o) n fun l => { l with spare := 4, claimed := true }
      else s
  | 7 =>
    let base := sgn 8 (bits e.toNat 7 0)
    s.modOchan (bits site 21 17) (u % 16) fun c =>
      if bits site 23 22 = 1 then { c with splitBase := c.splitBase.set (bits site 16 15) base }
      else if bits site 23 22 = 2 then { c with modBase := base } else c
  | 8 => (s.modRepair fun r => { r with retiredPorts := r.retiredPorts ++ [u] }).modOport u fun o => { o with state := 6 }
  | _ => s

/-- A die is retired whole (Table 15.8): its cores, memory devices and ports leave service, its edges are failed. (log 140: DEDUCED) -/
def State.retireDie (s : State) (d : Nat) : State :=
  let s := s.modDie d fun k => { k with retired := true }
  let s := (List.range 24).foldl (fun (s : State) i => s.retireCore (24 * d + i)) s
  let s := (List.range 6).foldl (fun (s : State) i =>
    ((s.modMem (6 * d + i) fun m => { m with state := 6, failed := some 0x24 }).mapEntry 9 (6 * d + i) 0 3 0).retirePort (6 * d + i)) s
  let s := (List.range 6).foldl (fun (s : State) i => s.modOport (6 * d + i) fun o => { o with state := 6 }) s
  let s := (List.range 6).foldl (fun (s : State) e => s.failEdge d e) s
  ((List.range 2).foldl (fun (s : State) e => s.failEdge (farEnd d e).1 (farEnd d e).2) s).capability

/-- The site that serves a core: a spare of its die that the map puts in service, else the one of its number (Table 13.11). -/
def Repair.siteOf (r : Repair) (c : Nat) : Nat :=
  match r.sound.reverse.find? fun e => bits e.toNat 63 58 == 1 && bits e.toNat 57 40 == c && bits e.toNat 15 8 == 1 with
  | some e => bits e.toNat 37 33
  | none => c % 24

/-- The site that serves a core fails: a spare one is recorded as failed, and the core is retired until it moves. -/
def State.coreSiteFails (s : State) (c : Nat) : State :=
  let site := s.repair.siteOf c
  (if site < 24 then s else s.mapEntry 1 c (coreDie c * 2 ^ 22 + site * 2 ^ 17) 3 0).retireCore c

/-- A core site of a die, by its physical number, fails: the core it serves is left without it; a spare one that serves none is out of
service. (log 138: DEDUCED) -/
def State.coreSiteAt (s : State) (d site : Nat) : State :=
  match (List.range 24).find? fun i => s.repair.siteOf (24 * d + i) == site with
  | some i => s.coreSiteFails (24 * d + i)
  | none =>
    if site < 24 ∨ s.repair.usedCoreSites.contains (d, site) then s
    else (s.modRepair fun r => { r with usedCoreSites := r.usedCoreSites ++ [(d, site)] }).mapEntry 1 (24 * d) (d * 2 ^ 22 + site * 2 ^ 17) 3 0

/-- The spare engine site of a core fails: an engine it serves is retired. -/
def State.spareEngineFails (s : State) (c : Nat) : State :=
  let s := (s.modRepair fun r => { r with spareEngineFailed := r.spareEngineFailed ++ [c] }).mapEntry 2 (16 * c) 12 3 0
  match s.repair.substituted.find? fun x => x.1 == c with
  | some x => s.retireEngine c x.2
  | none => s

/-- The site that serves an engine fails: a hand-over to the core's spare site is requested and, nothing being in flight, takes place
(R95); with no spare left the engine is retired. -/
def State.engineSiteFails (s : State) (c e : Nat) : State :=
  if s.repair.substituted.contains (c, e) then s.spareEngineFails c
  else if s.repair.spareEngineUsed.contains c || s.repair.spareEngineFailed.contains c then s.retireEngine c e
  else (s.askHandover c e).engineHandover c e ⟨false, 0⟩ ⟨false, 0⟩

/-- An engine site of a core, by its physical number, fails: one that an engine has left is out of service already. -/
def State.engineSiteAt (s : State) (c site : Nat) : State :=
  if site = 12 then s.spareEngineFails c
  else if s.repair.substituted.contains (c, site) then s else s.engineSiteFails c site

/-- Whether margins that training measured, read and write, meet the limits of the configuration record (R190 step 5). -/
def Cfg.marginOk (c : Cfg) (m : Nat × Nat) : Bool := decide (m.1 ≥ c.marginRead) && decide (m.2 ≥ c.marginWrite)

/-- A failing scratchpad line: the bank's lowest free spare line, or the core is retired. -/
def State.lineFails (s : State) (c b l : Nat) : State :=
  let used := Tab.get 0 s.repair.linesUsed (128 * c + b)
  if used ≥ 16 then s.retireCore c
  else
    let k := s.repair.nextLine c b
    ((s.modRepair fun r => r.takeLine c b k).mapEntry 3 c (lineSite b l k) 1 0).summary (coreDie c) 61

/-- A failing spare line of a bank is marked failed and never used again (R438); the line it served goes to the next free one. -/
def State.spareLineFails (s : State) (c b k : Nat) : State :=
  let served := (s.repair.sound.find? fun e => bits e.toNat 63 58 == 3 && bits e.toNat 57 40 == c && bits e.toNat 39 33 == b &&
    bits e.toNat 20 17 == k && bits e.toNat 15 8 == 1).map fun e => bits e.toNat 32 21
  let s := if (Tab.get [] s.repair.spareLines (128 * c + b)).contains k then s else s.modRepair fun r => r.takeLine c b k
  let s := s.mapEntry 3 c (lineSite b (served.getD 0) k) 3 0
  match served with
  | some l => s.lineFails c b l
  | none => s

/-- A failing data lane: a free spare stands in, else its group loses width (R337 to R342). -/
def State.dataLaneFails (s : State) (d e lane : Nat) : State :=
  let n := edgeNumber d e
  match freeSpare (s.edge d e) e with
  | some k =>
    ((s.modEdge d e fun x => { x with sparesUsed := k :: x.sparesUsed, standIn := Tab.set x.standIn lane k }).mapEntry 4 (2 * n.1 + n.2)
      (lane * 2 ^ 13 + k * 4) 1 0).summary d 61
  | none => s.halfWidth d e (lane / 16) lane

/-- A failing lane by its logical number: a spare one is marked failed and never used again (R438), and the data lane it stood in for is
served anew. -/
def State.laneFails (s : State) (d e lane : Nat) : State :=
  if lane < dataLanes e then s.dataLaneFails d e lane
  else
    let n := edgeNumber d e
    let carried := ((s.edge d e).standIn.find? fun x => x.2 = lane).map (·.1)
    let s := s.modEdge d e fun k =>
      { k with sparesUsed := if k.sparesUsed.contains lane then k.sparesUsed else lane :: k.sparesUsed, standIn := k.standIn.filter fun x => x.2 ≠ lane }
    let s := s.mapEntry 4 (2 * n.1 + n.2) (carried.getD 0 * 2 ^ 13 + lane * 4) 3 0
    match carried with
    | some data => s.dataLaneFails d e data
    | none => s

/-- A failing laser of an Opal, its primary or its spare, is marked failed; a channel that it served is left without it until step 10 finds it
another. -/
def State.laserFails (s : State) (o n : Nat) (spare : Bool) : State :=
  if !spare then
    let s := s.changeLaser o n fun l => { l with primary := 5 }
    s.mapLaser o n 0 3
  else
    let lent := (s.laser (neighbour o) n).serving == 2
    let s := s.changeLaser o n fun l => { l with spare := 5, serving := if l.serving = 1 then 0 else l.serving }
    let s := if lent then (s.changeLaser (neighbour o) n fun l => { l with serving := 0 }).mapLaser (neighbour o) n 2 3 else s
    s.mapLaser o n 1 3

/-- One finding of self-test. Margins that meet the limits at neither of two tries fail the device (R190). -/
def State.selfTest (s : State) : SelfTestResult → State
  | .coreSite c => s.coreSiteFails c
  | .engineSite c e => s.engineSiteFails c e
  | .coreAt d site => s.coreSiteAt d site
  | .engineAt c site => s.engineSiteAt c site
  | .margins d tries => if tries.isEmpty || (tries.take 2).any s.cfg.marginOk then s else s.deviceFails d 0x22 0
  | .spareEngineSite c => s.spareEngineFails c
  | .line c b l => s.lineFails c b l
  | .spareLine c b k => s.spareLineFails c b k
  | .laser o n spare => s.laserFails o n spare
  | .lane d e l => s.laneFails d e l
  | .device d code => s.deviceFails d (if 0x22 ≤ code ∧ code ≤ 0x24 then code else 0x22) 0
  | .port p => s.retirePort p
  | .die d => s.retireDie d
  | .changedNothing => s

/-- Whether a core's site leaves it short: retired, an engine retired, a bank with no spare line. (log 138: DEDUCED) -/
def Repair.short (r : Repair) (c : Nat) : Bool :=
  r.retiredCores.contains c || (r.retiredEngines.any fun x => x.1 == c) || (r.linesUsed.any fun x => x.1 / 128 == c && decide (x.2 ≥ 16))

/-- A core that its site leaves short moves to a free spare site of its die, in service with full capability (R441). (log 137: PRESUMED) -/
def State.moveCore (s : State) (c : Nat) : State :=
  let d := coreDie c
  if !s.repair.short c || (s.die d).retired then s
  else match [24, 25].find? fun x => !s.repair.usedCoreSites.contains (d, x) with
    | none => s
    | some x =>
      let mine := fun (e : BitVec 128) => (bits e.toNat 63 58 == 1 && bits e.toNat 57 40 == c && bits e.toNat 15 8 == 2) ||
        (bits e.toNat 63 58 == 2 && bits e.toNat 57 44 == c) || (bits e.toNat 63 58 == 3 && bits e.toNat 57 40 == c)
      let s := s.modRepair fun r => { r with
        entries := r.entries.filter fun e => !mine e, retiredCores := r.retiredCores.filter (· ≠ c),
        retiredEngines := r.retiredEngines.filter fun y => y.1 ≠ c, substituted := r.substituted.filter fun y => y.1 ≠ c,
        spareEngineUsed := r.spareEngineUsed.filter (· ≠ c), spareEngineFailed := r.spareEngineFailed.filter (· ≠ c),
        linesUsed := r.linesUsed.filter (fun y => y.1 / 128 ≠ c), spareLines := r.spareLines.filter (fun y => y.1 / 128 ≠ c),
        usedCoreSites := r.usedCoreSites ++ [(d, x)] }
      (s.mapEntry 1 c (d * 2 ^ 22 + x * 2 ^ 17) 1 0).summary d 61

/-- Failed devices of an earlier boot that train now are in service again (R198). -/
def State.recheckDevices (s : State) : State :=
  let back := s.repair.sound.filter fun e => bits e.toNat 63 58 == 9 && bits e.toNat 15 8 == 3 && (s.mem (bits e.toNat 57 40)).failed.isNone
  back.foldl (fun (s : State) e => s.mapEntry 9 (bits e.toNat 57 40) 0 0 0) s

/-- Steps 7 to 10: the repair map applied, self-test's findings, cores moved to spare sites. -/
def State.testSites (s : State) (found : List SelfTestResult) : State :=
  let s := found.foldl State.selfTest (s.repair.sound.foldl State.applyEntry s.useEntries)
  ((List.range 96).foldl State.moveCore s).recheckDevices

/-- Step 9: every device that has not failed is initialised in broadcast mode, with select enable set by one broadcast write (R178), and
trained: its read-timing values are what training finds, free values for each die of each channel (R180, R190). It runs then. -/
def State.trainMemory (s : State) : State :=
  (List.range 24).foldl (fun (s : State) d =>
    if (s.mem d).failed.isSome then s
    else ((s.stackCommand d 0 "MODE REGISTER WRITE, SELECT ENABLE").modMem d fun m => { m with ext := m.ext.map (· ||| 0x80) }).trainDevice d) s

/-- Step 3 of Table 9.8 for one port: the transmit search (R303), whose codes and ranges are free values, the assignment (R304), and
training blocks. (log 139: DESIGN CHOICE) -/
def State.transmitSearch (s : State) (p : Nat) : State :=
  let (v, s) := s.takeWords 272
  let h := (List.range 16).map fun k => (List.range 16).map fun n => sweepCode ((v.getD (16 * k + n) 0).toNat % 65536)
  match assignRotation h with
  | none => (s.portOff p 5 4).portFault p 0x42
  | some r =>
    let s := (List.range 16).foldl (fun (s : State) k =>
      let n := (k + r) % 16
      s.modOchan p n fun c => { c with txCode := (h.getD k []).getD n 0, txRange := rangeOf (v.getD (256 + k) 0) }) s
    (s.modOport p fun o => { o with state := 1, stepNo := if o.light then 5 else 4, txLocked := ~~~0 }).sendTraining p 0

/-- Whether the repair map has an entry of a kind, unit and site. -/
def Repair.hasEntry (r : Repair) (kind unit site : Nat) : Bool :=
  r.sound.any fun e => bits e.toNat 63 58 == kind && bits e.toNat 57 40 == unit && bits e.toNat 39 16 == site

/-- The laser that serves a channel from boot on: the primary, else the own spare, else the neighbour's that its owner does not need (R295);
with none the channel is dark and its ports are retired (R299, R441). -/
def State.lightChannel (s : State) (o n : Nat) : State :=
  let l := s.laser o n
  let k := s.laser (neighbour o) n
  if l.serving ≠ 0 then s
  else if l.primary ≠ 5 then s.changeLaser o n fun l => { l with primary := 3 }
  else if l.spare = 0 ∧ !l.claimed then
    let s := s.changeLaser o n fun l => { l with serving := 1, spare := 3 }
    if s.repair.hasEntry 6 (16 * o + n) (laserSite o 1) then s else s.mapLaser o n 1 0
  else if k.spare = 0 ∧ !k.claimed ∧ k.primary ≠ 5 then
    ((s.changeLaser o n fun l => { l with serving := 2 }).changeLaser (neighbour o) n fun k => { k with spare := 4, claimed := true }).mapLaser o n 2 6
  else s.channelDark o n

/-- Step 10 of Table 15.7: serving lasers active, and on every port that is not retired the transmit search, after which it sends training
blocks (steps 2 to 4 of Table 9.8). (log 139: DESIGN CHOICE) -/
def State.lightPorts (s : State) : State :=
  let s := (List.range 8).foldl (fun (s : State) o => (List.range 16).foldl (fun (s : State) n => s.lightChannel o n) s) s
  (List.range 24).foldl (fun (s : State) p =>
    if s.repair.retiredPorts.contains p then s.modOport p fun o => { o with state := 6 }
    else s.transmitSearch p) s

/-- Step 12: a trial cleared, counter 0, READY, the reply of a RESET that brought the device here (R476). -/
def State.bootEnds (s : State) : State :=
  let fl := match s.flash.selector with
    | some k => if k.trial then s.flash.select k.slot false 0 else s.flash
    | none => s.flash
  let s : State := { s with flash := fl.advance 0 s.slot.security }
  let s := (s.modFlint fun f => { f with progress := 0x0C, memoryClean := false, tripWait := false }).enter .ready
  match s.flint.resetReply with
  | some m => (s.modFlint fun f => { f with resetReply := none }).respond m (.ok []) false
  | none => s

/-- BOOT_READY. (log 131: DESIGN CHOICE) -/
def bootDone (found : List SelfTestResult) (mapOk : Bool) (s : State) : State :=
  let s := s.bootTo 7
  if s.flint.state ≠ .booting || decide (s.flint.progress < 7) || s.flint.heldInReset || s.bootHeld then s
  else
    let s := ((s.testSites found).trainMemory).lightPorts
    if s.repair.changed && !mapOk then s.bootFail 0x0B
    else (if s.repair.changed then s.tryWriteMap else s).bootEnds

/-- What a failing boot step finds wrong in the flash. -/
def Flash.spoil (f : Flash) (step : Nat) : Flash :=
  if step = 3 then { f with slots := f.slots.map fun k => { k with verified := false } }
  else if step = 4 then { f with configs := f.configs.map fun k => { k with signed := false } }
  else if step = 5 then { f with repairs := f.repairs.map fun k => ({ k.1 with signed := false }, k.2) } else f

/-- BOOT_FAILURE (Table 15.8). (log 135: DEDUCED) -/
def bootBreaks (step : Nat) (f : BootFault) (s : State) : State :=
  let s := s.bootTo (min step 7)
  if s.flint.state ≠ .booting || decide (s.flint.progress ≠ min step 7) || s.flint.heldInReset then s
  else match f with
    | .fails =>
      if step ≤ 5 then ({ s with flash := s.flash.spoil step } : State).bootFail step else if step = 0x0B then s.bootFail step else s
    | .domainOff d =>
      if step = 1 ∧ (d = 0 ∨ d = 2) then
        (s.modHost (d / 2) fun h => { h with linkUp := false, training := false }).bootFail 1
      else s
    | .dieBrownOutTwice d => if 6 ≤ step ∧ step ≤ 10 then (s.bootTo 7).retireDie d else s

/-! ## RESET (R476, R488) -/

/-- RESET. -/
def rowReset : CmdRow := { code := 0x000B, legal := [.ready, .loaded, .running, .halted], ownerOnly := true, namesContext := false }

/-- The form of RESET. -/
def resetForm (args : Rec) (n : Nat) : Option Ans :=
  let mask := le args 1 1
  if n ≠ 8 ∨ le args 0 1 > 1 ∨ mask > 15 ∨ (le args 0 1 = 0) ≠ (mask = 0) ∨ !zeroAt args 2 6 then some (.refuse 3) else none

/-- A partial reset begins: the resident context is held to be saved, the named dies' ports go down, their memory devices enter
self-refresh; the reply follows at its end. (log 141: DEDUCED) -/
def State.beginPartial (s : State) (m : Mbx) (mask : Nat) : State :=
  let s := (s.wakeAll).begin { Background.begin .reset m with dies := mask, savedCtx := s.resident }
  let s : State := { s with mgmt := { s.mgmt with update := 3, partialDies := mask } }
  let s := (List.range 24).foldl (fun (s : State) p => if bit mask (portDie p) ∧ (s.oport p).state ≠ 6 then s.portOff p 0 0 else s) s
  (s.sleepMems fun n => bit mask (devDie n)).stopCheckAll

/-- RESET after its checks. -/
def State.resetCmd (s : State) (m : Mbx) (args : Rec) : State × Option Ans :=
  if le args 0 1 = 1 then
    if s.flint.view = .running ∨ s.flint.view = .halted then (s, some (.refuse 2)) else (s.beginPartial m (le args 1 1), none)
  else ((s.logEvent 13 0x7F 0 0 0 []).modFlint fun f => { f with resetReply := some m }).fullReset |> fun s => (s, none)

/-- A named die after its domains were off: its registers, its Opals' registers and hand-overs, its lanes and ports anew, every channel of
its memory fully retrained. -/
def State.partialDie (s : State) (d : Nat) : State :=
  let opal := fun (r : Reg) => match r with
    | .portStatus p | .portLink p | .portCount p | .channel p _ => decide (portDie p = d)
    | .laser o _ => decide (o / 2 = d)
    | _ => false
  let s : State := { s with regs := s.regs.filter fun r => !(s.lostReg d r.1 || opal r.1) }
  let s := ((s.darkDie d).lightDie d)
  let s : State := { s with
    lasers := s.lasers.map fun l => if l.1 / 256 / 2 = d then
        (l.1, { l.2 with successor := none, fading := false, atHandover := false, spare := if l.2.spare = 1 ∨ l.2.spare = 2 then 0 else l.2.spare }) else l }
  (List.range 6).foldl (fun (s : State) i =>
    let m := 6 * d + i
    if (s.mem m).failed.isSome then s else (List.range 4).foldl (fun s c => s.retrained m c) s) s

/-- The named dies start anew: what a full-scope reset does to each of them, self-test's findings, the logical core map of Table 15.2,
and the repair map written if it changed (Table 15.9). -/
def State.partialDies (s : State) (dies : Nat) (found : List SelfTestResult) : State :=
  let s := (List.range 4).foldl (fun (s : State) d => if bit dies d then s.partialDie d else s) s
  let s := (List.range 96).foldl State.moveCore (found.foldl State.selfTest s)
  if s.repair.changed then s.tryWriteMap else s

/-- The restore of the context a partial reset saved: one whose area cannot be read is left as a new one (R398). -/
def State.partialRestore (s : State) (id : Nat) (bad : Bool) : State :=
  if bad then (match s.context? id with | some c => s.putContext c.lose | none => s) else s.restoreIn id

/-- PARTIAL_RESET_COMPLETE (Table 15.9): the context saved, the dies anew, self-test's findings, the repair map, the context restored, the
reply. Failures of the save and the restore are those of R398. -/
def partialDone (found : List SelfTestResult) (saveErr restoreErr : Bool) (s : State) : State :=
  match s.flint.background with
  | none => s
  | some b =>
    if b.kind ≠ .reset || !s.settled then s
    else
      let id := b.savedCtx.toNat
      let had := id ≠ 0
      let (lost, s) := if had then s.saveOut saveErr else (false, s)
      let s := s.partialDies b.dies found
      let (dead, s) := s.readIncoming id
      let bad := decide had && (restoreErr || dead)
      let s := s.partialRestore id bad
      let s : State := { s with mgmt := { s.mgmt with update := 0, partialDies := 0 } }
      let s := s.modFlint fun f => { f with background := none }
      let s := if s.flint.state = .ready ∨ s.flint.state = .loaded then s.resume else s
      s.respond b.mbx (if lost || bad then .failing 7 (lost.toNat + 2 * bad.toNat) 0 else .ok []) b.discarded

/-! ## Meanings -/

/-- RESET (R476). -/
def execReset (m : Mbx) (s : State) : Host.Outcome State Fault Refusal :=
  .next (serve s m rowReset resetForm fun s req => s.resetCmd m (slice req 64 8))

/-- POWER_ON (R474): MOD_PWROK rises; nothing but the boot flash is kept. -/
def execPowerOn (s : State) : Host.Outcome State Fault Refusal :=
  .next (if s.pins.pwrok && s.powered then s
    else ({ s.off { s.pins with vin := true, pwrok := true } with powered := true } : State).beginBoot)

/-- MOD_RESET (R474): MOD_RESET_N is low. -/
def execModReset (s : State) : Host.Outcome State Fault Refusal :=
  .next (let s : State := { s with pins := { s.pins with resetN := false } }
         if s.powered then s.moduleReset false else s)

/-- MOD_RESET_RELEASE (R475). -/
def execModResetRelease (s : State) : Host.Outcome State Fault Refusal :=
  .next (if s.pins.resetN then s else ({ s with pins := { s.pins with resetN := true } } : State).beginBoot)

/-- REFCLK_LOSS (R496): as though MOD_RESET_N had fallen. -/
def execRefclkLoss (s : State) : Host.Outcome State Fault Refusal :=
  .next (let s : State := { s with pins := { s.pins with refclk := false } }
         if s.powered then (s.moduleReset false).modFlint fun f => { f with refclkLost := true } else s)

/-- REFCLK_RESTORED (R496): boot, once REFCLK has run for 100 µs. -/
def execRefclkRestored (s : State) : Host.Outcome State Fault Refusal :=
  .next (if s.pins.refclk then s else ({ s with pins := { s.pins with refclk := true } } : State).beginBoot)

/-- BOOT_READY (R441, R479, R485). -/
def execBootReady (selfTest : List SelfTestResult) (mapWriteOk : Bool) (s : State) : Host.Outcome State Fault Refusal :=
  .next (bootDone selfTest mapWriteOk s)

/-- BOOT_FAILURE (R487). -/
def execBootFailure (step : Nat) (f : BootFault) (s : State) : Host.Outcome State Fault Refusal := .next (bootBreaks step f s)

/-- PARTIAL_RESET_COMPLETE (R488). -/
def execPartialResetComplete (selfTest : List SelfTestResult) (saveErr restoreErr : Bool) (s : State) : Host.Outcome State Fault Refusal :=
  .next (partialDone selfTest saveErr restoreErr s)

end Sys2Proof.Machine
end

