-- ==== Sys2Proof/Machine/Management.lean ====
section
/-! DEFINITION. The management port (R413 to R416, R450): its session, its commands, firmware update and the operator key record. -/

namespace Sys2Proof.Machine

/-! ## The session (R413, R414) -/

/-- Whether the management port serves: its firmware runs and takes commands. (log 142: DEDUCED) -/
def State.mgmtServes (s : State) : Bool := s.mgmt.up && s.flint.taking

/-- Change what the management port holds. -/
def State.modMgmt (s : State) (f : Mgmt → Mgmt) : State := { s with mgmt := f s.mgmt }

/-- The role of a client's certificate key in the operator key record in effect. -/
def State.roleOf (s : State) (key : Rec) : Option Nat := s.flash.operator.bind fun o => (o.keys.find? fun k => k.1 = key).map (·.2)

/-- Reply on the management port. -/
def State.mgmtReply (s : State) (code : Nat) (data : Rec) : State := s.emit (.mgmtReply code data)

/-- A refusal with REFUSED_STATE, which carries the current device state (R359, R415). (log 190: DESIGN CHOICE) -/
def State.mgmtRefused (s : State) : State := s.mgmtReply 2 [BitVec.ofNat 8 s.flint.view.code]

/-- One management command of the open session: its form, the least role, what keeps the device occupied, the legal states, then its
effect (R415, in the order of R366). With no session open nothing is served. -/
def State.manage (s : State) (formOk : Bool) (least : Nat) (busy : Bool) (legal : List DevState) (body : State → State) : State :=
  match s.mgmt.role with
  | none => s
  | some role =>
    if !s.mgmtServes then s
    else if !formOk then s.mgmtReply 3 []
    else if role < least then s.mgmtReply 4 []
    else if busy then s.mgmtReply 1 []
    else if !legal.contains s.flint.view then s.mgmtRefused
    else body s

/-- Whether the device is SCRUBBING: update commands are answered BUSY (Table 12.5). -/
def State.scrubs (s : State) : Bool := s.flint.state == .scrubbing

/-- Every device state. -/
def everyState : List DevState := [.booting, .ready, .loaded, .running, .halted, .scrubbing, .updating, .retain]

/-- An answer of a mailbox command as the management port gives it. -/
def State.mgmtAnswer (s : State) (a : Ans) : State := s.mgmtReply a.code a.data

/-- MGMT_STATUS: the manual gives its reply no layout, so its bytes are free. (log 143: DESIGN CHOICE) -/
def State.mgmtStatus (s : State) : State := ({ s with fresh := s.fresh + 1 } : State).mgmtReply 0 (Config.freeBytes s.fresh)

/-- MGMT_ATTEST: a report for the nonce and the context, which the port keeps as a host port does (R409); while SCRUBBING only for the
device alone. -/
def State.mgmtAttest (s : State) (ctx : Nat) (args : Rec) : State :=
  let nonce := slice args 0 32
  let off := le args 32 4
  if ctx ≠ 0 ∧ (s.context? ctx).isNone then s.mgmtReply 9 []
  else
    let form := fun (_ : Unit) =>
      let r := s.signReport (s.reportBody ctx nonce s.logTime)
      let a := attestReply r off
      (if a.code = 0 then s.modMgmt fun k => { k with report := some (BitVec.ofNat 16 ctx, nonce, r) } else s).mgmtAnswer a
    match s.mgmt.report with
    | some (c, n, r) => if c.toNat = ctx ∧ n = nonce then s.mgmtAnswer (attestReply r off) else form ()
    | none => form ()

/-! ## Firmware update (R416) -/

/-- The inactive slot. -/
def State.otherSlot (s : State) : Nat := 1 - s.running

/-- An erased slot. -/
def FwSlot.erased : FwSlot := { image := [], verified := false, security := 0, version := 0 }

/-- Change the inactive slot. -/
def State.modSlot (s : State) (f : FwSlot → FwSlot) : State :=
  { s with flash := { s.flash with slots := s.flash.slots.set s.otherSlot (f (s.flash.slots.getD s.otherSlot FwSlot.erased)) } }

/-- UPDATE_BEGIN. -/
def State.updateBegin (s : State) : State :=
  ((((s.wakeAll).modSlot fun _ => FwSlot.erased).modMgmt fun k => { k with update := 1, staged := false }).enter .updating).mgmtReply 0 []

/-- The bytes of a firmware slot. -/
def slotBytesMax : Nat := 31457280

/-- A chunk put into an image; bytes of the erased slot not yet written read as 0xFF. (log 144: PRESUMED) -/
def putChunk (img : Rec) (off : Nat) (chunk : Rec) : Rec :=
  let base := img ++ List.replicate (off + chunk.length - img.length) 0xFF
  base.take off ++ chunk ++ base.drop (off + chunk.length)

/-- UPDATE_DATA. -/
def State.updateData (s : State) (off : Nat) (chunk : Rec) : State :=
  ((s.modSlot fun k => { k with image := putChunk k.image off chunk, verified := false }).modMgmt fun k => { k with update := 1, staged := false }).mgmtReply 0 []

/-- Whether an image holds to R480: its header, its components, Yawedo's key, the signature over everything before it. -/
def imageOk (img : Rec) : Bool :=
  let n := le img 16 4
  let cs := components img
  let kinds := cs.map (·.kind)
  decide (le img 0 4 = 0x46575A54) && decide (le img 4 2 = 1) && decide (1 ≤ cs.length) && decide (cs.length ≤ 4) &&
  decide (n ≤ slotBytesMax) && decide (n ≤ img.length) && decide (64 + 48 * cs.length + 3732 ≤ n) &&
  kinds.contains 0 && decide (kinds.eraseDups.length = kinds.length) && kinds.all (fun k => decide (k ≤ 3)) &&
  decide (slice img (n - 3732) 1312 = Config.firmwareKey) &&
  Config.mlDsaVerify Config.firmwareKey (img.take (n - 2420)) (slice img (n - 2420) 2420)

/-- UPDATE_COMMIT: the signature, then the security version against counter 0; either failure erases the slot. -/
def State.updateCommit (s : State) : State :=
  let img := (s.flash.slots.getD s.otherSlot FwSlot.erased).image
  let fail := fun (code : Nat) => ((s.modSlot fun _ => FwSlot.erased).modMgmt fun k => { k with update := 1, staged := false }).mgmtReply code []
  if !imageOk img then fail 7
  else if le img 12 4 < s.flash.counters.getD 0 0 then fail 9
  else ((s.modSlot fun k => { k with verified := true, security := le img 12 4, version := le img 8 4 }).modMgmt fun k =>
    { k with update := 2, staged := true }).mgmtReply 0 []

/-- UPDATE_ABANDON. -/
def State.updateAbandon (s : State) : State := ((s.modMgmt fun k => { k with update := 0, staged := false }).enter .ready).mgmtReply 0 []

/-- UPDATE_ACTIVATE: the staged slot on trial at the next boot, which begins. -/
def State.updateActivate (s : State) : State :=
  if s.mgmt.staged then (({ s with flash := s.flash.select s.otherSlot true 0 } : State).mgmtReply 0 []).fullReset else s.mgmtRefused

/-! ## The operator key record (R414) -/

/-- The keys of a record: a 4-byte version, then keys of 1,312 bytes with a role each, then a signature of 2,420 bytes over them. -/
def operatorKeys (r : Rec) : Nat → List (Rec × Nat)
  | 0 => []
  | n + 1 => operatorKeys r n ++ [(slice r (4 + 1313 * n) 1312, le r (4 + 1313 * n + 1312) 1)]

/-- How many keys a record of this form holds; none when its bytes make no record. -/
def operatorCount (r : Rec) : Option Nat :=
  (List.range 9).find? fun n => decide (1 ≤ n) && decide (r.length = 4 + 1313 * n + 2420) && (operatorKeys r n).all fun k => decide (k.2 ≤ 2)

/-- WRITE_OPERATOR_RECORD: signed by an administrator key of the record in effect, its version above counter 2. -/
def State.writeOperator (s : State) (r : Rec) : State :=
  match operatorCount r with
  | none => s.mgmtReply 3 []
  | some n =>
    let body := r.take (4 + 1313 * n)
    let sig := r.drop (4 + 1313 * n)
    let admins := ((s.flash.operator.map (·.keys)).getD []).filter fun k => k.2 = 2
    if !(admins.any fun k => Config.mlDsaVerify k.1 body sig) then s.mgmtReply 7 []
    else if le r 0 4 ≤ s.flash.counters.getD 2 0 then s.mgmtReply 9 []
    else
      let i := lowerCopy (s.flash.operators.map fun k => (k.signed, k.version))
      let copy : OperatorCopy := { signed := true, version := le r 0 4, keys := operatorKeys r n }
      ({ s with flash := { s.flash with operators := s.flash.operators.set i copy, counters := s.flash.counters.set 2 (le r 0 4) } } : State).mgmtReply 0 []

/-! ## Meanings -/

/-- MGMT_SESSION_OPEN (R413, R414): a client whose key is in the record opens the one session; any other connection is closed. (log 145: DEDUCED) -/
def execMgmtSessionOpen (key : Rec) (s : State) : Host.Outcome State Fault Refusal :=
  .next (if !s.mgmtServes || s.mgmt.role.isSome then s
    else match s.roleOf key with
      | some r => s.modMgmt fun k => { k with role := some r }
      | none => s)

/-- MGMT_SESSION_IDLE_TIMEOUT (R413). -/
def execMgmtSessionIdleTimeout (s : State) : Host.Outcome State Fault Refusal := .next (s.modMgmt fun k => { k with role := none })

/-- MGMT_STATUS (R415). -/
def execMgmtStatus (s : State) : Host.Outcome State Fault Refusal :=
  .next (s.manage true 0 false everyState State.mgmtStatus)

/-- MGMT_READ_LOG (R450). -/
def execMgmtReadLog (args : Rec) (s : State) : Host.Outcome State Fault Refusal :=
  .next (s.manage (logForm args args.length).isNone 0 false (everyState.erase .booting) fun s => s.soundLog.mgmtAnswer (s.soundLog.logReply args))

/-- MGMT_ATTEST (R415, R417). -/
def execMgmtAttest (ctx : BitVec 16) (args : Rec) (s : State) : Host.Outcome State Fault Refusal :=
  .next (s.manage (attestForm args args.length).isNone 0 false [.ready, .loaded, .running, .halted, .updating, .scrubbing] fun s =>
    s.mgmtAttest ctx.toNat args)

/-- UPDATE_BEGIN (R416). -/
def execUpdateBegin (s : State) : Host.Outcome State Fault Refusal := .next (s.manage true 1 s.busy [.ready] State.updateBegin)

/-- UPDATE_DATA (R416). -/
def execUpdateData (off : Nat) (chunk : Rec) (s : State) : Host.Outcome State Fault Refusal :=
  .next (s.manage (decide (chunk.length ≤ 65536) && decide (off + chunk.length ≤ slotBytesMax)) 1 s.scrubs [.updating] fun s => s.updateData off chunk)

/-- UPDATE_COMMIT (R416). -/
def execUpdateCommit (s : State) : Host.Outcome State Fault Refusal := .next (s.manage true 1 s.scrubs [.updating] State.updateCommit)

/-- UPDATE_ABANDON (R416). -/
def execUpdateAbandon (s : State) : Host.Outcome State Fault Refusal := .next (s.manage true 1 s.scrubs [.updating] State.updateAbandon)

/-- UPDATE_ACTIVATE (R416). -/
def execUpdateActivate (s : State) : Host.Outcome State Fault Refusal := .next (s.manage true 1 s.scrubs [.updating] State.updateActivate)

/-- WRITE_OPERATOR_RECORD (R414). -/
def execWriteOperatorRecord (record : Rec) (s : State) : Host.Outcome State Fault Refusal :=
  .next (s.manage true 2 false [.ready, .updating] fun s => s.writeOperator record)

end Sys2Proof.Machine
end

