-- ==== Sys2Proof/Machine/Dispatch.lean ====
section
/-! DEFINITION. What each command does: one arm per constructor, each one call of its meaning. -/

namespace Sys2Proof.Machine

/-- The effect of a command on everything but the queue. -/
def exec (i : Instr) (s : State) : Host.Outcome State Fault Refusal :=
  match i with
  | .queryState m => Sys2Proof.Machine.execQueryState m s
  | .queryCapability m => Sys2Proof.Machine.execQueryCapability m s
  | .readRegister m => Sys2Proof.Machine.execReadRegister m s
  | .writeRegister m => Sys2Proof.Machine.execWriteRegister m s
  | .setEpochOffset m => Sys2Proof.Machine.execSetEpochOffset m s
  | .setFabricAddress m => Sys2Proof.Machine.execSetFabricAddress m s
  | .claimOwnership m => Sys2Proof.Machine.execClaimOwnership m s
  | .releaseOwnership m => Sys2Proof.Machine.execReleaseOwnership m s
  | .acknowledgeHalt m => Sys2Proof.Machine.execAcknowledgeHalt m s
  | .readStrataLog m => Sys2Proof.Machine.execReadStrataLog m s
  | .reset m => Sys2Proof.Machine.execReset m s
  | .createContext m => Sys2Proof.Machine.execCreateContext m s
  | .destroyContext m => Sys2Proof.Machine.execDestroyContext m s
  | .switchContext m => Sys2Proof.Machine.execSwitchContext m s
  | .switchContextComplete saveErr restoreErr => Sys2Proof.Machine.execSwitchContextComplete saveErr restoreErr s
  | .createRegion m => Sys2Proof.Machine.execCreateRegion m s
  | .regionZeroingComplete slot index => Sys2Proof.Machine.execRegionZeroingComplete slot index s
  | .destroyRegion m => Sys2Proof.Machine.execDestroyRegion m s
  | .loadPlan m => Sys2Proof.Machine.execLoadPlan m s
  | .loadPlanComplete => Sys2Proof.Machine.execLoadPlanComplete s
  | .scrub m => Sys2Proof.Machine.execScrub m s
  | .scrubComplete => Sys2Proof.Machine.execScrubComplete s
  | .openSession m => Sys2Proof.Machine.execOpenSession m s
  | .closeSession m => Sys2Proof.Machine.execCloseSession m s
  | .attest m => Sys2Proof.Machine.execAttest m s
  | .attestComplete => Sys2Proof.Machine.execAttestComplete s
  | .startStep m => Sys2Proof.Machine.execStartStep m s
  | .abortStep m => Sys2Proof.Machine.execAbortStep m s
  | .stepStopComplete => Sys2Proof.Machine.execStepStopComplete s
  | .armStream m => Sys2Proof.Machine.execArmStream m s
  | .setIdleTimers m => Sys2Proof.Machine.execSetIdleTimers m s
  | .mgmtSessionOpen key => Sys2Proof.Machine.execMgmtSessionOpen key s
  | .mgmtSessionIdleTimeout => Sys2Proof.Machine.execMgmtSessionIdleTimeout s
  | .mgmtStatus => Sys2Proof.Machine.execMgmtStatus s
  | .mgmtReadLog args => Sys2Proof.Machine.execMgmtReadLog args s
  | .mgmtAttest ctx args => Sys2Proof.Machine.execMgmtAttest ctx args s
  | .updateBegin => Sys2Proof.Machine.execUpdateBegin s
  | .updateData off chunk => Sys2Proof.Machine.execUpdateData off chunk s
  | .updateCommit => Sys2Proof.Machine.execUpdateCommit s
  | .updateAbandon => Sys2Proof.Machine.execUpdateAbandon s
  | .updateActivate => Sys2Proof.Machine.execUpdateActivate s
  | .writeOperatorRecord record => Sys2Proof.Machine.execWriteOperatorRecord record s
  | .mailboxDoorbell port value => Sys2Proof.Machine.execMailboxDoorbell port value s
  | .mailboxDoneClear port value => Sys2Proof.Machine.execMailboxDoneClear port value s
  | .interruptEnableWrite port value => Sys2Proof.Machine.execInterruptEnableWrite port value s
  | .streamArm src w => Sys2Proof.Machine.execStreamArm src w s
  | .streamRearm src w => Sys2Proof.Machine.execStreamRearm src w s
  | .streamFaultClear stream => Sys2Proof.Machine.execStreamFaultClear stream s
  | .readClearAccess r => Sys2Proof.Machine.execReadClearAccess r s
  | .registerWrite w => Sys2Proof.Machine.execRegisterWrite w s
  | .hostCompletion port target cpl => Sys2Proof.Machine.execHostCompletion port target cpl s
  | .functionLevelReset port => Sys2Proof.Machine.execFunctionLevelReset port s
  | .perstAsserted port => Sys2Proof.Machine.execPerstAsserted port s
  | .hostLinkDown port => Sys2Proof.Machine.execHostLinkDown port s
  | .leaseExpiry => Sys2Proof.Machine.execLeaseExpiry s
  | .weightLoad core => Sys2Proof.Machine.execWeightLoad core s
  | .weightLoadComplete core id => Sys2Proof.Machine.execWeightLoadComplete core id s
  | .preload core => Sys2Proof.Machine.execPreload core s
  | .drain core => Sys2Proof.Machine.execDrain core s
  | .streamRows core => Sys2Proof.Machine.execStreamRows core s
  | .engineBeat core id upset => Sys2Proof.Machine.execEngineBeat core id upset s
  | .passComplete core id => Sys2Proof.Machine.execPassComplete core id s
  | .vector core => Sys2Proof.Machine.execVector core s
  | .function core => Sys2Proof.Machine.execFunction core s
  | .rowReduction core => Sys2Proof.Machine.execRowReduction core s
  | .instructionComplete core id => Sys2Proof.Machine.execInstructionComplete core id s
  | .instructionReleased core => Sys2Proof.Machine.execInstructionReleased core s
  | .waitToken core => Sys2Proof.Machine.execWaitToken core s
  | .signalToken core => Sys2Proof.Machine.execSignalToken core s
  | .tokenWaitGranted core => Sys2Proof.Machine.execTokenWaitGranted core s
  | .tokenSignalGranted core => Sys2Proof.Machine.execTokenSignalGranted core s
  | .fillArm core => Sys2Proof.Machine.execFillArm core s
  | .fillJoin core => Sys2Proof.Machine.execFillJoin core s
  | .fillEnd core => Sys2Proof.Machine.execFillEnd core s
  | .fillTaskStart core => Sys2Proof.Machine.execFillTaskStart core s
  | .loop core => Sys2Proof.Machine.execLoop core s
  | .loopEnd core => Sys2Proof.Machine.execLoopEnd core s
  | .setIndex core => Sys2Proof.Machine.execSetIndex core s
  | .addIndex core => Sys2Proof.Machine.execAddIndex core s
  | .fence core => Sys2Proof.Machine.execFence core s
  | .stepEnd core => Sys2Proof.Machine.execStepEnd core s
  | .holdLimitExpiry core => Sys2Proof.Machine.execHoldLimitExpiry core s
  | .engineWatchdogExpiry core engine => Sys2Proof.Machine.execEngineWatchdogExpiry core engine s
  | .engineHandover core engine plane0 plane1 => Sys2Proof.Machine.execEngineHandover core engine plane0 plane1 s
  | .lineSubstitution core bank line => Sys2Proof.Machine.execLineSubstitution core bank line s
  | .descriptorFetch stream => Sys2Proof.Machine.execDescriptorFetch stream s
  | .pebbleLineFetch stream => Sys2Proof.Machine.execPebbleLineFetch stream s
  | .transferStart stream => Sys2Proof.Machine.execTransferStart stream s
  | .transferComplete stream => Sys2Proof.Machine.execTransferComplete stream s
  | .streamFault stream code => Sys2Proof.Machine.execStreamFault stream code s
  | .lodeTileAccept stream => Sys2Proof.Machine.execLodeTileAccept stream s
  | .lodeTileForward stream => Sys2Proof.Machine.execLodeTileForward stream s
  | .segmentBind die edge stream words => Sys2Proof.Machine.execSegmentBind die edge stream words s
  | .segmentAcknowledged die edge group => Sys2Proof.Machine.execSegmentAcknowledged die edge group s
  | .memoryAccessGrant a => Sys2Proof.Machine.execMemoryAccessGrant a s
  | .refreshDue dev => Sys2Proof.Machine.execRefreshDue dev s
  | .readTimingTracking dev channel => Sys2Proof.Machine.execReadTimingTracking dev channel s
  | .temperatureReadout dev celsius => Sys2Proof.Machine.execTemperatureReadout dev celsius s
  | .fullRetraining dev channel ok => Sys2Proof.Machine.execFullRetraining dev channel ok s
  | .patrolRead dev upset => Sys2Proof.Machine.execPatrolRead dev upset s
  | .stepEndDetected => Sys2Proof.Machine.execStepEndDetected s
  | .updateEntryStart die => Sys2Proof.Machine.execUpdateEntryStart die s
  | .updateEntryComplete die => Sys2Proof.Machine.execUpdateEntryComplete die s
  | .collectiveInputTransfer seq block => Sys2Proof.Machine.execCollectiveInputTransfer seq block s
  | .chunkReceived port header payload bad => Sys2Proof.Machine.execChunkReceived port header payload bad s
  | .stopReceived port cls => Sys2Proof.Machine.execStopReceived port cls s
  | .goReceived port cls => Sys2Proof.Machine.execGoReceived port cls s
  | .acknowledgeReceived port msg => Sys2Proof.Machine.execAcknowledgeReceived port msg s
  | .refuseReceived port msg => Sys2Proof.Machine.execRefuseReceived port msg s
  | .resumeQueryReceived port msg => Sys2Proof.Machine.execResumeQueryReceived port msg s
  | .resumeAnswerReceived port msg => Sys2Proof.Machine.execResumeAnswerReceived port msg s
  | .resumeQueryTimeout plane peer => Sys2Proof.Machine.execResumeQueryTimeout plane peer s
  | .detourEnd plane peer => Sys2Proof.Machine.execDetourEnd plane peer s
  | .agreementStart seq => Sys2Proof.Machine.execAgreementStart seq s
  | .collectiveComplete seq => Sys2Proof.Machine.execCollectiveComplete seq s
  | .collectiveHoldLimit seq => Sys2Proof.Machine.execCollectiveHoldLimit seq s
  | .flitReceived port control flit corrected uncorrectable => Sys2Proof.Machine.execFlitReceived port control flit corrected uncorrectable s
  | .nackReceived port ack => Sys2Proof.Machine.execNackReceived port ack s
  | .nackTimeout port => Sys2Proof.Machine.execNackTimeout port s
  | .linkDownTimeExpiry port => Sys2Proof.Machine.execLinkDownTimeExpiry port s
  | .lossOfLight port => Sys2Proof.Machine.execLossOfLight port s
  | .lightPresent port => Sys2Proof.Machine.execLightPresent port s
  | .receiveSearchComplete port full codes => Sys2Proof.Machine.execReceiveSearchComplete port full codes s
  | .trainingBlockReceived port ring block => Sys2Proof.Machine.execTrainingBlockReceived port ring block s
  | .linkCodewordReceived port control content => Sys2Proof.Machine.execLinkCodewordReceived port control content s
  | .identityRetry port => Sys2Proof.Machine.execIdentityRetry port s
  | .managementCodewordReceived port control content => Sys2Proof.Machine.execManagementCodewordReceived port control content s
  | .dormantRequest port => Sys2Proof.Machine.execDormantRequest port s
  | .dormantGrant port => Sys2Proof.Machine.execDormantGrant port s
  | .dormantGrantTimeout port => Sys2Proof.Machine.execDormantGrantTimeout port s
  | .wakeRequest port => Sys2Proof.Machine.execWakeRequest port s
  | .receiveOverload port => Sys2Proof.Machine.execReceiveOverload port s
  | .overloadHoldExpiry port => Sys2Proof.Machine.execOverloadHoldExpiry port s
  | .monitorSample opal channel r => Sys2Proof.Machine.execMonitorSample opal channel r s
  | .successorStandby opal channel => Sys2Proof.Machine.execSuccessorStandby opal channel s
  | .crossFadeComplete opal channel => Sys2Proof.Machine.execCrossFadeComplete opal channel s
  | .successorRelease opal channel => Sys2Proof.Machine.execSuccessorRelease opal channel s
  | .ringLockLost port channel rx => Sys2Proof.Machine.execRingLockLost port channel rx s
  | .ringSearchComplete port channel rx found => Sys2Proof.Machine.execRingSearchComplete port channel rx found s
  | .ringHop port channel rx => Sys2Proof.Machine.execRingHop port channel rx s
  | .laneFrameReceived die edge group f => Sys2Proof.Machine.execLaneFrameReceived die edge group f s
  | .laneMarginUpdate die edge lane margin crcPerSecond crcRun => Sys2Proof.Machine.execLaneMarginUpdate die edge lane margin crcPerSecond crcRun s
  | .laneSwapRequest die edge lane spare => Sys2Proof.Machine.execLaneSwapRequest die edge lane spare s
  | .spareCompareComplete die edge matched => Sys2Proof.Machine.execSpareCompareComplete die edge matched s
  | .spareSwitch die edge => Sys2Proof.Machine.execSpareSwitch die edge s
  | .halfWidthSwitch die edge group lane => Sys2Proof.Machine.execHalfWidthSwitch die edge group lane s
  | .gangTakeIn die edge plane => Sys2Proof.Machine.execGangTakeIn die edge plane s
  | .powerSample p => Sys2Proof.Machine.execPowerSample p s
  | .quietTimerExpiry die => Sys2Proof.Machine.execQuietTimerExpiry die s
  | .retainTimerExpiry die => Sys2Proof.Machine.execRetainTimerExpiry die s
  | .retainEntry die => Sys2Proof.Machine.execRetainEntry die s
  | .dieWake die => Sys2Proof.Machine.execDieWake die s
  | .brownOut die => Sys2Proof.Machine.execBrownOut die s
  | .brownOutReinitComplete die => Sys2Proof.Machine.execBrownOutReinitComplete die s
  | .temperatureSample die basalt opal => Sys2Proof.Machine.execTemperatureSample die basalt opal s
  | .thermalTrip => Sys2Proof.Machine.execThermalTrip s
  | .supplyLow millivolts => Sys2Proof.Machine.execSupplyLow millivolts s
  | .supplyShutdown => Sys2Proof.Machine.execSupplyShutdown s
  | .powerOn => Sys2Proof.Machine.execPowerOn s
  | .modPwrokFall => Sys2Proof.Machine.execModPwrokFall s
  | .modReset => Sys2Proof.Machine.execModReset s
  | .refclkLoss => Sys2Proof.Machine.execRefclkLoss s
  | .bootReady selfTest mapWriteOk => Sys2Proof.Machine.execBootReady selfTest mapWriteOk s
  | .bootFailure step f => Sys2Proof.Machine.execBootFailure step f s
  | .partialResetComplete selfTest saveErr restoreErr => Sys2Proof.Machine.execPartialResetComplete selfTest saveErr restoreErr s
  | .faultReport r => Sys2Proof.Machine.execFaultReport r s
  | .gatherWindowEnd => Sys2Proof.Machine.execGatherWindowEnd s
  | .recoveryComplete => Sys2Proof.Machine.execRecoveryComplete s
  | .flintWatchdogExpiry => Sys2Proof.Machine.execFlintWatchdogExpiry s
  | .repairMapWrite => Sys2Proof.Machine.execRepairMapWrite s
  | .modResetRelease => Sys2Proof.Machine.execModResetRelease s
  | .refclkRestored => Sys2Proof.Machine.execRefclkRestored s
  | .perstReleased port => Sys2Proof.Machine.execPerstReleased port s
  | .hostLinkUp port => Sys2Proof.Machine.execHostLinkUp port s
  | .configurationSpaceWrite port busMaster d3hot => Sys2Proof.Machine.execConfigurationSpaceWrite port busMaster d3hot s
  | .heldChunkHoldLimit port => Sys2Proof.Machine.execHeldChunkHoldLimit port s
  | .strataLogCutComplete => Sys2Proof.Machine.execStrataLogCutComplete s

end Sys2Proof.Machine
end

