-- ==== Sys2Proof/WellFormed.lean ====
section
/-! DEFINITION. Well-formed commands: every operand within the width Table 1.5 and the register and port tables give it.
A command outside these ranges names nothing the device has. -/

namespace Sys2Proof

/-- A mailbox of a host port (R356). -/
def Mbx.wf (m : Mbx) : Bool := decide (m.port < 2) && decide (m.box < 32)

/-- A logical core (R10). -/
def wfCore (c : Nat) : Bool := decide (c < 96)
/-- An engine of a core. -/
def wfEngine (e : Nat) : Bool := decide (e < 12)
/-- A stream identifier (R140). -/
def wfStream (i : Nat) : Bool := decide (i < 0x8000)
/-- A Basalt die. -/
def wfDie (d : Nat) : Bool := decide (d < 4)
/-- A local edge of a die (R346). -/
def wfEdge (d e : Nat) : Bool := wfDie d && decide (e < 4)
/-- A direction of an edge: received by the die on its local edge 0 to 3, or received by its Opal on 4 and 5. -/
def wfDir (d e : Nat) : Bool := wfDie d && decide (e < 6)
/-- A memory device. -/
def wfDev (d : Nat) : Bool := decide (d < 24)
/-- A channel of a memory device. -/
def wfDevChannel (d c : Nat) : Bool := wfDev d && decide (c < 4)
/-- A host port. -/
def wfHost (p : Nat) : Bool := decide (p < 2)
/-- An optical port. -/
def wfPort (p : Nat) : Bool := decide (p < 24)
/-- A wavelength channel of an optical port. -/
def wfRing (p n : Nat) : Bool := wfPort p && decide (n < 16)
/-- A wavelength channel of an Opal. -/
def wfLaser (o n : Nat) : Bool := decide (o < 8) && decide (n < 16)
/-- A ring plane. -/
def wfPlane (q : Nat) : Bool := decide (q < 12)
/-- A group of an edge: 96 on a Basalt–Basalt edge, 32 on a Basalt–Opal edge. -/
def wfGroup (d e g : Nat) : Bool := wfDir d e && decide (g < if e < 2 then 96 else 32)
/-- A register's numbers. -/
def Reg.wf : Reg → Bool
  | .seqStatus c | .coreFault c | .matrixStatus c => wfCore c
  | .engineStatus c e => wfCore c && wfEngine e
  | .tokenQueue c q => wfCore c && decide (q < 64)
  | .screeState c i => wfCore c && decide (i < 4)
  | .streamStatus i => wfStream i
  | .memStatus d | .memCount d => wfDev d
  | .arenaCount d | .updateStatus d | .faultSummary d | .diePower d | .powerCount d => wfDie d
  | .ringStatus q | .ringCount q => wfPlane q
  | .portStatus p | .portLink p | .portCount p => wfPort p
  | .laser o n => wfLaser o n
  | .channel p n => wfRing p n
  | .edgeStatus d e | .edgeCount d e => wfEdge d e
  | .edgeGroups d e i => wfEdge d e && decide (i < 3)
  | .moduleSupply => true
  | .identity p | .deviceStatus p | .intCause p | .intEnable p | .mailboxSubmitted p | .mailboxDone p | .heartbeat p
  | .stepStatus p | .stepTag p | .hostViolation p => wfHost p

/-- A well-formed command. -/
def Instr.wf : Instr → Bool
  | .queryState m | .queryCapability m | .readRegister m | .writeRegister m | .setEpochOffset m | .setFabricAddress m
  | .claimOwnership m | .releaseOwnership m | .acknowledgeHalt m | .readStrataLog m | .reset m | .createContext m
  | .destroyContext m | .switchContext m | .createRegion m | .destroyRegion m | .loadPlan m | .scrub m | .openSession m
  | .closeSession m | .attest m | .startStep m | .abortStep m | .armStream m | .setIdleTimers m => m.wf
  | .switchContextComplete _ _ | .loadPlanComplete | .scrubComplete | .attestComplete | .stepStopComplete
  | .mgmtSessionOpen _ | .mgmtSessionIdleTimeout | .mgmtStatus | .mgmtReadLog _ | .mgmtAttest _ _ | .updateBegin
  | .updateCommit | .updateAbandon | .updateActivate | .writeOperatorRecord _ | .leaseExpiry | .stepEndDetected
  | .powerSample _ | .thermalTrip | .supplyLow _ | .supplyShutdown | .powerOn | .modPwrokFall | .modReset | .refclkLoss
  | .bootReady _ _ | .partialResetComplete _ _ _ | .faultReport _ | .gatherWindowEnd | .recoveryComplete
  | .flintWatchdogExpiry | .repairMapWrite | .modResetRelease | .refclkRestored | .strataLogCutComplete => true
  | .regionZeroingComplete slot index => decide (slot < 16) && decide (index < 64)
  | .updateData _ chunk => decide (chunk.length ≤ 65536)
  | .bootFailure step _ => decide (1 ≤ step) && decide (step ≤ 12)
  | .mailboxDoorbell p _ | .mailboxDoneClear p _ | .interruptEnableWrite p _ | .hostCompletion p _ _
  | .functionLevelReset p | .perstAsserted p | .hostLinkDown p | .perstReleased p | .hostLinkUp p
  | .configurationSpaceWrite p _ _ => wfHost p
  | .streamArm _ _ | .streamRearm _ _ => true
  | .registerWrite w => wfHost w.port && (w.bar == 0 || w.bar == 2)
  | .readClearAccess r => r.wf
  | .streamFaultClear i | .descriptorFetch i | .pebbleLineFetch i | .transferStart i | .transferComplete i
  | .lodeTileAccept i | .lodeTileForward i => wfStream i
  | .streamFault i code => wfStream i && decide (code < 256)
  | .weightLoad c | .preload c | .drain c | .streamRows c | .vector c | .function c | .rowReduction c
  | .instructionReleased c | .waitToken c | .signalToken c | .tokenWaitGranted c | .tokenSignalGranted c | .fillArm c
  | .fillJoin c | .fillEnd c | .fillTaskStart c | .loop c | .loopEnd c | .setIndex c | .addIndex c | .fence c | .stepEnd c
  | .holdLimitExpiry c => wfCore c
  | .weightLoadComplete c _ | .engineBeat c _ _ | .passComplete c _ | .instructionComplete c _ => wfCore c
  | .engineWatchdogExpiry c e | .engineHandover c e _ _ => wfCore c && wfEngine e
  | .lineSubstitution c b l => wfCore c && decide (b < 128) && decide (l < 4096)
  | .segmentBind d e i words => wfEdge d e && wfStream i && decide (1 ≤ words) && decide (words ≤ 256)
  | .segmentAcknowledged d e g | .laneFrameReceived d e g _ | .halfWidthSwitch d e g _ => wfGroup d e g
  | .gangTakeIn d e q => wfEdge d e && wfPlane q
  | .memoryAccessGrant a => wfDev a.dev
  | .refreshDue d | .temperatureReadout d _ | .patrolRead d _ => wfDev d
  | .readTimingTracking d c | .fullRetraining d c _ => wfDevChannel d c
  | .updateEntryStart d | .updateEntryComplete d | .quietTimerExpiry d | .retainTimerExpiry d | .retainEntry d | .dieWake d
  | .brownOut d | .brownOutReinitComplete d | .temperatureSample d _ _ => wfDie d
  | .collectiveInputTransfer q _ | .agreementStart q | .collectiveComplete q | .collectiveHoldLimit q => decide (q < 65536)
  | .chunkReceived p _ _ _ | .acknowledgeReceived p _ | .refuseReceived p _ | .resumeQueryReceived p _
  | .resumeAnswerReceived p _ | .nackReceived p _ | .nackTimeout p | .linkDownTimeExpiry p
  | .lossOfLight p | .lightPresent p | .receiveSearchComplete p _ _ | .linkCodewordReceived p _ _ | .identityRetry p
  | .managementCodewordReceived p _ _ | .dormantRequest p | .dormantGrant p | .dormantGrantTimeout p | .wakeRequest p
  | .receiveOverload p | .overloadHoldExpiry p | .heldChunkHoldLimit p => wfPort p
  | .flitReceived p _ _ corrected _ => wfPort p && decide (corrected ≤ 15)
  | .stopReceived p c | .goReceived p c => wfPort p && decide (c < 2)
  | .resumeQueryTimeout q _ | .detourEnd q _ => wfPlane q
  | .trainingBlockReceived p n _ | .ringLockLost p n _ | .ringHop p n _ | .ringSearchComplete p n _ _ => wfRing p n
  | .monitorSample o n _ | .successorStandby o n | .crossFadeComplete o n | .successorRelease o n => wfLaser o n
  | .laneMarginUpdate d e _ _ _ _ | .laneSwapRequest d e _ _ | .spareCompareComplete d e _ | .spareSwitch d e => wfDir d e

end Sys2Proof
end

