-- ==== Sys2Proof/Safety.lean ====
section
/-! DEFINITION. The terms claims use: the parts of the state and what it is for a step to leave a part alone, which parts each
command may touch, a mailbox command that passes the checks of R366, a reply as a host reads it, and the invariants. -/

namespace Sys2Proof.Machine

/-! ## Parts of the state -/

/-- A part of the state: a field of `State`. -/
inductive Part where
  | localTime | epochOffset | fabricValid | fabric | powered | resident | residentComp | generations | contexts | chip
  | flint | hosts | mgmt | flash | cfg | running | regs | devmem | devFlips | mems | oports | ochans | lasers | edges
  | gangPairs | dies | repair | pins | inputMv | inputW | sent | fresh | pending
  deriving DecidableEq, Repr

/-- Two states agree on a part. -/
def Part.same (s t : State) : Part → Prop
  | .localTime => t.localTime = s.localTime
  | .epochOffset => t.epochOffset = s.epochOffset
  | .fabricValid => t.fabricValid = s.fabricValid
  | .fabric => t.fabric = s.fabric
  | .powered => t.powered = s.powered
  | .resident => t.resident = s.resident
  | .residentComp => t.residentComp = s.residentComp
  | .generations => t.generations = s.generations
  | .contexts => t.contexts = s.contexts
  | .chip => t.chip = s.chip
  | .flint => t.flint = s.flint
  | .hosts => t.hosts = s.hosts
  | .mgmt => t.mgmt = s.mgmt
  | .flash => t.flash = s.flash
  | .cfg => t.cfg = s.cfg
  | .running => t.running = s.running
  | .regs => t.regs = s.regs
  | .devmem => t.devmem = s.devmem
  | .devFlips => t.devFlips = s.devFlips
  | .mems => t.mems = s.mems
  | .oports => t.oports = s.oports
  | .ochans => t.ochans = s.ochans
  | .lasers => t.lasers = s.lasers
  | .edges => t.edges = s.edges
  | .gangPairs => t.gangPairs = s.gangPairs
  | .dies => t.dies = s.dies
  | .repair => t.repair = s.repair
  | .pins => t.pins = s.pins
  | .inputMv => t.inputMv = s.inputMv
  | .inputW => t.inputW = s.inputW
  | .sent => t.sent = s.sent
  | .fresh => t.fresh = s.fresh
  | .pending => t.pending = s.pending

/-- Between two states nothing outside the listed parts differs. -/
def onlyTouches (ps : List Part) (s t : State) : Prop := ∀ p : Part, p ∉ ps → p.same s t

/-- The parts a command may change. Every other part is as it was after the command (R9, and the rule of each command). -/
def touches : Instr → List Part
  | .instructionComplete .. | .fillTaskStart .. =>
    [.chip]
  | .leaseExpiry =>
    [.flint]
  | .mailboxDoneClear .. | .perstReleased .. =>
    [.hosts]
  | .mgmtSessionOpen .. | .mgmtSessionIdleTimeout =>
    [.mgmt]
  | .quietTimerExpiry .. =>
    [.dies]
  | .readTimingTracking .. =>
    [.mems]
  | .stopReceived .. | .lightPresent .. =>
    [.oports]
  | .identityRetry .. | .dormantRequest .. =>
    [.oports, .sent]
  | .laneSwapRequest .. =>
    [.edges, .sent]
  | .mgmtAttest .. =>
    [.mgmt, .sent]
  | .mgmtStatus =>
    [.sent, .fresh]
  | .modResetRelease | .refclkRestored =>
    [.flint, .pins]
  | .refreshDue .. =>
    [.mems, .sent]
  | .streamFaultClear .. =>
    [.chip, .regs]
  | .successorStandby .. | .successorRelease .. =>
    [.regs, .lasers]
  | .writeOperatorRecord .. =>
    [.flash, .sent]
  | .holdLimitExpiry .. | .collectiveHoldLimit .. =>
    [.chip, .flint, .regs]
  | .interruptEnableWrite .. =>
    [.hosts, .regs, .sent]
  | .overloadHoldExpiry .. =>
    [.oports, .sent, .fresh]
  | .queryState .. | .queryCapability .. | .attest .. | .attestComplete | .hostLinkUp .. | .configurationSpaceWrite .. =>
    [.flint, .hosts, .sent]
  | .regionZeroingComplete .. =>
    [.contexts, .devmem, .devFlips]
  | .segmentBind .. =>
    [.chip, .edges, .sent]
  | .updateData .. | .updateCommit =>
    [.mgmt, .flash, .sent]
  | .claimOwnership .. | .releaseOwnership .. =>
    [.flint, .hosts, .regs, .sent]
  | .destroyRegion .. | .closeSession .. =>
    [.contexts, .flint, .hosts, .sent]
  | .setEpochOffset .. =>
    [.epochOffset, .flint, .hosts, .sent]
  | .setIdleTimers .. =>
    [.flint, .hosts, .dies, .sent]
  | .weightLoadComplete .. =>
    [.chip, .flint, .regs, .repair]
  | .createContext .. =>
    [.generations, .contexts, .flint, .hosts, .sent]
  | .functionLevelReset .. | .perstAsserted .. | .hostLinkDown .. =>
    [.chip, .flint, .hosts, .regs, .sent]
  | .openSession .. =>
    [.contexts, .flint, .hosts, .sent, .fresh]
  | .powerSample .. =>
    [.regs, .dies, .inputMv, .inputW, .fresh]
  | .readStrataLog .. | .mgmtReadLog .. | .mailboxDoorbell .. | .supplyLow .. =>
    [.flint, .hosts, .regs, .sent, .fresh]
  | .ringLockLost .. =>
    [.regs, .oports, .ochans, .sent, .fresh]
  | .streamFault .. =>
    [.contexts, .chip, .flint, .regs, .repair]
  | .updateAbandon =>
    [.flint, .hosts, .mgmt, .regs, .sent]
  | .abortStep .. =>
    [.chip, .flint, .hosts, .regs, .sent, .fresh]
  | .brownOutReinitComplete .. =>
    [.flint, .mems, .oports, .dies, .sent, .fresh]
  | .engineWatchdogExpiry .. =>
    [.chip, .flint, .hosts, .regs, .repair, .sent]
  | .laneMarginUpdate .. =>
    [.flint, .hosts, .regs, .edges, .sent, .fresh]
  | .ringHop .. =>
    [.flint, .hosts, .regs, .ochans, .sent, .fresh]
  | .segmentAcknowledged .. | .gangTakeIn .. =>
    [.flint, .hosts, .regs, .edges, .repair, .sent]
  | .strataLogCutComplete =>
    [.flint, .hosts, .flash, .regs, .sent, .fresh]
  | .trainingBlockReceived .. =>
    [.flint, .hosts, .regs, .oports, .sent, .fresh]
  | .engineHandover .. | .lineSubstitution .. =>
    [.chip, .flint, .hosts, .regs, .repair, .sent, .fresh]
  | .flitReceived .. | .nackReceived .. =>
    [.flint, .hosts, .regs, .oports, .dies, .sent, .fresh]
  | .repairMapWrite =>
    [.flint, .hosts, .flash, .regs, .repair, .sent, .fresh]
  | .temperatureReadout .. =>
    [.flint, .hosts, .regs, .mems, .dies, .sent, .fresh]
  | .crossFadeComplete .. =>
    [.flint, .hosts, .regs, .ochans, .lasers, .repair, .sent, .fresh]
  | .hostCompletion .. =>
    [.contexts, .chip, .flint, .hosts, .regs, .repair, .sent, .fresh]
  | .laneFrameReceived .. =>
    [.contexts, .chip, .flint, .regs, .oports, .edges, .repair, .sent]
  | .patrolRead .. =>
    [.flint, .hosts, .regs, .devmem, .devFlips, .mems, .repair, .sent]
  | .readRegister .. | .switchContext .. | .loadPlan .. | .readClearAccess .. | .dormantGrant .. | .wakeRequest .. |
  .dieWake .. | .temperatureSample .. =>
    [.flint, .hosts, .regs, .mems, .oports, .dies, .sent, .fresh]
  | .acknowledgeHalt .. =>
    [.resident, .residentComp, .contexts, .chip, .flint, .hosts, .mgmt, .regs, .sent]
  | .createRegion .. =>
    [.contexts, .flint, .hosts, .regs, .mems, .oports, .dies, .sent, .fresh]
  | .scrubComplete =>
    [.flint, .hosts, .regs, .devmem, .devFlips, .mems, .oports, .dies, .sent]
  | .writeRegister .. | .waitToken .. | .signalToken .. | .tokenWaitGranted .. | .tokenSignalGranted .. | .fillArm ..
  | .fillJoin .. | .fillEnd .. | .loop .. | .loopEnd .. | .setIndex .. | .addIndex .. | .fence .. | .stepEnd .. |
  .lodeTileAccept .. | .lodeTileForward .. | .refuseReceived .. | .resumeQueryReceived .. | .resumeQueryTimeout .. |
  .detourEnd .. | .agreementStart .. | .nackTimeout .. | .linkDownTimeExpiry .. | .lossOfLight .. |
  .linkCodewordReceived .. | .dormantGrantTimeout .. | .receiveOverload .. | .retainTimerExpiry .. | .retainEntry .. =>
    [.chip, .flint, .hosts, .regs, .mems, .oports, .dies, .sent, .fresh]
  | .receiveSearchComplete .. | .managementCodewordReceived .. | .ringSearchComplete .. =>
    [.chip, .flint, .hosts, .regs, .mems, .oports, .ochans, .dies, .sent, .fresh]
  | .updateBegin =>
    [.flint, .hosts, .mgmt, .flash, .regs, .mems, .oports, .dies, .sent, .fresh]
  | .weightLoad .. | .preload .. | .drain .. | .streamRows .. =>
    [.chip, .flint, .hosts, .regs, .mems, .oports, .dies, .repair, .sent, .fresh]
  | .fullRetraining .. =>
    [.contexts, .chip, .flint, .hosts, .regs, .devmem, .devFlips, .mems, .repair, .sent, .fresh]
  | .setFabricAddress .. =>
    [.fabricValid, .fabric, .chip, .flint, .hosts, .regs, .mems, .oports, .dies, .sent, .fresh]
  | .spareCompareComplete .. | .spareSwitch .. | .halfWidthSwitch .. =>
    [.chip, .flint, .hosts, .regs, .mems, .oports, .edges, .dies, .repair, .sent, .fresh]
  | .destroyContext .. =>
    [.resident, .residentComp, .contexts, .chip, .flint, .hosts, .regs, .mems, .oports, .dies, .sent, .fresh]
  | .engineBeat .. | .passComplete .. | .vector .. | .function .. | .rowReduction .. | .instructionReleased .. |
  .updateEntryStart .. | .updateEntryComplete .. =>
    [.chip, .flint, .hosts, .regs, .devmem, .devFlips, .mems, .oports, .dies, .repair, .sent, .fresh]
  | .monitorSample .. =>
    [.chip, .flint, .hosts, .regs, .mems, .oports, .ochans, .lasers, .dies, .repair, .sent, .fresh]
  | .loadPlanComplete | .stepStopComplete | .armStream .. | .streamArm .. | .streamRearm .. | .registerWrite .. |
  .descriptorFetch .. | .pebbleLineFetch .. | .transferStart .. | .transferComplete .. | .memoryAccessGrant .. |
  .stepEndDetected | .collectiveInputTransfer .. | .chunkReceived .. | .goReceived .. | .acknowledgeReceived .. |
  .resumeAnswerReceived .. | .collectiveComplete .. | .gatherWindowEnd | .recoveryComplete | .heldChunkHoldLimit .. =>
    [.contexts, .chip, .flint, .hosts, .regs, .devmem, .devFlips, .mems, .oports, .dies, .repair, .sent, .fresh]
  | .scrub .. =>
    [.resident, .residentComp, .contexts, .chip, .flint, .hosts, .regs, .mems, .oports, .edges, .dies, .sent, .fresh]
  | .flintWatchdogExpiry =>
    [.contexts, .chip, .flint, .hosts, .mgmt, .regs, .devmem, .devFlips, .mems, .oports, .dies, .repair, .sent, .fresh]
  | .bootFailure .. =>
    [.chip, .flint, .hosts, .mgmt, .flash, .cfg, .running, .regs, .mems, .oports, .edges, .dies, .repair, .sent, .fresh]
  | .brownOut .. | .thermalTrip | .faultReport .. =>
    [.contexts, .chip, .flint, .hosts, .mgmt, .regs, .devmem, .devFlips, .mems, .oports, .edges, .dies, .repair, .sent,
    .fresh]
  | .startStep .. =>
    [.contexts, .chip, .flint, .hosts, .regs, .devmem, .devFlips, .mems, .oports, .edges, .gangPairs, .dies, .repair,
    .sent, .fresh]
  | .bootReady .. =>
    [.chip, .flint, .hosts, .mgmt, .flash, .cfg, .running, .regs, .mems, .oports, .ochans, .lasers, .edges, .dies,
    .repair, .sent, .fresh]
  | .switchContextComplete .. =>
    [.resident, .residentComp, .contexts, .chip, .flint, .hosts, .regs, .devmem, .devFlips, .mems, .oports, .edges,
    .gangPairs, .dies, .repair, .sent, .fresh]
  | .partialResetComplete .. =>
    [.resident, .residentComp, .contexts, .chip, .flint, .hosts, .mgmt, .flash, .regs, .devmem, .devFlips, .mems,
    .oports, .lasers, .edges, .gangPairs, .dies, .repair, .sent, .fresh]
  | .supplyShutdown | .powerOn | .modPwrokFall | .modReset | .refclkLoss =>
    [.localTime, .epochOffset, .fabricValid, .fabric, .powered, .resident, .residentComp, .generations, .contexts,
    .chip, .flint, .hosts, .mgmt, .cfg, .running, .regs, .devmem, .devFlips, .mems, .oports, .ochans, .lasers, .edges,
    .gangPairs, .dies, .repair, .pins, .inputMv, .inputW]
  | .reset .. =>
    [.localTime, .epochOffset, .fabricValid, .fabric, .powered, .resident, .residentComp, .generations, .contexts,
    .chip, .flint, .hosts, .mgmt, .cfg, .running, .regs, .devmem, .devFlips, .mems, .oports, .ochans, .lasers, .edges,
    .gangPairs, .dies, .repair, .inputMv, .inputW, .sent, .fresh]
  | .updateActivate =>
    [.localTime, .epochOffset, .fabricValid, .fabric, .powered, .resident, .residentComp, .generations, .contexts,
    .chip, .flint, .hosts, .mgmt, .flash, .cfg, .running, .regs, .devmem, .devFlips, .mems, .oports, .ochans, .lasers,
    .edges, .gangPairs, .dies, .repair, .inputMv, .inputW, .sent]

/-! ## Mailbox commands -/

/-- The request page of a mailbox. -/
def State.requestOf (s : State) (m : Mbx) : Rec := (s.host m.port).request m.box

/-- The response page of a mailbox. -/
def State.replyOf (s : State) (m : Mbx) : Rec := (s.host m.port).pages.readN (0x2000 * m.box + 0x1000) 0x1000

/-- A mailbox Flint takes next, with this row's command in its page, that passes checks 1 to 4 of R366: its code is listed, its form
is right, no occupancy or ownership stands against it, and the device state is legal. -/
structure Accepted (s : State) (m : Mbx) (row : CmdRow) (form : Rec → Nat → Option Ans) : Prop where
  mailbox : m.wf = true
  first : s.flint.queue.head? = some m
  taking : s.flint.taking = true
  code : le (s.requestOf m) 0 2 = row.code
  checks : entryChecks s.dequeue row m.port (s.requestOf m) form = none

/-- A reply as a host reads it: the done bit set and the submitted bit clear, and in the response page the status, the reply's length,
the failing item and check, and the data (R357, Table 11.8). -/
structure Replied (t : State) (m : Mbx) (a : Ans) : Prop where
  done : (t.host m.port).done.getLsbD m.box = true
  idle : (t.host m.port).submitted.getLsbD m.box = false
  status : le (t.replyOf m) 2 1 = a.code
  length : le (t.replyOf m) 8 2 = a.data.length
  item : le (t.replyOf m) 12 2 = a.index % 65536
  check : le (t.replyOf m) 15 1 = a.check
  data : slice (t.replyOf m) 64 a.data.length = a.data

/-! ## Events -/

/-- The first event written after `s` stands in `t` in the slot the header of `s` names next, with this source, code, action and unit
(R446). -/
def Logged (s t : State) (src code action unit : Nat) : Prop :=
  ∃ e, Tab.find? t.flint.logRing (hdrNext s.flint.logHeader) = some e ∧ e.source = src ∧ e.code = code ∧ e.action = action ∧ e.unit = unit ∧
    e.number = s.flint.eventNumber

/-- The log header agrees with its complement. -/
def State.headerSound (s : State) : Prop := s.flint.logHeader = ~~~s.flint.logHeaderComp

/-! ## Power -/

/-- Die `d` has begun to enter Retain (R460, R461): each port that was up asks for dormancy, and with none up the die is in Retain, its
memory in self-refresh, the entry counted, and the device in RETAIN when it was the last. -/
def RetainEntered (s t : State) (d : Nat) : Prop :=
  if ((List.range 6).any fun i => (s.oport (6 * d + i)).state == 3) = true then
    (t.die d).pstate = 3 ∧ ∀ i < 6, (s.oport (6 * d + i)).state = 3 → (t.oport (6 * d + i)).dormantAsked = true
  else
    (t.die d).pstate = 2 ∧ (t.die d).lowMode = true ∧ (t.die d).clamped = true ∧ (t.die d).coreMv = 500 ∧ (t.die d).moverMv = 500 ∧
    (t.die d).arrayMv = 550 ∧ fieldOf (t.reg (.powerCount d)) 63 48 = min (fieldOf (s.reg (.powerCount d)) 63 48 + 1) 65535 ∧
    (∀ m, devDie m = d → (s.mem m).state = 2 → (t.mem m).state = 4) ∧
    ((∀ i < 4, i ≠ d → (s.die i).pstate = 2 ∨ (s.die i).retired = true) → s.flint.state = .ready ∨ s.flint.state = .loaded →
      t.flint.state = .retain ∧ t.flint.prior = s.flint.state)

/-! ## Cores -/

/-- Core `c` stands at the word `w`, which has this opcode and no error in its program store, and may issue it: the device runs, no switch
holds the context, and the core is held for one of `holds` only, 0 being no hold (R102, R103, R109). -/
structure MayIssue (s : State) (c op : Nat) (holds : List Nat) (w : Word64) : Prop where
  word : s.wordAt c = some w
  issuing : s.issuing c = true
  held : (s.core c).hold ∈ holds
  opcode : wOp w = op
  clean : (s.core c).progFlips.get ((s.core c).pc / 2) = 0

/-- Between `s` and `t` of what is on chip only core `c` changed; its die may have gone from Quiet to Active, or woken from Retain. -/
def CoreAlone (s t : State) (c : Nat) : Prop :=
  onlyTouches [.chip, .dies, .mems, .oports, .fresh, .flint, .hosts, .regs, .sent] s t ∧
  ((s.die (coreDie c)).pstate < 2 → onlyTouches [.chip, .dies, .fresh] s t) ∧
  t.chip = { s.chip with cores := t.chip.cores } ∧ ∀ j, j ≠ c → t.core j = s.core j

/-! ## Values -/

/-- The rational number an exact value stands for: num / den × 2^exp (R44). -/
def Exact.toRat (a : Exact) : Rat := ((a.num * Exact.up a.exp : Int) : Rat) / ((a.den * Exact.up (-a.exp) : Int) : Rat)

/-- 2^n for a positive or negative n. -/
def twoTo (n : Int) : Rat := (Exact.ofInt 1 n).toRat

/-! ## Ring -/

/-- Whether a reserved field of a control message (Table 8.7) is set. -/
def controlReserved (m : Rec) : Bool :=
  !zeroAt m 5 1 || bits (le m 6 2) 15 12 != 0 || bits (le m 8 2) 15 12 != 0 || !zeroAt m 10 2 || bits (le m 16 8) 61 15 != 0 || !zeroAt m 24 8

/-- A control message of this type on a receive port is for this chip, of the resident context with plan `pl` (R259, R268). -/
structure ControlFor (s : State) (m : Rec) (type : Nat) (pl : Plan) : Prop where
  tagged : ∃ c, s.tagged (le m 0 4) = some (c, pl) ∧ s.resident = c.id
  kind : bits (le m 4 1) 7 4 = type
  arrived : bits (le m 16 8) 63 62 = 0
  linked : pl.linked (bits (le m 4 1) 3 0) = true
  addressed : bits (le m 8 2) 11 0 = planePos (pl.plane (bits (le m 4 1) 3 0))
  reserved : controlReserved m = false
  sound : pl.planeSound (bits (le m 4 1) 3 0) = true

/-- A chunk on an up port is for this chip, of the context whose ring runs under plan `pl`, and nothing is parked before it
(R261, R268). -/
structure ChunkFor (s : State) (port : Nat) (h : Rec) (pl : Plan) : Prop where
  up : (s.oport port).state = 3
  tagged : ∃ c, s.tagged (le h 0 4) = some (c, pl) ∧ s.ringRuns c = true
  free : (s.oport port).parked = []
  live : s.replayMode ≠ 3
  whole : h.length = 48
  arrived : bits (le h 16 8) 63 62 = 0
  linked : pl.linked (bits (le h 6 1) 6 3) = true
  addressed : bits (le h 12 2) 11 0 = planePos (pl.plane (bits (le h 6 1) 6 3))
  sound : pl.planeSound (bits (le h 6 1) 6 3) = true

/-! ## Optical ports -/

/-- A flit codeword in order on an up port: data, the next counter, the CRC right and the form of Table 9.3 (R285, R290). -/
structure FlitSound (s : State) (p : Nat) (control : BitVec 20) (f : Rec) : Prop where
  up : (s.oport p).state = 3
  data : bits control.toNat 19 18 = 0
  counter : ∃ k, (s.oport p).rxCounter = some k ∧ bits control.toNat 15 0 = (k + 1) % 65536 ∧ bits control.toNat 15 0 % 256 ≠ 0
  crc : (crc64 (slice f 0 632)).toNat = le f 632 8
  form : flitForm f = true

/-! ## Mailbox commands by row -/

/-- The mailbox a mailbox command names, its row of Table 11.13, and the form of its arguments. -/
def mailboxOf : Instr → Option (Mbx × CmdRow × (Rec → Nat → Option Ans))
  | .queryState m => some (m, rowQueryState, formOf 0 [])
  | .queryCapability m => some (m, rowQueryCapability, formOf 0 [])
  | .readRegister m => some (m, rowReadRegister, regForm 500 8)
  | .writeRegister m => some (m, rowWriteRegister, regForm 250 16)
  | .setEpochOffset m => some (m, rowSetEpochOffset, formOf 8 [])
  | .setFabricAddress m => some (m, rowSetFabricAddress, fabricForm)
  | .claimOwnership m => some (m, rowClaimOwnership, formOf 0 [])
  | .releaseOwnership m => some (m, rowReleaseOwnership, formOf 0 [])
  | .acknowledgeHalt m => some (m, rowAcknowledgeHalt, formOf 0 [])
  | .readStrataLog m => some (m, rowReadStrataLog, logForm)
  | .reset m => some (m, rowReset, resetForm)
  | .createContext m => some (m, rowCreateContext, contextForm)
  | .destroyContext m => some (m, rowDestroyContext, formOf 0 [])
  | .switchContext m => some (m, rowSwitchContext, formOf 2 [])
  | .createRegion m => some (m, rowCreateRegion, regionForm)
  | .destroyRegion m => some (m, rowDestroyRegion, formOf 1 [])
  | .loadPlan m => some (m, rowLoadPlan, planForm)
  | .scrub m => some (m, rowScrub, formOf 0 [])
  | .openSession m => some (m, rowOpenSession, sessionForm)
  | .closeSession m => some (m, rowCloseSession, portForm)
  | .attest m => some (m, rowAttest, attestForm)
  | .startStep m => some (m, rowStartStep, stepForm)
  | .abortStep m => some (m, rowAbortStep, formOf 0 [])
  | .armStream m => some (m, rowArmStream, armForm)
  | .setIdleTimers m => some (m, rowSetIdleTimers, timerForm)
  | _ => none

end Sys2Proof.Machine
end

