-- ==== Sys2Proof/Certificates/Slice0/Obligations.lean ====
section
/-! DEFINITION. The statements for the provers: what each command of the block does, what it leaves as it was, and what every step
keeps. Each is a proposition; nothing here is proved. -/

open Sys2Proof Sys2Proof.Machine

/-! ## The whole machine -/

/-- A step takes the command at the front of the queue and is that command's effect on the state with the rest of the queue; with nothing waiting
and boot over, time passes: the local time counter advances while the clock runs and reset is released, and nothing else changes (R20). What is the model's own reading here: log 1. -/
def Obligations.StepRunsTheFrontCommand : Prop :=
  (∀ (s : State) (c : Instr) (rest : List Instr), s.pending = c :: rest → step s = exec c { s with pending := rest }) ∧
  (∀ (s : State), s.pending = [] → s.flint.state ≠ .booting → s.flint.tripWait = false → step s = .next
    (if s.powered = true ∧ s.pins.resetN = true ∧ s.pins.refclk = true ∧ s.localTime ≠ ~~~0 then { s with localTime := s.localTime + 1 } else s)) ∧
  ∀ (s : State), s.pending = [] → ∃ t, step s = .next t ∧ t.pending = []

/-- Every command completes, and changes no part of the state but those `touches` lists for it; the queue of waiting commands is among no command's
parts (R9 and the rule of each command). -/
def Obligations.CommandsTouchOnlyTheirParts : Prop :=
  ∀ (c : Instr) (s : State), Part.pending ∉ touches c ∧ ∃ t, exec c s = .next t ∧ onlyTouches (touches c) s t

/-- Every step, whatever command it runs and from every state, keeps the invariants: device memory in its canonical form, so that equal memories are
equal data, and the resident context's id beside its complement. -/
def Obligations.StepKeepsTheInvariants : Prop :=
  ∀ s t : State, s.devmem.wf = true ∧ s.residentComp = ~~~s.resident → step s = .next t → t.devmem.wf = true ∧ t.residentComp = ~~~t.resident

/-- At reset the invariants of `StepKeepsTheInvariants` hold, the device is BOOTING with progress 0x00 and no context, no owner, no fabric address, local time 0 and every
register of the host ports, streams, planes, ports and dies 0 where its table gives 0. -/
def Obligations.ResetHoldsTheInvariants : Prop :=
  State.reset.devmem.wf = true ∧ State.reset.residentComp = ~~~State.reset.resident ∧ State.reset.headerSound ∧ State.reset.flint.state = .booting ∧
  State.reset.flint.progress = 0 ∧ State.reset.resident = 0 ∧ State.reset.contexts = [] ∧ State.reset.flint.owner = none ∧
  State.reset.fabricValid = false ∧ State.reset.localTime = 0 ∧ State.reset.epochOffset = 0 ∧ State.reset.pending = [] ∧ State.reset.chip.step = none ∧
  (∀ p < 2, (State.reset.host p).submitted = 0 ∧ (State.reset.host p).done = 0 ∧ State.reset.reg (.intCause p) = 0 ∧ State.reset.reg (.intEnable p) = 0 ∧
    State.reset.reg (.hostViolation p) = 0) ∧
  (∀ id, State.reset.reg (.streamStatus id) = 0) ∧ (∀ q, State.reset.reg (.ringStatus q) = 0 ∧ State.reset.reg (.ringCount q) = 0) ∧
  (∀ p, State.reset.reg (.portStatus p) = 0 ∧ State.reset.reg (.portCount p) = 0) ∧ ∀ d, State.reset.reg (.faultSummary d) = 0

/-- A mailbox command that check 1 to 4 of R366 refuses is answered with the reply of the first check that fails and has no side effect: only the answer
is written and the command taken. One that is not first in Flint's order, or while Flint takes none, is not taken. -/
def Obligations.RefusedCommandsHaveNoEffect : Prop :=
  (∀ (c : Instr) (s : State) (m : Mbx) (row : CmdRow) (form : Rec → Nat → Option Ans), mailboxOf c = some (m, row, form) →
    (s.flint.queue.head? ≠ some m ∨ s.flint.taking = false → exec c s = .next s) ∧
    (s.flint.queue.head? = some m → s.flint.taking = true → let code := le (s.requestOf m) 0 2
      ∃ t, exec c s = .next t ∧
      (code ∉ listedCodes → t = s.dequeue.respond m (.refuse 8) false) ∧
      (code ∈ listedCodes → code ≠ row.code → t = s) ∧
      (∀ a, code = row.code → entryChecks s.dequeue row m.port (s.requestOf m) form = some a → t = s.dequeue.respond m a false ∧
        (a.code ≠ 0 → t.flint = { s.flint with queue := s.flint.queue.drop 1 }) ∧ onlyTouches [.flint, .hosts, .sent] s t ∧
        ∀ p, p ≠ m.port → t.host p = s.host p))) ∧
  (∀ (s : State) (row : CmdRow) (p : Nat) (req : Rec) (form : Rec → Nat → Option Ans), let n := le req 10 2
    let busyState := s.flint.state = .booting ∨ s.flint.state = .scrubbing
    (zeroAt req 2 2 = false ∨ zeroAt req 12 52 = false ∨ row.namesContext = false ∧ zeroAt req 8 2 = false ∨ 4032 < n →
      entryChecks s row p req form = some (.refuse 3)) ∧
    (zeroAt req 2 2 = true → zeroAt req 12 52 = true → row.namesContext = true ∨ zeroAt req 8 2 = true → n ≤ 4032 →
      (∀ a, form (slice req 64 n) n = some a → entryChecks s row p req form = some a) ∧
      (form (slice req 64 n) n = none → row.code ≠ 1 →
        (busyState → entryChecks s row p req form = some (.refuse 1)) ∧
        (¬busyState → row.ownerOnly = true → s.flint.owner ≠ some p → entryChecks s row p req form = some (.refuse 4)) ∧
        (¬busyState → row.ownerOnly = false ∨ s.flint.owner = some p → s.flint.background = none →
          entryChecks s row p req form = if s.flint.view ∈ row.legal then none else some (.refuse 2)))))

/-! ## Mailbox commands on the device -/

/-- QUERY_STATE, QUERY_CAPABILITY and READ_STRATA_LOG run on every state in which Flint accepts them, each with every argument its form
admits, and change no state but the answer's; a log whose header does not agree with its complement is rebuilt first, and else READ_STRATA_LOG
changes nothing of the log (Table 13.3). The 32 bytes of QUERY_STATE hold the device status register of the asking
port (Table 11.4), the local time, the epoch offset, the fabric address and the milliseconds left in the lease (R368); the reply of
QUERY_CAPABILITY holds the fields of Table 13.12a (R444); READ_STRATA_LOG gives a header and the asked events of the live ring or of a cut
slot, 32 zero bytes for an empty slot, and BAD_ARGUMENT for an index at or beyond the valid count (R450, R507). What is the model's own reading here: log 25. -/
def Obligations.QueriesReplyWithWhatTheyReport : Prop :=
  (∀ (s : State) (m : Mbx), Accepted s m rowQueryState (formOf 0 []) → ∃ t r, exec (.queryState m) s = .next t ∧ Replied t m (.ok r) ∧
    let w := BitVec.ofNat 64 (le r 0 8)
    onlyTouches [.flint, .hosts, .sent] s t ∧ r.length = 32 ∧ w = s.readReg (.deviceStatus m.port) ∧
    (fieldOf w 55 48 = s.flint.progress % 256 ∧ fieldOf w 47 44 = s.flint.haltedReason % 16 ∧ fieldOf w 39 24 = s.resident.toNat ∧
      w.getLsbD 23 = s.reduced ∧ w.getLsbD 22 = s.flint.owner.isSome ∧ w.getLsbD 21 = decide (s.flint.owner = some m.port) ∧
      w.getLsbD 20 = s.flint.leaseExpired ∧ fieldOf w 19 19 = m.port ∧
      fieldOf w 18 16 = (if s.flint.state = .retain then s.flint.prior.code else 0) ∧ fieldOf w 2 0 = s.flint.state.code) ∧
    le r 8 8 = s.localTime.toNat ∧ le r 16 8 = s.epochOffset.toNat ∧ bits (le r 24 4) 31 31 = s.fabricValid.toNat ∧
    bits (le r 24 4) 30 17 = 0 ∧ bits (le r 24 4) 16 0 = (if s.fabricValid then s.fabric.toNat else 0) ∧
    le r 28 4 = (if s.flint.owner = none ∨ s.flint.leaseExpired = true then 0
      else (s.flint.leaseStart.toNat + s.cfg.leaseS * 1000000000 - s.localTime.toNat) / 1000000 % 2 ^ 32)) ∧
  (∀ (s : State) (m : Mbx), Accepted s m rowQueryCapability (formOf 0 []) → ∃ t r, exec (.queryCapability m) s = .next t ∧ Replied t m (.ok r) ∧
    onlyTouches [.flint, .hosts, .sent] s t ∧ r.length = 64 + 2 * le r 22 2 ∧ le r 0 1 = s.reduced.toNat ∧ zeroAt r 1 3 = true ∧ zeroAt r 54 10 = true ∧
    (s.repair.retiredCores ≠ [] ∨ s.repair.retiredEngines ≠ [] ∨ s.repair.retiredPorts ≠ [] ∨ (∃ n, (s.mem n).failed ≠ none) ∨
      (∃ d e g, Tab.get 0 (s.edge d e).groups g ≠ 0) → le r 0 1 = 1) ∧
    (∀ n < 96, (BitVec.ofNat 96 (le r 4 12)).getLsbD n = s.repair.retiredCores.contains n) ∧ (∀ d < 4, le r (16 + d) 1 = s.freeCoreSites d) ∧
    le r 20 2 = s.freeEngineSites ∧ (∀ p < 24, (BitVec.ofNat 32 (le r 24 4)).getLsbD p = s.repair.retiredPorts.contains p) ∧
    (∀ n < 32, (BitVec.ofNat 32 (le r 28 4)).getLsbD n = (decide (n < 24) && (s.mem n).failed.isSome)) ∧
    (∀ n < 12, le r (32 + n) 1 = s.edgeState n) ∧ (∀ o < 8, le r (44 + o) 1 = ((List.range 16).filter fun n => (s.laser o n).spare == 0).length) ∧
    (∀ x ∈ s.repair.linesUsed, le r 52 2 ≤ 16 - x.2) ∧ (le r 52 2 = 16 ∨ ∃ x ∈ s.repair.linesUsed, le r 52 2 = 16 - x.2) ∧
    ∀ c < 96, ∀ e < 12, s.repair.retiredEngines.contains (c, e) = true ↔ ∃ x < le r 22 2, le r (64 + 2 * x) 2 = 16 * c + e) ∧
  (∀ (s : State) (m : Mbx), Accepted s m rowReadStrataLog logForm →
    let src := le (s.requestOf m) 64 1
    let first := le (s.requestOf m) 66 2
    let asked := fun (es : List Event) => ((es.drop first).take (le (s.requestOf m) 68 2)).flatMap Event.bytes
    let u := s.dequeue.soundLog
    ∃ t, exec (.readStrataLog m) s = .next t ∧ onlyTouches [.flint, .hosts, .sent] u t ∧ t.flint.logRing = u.flint.logRing ∧
      t.flint.logHeader = u.flint.logHeader ∧ t.flint.logHeader = ~~~t.flint.logHeaderComp ∧ (s.headerSound → u = s.dequeue) ∧
      (src = 0 → first < u.flint.eventsOldest.length →
        Replied t m (.ok (toLe 16 u.flint.logHeader.toNat ++ zeros 16 ++ asked u.flint.eventsOldest))) ∧
      (src = 0 → u.flint.eventsOldest.length ≤ first → Replied t m (.refuse 3)) ∧
      (src ≠ 0 → s.flash.cuts[src - 1]? = none → Replied t m (.ok (zeros 32))) ∧
      (∀ k, src ≠ 0 → s.flash.cuts[src - 1]? = some k →
        (k.events.length ≤ first → Replied t m (.refuse 3)) ∧
        (first < k.events.length → ∃ h, Replied t m (.ok (h ++ asked k.events)) ∧ h.length = 32 ∧
          le h 0 2 = k.events.length % 4096 ∧ le h 2 2 = k.events.length % 65536 ∧
          (∀ e es, k.events = e :: es → le h 4 4 = e.number % 2 ^ 32) ∧ le h 8 4 = le k.header 20 4 ∧ le h 12 4 = le k.header 16 4 ∧
          slice h 16 16 = slice k.header 0 16)))

/-- READ_REGISTER answers with the registers' values in name order, each read with its access effects, and WRITE_REGISTER applies its pairs in
order; both run on every state in which Flint accepts them. Of one name whose die is awake: the reply is the register as it reads, its RC fields
are cleared and nothing else of the registers changes; of a name given twice, the second value is the first with the RC fields 0; of an offset
its block does not list, the reply is 0 and no register changes. Of one pair: the RW fields take the value, the W1C fields clear where it has a 1,
the other fields and every other register stay, and a write to an offset not listed changes no register (R9, R369). What is the model's own reading here: log 24. -/
def Obligations.RegisterCommandsRunInOrder : Prop :=
  (∀ (s : State) (m : Mbx), Accepted s m rowReadRegister (regForm 500 8) → ∃ t, exec (.readRegister m) s = .next t ∧
    let names := (List.range (le (s.requestOf m) 64 2)).map fun i => le (s.requestOf m) (72 + 8 * i) 8
    let cleared := fun (r : Reg) (i : Nat) => (regRc r).any (fun f => decide (f.2 ≤ i) && decide (i ≤ f.1))
    Replied t m (.ok (s.dequeue.readNames names).1) ∧ t.regs = (s.dequeue.readNames names).2.regs ∧
    (∀ n r, names = [n] → (s.die (nameDie n)).pstate < 2 → s.regNamed n = some (some r) →
      Replied t m (.ok (toLe 8 (s.readReg r).toNat)) ∧ (∀ q, q ≠ r → t.reg q = s.reg q) ∧
      ∀ i < 64, (t.reg r).getLsbD i = ((s.reg r).getLsbD i && !cleared r i)) ∧
    (∀ n r, names = [n, n] → (s.die (nameDie n)).pstate < 2 → s.regNamed n = some (some r) → ∃ v : Word64,
      Replied t m (.ok (toLe 8 (s.readReg r).toNat ++ toLe 8 v.toNat)) ∧ ∀ i < 64, v.getLsbD i = ((s.readReg r).getLsbD i && !cleared r i)) ∧
    (∀ n, names = [n] → (s.die (nameDie n)).pstate < 2 → s.regNamed n = some none → Replied t m (.ok (zeros 8)) ∧ t.regs = s.regs)) ∧
  (∀ (s : State) (m : Mbx), Accepted s m rowWriteRegister (regForm 250 16) → ∃ t, exec (.writeRegister m) s = .next t ∧
    Replied t m (.ok []) ∧
    t.regs = ((List.range (le (s.requestOf m) 64 2)).foldl (fun s' i =>
      s'.writeNamed (le (s.requestOf m) (72 + 16 * i) 8) (BitVec.ofNat 64 (le (s.requestOf m) (80 + 16 * i) 8))) s.dequeue).regs ∧
    let n := le (s.requestOf m) 72 8
    let v : Word64 := BitVec.ofNat 64 (le (s.requestOf m) 80 8)
    (le (s.requestOf m) 64 2 = 1 → (s.die (nameDie n)).pstate < 2 →
      (s.regNamed n = some none → t.regs = s.regs) ∧
      ∀ r, s.regNamed n = some (some r) → (∀ q, q ≠ r → t.reg q = s.reg q) ∧ ∀ i < 64, (t.reg r).getLsbD i =
        if (regRw r).any (fun f => decide (f.2 ≤ i) && decide (i ≤ f.1)) then v.getLsbD i
        else (s.reg r).getLsbD i && !((regW1c r).any (fun f => decide (f.2 ≤ i) && decide (i ≤ f.1)) && v.getLsbD i)))

/-- SET_EPOCH_OFFSET answers with the time its old offset gives and then holds the new one; SET_FABRIC_ADDRESS sets or clears the
address. Both run on every state in which Flint accepts them.
ACKNOWLEDGE_HALT takes a halted device that no condition of R366 holds to READY with no context resident and no reason; while one
holds it is answered BUSY. SET_IDLE_TIMERS gives the named dies the new timers and no other die. What is the model's own reading here: log 23. -/
def Obligations.HostSettingsAreTaken : Prop :=
  ((∀ (s : State) (m : Mbx), Accepted s m rowSetEpochOffset (formOf 8 []) → ∃ t, exec (.setEpochOffset m) s = .next t ∧
    Replied t m (.ok []) ∧ le (t.replyOf m) 16 8 = (s.localTime + s.epochOffset).toNat ∧
    t.epochOffset = BitVec.ofNat 64 (le (s.requestOf m) 64 8) ∧ t.localTime = s.localTime) ∧
  (∀ (s : State) (m : Mbx), Accepted s m rowSetFabricAddress fabricForm → ∃ t, exec (.setFabricAddress m) s = .next t ∧
    t.fabricValid = (BitVec.ofNat 32 (le (s.requestOf m) 64 4)).getLsbD 31 ∧
    t.fabric = if t.fabricValid then BitVec.ofNat 17 (le (s.requestOf m) 64 4) else 0)) ∧
  ((∀ (s : State) (m : Mbx), Accepted s m rowAcknowledgeHalt (formOf 0 []) → ∃ t, exec (.acknowledgeHalt m) s = .next t ∧
    if s.flint.haltedReason = 5 ∨ s.flint.reinit ≠ [] ∨ (s.flint.tripped = true ∧ s.hot = true) then
      Replied t m (.refuse 1) ∧ t.flint.state = s.flint.state ∧ t.resident = s.resident ∧ t.contexts = s.contexts
    else Replied t m (.ok []) ∧ t.flint.state = .ready ∧ t.flint.haltedReason = 0 ∧ t.resident = 0 ∧ t.tripN = true) ∧
  (∀ (s : State) (m : Mbx), Accepted s m rowSetIdleTimers timerForm → ∃ t, exec (.setIdleTimers m) s = .next t ∧
    Replied t m (.ok []) ∧ ∀ d < 4,
      let q := le (s.requestOf m) 64 4
      if (BitVec.ofNat 8 (le (s.requestOf m) 72 1)).getLsbD d then
        t.die d = { s.die d with quietUs := q, retainUs := if q = 0xFFFFFFFF then 0xFFFFFFFF else le (s.requestOf m) 68 4 }
      else t.die d = s.die d))

/-- CLAIM_OWNERSHIP is granted exactly when no port owns the device, the asking port does, or the owner's lease has expired; else it
is refused with the owner's port. RELEASE_OWNERSHIP leaves no owner. No port owns the device at reset. -/
def Obligations.OwnershipIsClaimedAndReleased : Prop :=
  (∀ (s : State) (m : Mbx), Accepted s m rowClaimOwnership (formOf 0 []) → ∃ t, exec (.claimOwnership m) s = .next t ∧
    if s.flint.owner = none ∨ s.flint.owner = some m.port ∨ s.flint.leaseExpired = true then
      Replied t m (.ok []) ∧ t.flint.owner = some m.port
    else t.flint.owner = s.flint.owner ∧
      ∀ o, s.flint.owner = some o → Replied t m { code := 4, check := 0, index := 0, data := [BitVec.ofNat 8 o] }) ∧
  (∀ (s : State) (m : Mbx), Accepted s m rowReleaseOwnership (formOf 0 []) → ∃ t, exec (.releaseOwnership m) s = .next t ∧
    Replied t m (.ok []) ∧ t.flint.owner = none) ∧
  State.reset.flint.owner = none

/-! ## Contexts, regions, sessions -/

/-- CREATE_CONTEXT takes the lowest slot that is free with its counter below 4,095, raises the counter and answers slot × 4,096 +
counter; the new context is saved, has no plan and an initial save area; with no such slot it is answered RESOURCE_EXHAUSTED, check 4.
DESTROY_CONTEXT frees the slot, leaves every byte of device memory, and takes a LOADED device whose resident context it was to READY.
CREATE_REGION takes the lowest free entry of the named context, its zero cursor at its base; DESTROY_REGION clears the entry at once
and leaves the pages' bytes; REGION_ZEROING_COMPLETE stands the cursor at the region's end, and every device byte the region reaches
then reads 0 while the others are as before. What is the model's own reading here: log 28, 85. -/
def Obligations.ContextsAndRegionsAreMadeAndCleared : Prop :=
  ((∀ (s : State) (m : Mbx), Accepted s m rowCreateContext contextForm → s.rangeRefused (le (s.requestOf m) 64 8) saveBytes = none →
    ∃ t, exec (.createContext m) s = .next t ∧
      (∀ i < 16, Tab.find? s.contexts i = none → Tab.get 0 s.generations i < 4095 →
        (∀ j < i, Tab.find? s.contexts j ≠ none ∨ 4095 ≤ Tab.get 0 s.generations j) →
        let g := Tab.get 0 s.generations i + 1
        Replied t m (.ok (toLe 2 (i * 4096 + g))) ∧ Tab.get 0 t.generations i = g ∧
        Tab.find? t.contexts i = some {
          id := BitVec.ofNat 16 (i * 4096 + g), confidential := (BitVec.ofNat 8 (le (s.requestOf m) 72 1)).getLsbD 0,
          saveBase := le (s.requestOf m) 64 8, initial := true, plan := none, regions := [], scale := [], digests := [], slots := [],
          completed := 0, epoch := false, sessions := [], saved := none } ∧
        ∀ j, j ≠ i → Tab.find? t.contexts j = Tab.find? s.contexts j ∧ Tab.get 0 t.generations j = Tab.get 0 s.generations j) ∧
      ((∀ i < 16, Tab.find? s.contexts i ≠ none ∨ 4095 ≤ Tab.get 0 s.generations i) →
        Replied t m (.failing 6 4 0) ∧ t.contexts = s.contexts ∧ t.generations = s.generations)) ∧
  (∀ (s : State) (m : Mbx) (c : Context), Accepted s m rowDestroyContext (formOf 0 []) → s.context? (le (s.requestOf m) 8 2) = some c →
    ∃ t, exec (.destroyContext m) s = .next t ∧ Replied t m (.ok []) ∧ Tab.find? t.contexts (c.id.toNat / 4096) = none ∧
      (∀ j, j ≠ c.id.toNat / 4096 → Tab.find? t.contexts j = Tab.find? s.contexts j) ∧ t.devmem = s.devmem ∧
      (s.resident = c.id → t.resident = 0 ∧ t.flint.state = .ready) ∧ (s.resident.toNat / 4096 ≠ c.id.toNat / 4096 → t.resident = s.resident))) ∧
  ((∀ (s : State) (m : Mbx) (c : Context) (i : Nat), Accepted s m rowCreateRegion regionForm → s.context? (le (s.requestOf m) 8 2) = some c →
    s.rangeRefused (le (s.requestOf m) 64 8) (le (s.requestOf m) 72 8) = none → i < 64 → Tab.find? c.regions i = none →
    (∀ j < i, Tab.find? c.regions j ≠ none) →
    ∃ t c' r, exec (.createRegion m) s = .next t ∧ Replied t m (.ok [BitVec.ofNat 8 i]) ∧ Tab.find? t.contexts (c.id.toNat / 4096) = some c' ∧
      Tab.find? c'.regions i = some r ∧ (∀ j, j ≠ i → Tab.find? c'.regions j = Tab.find? c.regions j) ∧
      r.base = le (s.requestOf m) 64 8 ∧ r.size = le (s.requestOf m) 72 8 ∧ r.cursor = r.base ∧ r.sound = true ∧
      r.readable = (BitVec.ofNat 8 (le (s.requestOf m) 80 1)).getLsbD 0 ∧ r.writable = (BitVec.ofNat 8 (le (s.requestOf m) 80 1)).getLsbD 1) ∧
  (∀ (s : State) (m : Mbx) (c : Context), Accepted s m rowDestroyRegion (formOf 1 []) → s.context? (le (s.requestOf m) 8 2) = some c →
    ∃ t, exec (.destroyRegion m) s = .next t ∧ t.devmem = s.devmem ∧
      if Tab.find? c.regions (le (s.requestOf m) 64 1) = none then Replied t m (.refuse 3) ∧ t.contexts = s.contexts
      else Replied t m (.ok []) ∧ ∃ c', Tab.find? t.contexts (c.id.toNat / 4096) = some c' ∧
        Tab.find? c'.regions (le (s.requestOf m) 64 1) = none ∧
        ∀ j, j ≠ le (s.requestOf m) 64 1 → Tab.find? c'.regions j = Tab.find? c.regions j) ∧
  (∀ (s : State) (slot index : Nat) (c : Context) (r : Region), Tab.find? s.contexts slot = some c → c.id.toNat / 4096 = slot →
    Tab.find? c.regions index = some r → r.zeroing = true →
    ∃ t c', exec (.regionZeroingComplete slot index) s = .next t ∧ Tab.find? t.contexts slot = some c' ∧
      Tab.find? c'.regions index = some ({ r with cursor := r.base + r.size } : Region).sealed ∧
      (∀ j, j ≠ index → Tab.find? c'.regions j = Tab.find? c.regions j) ∧
      ∀ k, t.devmem.read k = if r.has (keyAddrs k).1 ∨ r.has (keyAddrs k).2 then 0 else s.devmem.read k))

/-- SWITCH_CONTEXT to another context whose save area can be reached starts in the background and changes neither the resident context
nor what is on chip; to the resident one it is answered OK with no effect. SWITCH_CONTEXT_COMPLETE, once every stream stands at a
transfer boundary, every in-flight set is empty and no fill task is part-way, names the target resident beside its complement and answers,
where no scratchpad word is uncorrectable.
A context saved and made resident again has on chip what the save wrote, whatever its identifier: scratchpads, index registers, token
counts, planes and stream positions and status registers as they were, the program and function table stores loaded again without errors; its
area is no longer initial. The scratchpads stand in the save area's image meanwhile, and come back from it byte by byte where all of it is
mapped (R99, R109, R396, R397). What is the model's own reading here: log 12, 30. -/
def Obligations.ContextsSwitchAndComeBack : Prop :=
  ((∀ (s : State) (m : Mbx), Accepted s m rowSwitchContext (formOf 2 []) → s.residentComp = ~~~s.resident →
    let id := le (s.requestOf m) 64 2
    ∃ t, exec (.switchContext m) s = .next t ∧ t.resident = s.resident ∧ t.chip = s.chip ∧ t.contexts = s.contexts ∧
      (id = s.resident.toNat → Replied t m (.ok []) ∧ t.flint.background = s.flint.background) ∧
      (id ≠ s.resident.toNat → id = 0 ∨ (∃ c, s.context? id = some c ∧ s.reachable c.saveBase = true) →
        t.flint.background = some { Background.begin .switch m with target := BitVec.ofNat 16 id })) ∧
  (∀ (s : State) (b : Background), s.flint.background = some b → b.kind = .switch → b.discarded = false → b.mbx.wf = true →
    s.settled = true → s.readScratch.1 = false → (∃ c, s.residentCtx = some c ∧ s.reachable c.saveBase = true) → b.target = 0 ∨ (∃ c, s.context? b.target.toNat = some c) →
    b.target ≠ s.resident → ((s.saveOut false).2.readIncoming b.target.toNat).1 = false →
    ∃ t, exec (.switchContextComplete false false) s = .next t ∧ t.resident = b.target ∧ t.residentComp = ~~~b.target ∧
      Replied t b.mbx (.ok []))) ∧
  (∀ (s : State) (c : Context), s.residentCtx = some c → s.reachable c.saveBase = true → s.readScratch.1 = false →
    let back := (s.saveOut false).2.restoreIn c.id.toNat
    back.chip = { s.readScratch.2.saveImage.reloadStores with scratch := back.chip.scratch } ∧ back.resident = c.id ∧
      back.residentCtx = some { c with initial := false, saved := none, status := [] } ∧
      (∀ k, back.core k = { s.readScratch.2.core k with progFlips := [], tableFlips := [] }) ∧
      (∀ id, (back.stream id).head = (s.stream id).head ∧ (back.stream id).armed = (s.stream id).armed ∧
        (back.stream id).completed = (s.stream id).completed ∧ (back.stream id).faulted = (s.stream id).faulted ∧
        back.reg (.streamStatus id) = s.reg (.streamStatus id)) ∧
      ((∀ i < scratchImage, (s.keyOf (c.saveBase + i)).isSome = true) → ∀ i < scratchImage,
        back.chip.scratch.read i = s.readScratch.2.chip.scratch.read i ∧
        (s.chip.scratchFlips = [] → back.chip.scratch.read i = s.chip.scratch.read i)))

/-- SCRUB destroys every context and enters SCRUBBING; SCRUB_COMPLETE returns to READY, sets the memory-clean mark, leaves every word of
every device that has not failed reading 0, and answers with the devices scrubbed and the number that were not; a scrub that a fatal fault has
halted is answered REFUSED_STATE, and the mark stays as it was. What is the model's own reading here: log 28 and log 180. -/
def Obligations.ScrubDestroysContextsAndZeroesMemory : Prop :=
  (∀ (s : State) (m : Mbx), Accepted s m rowScrub (formOf 0 []) → ∃ t, exec (.scrub m) s = .next t ∧ t.contexts = [] ∧ t.resident = 0 ∧
    t.flint.state = .scrubbing ∧ t.flint.background = some (Background.begin .scrub m)) ∧
  (∀ (s : State) (b : Background), s.flint.background = some b → b.kind = .scrub → b.discarded = false → b.mbx.wf = true →
    s.flint.state = .scrubbing → ∃ t, exec .scrubComplete s = .next t ∧ t.flint.state = .ready ∧ t.flint.memoryClean = true ∧
      (∀ k, (s.mem (k / 2 ^ 36)).failed = none → t.devmem.read k = 0) ∧
      Replied t b.mbx (.ok (toLe 3 (bitsOf s.present) ++ [BitVec.ofNat 8 (24 - s.present.length)]))) ∧
  (∀ (s : State) (b : Background), s.flint.background = some b → b.kind = .scrub → b.discarded = false → b.mbx.wf = true →
    s.flint.state = .halted → ∃ t, exec .scrubComplete s = .next t ∧ t.flint.state = .halted ∧ t.flint.background = none ∧
      t.flint.memoryClean = s.flint.memoryClean ∧ t.devmem = s.devmem ∧ Replied t b.mbx (.refuse 2))

/-- OPEN_SESSION on a confidential context refuses a key that is not one, and else replies with 3,540 bytes and gives the port the two keys of R401; CLOSE_SESSION erases the
port's keys and leaves the other port's.
ATTEST of the nonce and context of the port's stored report answers from it; else it takes its snapshot and forms a new one.
ATTEST_COMPLETE with no field changed since signs the snapshot, stores the report for the port and answers from the asked offset. What is the model's own reading here: log 33. -/
def Obligations.SessionsAndReportsAreMade : Prop :=
  ((∀ (s : State) (m : Mbx) (c : Context),
    Accepted s m rowOpenSession (fun a n => if n ≠ 1248 ∨ le a 0 1 > 1 ∨ !zeroAt a 1 31 then some (.refuse 3) else none) →
    s.context? (le (s.requestOf m) 8 2) = some c → c.confidential = true →
    let port := le (s.requestOf m) 64 1
    let nonces := slice (s.requestOf m) 96 32 ++ slice (Config.freeBytes s.fresh) 0 32
    let e := Config.mlKemEncaps (slice (s.requestOf m) 128 1184) (slice (Config.freeBytes (s.fresh + 1)) 0 32)
    let key := fun (dir : String) => hkdf32 (slice e.2 0 32) nonces (ascii dir ++ toLe 2 c.id.toNat ++ [BitVec.ofNat 8 port])
    ∃ t, exec (.openSession m) s = .next t ∧
      (Config.mlKemKeyOk (slice (s.requestOf m) 128 1184) = false → Replied t m (.refuse 3) ∧ t.contexts = s.contexts) ∧
      (Config.mlKemKeyOk (slice (s.requestOf m) 128 1184) = true → ∃ c' sig,
        Replied t m (.ok (slice (Config.freeBytes s.fresh) 0 32 ++ slice e.1 0 1088 ++ sig)) ∧ sig.length = 2420 ∧
        Tab.find? t.contexts (c.id.toNat / 4096) = some c' ∧
        Tab.find? c'.sessions port = some { h2d := key "h2d", d2h := key "d2h", planCounter := 0 } ∧
        ∀ q, q ≠ port → Tab.find? c'.sessions q = Tab.find? c.sessions q)) ∧
  (∀ (s : State) (m : Mbx) (c : Context), Accepted s m rowCloseSession portForm → s.context? (le (s.requestOf m) 8 2) = some c →
    ∃ t c', exec (.closeSession m) s = .next t ∧ Replied t m (.ok []) ∧ Tab.find? t.contexts (c.id.toNat / 4096) = some c' ∧
      Tab.find? c'.sessions (le (s.requestOf m) 64 1) = none ∧
      ∀ q, q ≠ le (s.requestOf m) 64 1 → Tab.find? c'.sessions q = Tab.find? c.sessions q)) ∧
  ((∀ (s : State) (m : Mbx), Accepted s m rowAttest attestForm →
    let ctx := le (s.requestOf m) 8 2
    let nonce := slice (s.requestOf m) 64 32
    let off := le (s.requestOf m) 96 4
    (ctx = 0 ∨ (s.context? ctx).isSome = true) →
    ∃ t, exec (.attest m) s = .next t ∧
      (∀ r, (s.host m.port).report = some (BitVec.ofNat 16 ctx, nonce, r) → Replied t m (attestReply r off)) ∧
      ((∀ c n r, (s.host m.port).report = some (c, n, r) → c.toNat ≠ ctx ∨ n ≠ nonce) →
        t.flint.background = some { Background.begin .attest m with
          target := BitVec.ofNat 16 ctx, nonce := nonce, offset := off, snapshot := s.reportBody ctx nonce s.logTime })) ∧
  (∀ (s : State) (b : Background), s.flint.background = some b → b.kind = .attest → b.discarded = false → b.mbx.wf = true →
    b.snapshot = s.reportBody b.target.toNat b.nonce (BitVec.ofNat 64 (le b.snapshot 48 8)) → b.offset < (s.signReport b.snapshot).length →
    ∃ t, exec .attestComplete s = .next t ∧ Replied t b.mbx (attestReply (s.signReport b.snapshot) b.offset) ∧
      (t.host b.mbx.port).report = some (b.target, b.nonce, s.signReport b.snapshot) ∧ t.flint.background = none))

/-! ## Plans and steps -/

/-- LOAD_PLAN naming the resident context starts in the background and changes no context; LOAD_PLAN_COMPLETE on an image that has arrived
from the host puts a plan that passes the checks in effect, answers with its digest and leaves the device LOADED, once no ring image of it
stands in pages being zeroed (R391), which holds it; a plan that does not pass leaves every context as it was. -/
def Obligations.PlansAreLoadedOrLeftOut : Prop :=
  (∀ (s : State) (m : Mbx) (c : Context), Accepted s m rowLoadPlan planForm → s.residentCtx = some c → le (s.requestOf m) 8 2 = c.id.toNat →
    (le (s.requestOf m) 10 2 = 24 ∧ (BitVec.ofNat 8 (le (s.requestOf m) 80 1)).getLsbD 0 = true) ∨
      s.imageFault c (le (s.requestOf m) 64 8) (le (s.requestOf m) 72 8) = none →
    ∃ t b, exec (.loadPlan m) s = .next t ∧ t.contexts = s.contexts ∧ t.chip = s.chip ∧ t.flint.background = some b ∧ b.kind = .loadPlan ∧
      b.mbx = m ∧ b.addr = le (s.requestOf m) 64 8 ∧ b.len = le (s.requestOf m) 72 8) ∧
  (∀ (s : State) (b : Background) (c : Context), s.flint.background = some b → b.kind = .loadPlan → b.host = true → b.len ≤ b.image.length →
    b.discarded = false → b.mbx.wf = true → s.residentCtx = some c →
    ∃ t, exec .loadPlanComplete s = .next t ∧
      (∀ p, s.judge c b.image = .ok p → (s.ringsHeld c p = true → t = s) ∧ (s.ringsHeld c p = false → t.flint.background = none ∧
        Replied t b.mbx (.ok (slice p.digest 0 32)) ∧ t.flint.state = .loaded ∧ t.plan? = some p)) ∧
      (∀ x, s.judge c b.image = .error x → t.flint.background = none ∧ t.contexts = s.contexts ∧ t.chip = s.chip))

/-- START_STEP whose checks pass and whose accesses of stage 4 can be made is answered OK and leaves the device RUNNING with the step's
record and seeds in force, the last tag kept, and every core that has a program at instruction 0 with its index registers 0 and its
token queues at their initial counts (stated where no chunk of the step's epoch is held, which would take effect at once). What is the model's own reading here: log 54. -/
def Obligations.StepStartsWhenItsChecksPass : Prop :=
  ∀ (s s0 s1 s2 s3 : State) (m : Mbx) (c : Context) (p : Plan) (ref : Option Rec) (d : Rec),
    let r := slice (s.requestOf m) 64 384
    let run : StepRun := {
      record := keptRecord r ref, seeds := stepSeeds r ref, samples := slice r 128 256,
      table := match ref with | some h => slice h 512 4096 | none => c.scaleBytes,
      inputDigest := d, startTime := s2.localTime, aborting := false }
    let fresh : State := s2.modChip fun h => { h with capture := Chip.init.capture }
    Accepted s m rowStartStep stepForm → s.resident = ~~~s.residentComp → s.residentCtx = some c → c.plan = some p →
    (∀ x ∈ c.regions, x.2.zeroing = false) → le (s.requestOf m) 8 2 = c.id.toNat → State.tableUnsound c r = false →
    s.dequeue.stepCheck c p r = none → s.dequeue.reference r = .ok (ref, s0) → (∀ h, ref = some h → s0.referenceCheck p (le r 8 1) h = none) →
    s0.devWrite (le p.settings 16 8) (slotTable r) = .ok s1 → s1.inputDigest p (asksDigest r ref) = .ok (d, s2) →
    (if le r 8 1 = 0 then .ok s2 else s2.devWrite (le r 80 8) (fresh.captureHeader run ⟨false, false, 0, []⟩)) = .ok s3 →
    s.chip.ring.held = [] → (∀ q, (s.oport q).parked = []) → le r 8 1 < 3 →
    ∃ t, exec (.startStep m) s = .next t ∧ Replied t m (.ok []) ∧ t.flint.state = .running ∧ t.chip.step = some run ∧
      t.flint.lastTag = BitVec.ofNat 64 (le r 0 8) ∧ ∀ k < 96, ∀ w, Tab.find? p.programs k = some w →
        (t.core k).state = 1 ∧ (t.core k).pc = 0 ∧ (t.core k).idx = List.replicate 16 0 ∧ (t.core k).queues = p.initialTokens k ∧
          (t.core k).ended = false

/-- ABORT_STEP stops the step's units and takes no further command until it is answered; STEP_STOP_COMPLETE ends the step with outcome
2 and its tag in both ports' registers, answers OK and leaves the device LOADED.
STEP_END_DETECTED, once everything stage 6 waits for is done and nothing stops stages 7, 8 and 9, completes the step: outcome 1 and its
tag in both ports' registers, step ended raised, the device LOADED; while a core has yet to issue step end it changes no outcome. What is the model's own reading here: log 60, 58. -/
def Obligations.StepsAreAbortedOrComplete : Prop :=
  ((∀ (s : State) (m : Mbx) (c : Context) (run : StepRun), Accepted s m rowAbortStep (formOf 0 []) → s.residentCtx = some c →
    le (s.requestOf m) 8 2 = c.id.toNat → s.chip.step = some run →
    ∃ t, exec (.abortStep m) s = .next t ∧ t.flint.aborting = some (m, false) ∧ t.flint.taking = false ∧
      t.chip.step = some { run with aborting := true } ∧ t.flint.state = s.flint.state ∧ t.contexts = s.contexts) ∧
  (∀ (s : State) (m : Mbx) (run : StepRun), s.flint.aborting = some (m, false) → m.wf = true → s.chip.step = some run →
    ∃ t, exec .stepStopComplete s = .next t ∧ Replied t m (.ok []) ∧ t.flint.state = .loaded ∧ t.chip.step = none ∧
      t.flint.aborting = none ∧ ∀ q < 2, fieldOf (t.reg (.stepStatus q)) 63 62 = 2 ∧
        fieldOf (t.reg (.stepStatus q)) 47 32 = s.resident.toNat ∧ t.reg (.stepTag q) = BitVec.ofNat 64 (le run.record 0 8) ∧
        (t.reg (.intCause q)).getLsbD 1 = true)) ∧
  ((∀ (s : State) (p : Plan) (run : StepRun), s.plan? = some p → s.chip.step = some run → s.flint.state = .running → run.aborting = false →
    s.holding = false → s.endFault = false →
    let s1 := (s.ownColls p).foldl (fun s x => completeColl x s) s
    s1.stepOver p = true → s1.scaleUnsound p = false → (s1.writeInstruments p).endFault = false →
    ((s1.writeInstruments p).closeCapture false).endFault = false → (s1.writeInstruments p).chip.step = some run →
    ∃ t, exec .stepEndDetected s = .next t ∧ t.flint.state = .loaded ∧ t.chip.step = none ∧ ∀ q < 2,
      fieldOf (t.reg (.stepStatus q)) 63 62 = 1 ∧ t.reg (.stepTag q) = BitVec.ofNat 64 (le run.record 0 8) ∧
      (t.reg (.intCause q)).getLsbD 1 = true) ∧
  (∀ (s : State) (p : Plan) (k : Nat) (w : List Word64), s.plan? = some p → s.ownColls p = [] → (k, w) ∈ p.programs → (s.core k).ended = false →
    exec .stepEndDetected s = .next s))

/-! ## Host ports -/

/-- A host violation adds one to the port's count, records its code, raises the cause on that port, and writes one event of source 9 with
its code and the port's number; it changes no other register and no other part of the state but what was sent (R383). -/
def Obligations.HostViolationIsCountedAndLogged : Prop :=
  ∀ (s : State) (p code : Nat), code < 256 → s.flint.logHeader = ~~~s.flint.logHeaderComp →
    let t := s.violation p code
    fieldOf (t.reg (.hostViolation p)) 31 0 = min (fieldOf (s.reg (.hostViolation p)) 31 0 + 1) 0xFFFFFFFF ∧
    fieldOf (t.reg (.hostViolation p)) 39 32 = code ∧ fieldOf (t.reg (.hostViolation p)) 63 40 = fieldOf (s.reg (.hostViolation p)) 63 40 ∧
    regRc (.hostViolation p) = [(31, 0)] ∧ regRw (.hostViolation p) = [] ∧ State.reset.reg (.hostViolation p) = 0 ∧ (t.reg (.intCause p)).getLsbD 6 = true ∧
    (∀ r, r ≠ .hostViolation p → r ≠ .intCause p → t.reg r = s.reg r) ∧
    (∃ e, Tab.find? t.flint.logRing (hdrNext s.flint.logHeader) = some e ∧ e.source = 9 ∧ e.code = code ∧ e.unit = p ∧
      e.number = s.flint.eventNumber ∧ e.time = s.localTime + s.epochOffset) ∧
    onlyTouches [.regs, .flint, .hosts, .sent] s t

/-- MAILBOX_DOORBELL of an idle mailbox submits it and puts it at the end of Flint's order; of a mailbox that is not idle, or with a
reserved bit set, it is violation 0x03 or 0x04 and submits nothing. MAILBOX_DONE_CLEAR clears the done bits written 1 and no other.
HOST_COMPLETION with data for a transfer in flight of a class 4 stream of the port keeps the bytes in order; an error status stops the
stream and is counted; a completion for nothing is violation 0x09. LEASE_EXPIRY marks the owner's lease and releases nothing. What is the model's own reading here: log 19. -/
def Obligations.MailboxesAndCompletions : Prop :=
  ((∀ (s : State) (p : Nat) (v : Word64), p < 2 → 1 ≤ s.flint.progress → ∃ t, exec (.mailboxDoorbell p v) s = .next t ∧
    let b := fieldOf v 4 0
    if fieldOf v 63 5 ≠ 0 then t = s.violation p 0x04
    else if (s.host p).submitted.getLsbD b = true ∨ (s.host p).done.getLsbD b = true then t = s.violation p 0x03
    else (t.host p).submitted.getLsbD b = true ∧ t.flint.queue = s.flint.queue ++ [{ port := p, box := b }] ∧
      (∀ i < 32, i ≠ b → (t.host p).submitted.getLsbD i = (s.host p).submitted.getLsbD i) ∧ (t.host p).done = (s.host p).done ∧
      (∀ q, q ≠ p → t.host q = s.host q) ∧ onlyTouches [.hosts, .flint] s t) ∧
  (∀ (s : State) (p : Nat) (v : Word64), p < 2 → ∃ t, exec (.mailboxDoneClear p v) s = .next t ∧
    (∀ i < 32, (t.host p).done.getLsbD i = ((s.host p).done.getLsbD i && !v.getLsbD i)) ∧
    (t.host p).submitted = (s.host p).submitted ∧ (t.host p).pages = (s.host p).pages ∧ (∀ q, q ≠ p → t.host q = s.host q) ∧
    onlyTouches [.hosts] s t)) ∧
  ((∀ (s : State) (p id : Nat) (e d : Rec) (r : Running), p < 2 → s.streamEntry id = some e → (s.stream id).running = some r → streamClass e = 4 →
    streamHost e = p → (xferOf e r.desc).src = 2 → r.done < r.started → (s.stream id).faulted = false →
    (∀ c, s.residentCtx = some c → c.confidential = false) →
    ∃ t, exec (.hostCompletion p (.stream id) (.data d)) s = .next t ∧ t.stream id = { s.stream id with hostBuf := (s.stream id).hostBuf ++ d } ∧
      (∀ j, j ≠ id → t.stream j = s.stream j) ∧ onlyTouches [.chip] s t) ∧
  (∀ (s : State) (p id : Nat) (e : Rec) (r : Running), p < 2 → s.streamEntry id = some e → (s.stream id).running = some r → streamClass e = 4 →
    streamHost e = p → (xferOf e r.desc).src = 2 → r.done < r.started → (s.stream id).faulted = false →
    exec (.hostCompletion p (.stream id) .error) s = .next ((s.violation p 0x07).streamFault id 0x07)) ∧
  (∀ (s : State) (p : Nat) (cpl : Completion), p < 2 → exec (.hostCompletion p .unexpected cpl) s = .next (s.violation p 0x09)) ∧
  (∀ (s : State), s.flint.owner.isSome = true → ∃ t, exec .leaseExpiry s = .next t ∧ t.flint = { s.flint with leaseExpired := true } ∧
    onlyTouches [.flint] s t))

/-- INTERRUPT_ENABLE_WRITE sets the enable bits and sends a vector's message for each vector with a set cause whose enable rises;
READ_CLEAR_ACCESS returns the register's value and clears exactly its fields of access RC, waking a die that is in Retain first; REGISTER_WRITE to a port's interrupt cause register clears
the causes written 1, and to pages that are not locked stores the bytes (R9, R355, R356). What is the model's own reading here: log 18, 14. -/
def Obligations.RegisterAccessesFollowTheirCodes : Prop :=
  (∀ (s : State) (p : Nat) (v : Word64), p < 2 → s.flint.state ≠ .scrubbing → (s.host p).masked 32 = false → (s.host p).masked 33 = false →
    ∃ t, exec (.interruptEnableWrite p v) s = .next t ∧
    (∀ i < 64, (t.reg (.intEnable p)).getLsbD i = if i < 8 then v.getLsbD i else (s.reg (.intEnable p)).getLsbD i) ∧
    (∀ r, r ≠ .intEnable p → t.reg r = s.reg r) ∧
    let rises := fun (n : Nat) => v.getLsbD n = true ∧ (s.reg (.intEnable p)).getLsbD n = false ∧ (s.reg (.intCause p)).getLsbD n = true
    t.sent = s.sent ++ (if rises 0 ∨ rises 1 ∨ rises 7 then [Out.msix p 32] else []) ++
      (if rises 2 ∨ rises 3 ∨ rises 4 ∨ rises 5 ∨ rises 6 then [Out.msix p 33] else [])) ∧
  (∀ (s : State) (r : Reg), r.wf = true → ∃ t, exec (.readClearAccess r) s = .next t ∧
    let reads := fun (s : State) => t.sent = s.sent ++ [.readValue r (s.readReg r)] ∧ (∀ q, q ≠ r → t.reg q = s.reg q) ∧
      (∀ i < 64, (t.reg r).getLsbD i = ((s.reg r).getLsbD i && !(regRc r).any fun f => decide (f.2 ≤ i) && decide (i ≤ f.1))) ∧
      onlyTouches [.regs, .sent] s t
    ((∀ d, regDie r = some d → (s.die d).pstate < 2) → reads s) ∧
    ∀ d, regDie r = some d → 2 ≤ (s.die d).pstate → reads (s.wakeDie d) ∧ (t.die d).pstate = 0) ∧
  (∀ (s : State) (p : Nat) (v : Word64), p < 2 →
    ∃ t, exec (.registerWrite { port := p, bar := 0, offset := 0x0010, bytes := toLe 8 v.toNat, poisoned := false }) s = .next t ∧
    (∀ i < 64, (t.reg (.intCause p)).getLsbD i = ((s.reg (.intCause p)).getLsbD i && !(decide (i < 8) && v.getLsbD i))) ∧
    (∀ r, r ≠ .intCause p → t.reg r = s.reg r) ∧ onlyTouches [.regs] s t) ∧
  (∀ (s : State) (p off : Nat) (bytes : Rec), p < 2 → 1 ≤ bytes.length → off + bytes.length ≤ 0x40000 →
    (∀ a, off ≤ a → a < off + bytes.length → a / 0x1000 % 2 = 0 ∧ (s.host p).submitted.getLsbD (a / 0x2000) = false) →
    ∃ t, exec (.registerWrite { port := p, bar := 2, offset := off, bytes := bytes, poisoned := false }) s = .next t ∧
    ∀ a, (t.host p).pages.read a = if off ≤ a ∧ a < off + bytes.length then bytes.getD (a - off) 0 else (s.host p).pages.read a)

/-- FUNCTION_LEVEL_RESET and PERST_ASSERTED return the port's registers, pages and mailboxes to their reset values, drop the commands it
had submitted and, where it owns the device, lose ownership at once; HOST_LINK_DOWN of a link that was up loses ownership and leaves the
mailboxes; none touches the other port's mailboxes. PERST_RELEASED, HOST_LINK_UP and CONFIGURATION_SPACE_WRITE change the link state
they name. What is the model's own reading here: log 21. -/
def Obligations.HostPortResetsAndLinks : Prop :=
  (∀ (s : State) (p : Nat), p < 2 →
    (∃ t, exec (.functionLevelReset p) s = .next t ∧ (t.host p).submitted = 0 ∧ (t.host p).done = 0 ∧ (t.host p).pages = [] ∧
      (t.host p).msix = HostPort.init.msix ∧ (t.host p).linkUp = (s.host p).linkUp ∧ t.flint.owner ≠ some p ∧
      t.flint.queue = s.flint.queue.filter (fun m => m.port != p) ∧ t.reg (.intEnable p) = 0 ∧ t.reg (.stepTag p) = 0 ∧
      t.flint.state = s.flint.state ∧ t.chip.step = s.chip.step ∧
      ∀ q, q ≠ p → (t.host q).submitted = (s.host q).submitted ∧ (t.host q).pages = (s.host q).pages) ∧
    (∃ t, exec (.perstAsserted p) s = .next t ∧ (t.host p).submitted = 0 ∧ (t.host p).done = 0 ∧ (t.host p).pages = [] ∧
      (t.host p).linkUp = false ∧ (t.host p).perst = true ∧ t.flint.owner ≠ some p ∧
      t.flint.queue = s.flint.queue.filter (fun m => m.port != p) ∧ t.reg (.intEnable p) = 0 ∧ t.reg (.stepTag p) = 0 ∧
      ∀ q, q ≠ p → (t.host q).submitted = (s.host q).submitted ∧ (t.host q).pages = (s.host q).pages) ∧
    ((s.host p).linkUp = true → ∃ t, exec (.hostLinkDown p) s = .next t ∧ (t.host p).linkUp = false ∧ t.flint.owner ≠ some p ∧
      (t.host p).submitted = (s.host p).submitted ∧ (t.host p).pages = (s.host p).pages ∧ t.flint.queue = s.flint.queue) ∧
    ((s.host p).perst = true → ∃ t, exec (.perstReleased p) s = .next t ∧
      t.host p = { s.host p with perst := false, training := decide (2 ≤ s.flint.progress) } ∧ onlyTouches [.hosts] s t) ∧
    ((s.host p).perst = false → ∃ t, exec (.hostLinkUp p) s = .next t ∧ t.host p = { s.host p with linkUp := true, training := false }) ∧
    ∀ busMaster d3hot, ∃ t, exec (.configurationSpaceWrite p busMaster d3hot) s = .next t ∧
      t.host p = { s.host p with busMaster := busMaster, d3hot := d3hot } ∧ ∀ q, q ≠ p → t.host q = s.host q)

/-! ## Management, firmware, reset and boot -/

/-- MGMT_SESSION_OPEN opens the one session to a client whose certificate key is in the operator key record in effect, with that key's
role, and no other; MGMT_SESSION_IDLE_TIMEOUT ends it. MGMT_STATUS answers OK, MGMT_READ_LOG as READ_STRATA_LOG does, and MGMT_ATTEST of
the stored nonce and context from the stored report, else from one it forms and keeps (R413, R414, R415, R450).
WRITE_OPERATOR_RECORD by an administrator: a record signed by an administrator key of the record in effect, its version above
counter 2, goes into the copy with the lower version, and counter 2 takes its version; a bad signature is answered 7 and an old version
9, and the flash is as before (R414; where the keys stand in the record is the model's, PRESUMED). What is the model's own reading here: log 35. -/
def Obligations.ManagementCommandsAct : Prop :=
  ((∀ (s : State) (key : Rec), s.mgmtServes = true → ∃ t, exec (.mgmtSessionOpen key) s = .next t ∧ onlyTouches [.mgmt] s t ∧
    t.mgmt = match s.mgmt.role, s.roleOf key with
      | none, some r => { s.mgmt with role := some r }
      | _, _ => s.mgmt) ∧
  (∀ (s : State), ∃ t, exec .mgmtSessionIdleTimeout s = .next t ∧ t.mgmt = { s.mgmt with role := none } ∧ onlyTouches [.mgmt] s t) ∧
  (∀ (s : State), s.mgmtServes = true → s.mgmt.role ≠ none → ∃ t data, exec .mgmtStatus s = .next t ∧
    t.sent = s.sent ++ [.mgmtReply 0 data] ∧ onlyTouches [.sent, .fresh] s t) ∧
  (∀ (s : State) (args : Rec), s.mgmtServes = true → s.mgmt.role ≠ none → logForm args args.length = none → s.flint.view ≠ .booting →
    let u := s.soundLog
    ∃ t, exec (.mgmtReadLog args) s = .next t ∧ t.sent = u.sent ++ [.mgmtReply (u.logReply args).code (u.logReply args).data] ∧
      onlyTouches [.sent] u t ∧ (s.headerSound → u = s)) ∧
  (∀ (s : State) (ctx : BitVec 16) (args : Rec), s.mgmtServes = true → s.mgmt.role ≠ none → attestForm args args.length = none →
    s.flint.view ∈ [DevState.ready, .loaded, .running, .halted, .updating] → ctx = 0 ∨ (s.context? ctx.toNat).isSome = true →
    let nonce := slice args 0 32
    let fresh := s.signReport (s.reportBody ctx.toNat nonce s.logTime)
    ∃ t, exec (.mgmtAttest ctx args) s = .next t ∧
      (∀ r, s.mgmt.report = some (ctx, nonce, r) →
        t.sent = s.sent ++ [.mgmtReply (attestReply r (le args 32 4)).code (attestReply r (le args 32 4)).data] ∧ onlyTouches [.sent] s t) ∧
      ((∀ r, s.mgmt.report ≠ some (ctx, nonce, r)) → (attestReply fresh (le args 32 4)).code = 0 →
        t.mgmt = { s.mgmt with report := some (ctx, nonce, fresh) } ∧
        t.sent = s.sent ++ [.mgmtReply 0 (attestReply fresh (le args 32 4)).data] ∧ onlyTouches [.mgmt, .sent] s t))) ∧
  (∀ (s : State) (r : Rec) (role n : Nat), s.mgmtServes = true → s.mgmt.role = some role → 2 ≤ role → s.flint.view = .ready ∨ s.flint.view = .updating →
    operatorCount r = some n → s.flash.operators.length = 2 → s.flash.counters.length = 4 →
    let signed := ∃ k ∈ ((s.flash.operator.map (·.keys)).getD []).filter fun k => k.2 = 2,
      Config.mlDsaVerify k.1 (r.take (4 + 1313 * n)) (r.drop (4 + 1313 * n)) = true
    ∃ t, exec (.writeOperatorRecord r) s = .next t ∧ onlyTouches [.flash, .sent] s t ∧
      (¬ signed → t.flash = s.flash ∧ t.sent = s.sent ++ [.mgmtReply 7 []]) ∧
      (signed → le r 0 4 ≤ s.flash.counters.getD 2 0 → t.flash = s.flash ∧ t.sent = s.sent ++ [.mgmtReply 9 []]) ∧
      (signed → s.flash.counters.getD 2 0 < le r 0 4 → t.sent = s.sent ++ [.mgmtReply 0 []] ∧ t.flash.counters.getD 2 0 = le r 0 4 ∧
        t.flash.operators = s.flash.operators.set (lowerCopy (s.flash.operators.map fun k => (k.signed, k.version))) {
          signed := true, version := le r 0 4, keys := operatorKeys r n } ∧
        t.flash.slots = s.flash.slots ∧ t.flash.configs = s.flash.configs ∧ t.flash.repairs = s.flash.repairs))

/-- UPDATE_BEGIN erases the inactive slot and enters UPDATING; UPDATE_DATA writes its bytes into that slot alone; UPDATE_COMMIT verifies
the image and its security version, or erases the slot with code 7 or 9; UPDATE_ABANDON returns to READY; UPDATE_ACTIVATE writes the
selector, on trial for the staged slot, and boot begins (R416). The running slot's image never changes. -/
def Obligations.FirmwareUpdateFollowsItsCommands : Prop :=
  ∀ (s : State) (r : Nat), s.mgmtServes = true → s.mgmt.role = some r → 1 ≤ r → s.flash.slots.length = 2 → s.running < 2 →
    let img := (s.flash.slots.getD (1 - s.running) FwSlot.erased).image
    let kept := fun (t : State) => t.flash.slots[s.running]? = s.flash.slots[s.running]?
    (s.busy = false → s.flint.view = .ready → ∃ t, exec .updateBegin s = .next t ∧ t.flint.state = .updating ∧
      t.flash.slots[1 - s.running]? = some FwSlot.erased ∧ kept t ∧ t.mgmt = { s.mgmt with update := 1, staged := false } ∧
      t.sent.getLast? = some (.mgmtReply 0 [])) ∧
    (s.flint.view = .updating →
      (∀ off chunk, chunk.length ≤ 65536 → off + chunk.length ≤ 31457280 → ∃ t x, exec (.updateData off chunk) s = .next t ∧
        t.flash.slots[1 - s.running]? = some x ∧ x.verified = false ∧ (∀ i, i < off ∨ off + chunk.length ≤ i → i < img.length →
          x.image[i]? = img[i]?) ∧ slice x.image off chunk.length = chunk ∧ kept t ∧ t.mgmt.staged = false ∧
        t.sent = s.sent ++ [.mgmtReply 0 []] ∧ onlyTouches [.flash, .mgmt, .sent] s t) ∧
      (∃ t, exec .updateCommit s = .next t ∧ kept t ∧ t.flint = s.flint ∧
        if imageOk img = true ∧ s.flash.counters.getD 0 0 ≤ le img 12 4 then
          t.flash.slots[1 - s.running]? = some { image := img, verified := true, security := le img 12 4, version := le img 8 4 } ∧
          t.mgmt = { s.mgmt with update := 2, staged := true } ∧ t.sent = s.sent ++ [.mgmtReply 0 []]
        else t.flash.slots[1 - s.running]? = some FwSlot.erased ∧ t.mgmt.staged = false ∧
          t.sent = s.sent ++ [.mgmtReply (if imageOk img = true then 9 else 7) []]) ∧
      (∃ t, exec .updateAbandon s = .next t ∧ t.flint.state = .ready ∧ t.mgmt = { s.mgmt with update := 0, staged := false } ∧
        t.flash = s.flash ∧ t.sent.getLast? = some (.mgmtReply 0 [])) ∧
      (s.mgmt.staged = true → s.flash.selectors.length = 2 → ∃ t k, exec .updateActivate s = .next t ∧ t.flint.state = .booting ∧ kept t ∧
        t.flash.selector = some k ∧ k.slot = 1 - s.running ∧ k.trial = true ∧ k.attempts = 0 ∧ t.flint.owner = none ∧
        Out.mgmtReply 0 [] ∈ t.sent))

/-- POWER_ON keeps the boot flash and nothing else; MOD_RESET keeps the flash and the strata log and returns every register and every
mailbox to its reset value, the device BOOTING with no owner and no context; MOD_RESET_RELEASE and REFCLK_RESTORED begin boot when power,
reset and the reference clock allow it; REFCLK_LOSS acts as MOD_RESET and is remembered for the log (R474, R475, R477, R496). What is the model's own reading here: log 132. -/
def Obligations.ResetSourcesKeepWhatTheTableSays : Prop :=
  (∀ (s : State), s.pins.pwrok = false ∨ s.powered = false → ∃ t, exec .powerOn s = .next t ∧ t.powered = true ∧ t.pins.pwrok = true ∧
    t.flash = s.flash ∧ t.devmem = [] ∧ t.contexts = [] ∧ t.regs = [] ∧ t.flint.logRing = [] ∧ t.flint.state = .booting ∧ t.localTime = 0 ∧
    t.flint.progress = if s.pins.resetN = true ∧ s.pins.refclk = true then 1 else 0) ∧
  (∀ (s : State), s.powered = true → ∃ t, exec .modReset s = .next t ∧ t.pins.resetN = false ∧ t.flash = s.flash ∧
    t.flint.logRing = s.flint.logRing ∧ t.flint.logHeader = s.flint.logHeader ∧ t.flint.state = .booting ∧ t.flint.progress = 0 ∧
    t.flint.owner = none ∧ t.flint.queue = [] ∧ t.contexts = [] ∧ t.resident = 0 ∧ t.chip = Chip.init ∧ t.regs = [] ∧ t.localTime = 0 ∧
    t.epochOffset = 0 ∧ t.fabricValid = false ∧ ∀ p < 2, (t.host p).submitted = 0 ∧ (t.host p).done = 0 ∧ (t.host p).pages = [] ∧
      (t.host p).linkUp = false) ∧
  (∀ (s : State), s.pins.resetN = false → ∃ t, exec .modResetRelease s = .next t ∧ t.pins = { s.pins with resetN := true } ∧
    t.flint = { s.flint with progress :=
      if s.powered = true ∧ s.pins.pwrok = true ∧ s.pins.refclk = true then 1 else s.flint.progress } ∧ onlyTouches [.pins, .flint] s t) ∧
  (∀ (s : State), s.powered = true → ∃ t, exec .refclkLoss s = .next t ∧ t.pins.refclk = false ∧ t.flint.refclkLost = true ∧
    t.flash = s.flash ∧ t.flint.logRing = s.flint.logRing ∧ t.flint.state = .booting ∧ t.flint.progress = 0 ∧ t.contexts = [] ∧
    t.chip = Chip.init ∧ t.regs = [] ∧ t.localTime = 0) ∧
  (∀ (s : State), s.pins.refclk = false → ∃ t, exec .refclkRestored s = .next t ∧ t.pins = { s.pins with refclk := true } ∧
    t.flint = { s.flint with progress :=
      if s.powered = true ∧ s.pins.pwrok = true ∧ s.pins.resetN = true then 1 else s.flint.progress } ∧ onlyTouches [.pins, .flint] s t)

/-- BOOT_READY at boot progress 7 leaves the device READY with the progress field 0x0C, the memory-clean mark clear, a trial ended and
counter 0 at least the running image's security version; a write of a changed repair map that fails is a boot failure at 0x0B.
BOOT_FAILURE at steps 3 to 5 leaves HALTED with reason 5 and the failing step in the progress field; before firmware runs there is
neither an event nor a cut; a die that browns out twice in steps 6 to 10 is retired and boot goes on (R441, R479, R482, R485, R487). What is the model's own reading here: log 131, 135. -/
def Obligations.BootEndsReadyOrHalted : Prop :=
  (∀ (s : State) (found : List SelfTestResult), s.flint.state = .booting → s.flint.progress = 7 → s.flint.heldInReset = false →
    s.bootHeld = false → 0 < s.flash.counters.length → s.flash.selectors.length = 2 →
    ∃ t, exec (.bootReady found true) s = .next t ∧ t.flint.state = .ready ∧ t.flint.progress = 0x0C ∧ t.flint.memoryClean = false ∧
      s.slot.security ≤ t.flash.counters.getD 0 0 ∧ (∀ k, t.flash.selector = some k → k.trial = false)) ∧
  (∀ (s : State), s.flint.state = .booting → s.flint.progress = 7 → s.flint.heldInReset = false → s.bootHeld = false →
    s.repair.changed = true → ∃ t, exec (.bootReady [] false) s = .next t ∧ t.flint.state = .halted ∧ t.flint.haltedReason = 5 ∧
      t.flint.progress = 0x0B) ∧
  (∀ (s : State) (step : Nat), s.flint.state = .booting → s.flint.progress = step → 3 ≤ step → step ≤ 5 → s.flint.heldInReset = false →
    ∃ t, exec (.bootFailure step .fails) s = .next t ∧ t.flint.state = .halted ∧ t.flint.haltedReason = 5 ∧ t.flint.progress = step ∧
      (step = 3 → t.flint.alive = false ∧ t.flint.logRing = s.flint.logRing ∧ t.flint.cutWriting = s.flint.cutWriting)) ∧
  (∀ (s : State) (step d : Nat), s.flint.state = .booting → s.flint.progress = 7 → 7 ≤ step → step ≤ 10 → d < 4 →
    s.flint.heldInReset = false → ∃ t, exec (.bootFailure step (.dieBrownOutTwice d)) s = .next t ∧ (t.die d).retired = true ∧
      t.flint.state = .booting ∧ t.flint.progress = 7)

/-- RESET of full scope writes its event, holds its reply until READY, and leaves BOOTING with no owner, no context and the host ports'
mailboxes as they were; of partial scope it holds the resident context and takes the named dies' ports down, and is answered only by
PARTIAL_RESET_COMPLETE, once every stream stands at a transfer boundary (R476, R488). -/
def Obligations.ResetCommandsStartAndComplete : Prop :=
  (∀ (s : State) (m : Mbx), Accepted s m rowReset resetForm → le (s.requestOf m) 64 1 = 0 → ∃ t, exec (.reset m) s = .next t ∧
    t.flint.state = .booting ∧ t.flint.resetReply = some m ∧ t.flint.owner = none ∧ t.contexts = [] ∧ t.chip = Chip.init ∧ t.localTime = 0 ∧
    t.flash = s.flash ∧ (t.host m.port).submitted = (s.host m.port).submitted ∧ (t.host m.port).pages = (s.host m.port).pages ∧
    t.flint.queue = s.flint.queue.drop 1) ∧
  (∀ (s : State) (m : Mbx), Accepted s m rowReset resetForm → le (s.requestOf m) 64 1 = 1 → s.flint.view = .ready ∨ s.flint.view = .loaded →
    ∃ t b, exec (.reset m) s = .next t ∧ t.flint.background = some b ∧ b.kind = .reset ∧ b.mbx = m ∧ b.dies = le (s.requestOf m) 65 1 ∧
      b.savedCtx = s.resident ∧ t.mgmt = { s.mgmt with update := 3, partialDies := le (s.requestOf m) 65 1 } ∧ t.resident = s.resident ∧
      t.contexts = s.contexts ∧ (t.host m.port).submitted = (s.host m.port).submitted ∧ (t.host m.port).done = (s.host m.port).done) ∧
  (∀ (s : State) (b : Background), s.flint.background = some b → b.kind = .reset → b.discarded = false → b.mbx.wf = true →
    s.settled = true → ∀ found saveErr restoreErr,
    let lost := b.savedCtx != 0 && (s.saveOut saveErr).1
    let u := (if b.savedCtx = 0 then s else (s.saveOut saveErr).2).partialDies b.dies found
    let bad := b.savedCtx != 0 && (restoreErr || (u.readIncoming b.savedCtx.toNat).1)
    ∃ t, exec (.partialResetComplete found saveErr restoreErr) s = .next t ∧ t.flint.background = none ∧ t.mgmt.update = 0 ∧
      t.mgmt.partialDies = 0 ∧ Replied t b.mbx (if lost || bad then .failing 7 (lost.toNat + 2 * bad.toNat) 0 else .ok [])) ∧
  (∀ (s : State), s.settled = false → ∀ found a b, exec (.partialResetComplete found a b) s = .next s)

/-! ## Cores and engines -/

/-- LOOP sets its index register to 0 and enters the body; LOOP_END counts the body's runs, and adds 1 to the register and repeats the body, or
sets the register to the count and leaves it; SET_INDEX and ADD_INDEX write
their register, index 0 excepted; FENCE goes on only with nothing in flight; STEP_END then counts as issued. None changes anything
else of the chip, and no other core. A program word that cannot be corrected stops the core at it with core fault 0x12, whatever it would
issue; a single error is corrected, counted and the word issued (R102, R104, R111, Table 4.14). What is the model's own reading here: log 149. -/
def Obligations.LoopsIndexesAndFencesRun : Prop :=
  ∀ (s : State) (c : Nat) (w : Word64), let k := s.core c
    let x := wX w
    let held := fun (k : Core) => { k with
      hold := 4, holdCore := if k.fill = none then 0 else k.holdCore, holdQueue := if k.fill = none then 0 else k.holdQueue }
    let issues := fun (c : Nat) => [(0x18, Instr.loop c), (0x19, .loopEnd c), (0x1A, .setIndex c), (0x1B, .addIndex c), (0x1C, .fence c),
      (0x1F, .stepEnd c), (0x10, .waitToken c), (0x11, .signalToken c), (0x14, .fillArm c), (0x15, .fillJoin c), (0x16, .fillEnd c),
      (0x01, .weightLoad c), (0x02, .preload c), (0x03, .drain c), (0x04, .streamRows c), (0x08, .vector c), (0x09, .function c),
      (0x0A, .rowReduction c)]
    let goesOn := fun (t : State) (k' : Core) => CoreAlone s t c ∧ t.core c = { k' with pc := k'.pc + 1, hold := 0, execs := (t.core c).execs }
    (MayIssue s c 0x18 [0] w → ∃ t, exec (.loop c) s = .next t ∧ goesOn t { k with
      idx := if x = 0 then k.idx else k.idx.set x 0, loops := { body := k.pc + 1, reg := x, count := fieldOf w 31 0, done := 0 } :: k.loops }) ∧
    (∀ l rest, MayIssue s c 0x19 [0] w → k.loops = l :: rest → ∃ t, exec (.loopEnd c) s = .next t ∧ CoreAlone s t c ∧
      let again := l.done + 1 < l.count
      let v : Word32 := if again then k.ix l.reg + 1 else BitVec.ofNat 32 l.count
      t.core c = { k with
        idx := if l.reg = 0 then k.idx else k.idx.set l.reg v, pc := if again then l.body else k.pc + 1,
        loops := if again then { l with done := l.done + 1 } :: rest else rest, hold := 0, execs := (t.core c).execs }) ∧
    (MayIssue s c 0x1A [0] w → ∃ t, exec (.setIndex c) s = .next t ∧ goesOn t { k with
      idx := if x = 0 then k.idx else k.idx.set x (BitVec.ofNat 32 (fieldOf w 31 0)) }) ∧
    (MayIssue s c 0x1B [0] w → ∃ t, exec (.addIndex c) s = .next t ∧ goesOn t { k with
      idx := if x = 0 then k.idx else k.idx.set x (k.ix x + BitVec.ofNat 32 (fieldOf w 31 0)) }) ∧
    (MayIssue s c 0x1C [0, 4] w → ∃ t, exec (.fence c) s = .next t ∧ CoreAlone s t c ∧
      if k.inflight = [] then t.core c = { k with pc := k.pc + 1, hold := 0, execs := (t.core c).execs }
      else t.core c = held k) ∧
    (MayIssue s c 0x1F [0, 4] w → ∃ t, exec (.stepEnd c) s = .next t ∧ CoreAlone s t c ∧
      t.core c = { held k with ended := if k.inflight = [] then true else k.ended }) ∧
    (s.wordAt c = some w → s.issuing c = true → k.hold = 0 →
      (settle (k.progFlips.get (k.pc / 2)) = none → ∀ i, (wOp w, i) ∈ issues c → ∃ t, exec i s = .next t ∧
        (t.core c).state = 3 ∧ (t.core c).hold = 8 ∧ (t.core c).pc = k.pc ∧ (t.core c).inflight = k.inflight ∧
        t.flint.reports.getLast? = some { kind := 7, unit := c, sub := 0, code := 0x12 } ∧ (t.reg (.coreFault c)).getLsbD 63 = true ∧
        ∀ j, j ≠ c → t.core j = s.core j) ∧
      (settle (k.progFlips.get (k.pc / 2)) ≠ none → k.progFlips.get (k.pc / 2) ≠ 0 → wOp w = 0x1A → ∃ t, exec (.setIndex c) s = .next t ∧
        (t.core c).pc = k.pc + 1 ∧ (t.core c).progFlips.get (k.pc / 2) = 0 ∧
        fieldOf (t.reg (.coreFault c)) 40 29 = min (fieldOf ((s.stir (coreDie c)).reg (.coreFault c)) 40 29 + 1) 4095))

/-- WAIT_TOKEN takes its tokens when the queue holds them, SIGNAL_TOKEN adds its tokens when the whole count fits, and both go on; else they
hold and change no count. TOKEN_WAIT_GRANTED and TOKEN_SIGNAL_GRANTED complete the held ones of a main program with no fill task part-way
(R122, R123, R125). -/
def Obligations.TokensAreTakenAndGiven : Prop :=
  ∀ (s : State) (c : Nat) (w : Word64), let k := s.core c
    let held := fun (reason core queue : Nat) => { k with
      hold := reason, holdCore := if k.fill = none then core else k.holdCore, holdQueue := if k.fill = none then queue else k.holdQueue }
    let waits := fun (t : State) => let q := fieldOf w 37 32
      let n := fieldOf w 31 24
      CoreAlone s t c ∧ (∀ r, r ≠ q → t.queueCount c r = s.queueCount c r) ∧
      if n ≤ s.queueCount c q then t.queueCount c q = s.queueCount c q - n ∧ (t.core c).pc = k.pc + 1 ∧ (t.core c).hold = 0
      else t.core c = held 1 c q
    let signals := fun (t : State) => let d := fieldOf w 37 31
      let q := fieldOf w 30 25
      let n := fieldOf w 24 17
      (∀ j r, j ≠ d ∨ r ≠ q → t.queueCount j r = s.queueCount j r) ∧ t.chip = { s.chip with cores := t.chip.cores } ∧
      if s.queueCount d q + n ≤ s.queueDepth d q then t.queueCount d q = s.queueCount d q + n ∧ (t.core c).pc = k.pc + 1 ∧ (t.core c).hold = 0
      else t.core c = held 2 d q ∧ t.queueCount d q = s.queueCount d q
    (MayIssue s c 0x10 [0] w → ∃ t, exec (.waitToken c) s = .next t ∧ waits t) ∧
    (MayIssue s c 0x10 [1] w → k.fill = none → ∃ t, exec (.tokenWaitGranted c) s = .next t ∧ waits t) ∧
    (MayIssue s c 0x11 [0] w → ∃ t, exec (.signalToken c) s = .next t ∧ signals t) ∧
    (MayIssue s c 0x11 [2] w → k.fill = none → ∃ t, exec (.tokenSignalGranted c) s = .next t ∧ signals t) ∧
    (k.fill ≠ none → exec (.tokenWaitGranted c) s = .next s ∧ exec (.tokenSignalGranted c) s = .next s)

/-- FILL_ARM arms its entries with a copy of the index registers and of the drain settings; FILL_TASK_START puts the main program aside for the
lowest ready entry, with the copies its arm made, and takes its token; FILL_END gives the main program back; FILL_JOIN goes on once no entry of its groups is armed or running, and empties
the done ones; HOLD_LIMIT_EXPIRY stops a core held too long with fault 0x13 (R128, R130, R131, R132). -/
def Obligations.FillTasksRunAndReturn : Prop :=
  ∀ (s : State) (c : Nat) (w : Word64), let k := s.core c
    (MayIssue s c 0x14 [0] w → ∃ t, exec (.fillArm c) s = .next t ∧ CoreAlone s t c ∧ (t.core c).pc = k.pc + 1 ∧ (t.core c).hold = 0 ∧
      ∀ e, if fieldOf w 37 31 ≤ e ∧ e ≤ fieldOf w 37 31 + fieldOf w 30 24 then
          Tab.get 0 (t.core c).scree e = 1 ∧ Tab.get [] (t.core c).screeIdx e = k.idx ∧ Tab.get [] (t.core c).screeDrains e = k.drains
        else Tab.get 0 (t.core c).scree e = Tab.get 0 k.scree e) ∧
    (∀ i, s.issuing c = true → s.holding = false → k.state = 1 → k.hold = 1 ∨ k.hold = 2 ∨ k.hold = 3 → s.readyEntry c = some i →
      ∃ t, exec (.fillTaskStart c) s = .next t ∧ CoreAlone s t c ∧ (t.core c).state = 2 ∧ (t.core c).pc = bits (s.screeEntry c i) 14 0 ∧
        (t.core c).idx = Tab.get k.idx k.screeIdx i ∧ (t.core c).drains = Tab.get [] k.screeDrains i ∧ (t.core c).preloads = [] ∧
        Tab.get 0 (t.core c).scree i = 2 ∧
        (∃ f, (t.core c).fill = some f ∧ f.entry = i ∧ f.pc = k.pc ∧ f.idx = k.idx ∧ f.loops = k.loops ∧ f.drains = k.drains ∧
          f.preloads = k.preloads ∧ f.hold = k.hold) ∧
        ∀ q, t.queueCount c q =
          if bit (s.screeEntry c i) 31 = true ∧ q = bits (s.screeEntry c i) 30 25 then s.queueCount c q - 1 else s.queueCount c q) ∧
    (∀ f, MayIssue s c 0x16 [0] w → k.fill = some f → ∃ t, exec (.fillEnd c) s = .next t ∧ CoreAlone s t c ∧
      t.core c = { k with
        state := 1, pc := f.pc, idx := f.idx, loops := f.loops, drains := f.drains, preloads := f.preloads, hold := f.hold, fill := none,
        scree := Tab.set k.scree f.entry (if k.taskStopped f.entry then 2 else 3) }) ∧
    (MayIssue s c 0x15 [0, 3] w → ∃ t, exec (.fillJoin c) s = .next t ∧ CoreAlone s t c ∧
      if ∃ i ∈ s.joined c w, Tab.get 0 k.scree i = 1 ∨ Tab.get 0 k.scree i = 2 then t.core c = { k with
          hold := 3, holdCore := if k.fill = none then 0 else k.holdCore, holdQueue := if k.fill = none then 0 else k.holdQueue }
      else (t.core c).pc = k.pc + 1 ∧ (t.core c).hold = 0 ∧ ∀ i, Tab.get 0 (t.core c).scree i =
        if i ∈ s.joined c w ∧ Tab.get 0 k.scree i = 3 then 0 else Tab.get 0 k.scree i) ∧
    (s.flint.state = .running → k.state = 1 → k.fill = none → k.hold ≠ 0 → k.hold ≠ 8 → ∃ t, exec (.holdLimitExpiry c) s = .next t ∧
      t.core c = { k with state := 3, hold := 8 } ∧ t.flint.reports = s.flint.reports ++ [{ kind := 7, unit := c, sub := 0, code := 0x13 }] ∧
      (t.reg (.coreFault c)).getLsbD 63 = true ∧
      ((s.reg (.coreFault c)).getLsbD 63 = false → fieldOf (t.reg (.coreFault c)) 55 48 = 0x13) ∧
      ∀ j, j ≠ c → t.core j = s.core j)

/-- WEIGHT_LOAD that nothing holds, and with no other load on its engines, goes in flight with its planes loading; WEIGHT_LOAD_COMPLETE leaves every plane of its unit loaded in its
format, from the chain's tiles when it takes them, and out of flight. PRELOAD and DRAIN put their setting in force for the unit
(R67, R68, R83, R86). -/
def Obligations.WeightLoadsAndSettingsTake : Prop :=
  ∀ (s : State) (c : Nat), let k := s.core c
    (∀ (w : Word64) (rec : Rec) (s1 : State), MayIssue s c 0x01 [0] w → (s.stir (coreDie c)).argRecord c w = .ok (rec, s1) →
      let u := seamOf (wSeam w)
      let p := fieldOf w 27 27
      let f := fieldOf w 25 24
      k.held (loadSpans u f rec) [] = 0 → s1.blocked c u.engines = false → k.passing u.engines (some p) = false → k.loading u.engines none = false →
      ∃ t x, exec (.weightLoad c) s = .next t ∧ (t.core c).inflight = k.inflight ++ [x] ∧ x.pc = k.pc ∧ x.stopped = none ∧
        x.work = .load { unit := u, plane := p, fmt := f, source := rec, tiles := [] } ∧ (t.core c).pc = k.pc + 1 ∧ (t.core c).hold = 0 ∧
        (∀ e q, q < 2 → (t.core c).plane e q =
          if e ∈ u.engines ∧ q = p then { k.plane e q with state := 1, source := some (f, u, rec) } else k.plane e q) ∧
        ∀ j, j ≠ c → t.core j = s.core j) ∧
    (∀ (id : Nat) (x : Flight) (l : Load) (s1 : State), k.flight? id = some x → x.work = .load l → x.stopped = none → l.unit.col + l.unit.c ≤ 4 → l.plane < 2 →
      (refAt l.source 0).stream = none ∨ l.unit.r * l.unit.c ≤ l.tiles.length → s.fillPlanes c l = .ok s1 →
      ∃ t, exec (.weightLoadComplete c id) s = .next t ∧ (t.core c).inflight = k.inflight.filter (fun y => y.id ≠ id) ∧
        ∀ i < l.unit.r, ∀ j < l.unit.c, let p := (t.core c).plane (l.unit.engine i j) l.plane
          p.state = 2 ∧ p.fmt = l.fmt ∧ ((refAt l.source 0).stream ≠ none →
            let tile := tileOf l.fmt (refAt l.source 0).unscaled (l.tiles.getD (i * l.unit.c + j) [])
            p.codes = tile.1 ∧ p.scales = tile.2)) ∧
    (∀ (w : Word64) (rec : Rec) (s1 : State), (s.stir (coreDie c)).argRecord c w = .ok (rec, s1) →
      s.blocked c (seamOf (wSeam w)).engines = false →
      (MayIssue s c 0x02 [0] w → ∃ t, exec (.preload c) s = .next t ∧ t.core c = { k with
        preloads := Tab.set k.preloads (wSeam w) (fieldOf w 27 27, rec), pc := k.pc + 1, hold := 0, execs := (t.core c).execs }) ∧
      (MayIssue s c 0x03 [0] w → ∃ t, exec (.drain c) s = .next t ∧ t.core c = { k with
        drains := Tab.set k.drains (wSeam w) rec, pc := k.pc + 1, hold := 0, execs := (t.core c).execs }))

/-- STREAM_ROWS puts a pass in flight with the setting and the preload of its unit, and takes the preload; ENGINE_BEAT feeds as many rows as
Table 3.9 gives, the beats of one row apart, or shows the stall; PASS_COMPLETE takes a drained pass out of flight; an invalid plane and
ENGINE_WATCHDOG_EXPIRY of an engine that could beat stop a pass with 0x08 and 0x07; a seam that waits, or is frozen for another engine, does not
count (R70, R75, R83, R92, R97, R435). What is the model's own reading here: log 70, 73. -/
def Obligations.PassesStartFeedAndEnd : Prop :=
  ∀ (s : State) (c : Nat), let k := s.core c
    (∀ (w : Word64) (rec : Rec) (s1 : State), MayIssue s c 0x04 [0] w → (s.stir (coreDie c)).argRecord c w = .ok (rec, s1) →
      let u := seamOf (wSeam w)
      let p := passOf w rec (Tab.find? k.preloads (wSeam w)) ((Tab.find? k.drains (wSeam w)).getD [])
      k.held p.spans.1 p.spans.2 = 0 → s1.blocked c u.engines = false → k.passing u.engines none = false → k.loading u.engines (some p.plane) = false →
      ∃ t, exec (.streamRows c) s = .next t ∧ (t.core c).pc = k.pc + 1 ∧ (t.core c).hold = 0 ∧
        Tab.find? (t.core c).preloads (wSeam w) = none ∧
        ((∀ e ∈ u.engines, (k.plane e p.plane).state ≠ 3) → ∃ x, (t.core c).inflight = k.inflight ++ [x] ∧ x.work = .pass p ∧
          x.stopped = none ∧ x.pc = k.pc ∧ x.engines = u.engines) ∧
        ((∃ e ∈ u.engines, (k.plane e p.plane).state = 3) → (∀ y ∈ k.inflight, y.id ≠ k.nextId) →
          ∃ xs ys, t.flint.reports = s.flint.reports ++ xs ++ { kind := 8, unit := c, sub := k.nextId, code := 0x08 } :: ys)) ∧
    (∀ (id n : Nat) (fl : Flight) (p p' : Pass) (s' : State), k.runningPass id = some (fl, p) →
      let rate := p.rate (k.plane (p.unit.engine 0 0) p.plane).fmt
      Pass.rowsUpTo c fl (p.rows - p.next) rate.1 p (s.stir (coreDie c)) = .ok (n + 1, p', s') →
      n + 1 ≤ rate.1 ∧ p.next < p'.next ∧ p'.fed = p.fed + (n + 1) ∧
      exec (.engineBeat c id .none) s = .next (if p.sub + 1 < rate.2 then (s.stir (coreDie c)).putPass c fl.id { p with sub := p.sub + 1 }
        else s'.putPass c fl.id { p' with sub := 0 })) ∧
    (∀ (id : Nat) (fl : Flight) (p : Pass) (bs : List Nat), k.runningPass id = some (fl, p) →
      Pass.rowsUpTo c fl (p.rows - p.next) (p.rate (k.plane (p.unit.engine 0 0) p.plane).fmt).1 p (s.stir (coreDie c)) = .error (.wait bs) →
      ∃ t q, exec (.engineBeat c id .none) s = .next t ∧ t.chip.scratch = s.chip.scratch ∧
        t.core c = { k with inflight := k.inflight.map fun y => if y.id = id then { y with work := .pass q } else y } ∧
        q.next = p.next ∧ q.sub = p.sub ∧ q.fed = p.fed ∧ q.counts = p.counts ∧ q.acc = p.acc ∧
        (bs = [] ∨ p.unit.freezes = true → ∀ e ∈ p.unit.engines, e < 12 → (t.reg (.matrixStatus c)).getLsbD (12 + e) = true) ∧
        ∀ j ∈ bs, j < p.blocks → ∀ i < p.depth, ∀ e ∈ p.fedBy i, e ∈ p.drainedBy j → e ∈ p.unit.engines → e < 12 →
          (t.reg (.matrixStatus c)).getLsbD (12 + e) = true) ∧
    (∀ (id : Nat) (fl : Flight) (p : Pass), k.runningPass id = some (fl, p) → p.sub = 0 → p.rows ≤ p.next →
      ∃ t, exec (.passComplete c id) s = .next t ∧ t.core c = { k with inflight := k.inflight.filter fun y => y.id ≠ id } ∧
        (∀ j, j ≠ c → t.core j = s.core j) ∧ t.chip.scratch = s.chip.scratch) ∧
    (∀ (e : Nat) (x : Flight) (p : Pass),
      (k.inflight.find? fun f => f.engines.contains e && f.stopped.isNone && (match f.work with | .pass _ => true | _ => false)) = some x →
      x.work = .pass p →
        (s.couldBeat c x p = false → exec (.engineWatchdogExpiry c e) s = .next s) ∧
        (s.couldBeat c x p = true → ∃ t, exec (.engineWatchdogExpiry c e) s = .next t ∧
          (∃ xs ys, t.flint.reports = s.flint.reports ++ xs ++ { kind := 8, unit := c, sub := x.id, code := 0x07 } :: ys) ∧
          ∀ n ∈ p.unit.engines, n < 12 → (t.reg (.matrixStatus c)).getLsbD (48 + n) = true ∧
            ((∀ y ∈ k.inflight, y = x ∨ ∀ n ∈ p.unit.engines, n ∉ y.engines ∧ ∀ q, y.work = .pass q → n ∉ q.unit.engines) →
              fieldOf (t.reg (.engineStatus c n)) 39 32 = 7)))

/-- VECTOR, FUNCTION and ROW_REDUCTION that nothing holds go in flight under their own number and the program goes on, also when
INSTRUCTION_RELEASED issues them after a hold; one held shows why. One of a single row of up to 64 elements, met by no error, stores the block of
its elements under its exponent rule, and nothing else in the scratchpads. One of them that no fault stopped leaves flight at
INSTRUCTION_COMPLETE (R103, R115, R120, R121).
ENGINE_HANDOVER, with nothing in flight on its engine and the core's spare site free, moves it there, counts the single errors the copy corrects,
leaves a plane with an uncorrectable word invalid, and logs it; every request of the core is then over. With the spare site taken a request lapses.
LINE_SUBSTITUTION gives a dead or worn line the bank's next spare and logs it, and a dead line of a bank with none left retires its
core (R95, R96, R439). -/
def Obligations.UnitsRunAndSparesTakeOver : Prop :=
  let issues := fun (c op : Nat) (i : Instr) (holds : List Nat) =>
    (op = 0x08 ∧ i = .vector c ∨ op = 0x09 ∧ i = .function c ∨ op = 0x0A ∧ i = .rowReduction c) ∧ holds = [0] ∨
      (op = 0x08 ∨ op = 0x09 ∨ op = 0x0A) ∧ i = .instructionReleased c ∧ holds = [4, 5, 6, 7]
  let flies := fun (k : Core) (op : Nat) (w : Word64) (rec : Rec) (x : Flight) =>
    x.id = k.nextId ∧ x.pc = k.pc ∧ x.word = w ∧ x.record = rec ∧ x.work = .unit op
  ((∀ (s s1 : State) (c op : Nat) (w : Word64) (rec : Rec) (i : Instr) (holds : List Nat), let k := s.core c
    let h := k.held (unitSpans w rec).1 (unitSpans w rec).2
    issues c op i holds → MayIssue s c op holds w → (s.stir (coreDie c)).argRecord c w = .ok (rec, s1) →
    ∃ t, exec i s = .next t ∧
      (h = 0 → (t.core c).pc = k.pc + 1 ∧ (t.core c).hold = 0 ∧ (t.core c).nextId = k.nextId + 1 ∧
        ((∀ y ∈ k.inflight, y.id ≠ k.nextId) → ∃ x ∈ (t.core c).inflight, flies k op w rec x)) ∧
      (h ≠ 0 → t.core c = { k with
        hold := h, holdCore := if k.fill = none then 0 else k.holdCore, holdQueue := if k.fill = none then 0 else k.holdQueue })) ∧
  (∀ (s s1 s2 s3 : State) (c op : Nat) (w : Word64) (rec bytes : Rec) (i : Instr) (holds : List Nat) (es : List Elem) (rule : ExpRule),
    let k := s.core c
    let dst := refAt rec 72
    let fmt := fieldOf w 25 24
    let row := le rec 104 4
    let col := le rec 108 4
    let draw := fun n => if op = 0x0A then s.draw 2 (bits (le rec 112 4) 27 0) (row + n) col else s.draw 2 (bits (le rec 112 4) 27 0) row (col + n)
    let st := storeBlock fmt rule (fieldOf w 19 19 == 1) draw (maxExp (es.flatMap (·.terms))) (es.map (·.val))
    issues c op i holds → MayIssue s c op holds w → s.chip.scratchFlips = [] → k.tableFlips = [] →
    (s.stir (coreDie c)).argRecord c w = .ok (rec, s1) → k.held (unitSpans w rec).1 (unitSpans w rec).2 = 0 → (∀ y ∈ k.inflight, y.id ≠ k.nextId) →
    le rec 96 4 = 1 → 1 ≤ le rec 100 4 → le rec 100 4 ≤ 64 → s.expRule dst.unscaled (fieldOf w 21 20) (bits (le rec 116 2) 11 0) = some rule →
    (if op = 0x08 then vecSource c w rec s1 0 0 else if op = 0x09 then funSource c w rec s1 0 0
      else (redSource c w rec s1 0).map fun x => ([x.1], x.2)) = .ok (es, s2) →
    (if op = 0x0A then s1.writeColBlock c dst fmt 0 st else s1.writeBlock c dst fmt 0 0 st) = .ok (bytes, s3) →
    ∃ t x, exec i s = .next t ∧ t.chip.scratch = s3.chip.scratch ∧ t.chip.scratchFlips = [] ∧ (t.core c).inflight = k.inflight ++ [x] ∧
      flies k op w rec x ∧ x.stopped = none ∧ ∀ j, j ≠ c → t.core j = s.core j) ∧
  (∀ (s : State) (c id op : Nat) (x : Flight), (s.core c).flight? id = some x → x.work = .unit op → x.stopped = none →
    ∃ t, exec (.instructionComplete c id) s = .next t ∧ t.core c = { s.core c with inflight := (s.core c).inflight.filter fun y => y.id ≠ id } ∧
      (∀ j, j ≠ c → t.core j = s.core j) ∧ onlyTouches [.chip] s t)) ∧
  ((∀ (s : State) (c e : Nat) (p0 p1 : CopiedPlane), s.repair.handoverPending.contains (c, e) = true → (s.core c).busy.contains e = false →
    ∃ t, exec (.engineHandover c e p0 p1) s = .next t ∧ (∀ x ∈ t.repair.handoverPending, x.1 ≠ c) ∧
      (s.repair.spareEngineUsed.contains c = true ∨ s.repair.spareEngineFailed.contains c = true →
        t.repair.substituted = s.repair.substituted ∧ t.chip = s.chip ∧ onlyTouches [.repair] s t) ∧
      (s.repair.spareEngineUsed.contains c = false → s.repair.spareEngineFailed.contains c = false → s.headerSound → c < 96 → s.repair.entries.length < 8192 →
        t.repair.substituted = s.repair.substituted ++ [(c, e)] ∧ t.repair.spareEngineUsed = s.repair.spareEngineUsed ++ [c] ∧
        t.repair.changed = true ∧ Logged s t 8 0x7C 3 c ∧ (t.reg (.faultSummary (coreDie c))).getLsbD 61 = true ∧
        fieldOf (t.reg (.engineStatus c e)) 51 40 = min (fieldOf (s.reg (.engineStatus c e)) 51 40 + (p0.corrected + p1.corrected)) 4095 ∧
        ((t.core c).plane e 0).state = (if p0.bad then 3 else ((s.core c).plane e 0).state) ∧
        ((t.core c).plane e 1).state = (if p1.bad then 3 else ((s.core c).plane e 1).state))) ∧
  (∀ (s : State) (c e : Nat) (p0 p1 : CopiedPlane), s.repair.handoverPending.contains (c, e) = false ∨ (s.core c).busy.contains e = true →
    exec (.engineHandover c e p0 p1) s = .next s) ∧
  (∀ (s : State) (c b l : Nat), s.headerSound → s.lineDead c b l = true ∨ s.lineWorn c b l = true → Tab.get 0 s.repair.linesUsed (128 * c + b) < 16 →
    s.repair.entries.length < 8192 → ∃ t, exec (.lineSubstitution c b l) s = .next t ∧
      Tab.get 0 t.repair.linesUsed (128 * c + b) = Tab.get 0 s.repair.linesUsed (128 * c + b) + 1 ∧ t.repair.changed = true ∧
      Logged s t 7 0x7D 3 c ∧ t.repair.retiredCores = s.repair.retiredCores ∧ t.devmem = s.devmem ∧ t.chip.cores = s.chip.cores) ∧
  (∀ (s : State) (c b l : Nat), s.lineDead c b l = true → 16 ≤ Tab.get 0 s.repair.linesUsed (128 * c + b) →
    ∃ t, exec (.lineSubstitution c b l) s = .next t ∧ c ∈ t.repair.retiredCores) ∧
  (∀ (s : State) (c b l : Nat), s.lineDead c b l = false → s.lineWorn c b l = false → exec (.lineSubstitution c b l) s = .next s))

/-- A block that an instruction stores reads back as its elements, a vug as a vug, with the exponent of its scale byte (R37, R38, R39, R46,
R107): for every format, every count of elements up to 64 and every address at which values, scale byte and mask word do not overlap. -/
def Obligations.StoredBlocksReadBack : Prop :=
  ∀ (s s' : State) (c f m b : Nat) (r : Ref) (st : Stored) (e : Int) (bytes : Rec), f < 4 → s.chip.scratchFlips = [] → st.elems.length ≤ 64 →
    (∀ i, some i ∈ st.elems → fmtMin f ≤ i ∧ i ≤ fmtMax f) → scaleExp st.scale = some e → r.unscaled = false →
    let va := r.valueAt f m b
    let n := valueBytes f st.elems.length
    let sa := r.scaleAt m b
    let ma := r.maskAt sa
    (sa < va ∨ va + n ≤ sa) → (f = 3 → (ma + 8 ≤ va ∨ va + n ≤ ma) ∧ (ma + 8 ≤ sa ∨ sa < ma)) →
    s.writeBlock c r f m b st = .ok (bytes, s') →
    ∃ s'', s'.readBlock c r f m b st.elems.length = .ok (st.elems.map fun x => { man := x, exp := e }, s'')

/-! ## Streams -/

/-- STREAM_ARM adds slots when they fit in the ring and is refused with code 6 in the status register when they do not; STREAM_REARM marks the running slot, or makes
the slot that completed last run again, its descriptor fetched anew, and is refused with code 9 for any other; ARM_STREAM answers what a doorbell arm records; during a switch an arm is held (R158, R159, R160, Table 5.8). What is the model's own reading here: log 77. -/
def Obligations.StreamArmsFollowTheirChecks : Prop :=
  ∀ (s : State) (p : Nat) (w : Word64) (e : Rec), let id := fieldOf w 14 0
    let x := s.stream id
    s.streamEntry id = some e → armBad w = false → bit (le e 9 1) 5 = true →
    (if streamClass e = 4 then streamHost e = p else s.flint.owner = some p) → (streamClass e ≠ 4 → s.flint.view = .running) →
    (s.holding = true → fieldOf w 31 30 = 0 → ∃ t, exec (.streamArm (.doorbell p) w) s = .next t ∧
      t.flint.heldArms = s.flint.heldArms ++ [(p, w)] ∧ t.chip = s.chip) ∧
    (s.holding = false → s.flint.view = .loaded ∨ s.flint.view = .running →
      (fieldOf w 31 30 = 0 → ∃ t, exec (.streamArm (.doorbell p) w) s = .next t ∧ (∀ j, j ≠ id → t.stream j = s.stream j) ∧
        if x.armed + fieldOf w 47 32 + 1 ≤ ringSize e then t.stream id = { x with armed := x.armed + fieldOf w 47 32 + 1 }
        else t.stream id = x ∧ (t.reg (.streamStatus id)).getLsbD 62 = true ∧ fieldOf (t.reg (.streamStatus id)) 61 58 = 6 ∧
          (t.reg (.intCause p)).getLsbD 5 = true) ∧
      (fieldOf w 31 30 = 1 → let slot := fieldOf w 63 48
        let again := { x with head := slot, armed := 1, fetched := [] }
        let frame := fun (t : State) => ∀ j, j ≠ id → t.stream j = s.stream j
        ∃ t, exec (.streamRearm (.doorbell p) w) s = .next t ∧
        (∀ r, x.running = some r → r.slot = slot → x.faulted = false → x.rearm = false → t.stream id = { x with rearm := true } ∧ frame t) ∧
        (x.running = none → x.again = none → x.armed = 0 → x.faulted = false → x.last = some slot →
          (s.moves id e = false → t.stream id = { again with again := some slot } ∧ frame t) ∧
          (∀ d s1, s.moves id e = true → (s.stir (ownerDie id)).readSlot id e slot = .ok (d, s1) → frame t ∧
            t.stream id = { again with running := some { slot := slot, desc := d, started := 0, done := 0 }, state := 1 })) ∧
        (∀ y, x.runs = some y → y ≠ slot → t.stream id = x ∧ frame t ∧ (t.reg (.streamStatus id)).getLsbD 62 = true ∧
          fieldOf (t.reg (.streamStatus id)) 61 58 = 9 ∧ (t.reg (.intCause p)).getLsbD 5 = true))) ∧
    (∀ m : Mbx, m.port = p → Accepted s m rowArmStream armForm → w = BitVec.ofNat 64 (le (s.requestOf m) 64 8) → fieldOf w 31 30 = 0 →
      (∃ c, s.residentCtx = some c ∧ le (s.requestOf m) 8 2 = c.id.toNat) → ∃ t, exec (.armStream m) s = .next t ∧
        if x.armed + fieldOf w 47 32 + 1 ≤ ringSize e then Replied t m (.ok []) ∧ t.stream id = { x with armed := x.armed + fieldOf w 47 32 + 1 }
        else Replied t m (.refuse 6) ∧ t.stream id = x)

/-- DESCRIPTOR_FETCH and PEBBLE_LINE_FETCH read consecutive armed slots from the head on, no more than the batch or the line, and the first
becomes the running slot; a mover that does not move, or whose ring is of the other kind, fetches nothing (R154, R157).
TRANSFER_START takes the gate's token before the transfer starts, or leaves the stream waiting at an empty gate; a transfer whose ranges
are not all in regions with the right starts no byte and faults the stream with 0x04; a stream that does not move starts nothing
(R151, R188). What is the model's own reading here: log 75. -/
def Obligations.SlotsAreFetchedAndTransfersStart : Prop :=
  ((∀ (s s1 : State) (id : Nat) (e d : Rec), s.streamEntry id = some e → s.moves id e = true →
    let x := s.stream id
    let n := s.batch (streamClass e)
    x.running = none → x.again = none → x.fetched = [] → 1 ≤ x.armed → (s.stir (ownerDie id)).readSlot id e (x.head % ringSize e) = .ok (d, s1) →
    let got := fun (t : State) (most : Nat) => (t.stream id).faulted = false →
      (t.stream id).running = some { slot := x.head % ringSize e, desc := d, started := 0, done := 0 } ∧ (t.stream id).armed = x.armed ∧
      (t.stream id).head = x.head ∧ (t.stream id).fetched.length + 1 ≤ min most x.armed ∧
      (t.stream id).fetched.map (·.1) = (List.range (t.stream id).fetched.length).map fun i => (x.head + (1 + i)) % ringSize e
    (pebbleRing e = false → ∃ t, exec (.descriptorFetch id) s = .next t ∧ got t n) ∧
    (pebbleRing e = true → ∃ t, exec (.pebbleLineFetch id) s = .next t ∧ got t (4 - x.head % ringSize e % 4))) ∧
  (∀ (s : State) (id : Nat) (e : Rec), s.streamEntry id = some e →
    (s.moves id e = false ∨ pebbleRing e = true → exec (.descriptorFetch id) s = .next s) ∧
    (s.moves id e = false ∨ pebbleRing e = false → exec (.pebbleLineFetch id) s = .next s))) ∧
  ((∀ (s : State) (id : Nat) (e : Rec), s.streamEntry id = some e → s.moves id e = false → exec (.transferStart id) s = .next s) ∧
  ∀ (s : State) (id : Nat) (e : Rec) (r : Running), s.streamEntry id = some e → s.moves id e = true → (s.stream id).running = some r →
    let x := xferOf e r.desc
    let q := x.gateQ
    let cls := streamClass e
    cls ≠ 5 → x.dst ≠ 5 → (cls = 4 → s.hostHeld id e = false) → r.stale = false → (s.stream id).descFlips = [] → r.started = r.done →
    r.started < x.count → (s.stream id).gated = false →
    (x.gate = true → s.queueCount q.1 q.2 = 0 → ∃ t, exec (.transferStart id) s = .next t ∧ t.stream id = { s.stream id with state := 2 } ∧
      t.queueCount q.1 q.2 = 0) ∧
    ((x.gate = true → 1 ≤ s.queueCount q.1 q.2) → s.sidesOk cls x r.done = .ok () → ∃ t, exec (.transferStart id) s = .next t ∧
      (∃ y, (t.stream id).running = some y ∧ y = { r with started := r.started + 1 }) ∧ (t.stream id).state = 1 ∧ (t.stream id).gated = x.gate ∧
      t.queueCount q.1 q.2 = (if x.gate then s.queueCount q.1 q.2 - 1 else s.queueCount q.1 q.2) ∧ t.devmem = s.devmem) ∧
    (∀ u, x.gate = false → s.sidesOk cls x r.done = .error (.fault 0x04 u) → ∃ t, exec (.transferStart id) s = .next t ∧ (t.stream id).faulted = true ∧
      t.devmem = s.devmem))

/-- TRANSFER_COMPLETE of a memory-to-memory transfer of one row puts the source's bytes at the destination and changes no other byte of
device memory, counts the transfer, and after a slot's last transfer leaves the slot, when no channel of the devices is being retrained
(R148, R151, R158, R186, R196). -/
def Obligations.MemoryTransfersCopyTheirBytes : Prop :=
  ∀ (s : State) (id : Nat) (e : Rec) (r : Running), s.streamEntry id = some e → s.moves id e = true → (s.stream id).running = some r →
    let x := xferOf e r.desc
    let src := (x.from.at x r.done 0).1
    let dst := (x.to.at x r.done 0).1
    streamClass e = 3 → r.done < r.started → r.stale = false → (s.stream id).signalled = 0 → (s.stream id).offered = false → (s.stream id).rearm = false → s.devFlips = [] → s.devmem.wf = true →
    x.src = 0 → x.dst = 0 → x.transform = 0 → x.digest = false → x.signal = false → x.final = false → x.link = false → x.rows = 1 → x.sfx = 0 →
    s.sidesOk 3 x r.done = .ok () → (s.stream id).descFlips = [] →
    (s.stirHops id).retraining src x.rowBytes = false → (s.stirHops id).retraining dst x.rowBytes = false →
    ∃ t, exec (.transferComplete id) s = .next t ∧ (t.stream id).completed = (s.stream id).completed + 1 ∧
      (∀ i < x.rowBytes, ∃ k j, s.keyOf (src + i) = some k ∧ s.keyOf (dst + i) = some j ∧ t.devmem.read j = s.devmem.read k) ∧
      (∀ j, (∀ i < x.rowBytes, s.keyOf (dst + i) ≠ some j) → t.devmem.read j = s.devmem.read j) ∧
      (r.done + 1 < x.count → (t.stream id).running = some { r with done := r.done + 1 } ∧ (t.stream id).armed = (s.stream id).armed) ∧
      (r.done + 1 = x.count → (t.stream id).running = none ∧ (t.stream id).last = some r.slot ∧ (t.stream id).armed = (s.stream id).armed - 1 ∧
        (t.stream id).head = ((s.stream id).head + 1) % ringSize e)

/-- STREAM_FAULT stops the stream, keeps the first code in its status register and reports it; STREAM_FAULT_CLEAR clears the bit, and for a
class 4 stream the slot that stopped counts as left, every other is disarmed and the stream is idle; a stream of another class stays
stopped (R172, R173).
LODE_TILE_ACCEPT takes the tile the member's upstream offers into a free one of its 8 slots; LODE_TILE_FORWARD offers the oldest tile not
yet forwarded once the next member has a free slot; each wakes the dies the tile passes, and neither moves anything else (R33, R164, R167). -/
def Obligations.StreamFaultsAndLodeTiles : Prop :=
  ((∀ (s : State) (id code : Nat) (e : Rec), s.streamEntry id = some e → (s.stream id).faulted = false → code < 256 →
    ∃ t, exec (.streamFault id code) s = .next t ∧ (t.stream id).faulted = true ∧ (t.stream id).state = 3 ∧
      (t.reg (.streamStatus id)).getLsbD 63 = true ∧
      ((s.reg (.streamStatus id)).getLsbD 63 = false → fieldOf (t.reg (.streamStatus id)) 57 50 = code) ∧
      { kind := 6, unit := id, sub := 0, code := code } ∈ t.flint.reports ∧ t.devmem = s.devmem ∧ t.flint.state = s.flint.state) ∧
  (∀ (s : State) (id : Nat) (e : Rec), s.streamEntry id = some e → (s.reg (.streamStatus id)).getLsbD 63 = true →
    ∃ t, exec (.streamFaultClear id) s = .next t ∧ (t.reg (.streamStatus id)).getLsbD 63 = false ∧
      (∀ i < 63, (t.reg (.streamStatus id)).getLsbD i = (s.reg (.streamStatus id)).getLsbD i) ∧ (∀ j, j ≠ id → t.stream j = s.stream j) ∧
      (streamClass e ≠ 4 → t.stream id = s.stream id) ∧
      (streamClass e = 4 → (s.stream id).faulted = true → ∀ r, (s.stream id).running = some r →
        (t.stream id).faulted = false ∧ (t.stream id).running = none ∧ (t.stream id).armed = 0 ∧ (t.stream id).state = 0 ∧
        (t.stream id).last = some r.slot ∧ (t.stream id).head = (r.slot + 1) % ringSize e ∧ (t.stream id).completed = (s.stream id).completed))) ∧
  ((∀ (s : State) (id : Nat) (c : Nat × List Nat) (e img : Rec) (rest : List Rec), s.chainOf id = some c → s.streamEntry id = some e →
    (s.stream (upstreamOf c id)).flow = img :: rest → id ∈ c.2 → s.moves id e = true → (s.lodeTiles id).length < 8 →
    ∃ t, exec (.lodeTileAccept id) s = .next t ∧ { bytes := img, forwarded := false, taken := false } ∈ t.lodeTiles id ∧
      (t.stream (upstreamOf c id)).flow = rest ∧ (∀ j, j ≠ id → t.lodeTiles j = s.lodeTiles j) ∧
      (∀ j, j ≠ upstreamOf c id → t.stream j = s.stream j) ∧ onlyTouches [.chip] (s.stir (ownerDie id)) t ∧ t.chip.cores = s.chip.cores) ∧
  (∀ (s : State) (id n : Nat) (c : Nat × List Nat) (e : Rec) (x : LodeTile), s.chainOf id = some c → s.streamEntry id = some e →
    nextMember c id = some n → ((s.lodeTiles id).find? fun y => !y.forwarded) = some x → s.moves id e = true → (s.stream id).flow = [] →
    (s.lodeTiles n).length < 8 → ∃ t, exec (.lodeTileForward id) s = .next t ∧ (t.stream id).flow = [x.bytes] ∧
      (∀ j, j ≠ id → t.lodeTiles j = s.lodeTiles j ∧ t.stream j = s.stream j) ∧ onlyTouches [.chip] ((s.stirHops id).stir (ownerDie n)) t ∧ t.chip.cores = s.chip.cores) ∧
  (∀ (s : State) (id : Nat), s.chainOf id = none → exec (.lodeTileAccept id) s = .next s ∧ exec (.lodeTileForward id) s = .next s))

/-! ## External memory and the update unit -/

/-- MEMORY_ACCESS_GRANT of a write to a sound word stores exactly the bytes of its mask, also when up to four bursts are sent again; of a read
it changes no byte and, when the word cannot be corrected, reports 0x20; when the last try after a retraining fails the device fails
with 0x21 and nothing is stored; either way the stream whose transfer made the access stops. A device in the self-refresh of a retained die
wakes first; while channels that its exit left due are retrained the access is held; a device that grants nothing otherwise is left as it is
(R184, R189, R194, R196, R199). -/
def Obligations.MemoryAccessesReadAndWriteWords : Prop :=
  ∀ (s : State) (a : MemAccess), let k := devWordKey a.dev a.word
    let met := s.devFlips.get k ^^^ a.flips
    let fails := fun (t : State) => ∀ id, a.stream = some id → (s.streamEntry id).isSome = true → (t.stream id).faulted = true
    let asleep := (s.mem a.dev).failed = none ∧ (s.mem a.dev).state = 4 ∧ 2 ≤ (s.die (devDie a.dev)).pstate
    ((s.mem a.dev).grants = false ∧ (s.mem a.dev).state ≠ 4 ∨ s.flint.state = .scrubbing ∨ deviceWords ≤ a.word →
      exec (.memoryAccessGrant a) s = .next s) ∧
    let s0 := s.stir (devDie a.dev)
    ((s.mem a.dev).grants = true ∨ asleep → s.flint.state ≠ .scrubbing → a.word < deviceWords → (s0.mem a.dev).exitDue ≠ [] →
      exec (.memoryAccessGrant a) s = .next (s0.modMem a.dev fun m => { m with held := m.held ++ [a] })) ∧
    ((s.mem a.dev).grants = true ∨ asleep → s.flint.state ≠ .scrubbing → a.word < deviceWords → (s0.mem a.dev).exitDue = [] →
      (∀ mask data, a.write = some (mask, data) → a.crcFails ≤ 4 → a.eccReport = 0 → met = 0 ∨ mask = ~~~0 → s.devmem.wf = true →
        ∃ t, exec (.memoryAccessGrant a) s = .next t ∧ t.devFlips.get k = 0 ∧
          (∀ i < 16, t.devmem.read (16 * k + i) =
            if mask.getLsbD i = true then BitVec.ofNat 8 (data.toNat / 256 ^ i) else s.devmem.read (16 * k + i)) ∧
          (∀ j, j / 16 ≠ k → t.devmem.read j = s.devmem.read j) ∧ (∀ w, w ≠ k → t.devFlips.get w = s.devFlips.get w)) ∧
      (a.write = none → a.crcFails = 0 → a.eccReport = 0 → met = 0 → ∃ t, exec (.memoryAccessGrant a) s = .next t ∧ t.devmem = s.devmem ∧
        t.devFlips.get k = 0 ∧ t.flint.reports = s.flint.reports) ∧
      (a.write = none → a.crcFails = 0 → a.eccReport = 0 → settle met = none → ∃ t, exec (.memoryAccessGrant a) s = .next t ∧
        t.devmem = s.devmem ∧ t.devFlips.get k = met ∧ { kind := 2, unit := a.dev, sub := 0, code := 0x20 } ∈ t.flint.reports ∧ fails t) ∧
      (5 ≤ a.crcFails → a.retrainOk = false → ∃ t, exec (.memoryAccessGrant a) s = .next t ∧ t.devmem = s.devmem ∧
        (t.mem a.dev).failed = some 0x21 ∧ { kind := 2, unit := a.dev, sub := 0, code := 0x21 } ∈ t.flint.reports ∧ fails t))

/-- REFRESH_DUE refreshes one stack die of a running device, in turn, and takes the rate of R192; READ_TIMING_TRACKING counts; TEMPERATURE_READOUT holds the reading and finds
the channels that drifted by 10 °C, in self-refresh only at the exit, and replaces one that cannot be; FULL_RETRAINING of the channel that is due
ends its debt, and the last of an exit grants the accesses held, in order, or it fails the device; PATROL_READ reads one page, corrects what can be corrected, and goes on to the next (R176, R180, R191, R192, R193, R196, R199). What is the model's own reading here: log 82, log 83, log 173, log 199. -/
def Obligations.MemoryDevicesAreMaintained : Prop :=
  (∀ (s : State) (d : Nat), (s.mem d).failed = none → (s.mem d).state ∈ [2, 3, 5] → ∃ t, exec (.refreshDue d) s = .next t ∧
    t.mem d = { s.mem d with
      refreshes := (s.mem d).refreshes + 1, refreshNext := ((s.mem d).refreshNext + 1) % 8,
      fastRefresh := decide ((s.mem d).replaced ≠ 0) || decide ((s.mem d).readout > 85) } ∧
    t.sent = s.sent ++ [.stackCommand d (BitVec.ofNat 3 (s.mem d).refreshNext) "REFRESH"] ∧
    (∀ j, j ≠ d → t.mem j = s.mem j) ∧ onlyTouches [.mems, .sent] s t) ∧
  (∀ (s : State) (d c : Nat), (s.mem d).failed = none → (s.mem d).state = 2 → ∃ t, exec (.readTimingTracking d c) s = .next t ∧
    t.mem d = { s.mem d with tracked := (s.mem d).tracked + 1 } ∧ (∀ j, j ≠ d → t.mem j = s.mem j) ∧ onlyTouches [.mems] s t) ∧
  (∀ (s : State) (d : Nat) (x : Int), (s.mem d).failed = none → (s.mem d).state ∈ [2, 3, 5] →
    ∃ t, exec (.temperatureReadout d x) s = .next t ∧ (t.mem d).readout = x ∧
      (badReadout ((s.mem d).lastOr x) x = false → (t.mem d).replaced = 0 ∧ ∀ c, c ∈ (t.mem d).due ↔
        c ∈ (s.mem d).due ∨ (c < 4 ∧ (s.mem d).measured = true ∧ 10 ≤ (x - (s.mem d).trainedAt.getD c x).natAbs)) ∧
      (badReadout ((s.mem d).lastOr x) x = true → (t.mem d).replaced = (s.mem d).replaced + 1 ∧ (t.mem d).due = [0, 1, 2, 3] ∧
        (t.reg (.memStatus d)).getLsbD 62 = true ∧
        fieldOf (t.reg (.memCount d)) 23 12 = min (fieldOf (s.reg (.memCount d)) 23 12 + 1) 4095)) ∧
  (∀ (s : State) (d : Nat) (x : Int), (s.mem d).failed = none → (s.mem d).state = 4 → ∃ t, exec (.temperatureReadout d x) s = .next t ∧
    (t.mem d).readout = x ∧ (badReadout ((s.mem d).lastOr x) x = false → (t.mem d).replaced = 0 ∧ (t.mem d).due = (s.mem d).due ∧
      (t.mem d).exitDue = (s.mem d).exitDue) ∧ (badReadout ((s.mem d).lastOr x) x = true → (t.mem d).exitDue = [0, 1, 2, 3])) ∧
  (∀ (s : State) (d c : Nat), (s.mem d).grants = true → (s.mem d).due.min? = some c → (s.mem d).held ≠ [] → let s1 := s.retrained d c
    exec (.fullRetraining d c true) s = .next (if (s1.mem d).exitDue = [] then
      (s1.mem d).held.foldl State.grant (s1.modMem d fun m => { m with held := [] }) else s1)) ∧
  (∀ (s : State) (d c : Nat) (ok : Bool), (s.mem d).grants = true → (s.mem d).due.min? = some c → (ok = true → (s.mem d).held = []) → ∃ t, exec (.fullRetraining d c ok) s = .next t ∧
    if ok then c ∉ (t.mem d).due ∧ (t.mem d).trainedAt = (s.mem d).trainedAt.set c (s.mem d).readout ∧ (t.mem d).state = (s.mem d).state ∧
      (t.reg (.memStatus d)).getLsbD 61 = true ∧ fieldOf (t.reg (.memCount d)) 35 24 = min (fieldOf (s.reg (.memCount d)) 35 24 + 1) 4095
    else let code := if (s.mem d).exitDue.contains c then 0x25 else 0x22
      (t.mem d).failed = some code ∧ (t.mem d).state = 6 ∧ { kind := 2, unit := d, sub := 0, code := code } ∈ t.flint.reports) ∧
  (∀ (s : State) (d : Nat), (s.mem d).failed = none → (s.mem d).state = 2 → s.flint.state ≠ .scrubbing → s.cfg.patrolH ≠ 0 →
    (s.die (devDie d)).pstate < 2 → let first := devWordKey d (256 * (s.mem d).patrolPage)
    ∃ t, exec (.patrolRead d none) s = .next t ∧ (t.mem d).patrolPage = ((s.mem d).patrolPage + 1) % 15625000 ∧
      (∀ k, k < first ∨ first + 256 ≤ k → t.devFlips.get k = s.devFlips.get k) ∧
      (∀ k, first ≤ k → k < first + 256 → (settle (s.devFlips.get k) ≠ none → t.devFlips.get k = 0) ∧
        (settle (s.devFlips.get k) = none → t.devFlips.get k = s.devFlips.get k ∧
          { kind := 2, unit := d, sub := 0, code := 0x20 } ∈ t.flint.reports)))

/-- UPDATE_ENTRY_START takes the gate's token and holds the hyperparameters, or stops the unit with its cause; UPDATE_ENTRY_COMPLETE computes every
block, writes the status record, and signals: the next entry then waits at its gate, or the list is done, or the unit holds for room
in the queue (R214, R216, R221, R222). What is the model's own reading here: log 127. -/
def Obligations.UpdateEntriesRunToTheirSignal : Prop :=
  ∀ (s : State) (d : Nat) (l : List Rec) (r : Rec), let u := s.updUnit d
    let gate := updQueue r 80
    let sig := updQueue r 82
    s.updList d = some l → l[u.entry]? = some r →
    (u.state = 1 → s.queueCount gate.1 gate.2 = 0 → exec (.updateEntryStart d) s = .next s) ∧
    (u.state = 1 → 1 ≤ s.queueCount gate.1 gate.2 →
      (s.updCheck r = .denied → ∃ t, exec (.updateEntryStart d) s = .next t ∧ (t.updUnit d).state = 5 ∧ (t.updUnit d).cause = 2 ∧
        (t.reg (.updateStatus d)).getLsbD 63 = true ∧ { kind := 7, unit := d, sub := 0, code := 2 } ∈ t.flint.reports) ∧
      (s.updCheck r = .held → exec (.updateEntryStart d) s = .next s) ∧
      (s.updCheck r = .ok → ∀ h s1, (s.setQueue gate.1 gate.2 (s.queueCount gate.1 gate.2 - 1) |>.stir d).devRead (updAddr r 74) 64 = .ok (h, s1) →
        ∃ t, exec (.updateEntryStart d) s = .next t ∧ t.queueCount gate.1 gate.2 = s.queueCount gate.1 gate.2 - 1 ∧
          if hyperBad h = true then (t.updUnit d).state = 5 ∧ (t.updUnit d).cause = 3 else t.updUnit d = { u with state := 2, block := 0, hyper := h })) ∧
    (∀ a s1 s2, u.state = 2 → s.updCheck r = .ok → State.updBlocks r u.hyper d u.entry (updCount r) 0 UpdAcc.init (s.stir d) = (a, s1, none) →
      ([(updInstr r 84, a.weights), (updInstr r 86, a.gradient), (updInstr r 88, a.update)].foldl (fun (s : State) (x : Option Nat × Accum) =>
        match x.1 with | some i => s.feed i x.2 | none => s) s1).devWrite (updAddr r 94) (updStatus a) = .ok s2 →
      ∃ t, exec (.updateEntryComplete d) s = .next t ∧ (t.updUnit d).state =
        (if s2.queueCount sig.1 sig.2 + 1 ≤ s2.queueDepth sig.1 sig.2 then (if (s2.updUnit d).entry + 1 < l.length then 1 else 4) else 3) ∧
        (s2.queueCount sig.1 sig.2 + 1 ≤ s2.queueDepth sig.1 sig.2 → t.queueCount sig.1 sig.2 = s2.queueCount sig.1 sig.2 + 1) ∧
        t.devmem = s2.devmem)

/-! ## Ring -/

/-- A control message for this chip leaves its class stream and does what R259, R266 and R269 give its type: an acknowledgement releases the chunks it
names, a refuse sends again from its number and the fourth of one number is fault 0x32, a resume query is answered with the highest number
accepted, a resume answer counts as an acknowledgement and the rest is sent again. An answer that no query asked for, and an unknown tag, are
violation 9, a reserved field that is set is violation 5; a message with a word stored as uncorrectable is dropped and counted, and a plane entry
that does not agree with its complement is fault 0x34 (R240, R287, Table 8.14). -/
def Obligations.ControlMessagesActByType : Prop :=
  (∀ (s : State) (port : Nat) (m : Rec) (pl : Plan), let q := bits (le m 4 1) 3 0
    let peer := bits (le m 6 2) 11 0
    let n := BitVec.ofNat 32 (le m 12 4)
    let l := linkOf s.chip.ring.up q peer
    let s0 := (s.takeMessage port m).2
    let clean := (s.takeMessage port m).1.getD 0 = 0
    let each := fun (t : State) => exec (.refuseReceived port m) s = .next t ∧ exec (.resumeQueryReceived port m) s = .next t ∧
      exec (.resumeAnswerReceived port m) s = .next t ∧ exec (.acknowledgeReceived port m) s = .next t.stopCheckAll
    let breaks := fun (row : Nat) => each (s0.ringViolation (s0.violPlane port q) row (le m 0 4))
    (onlyTouches [.oports] s s0 ∧ (∀ p, p ≠ port → s0.oport p = s.oport p) ∧ s0.oport port = { s.oport port with rxq := (s0.oport port).rxq } ∧
      (s0.oport port).rxq.length ≤ (s.oport port).rxq.length) ∧
    (∀ type < 4, ControlFor s m type pl → ¬ clean → each (s0.integrityError port)) ∧
    (ControlFor s m 0 pl → clean → exec (.acknowledgeReceived port m) s =
      .next ((s0.modUp q peer fun l => { l.ackTo n with silent := 0 }).tryColls).stopCheckAll) ∧
    (ControlFor s m 3 pl → clean → let times := if l.refusedNo = n then l.refused + 1 else 1
      let s' := s0.modUp q peer fun l => { l with refused := times, refusedNo := n }
      ∃ t, exec (.refuseReceived port m) s = .next t ∧ (times < 4 → t = s'.resendFrom pl q peer n) ∧
        (4 ≤ times → (t.reg (.ringStatus q)).getLsbD 63 = true ∧ { kind := 5, unit := q, sub := 0, code := 0x32 } ∈ t.flint.reports ∧
          ((s.reg (.ringStatus q)).getLsbD 63 = false → fieldOf (t.reg (.ringStatus q)) 55 48 = 0x32) ∧ t.chip.ring.up = s'.chip.ring.up)) ∧
    (ControlFor s m 1 pl → clean → s.replayMode ≠ 3 → (s.oport (planeUp (pl.plane q))).state = 3 →
      exec (.resumeQueryReceived port m) s = .next (s0.sendMessage (planeUp (pl.plane q)) 1 24 true 0 (controlMsg (le pl.settings 4 4) 2 q (planePos (pl.plane q)) peer
        (linkOf s.chip.ring.down q peer).accepted 0))) ∧
    (ControlFor s m 2 pl → clean → ∃ t, exec (.resumeAnswerReceived port m) s = .next t ∧ (l.query = false → t = s0.ringViolation q 9 (le pl.settings 4 4)) ∧
      (l.query = true → t = ((s0.modUp q peer fun l => { l.ackTo n with
        query := false, silent := 0, route := if l.direct then 1 else l.route, upAgain := l.upAgain && !l.direct, direct := false }).resendFrom pl q peer (n + 1)).tryColls)) ∧
    (s.tagged (le m 0 4) = none → breaks 9) ∧
    (∀ c pl', s.tagged (le m 0 4) = some (c, pl') → (pl'.planeSound q = false → each (s0.planeFault q)) ∧
      (pl'.planeSound q = true → (4 ≤ bits (le m 4 1) 7 4 → breaks 9) ∧ (bits (le m 4 1) 7 4 < 4 → controlReserved m = true → breaks 5)))) ∧
  (∀ (l : Link) (n : Word32), if after n l.acked = true ∧ after n (l.next - 1) = false then
      (l.ackTo n).acked = n ∧ ∀ c, c ∈ (l.ackTo n).hold ↔ c ∈ l.hold ∧ after c.number n = true else l.ackTo n = l) ∧
  (∀ (s : State) (q row tag : Nat), s.headerSound → let t := s.ringViolation q row tag
    (t.reg (.ringStatus q)).getLsbD 62 = true ∧ fieldOf (t.reg (.ringCount q)) 63 52 = min (fieldOf (s.reg (.ringCount q)) 63 52 + 1) 4095 ∧
    Logged s t 5 0x73 6 q ∧ onlyTouches [.regs, .flint] s t)

/-- STOP_RECEIVED holds back a class of a port and nothing else; GO_RECEIVED lets it go where it stood, and words of it that wait leave an up
port whose peer is awake and whose replay buffer has room; RESUME_QUERY_TIMEOUT queries again and moves to the next route after three, also while a link that is up again waits for its detoured chunks; DETOUR_END queries
over the link once it is up and no detoured chunk is unacknowledged (R265, R269, Table 8.9). What is the model's own reading here: log 91. -/
def Obligations.StoppedClassesAndSilentRoutesGoOn : Prop :=
  (∀ (s : State) (p cls : Nat), ∃ t, exec (.stopReceived p cls) s = .next t ∧ onlyTouches [.oports] s t ∧ (∀ q, q ≠ p → t.oport q = s.oport q) ∧
    t.oport p = { s.oport p with stoppedBy := (s.oport p).stoppedBy ||| ((1 : BitVec 2) <<< cls) }) ∧
  (∀ (s : State) (p cls : Nat), cls < 2 → ∃ t, exec (.goReceived p cls) s = .next t ∧ (s.chip.ring.colls = [] →
    (∀ c < 2, (t.oport p).stoppedBy.getLsbD c = ((s.oport p).stoppedBy.getLsbD c && c != cls)) ∧
    ((s.oport p).state = 3 → (s.oport p).peerDormant = false → (s.oport p).replay.length < 1024 → s.flint.state ≠ .scrubbing → ((s.oport p).txq.any fun w => w.cls == cls) = true →
      (s.oport p).replay.length < (t.oport p).replay.length ∧ (t.oport p).txq.length < (s.oport p).txq.length))) ∧
  (∀ (s : State) (pl : Plan) (q peer : Nat), s.plan? = some pl → let l := linkOf s.chip.ring.up q peer
    (∃ t, exec (.resumeQueryTimeout q peer) s = .next t ∧
      (l.route = 1 ∨ l.route = 4 ∨ (l.query = false ∧ l.hold = []) → t = s) ∧
      (l.route = 2 ∨ l.route = 3 → l.query = true → l.settled = true → t = s.query pl q peer) ∧
      (l.route = 2 ∨ l.route = 3 → l.query = true → l.settled = false → l.silent < 2 →
        t = (s.modUp q peer fun l => { l with silent := l.silent + 1 }).query pl q peer) ∧
      (l.route = 2 → l.query = true → l.settled = false → 2 ≤ l.silent → (pl.route q 1).isSome = true →
        t = (s.modUp q peer fun l => { l with route := 3, silent := 0 }).query pl q peer) ∧
      (l.route = 3 → l.query = true → l.settled = false → 2 ≤ l.silent → s.openSeqs q ≠ [] → (t.reg (.ringStatus q)).getLsbD 63 = true ∧
        { kind := 5, unit := q, sub := 0, code := 0x31 } ∈ t.flint.reports ∧ (linkOf t.chip.ring.up q peer).route = 4)) ∧
    ∃ t, exec (.detourEnd q peer) s = .next t ∧
      t = if l.upAgain = true ∧ ∀ c ∈ l.hold, bit (le c.header 24 2) 15 = false then s.query pl q peer else s) ∧
  (∀ (s : State) (q peer : Nat), s.plan? = none → exec (.resumeQueryTimeout q peer) s = .next s ∧ exec (.detourEnd q peer) s = .next s)

/-- A chunk for this chip leaves its class stream and is accepted in the order of its link's numbers and in no other: the expected number, whole and
with its fields in order, moves the number on and is acknowledged or, for the next epoch, held; a number already accepted is dropped; a later
one, or a chunk with an uncorrectable word, is refused with the number expected and accepts nothing. A chunk of an unknown tag is violation 1, one
of a loaded context that does not run is parked while the class-0 buffer has room and else dropped and refused, and the hold limit drops the
parked chunk at the head (R261, R266, R287, Table 8.14). -/
def Obligations.ChunksAreAcceptedInOrder : Prop :=
  (∀ (s : State) (port : Nat) (h payload : Rec) (pl : Plan), ChunkFor s port h pl → let q := bits (le h 6 1) 6 3
    let from' := bits (le h 14 2) 11 0
    let l := linkOf s.chip.ring.down q from'
    let n := BitVec.ofNat 32 (le h 28 4)
    let taken := s.takeMessage port (h ++ payload)
    let s0 := taken.2
    let clean := taken.1 = none ∨ taken.1 = some 0
    (clean → n = l.accepted → exec (.chunkReceived port h payload false) s = .next (s0.stopCheck port)) ∧
    (clean → n ≠ l.accepted + 1 → after n (l.accepted + 1) = true → exec (.chunkReceived port h payload false) s = .next
      ((if bit (le h 24 2) 15 = true ∨ l.lastDetoured = true then s0.tellUp pl 3 q from' (l.accepted + 1)
        else (s0.tellUp pl 3 q from' (l.accepted + 1)).ringViolation q 4 (le h 0 4)).stopCheck port)) ∧
    (clean → n = l.accepted + 1 → s0.chunkBad h payload = true → exec (.chunkReceived port h payload false) s = .next
      (((s0.tellUp pl 3 q from' n).ringViolation q 5 (le h 0 4)).stopCheck port)) ∧
    (∀ bad, bad = true ∨ ¬ clean → n = l.accepted + 1 → let s1 := if taken.1 = none then s0.take.2 else s0
      s1.chunkBad h payload = false → exec (.chunkReceived port h payload bad) s = .next
        (((s1.tellUp pl 3 q from' n).integrityError port).stopCheck port)) ∧
    (clean → n = l.accepted + 1 → s0.chunkBad h payload = false → s0.used0 port + 48 + payload.length ≤ 524288 →
      (∃ pe, s.planeEntry q = some (pe, pe.map (~~~ ·))) →
      let s' := s0.modDown q from' fun l => { l with accepted := n, lastDetoured := bit (le h 24 2) 15 }
      exec (.chunkReceived port h payload false) s = .next ((if bit (le h 6 1) 7 = s.epochBit then (s'.tellUp pl 0 q from' n).deliver h payload
        else s'.modRing fun r => { r with held := r.held ++ [(port, { header := h, payload := payload })] }).stopCheck port))) ∧
  (∀ (s : State) (port : Nat) (h payload : Rec) (bad : Bool), h.length = 48 → let taken := s.takeMessage port (h ++ payload)
    let s0 := taken.2
    ((s.oport port).state ≠ 3 → exec (.chunkReceived port h payload bad) s = .next s) ∧
    ((s.oport port).state = 3 → s.tagged (le h 0 4) = none → exec (.chunkReceived port h payload bad) s = .next
      (s0.ringViolation (s0.violPlane port (bits (le h 6 1) 6 3)) 1 (le h 0 4))) ∧
    (∀ c pl, (s.oport port).state = 3 → s.tagged (le h 0 4) = some (c, pl) → s.ringRuns c = false → bits (le h 16 8) 63 62 = 0 →
      pl.linked (bits (le h 6 1) 6 3) = true → bits (le h 12 2) 11 0 = planePos (pl.plane (bits (le h 6 1) 6 3)) →
      pl.planeSound (bits (le h 6 1) 6 3) = true → (s.replayMode = 3 → le h 0 4 ≠ (s.plan?.map fun p => le p.settings 4 4).getD 0) →
      ∃ t, exec (.chunkReceived port h payload bad) s = .next t ∧
        (s0.used0 port + 48 + payload.length ≤ 524288 → t.chip = s.chip ∧ (t.oport port).stopping.getLsbD 0 = true ∧ (t.oport port).parked =
          (s.oport port).parked ++ [{ header := h, payload := payload, bad := bad || taken.1.any (· ≠ 0) }]) ∧
        (524288 < s0.used0 port + 48 + payload.length → (t.oport port).parked = (s.oport port).parked ∧
          (t.reg (.ringStatus (bits (le h 6 1) 6 3))).getLsbD 62 = true))) ∧
  (∀ (s : State) (port : Nat) (k : Chunk) (rest : List Chunk), (s.oport port).parked = k :: rest → s.headerSound →
    (∀ k', rest.head? = some k' → ∃ c pl, s.tagged (le k'.header 0 4) = some (c, pl) ∧ s.ringRuns c = false) →
    ∃ t, exec (.heldChunkHoldLimit port) s = .next t ∧ (t.oport port).parked = rest ∧ t.chip = s.chip ∧
      Logged s t 5 0x73 6 (s.violPlane port (bits (le k.header 6 1) 6 3))) ∧
  (∀ (s : State) (port : Nat), (s.oport port).parked = [] → exec (.heldChunkHoldLimit port) s = .next s)

/-- COLLECTIVE_INPUT_TRANSFER stores the contribution of the next ring block of a collective and lets that block go on; AGREEMENT_START takes the
gate's token and holds this chip's vector; COLLECTIVE_COMPLETE writes the status record of a collective with nothing left to do, and
completes no other; the hold limit stops a collective that stands still with fault 0x30 (R248, R250, R255, R263, R272). -/
def Obligations.CollectivesRunToCompletion : Prop :=
  (∀ (s s1 s2 : State) (x b i : Nat) (e se : Rec) (xf : Xfer) (rows : List Rec) (sl : Nat), s.collEntry? x = some e →
    s.streamEntry (collIn e) = some se → collKind e ≠ 2 → s.moves (collIn e) se = true → (s.coll x).stopped = false → (s.coll x).complete = false →
    b ∉ (s.coll x).inputs → (s.coll x).inputs.length < s.inputsOf e → b < collCount e →
    let t0 := s.stream (collIn e)
    let T := t0.completed + t0.inPlace.length
    let k := (s.coll x).inputs.length
    T - t0.first < (t0.running.map (·.started)).getD 0 → findXfer se t0.slots (T - t0.first) = some (sl, xf, i) →
    (xf.src ≠ 3 → T = s.streamBase x (collIn e) false + k ∧ b = if collKind e = 1 then (s.ownedBlocks e).getD k (collCount e) else k) →
    fitsBlock xf (collFmt e) = true → t0.descFlips = [] → s1.planeAgrees (s1.blockPlane e b) = true → s1 = (s.stir (ownerDie (collIn e))).openColl x e → (s1.coll x).stopped = false →
    s1.inputRows (collIn e) (collFmt e) b xf i = .ok (rows, s2) →
    ∃ t, exec (.collectiveInputTransfer x b) s = .next t ∧
      (s2.contribute x e b rows = none → t = (s2.ringFault (s1.blockPlane e b) 0x36 [x]).stopCheckAll) ∧
      ∀ s3, s2.contribute x e b rows = some s3 → t = ((s3.placed (collIn e) se T).tryBlock x b).stopCheckAll ∧
        (s3.coll x).inputs = (s2.coll x).inputs ++ [b] ∧ (collKind e = 3 → Tab.find? (s3.coll x).own b = some rows.flatten) ∧
        (collKind e = 0 → let sts := (rows.map (rowOpds (collFmt e) 1 false)).mapIdx fun i os => s2.narrowOwn x (s2.posFor e b) b i os
          Tab.find? (s3.coll x).own b = some (reducePayload (sts.map (·.1)) ++ toLe 4 (countsOf sts).1 ++ toLe 4 (countsOf sts).2))) ∧
  (∀ (s : State) (x b : Nat), s.collEntry? x = none → exec (.collectiveInputTransfer x b) s = .next s.stopCheckAll ∧
    exec (.agreementStart x) s = .next s ∧ exec (.collectiveComplete x) s = .next s ∧ exec (.collectiveHoldLimit x) s = .next s) ∧
  (∀ (s : State) (pl : Plan) (x : Nat) (e : Rec), s.plan? = some pl → s.collEntry? x = some e → collKind e = 2 → s.flint.state = .running →
    s.member e = true → Tab.find? (s.coll x).own 0 = none → (s.coll x).stopped = false → (s.chip.step.any (·.aborting)) = false → s.holding = false →
    (s.queueCount (collGate e).1 (collGate e).2 = 0 → exec (.agreementStart x) s = .next s) ∧
    (∀ s1, s.waitTokens (collGate e).1 (collGate e).2 1 = some s1 → ((s1.openColl x e).coll x).stopped = false → let s2 := s1.openColl x e
      exec (.agreementStart x) s = .next ((s2.modColl x fun c => { c with own := Tab.set c.own 0 (s2.ownVector e) }).tryAgree pl x e))) ∧
  (∀ (s : State) (pl : Plan) (x : Nat) (e : Rec), s.plan? = some pl → s.collEntry? x = some e → s.flint.state = .running ∨ s.flint.state = .loaded →
    s.member e = true → let s1 := if collKind e = 2 then s.tryAgree pl x e else s.tryAll x
    ∃ t, exec (.collectiveComplete x) s = .next t ∧ ((s1.coll x).complete = true ∨ s1.collDone x e = false → t = s1) ∧
      ((s1.coll x).complete = false → s1.collDone x e = true → collRecord e = 0 → t = s1.modColl x fun c => { c with started := true, complete := true }) ∧
      (∀ s2, (s1.coll x).complete = false → s1.collDone x e = true → collRecord e ≠ 0 → s1.rangesOk true [(collRecord e, 16)] = .ok () →
        (s1.coll x).sats < 2 ^ 32 - 1 → (s1.coll x).vugs < 2 ^ 32 - 1 → (s1.coll x).mismatches < 2 ^ 32 - 1 → (s1.coll x).detoured < 2 ^ 31 - 1 →
        s1.devWrite (collRecord e) (toLe 4 (s1.coll x).sats ++ toLe 4 (s1.coll x).vugs ++ toLe 4 (s1.coll x).mismatches ++ toLe 4 (s1.coll x).detoured) = .ok s2 →
        t = s2.modColl x fun c => { c with started := true, complete := true })) ∧
  (∀ (s : State) (x : Nat) (e : Rec), s.collEntry? x = some e → s.member e = false → exec (.collectiveHoldLimit x) s = .next s) ∧
  (∀ (s : State) (x : Nat) (e : Rec), s.collEntry? x = some e → s.flint.state = .running → s.chip.step.isSome = true → s.member e = true →
    (s.coll x).complete = false → (s.coll x).stopped = false → let q := (collPlanes e).headD 0
    ∃ t, exec (.collectiveHoldLimit x) s = .next t ∧ (t.coll x).stopped = true ∧ (∀ y, y ≠ x → t.coll y = s.coll y) ∧
      (t.reg (.ringStatus q)).getLsbD 63 = true ∧ ((s.reg (.ringStatus q)).getLsbD 63 = false → fieldOf (t.reg (.ringStatus q)) 55 48 = 0x30) ∧
      { kind := 5, unit := q, sub := 0, code := 0x30 } ∈ t.flint.reports)

/-! ## Optical ports -/

/-- A port takes each flit once and in order: whatever arrives, the number of flits taken is unchanged or one more, and one more only for a flit
of the expected number, whole, on an up port; such a flit in order is taken, its words enter their class stream and nack is cleared; one with an
uncorrectable codeword sets nack and is counted. A nack sends again, bit for bit and in order, what is not acknowledged; the sixteenth nack without
the flit, and 1 ms of alignment lost, take the link down with fault 0x40; the timer stands still while the peer is dormant (R287, R290, R291,
R292, R317). What is the model's own reading here: log 100. -/
def Obligations.FlitsAreTakenOnceInOrder : Prop :=
  (∀ (s : State) (p n : Nat) (ctl : BitVec 20) (f : Rec) (u : Bool), let o := s.oport p
    ∃ t, exec (.flitReceived p ctl f n u) s = .next t ∧
    ((t.oport p).rxNext = o.rxNext ∨ o.state = 3 ∧ u = false ∧ n ≤ 15 ∧ (crc64 (slice f 0 632)).toNat = le f 632 8 ∧ flitForm f = true ∧
      BitVec.ofNat 32 (le f 0 4) = o.rxNext ∧ (t.oport p).rxNext = o.rxNext + 1) ∧
    (FlitSound s p ctl f → u = false → n ≤ 15 → o.rxSinceIdle < 4095 → bit (le f 8 1) 6 = false → BitVec.ofNat 32 (le f 0 4) = o.rxNext →
      (t.oport p).rxNext = o.rxNext + 1 ∧ (t.oport p).nacking = false ∧ (t.oport p).nacks = 0 ∧
      (t.oport p).rxq = o.rxq ++ (List.range (le f 9 1)).map fun i =>
        ({ cls := bits (le f 8 1) 1 0, poison := bit (le f 624 5) i, word := slice f (16 * (i + 1)) 16 } : RxWord)) ∧
    (FlitSound s p ctl f → u = false → n ≤ 15 → bit (le f 8 1) 6 = false → BitVec.ofNat 32 (le f 0 4) ≠ o.rxNext → (t.oport p).nacking = true ∧
      (t.oport p).rxq = o.rxq) ∧
    (o.state = 3 → u = true ∨ 15 < n → (t.oport p).nacking = true ∧ (t.oport p).rxq = o.rxq ∧ onlyTouches [.oports, .regs, .sent] s t ∧
      fieldOf (t.reg (.portCount p)) 39 28 = min (fieldOf (s.reg (.portCount p)) 39 28 + 1) 4095) ∧
    (o.state ≠ 3 → ¬ (o.state = 2 ∧ o.stepNo = 7) → o.state ≠ 4 → t = s) ∧
    ((o.state = 2 ∧ o.stepNo = 7) ∨ o.state = 4 → onlyTouches [.oports] s t ∧ t.oport p = { o with rxCounter := some (bits ctl.toNat 15 0) })) ∧
  (∀ (s : State) (p : Nat) (a : Word32), let o := s.oport p
    ∃ t, exec (.nackReceived p a) s = .next t ∧ (o.state ≠ 3 → t = s) ∧
      (o.state = 3 → after a (o.txNext - 1) = true → t = s.portViolation p 3) ∧
      (o.state = 3 → after a (o.txNext - 1) = false → o.txq = [] → s.flint.state ≠ .scrubbing ∨ s.drains p = true →
        let again := if after a o.acked = true then o.replay.filter fun f => after f.1 a else o.replay
        (t.oport p).replay = again ∧ (t.oport p).acked = (if after a o.acked = true then a else o.acked) ∧
        fieldOf (t.reg (.portCount p)) 27 16 = min (fieldOf (s.reg (.portCount p)) 27 16 + again.length) 4095 ∧
        ∃ more, t.sent = s.sent ++ more ∧
          (again.map (·.2)).Sublist (more.filterMap fun x => match x with | .codeword q _ c _ => if q = p then some c else none | _ => none))) ∧
  (∀ (s : State) (p : Nat), let o := s.oport p
    ∃ t, exec (.nackTimeout p) s = .next t ∧ (o.state ≠ 3 ∨ o.nacking = false → t = s) ∧
      (o.state = 3 → o.nacking = true → o.nacks < 15 → (t.oport p).nacks = o.nacks + 1 ∧ (t.oport p).nacking = true ∧
        (t.oport p).rxNext = o.rxNext ∧ (t.oport p).replay = o.replay ∧ onlyTouches [.oports, .sent] s t ∧
        ∃ ctl : BitVec 20, let f := flitBytes o.txNext (o.rxNext - 1) true true 0 []
        bits ctl.toNat 19 18 = 0 ∧ Out.codeword p ctl f (rsLines ctl f) ∈ t.sent) ∧
      (o.state = 3 → o.nacking = true → 15 ≤ o.nacks → (t.oport p).state = 1 ∧ { kind := 3, unit := p, sub := 0, code := 0x40 } ∈ t.flint.reports)) ∧
  (∀ (s : State) (p : Nat), ∃ t, exec (.linkDownTimeExpiry p) s = .next t ∧ ((s.oport p).state ≠ 3 ∨ (s.oport p).peerDormant = true → t = s) ∧
    ((s.oport p).state = 3 → (s.oport p).peerDormant = false → (t.oport p).state = 1 ∧ (t.oport p).stepNo = (if (s.oport p).light then 5 else 4) ∧ (t.oport p).replay = [] ∧
      (t.oport p).parked = (s.oport p).parked ∧ (t.reg (.portStatus p)).getLsbD 60 = true ∧ (∀ q < 2, (t.reg (.intCause q)).getLsbD 2 = true) ∧
      { kind := 3, unit := p, sub := 0, code := 0x40 } ∈ t.flint.reports))

/-- Light lost takes a link down with fault 0x41 and light found begins the search; RECEIVE_SEARCH_COMPLETE assigns the rotation of least
cost of the codes in the range of its search, or after a full sweep without one is fault 0x42; a training block of this port carries its marker,
channel and receive state on each of its 16 channels; training blocks of all channels with the peer ready end step 6 and open the identity
exchange with a link codeword; link codewords with five samples and the own identity echoed bring the port up; an identity exchange begins anew
after its retry time; a management codeword gives the peer's readings and port state, or with another identity takes the link down with 0x44
(R292, R303, R304, R309, R310, R311, R288). What is the model's own reading here: log 99, 101. -/
def Obligations.PortsTrainAndComeUp : Prop :=
  (∀ (s : State) (p : Nat), ∃ t, exec (.lossOfLight p) s = .next t ∧ (t.oport p).light = false ∧
    ((s.oport p).state = 3 ∨ (s.oport p).state = 4 → (t.oport p).state = 1 ∧ (t.oport p).stepNo = 4 ∧ (t.reg (.portStatus p)).getLsbD 60 = true ∧
      { kind := 3, unit := p, sub := 0, code := 0x41 } ∈ t.flint.reports) ∧
    ((s.oport p).state = 1 ∨ (s.oport p).state = 2 → (t.oport p).state = 1 ∧ (t.oport p).stepNo = 4 ∧
      ((s.oport p).waking = false → t.flint = s.flint) ∧ ((s.oport p).waking = true → (t.reg (.portStatus p)).getLsbD 60 = true))) ∧
  (∀ (s : State) (p : Nat), let o := s.oport p
    ∃ t, exec (.lightPresent p) s = .next t ∧ onlyTouches [.oports] s t ∧ (∀ q, q ≠ p → t.oport q = s.oport q) ∧
    t.oport p = if (o.state = 1 ∨ o.state = 5) ∧ o.stepNo = 4 ∧ o.overload = false then { o with light := true, state := 1, stepNo := 5 }
      else { o with light := true }) ∧
  (∀ (h : List (List Nat)) (r : Nat), assignRotation h = some r → r < 16 ∧ ∃ c, rotationCost h r = some c ∧
    ∀ r' < 16, ∀ c', rotationCost h r' = some c' → c ≤ c' ∧ (c' = c → r ≤ r')) ∧
  (∀ (s : State) (p : Nat) (full : Bool) (h : List (List Nat)), (s.oport p).state = 1 → (s.oport p).stepNo = 5 →
    let found := (List.range 16).map fun k => (List.range 16).map fun n => let v := (h.getD k []).getD n 0xFFFFFFFF
      let last := (s.ochan p n).rxCode
      if full = true then (if 1000 ≤ v ∧ v ≤ 60000 then v else 0xFFFFFFFF)
      else if v ≤ last + 2235 ∧ last ≤ v + 2235 ∧ v ≤ 65535 then v else 0xFFFFFFFF
    ∃ t, exec (.receiveSearchComplete p full h) s = .next t ∧
    (∀ r, assignRotation found = some r → (t.oport p).state = 2 ∧ (t.oport p).stepNo = 6 ∧ (t.oport p).rxLocked = ~~~0 ∧
      ∀ k < 16, (t.ochan p ((k + r) % 16)).rxCode = (found.getD k []).getD ((k + r) % 16) 0 ∧ (t.ochan p ((k + r) % 16)).rxCode ≤ 65535 ∧
        (full = false → (t.ochan p ((k + r) % 16)).rxRange = (s.ochan p ((k + r) % 16)).rxRange)) ∧
    (assignRotation found = none → (full = false → t = s) ∧ (full = true → (t.oport p).state = 5 ∧
      { kind := 3, unit := p, sub := 0, code := 0x42 } ∈ t.flint.reports))) ∧
  (∀ n < 16, ∀ rx < 4, ∀ seed, let b := (trainingBlock n rx seed).toNat
    bits b 31 0 = 0x0F35C6A9 ∧ bits b 35 32 = n ∧ bits b 39 36 = 15 - n ∧ bits b 43 40 = rx) ∧
  (∀ (s : State) (p ring n st : Nat) (b : BitVec 340), let o := s.oport p
    let seen := Tab.set (o.seen.filter fun e => e.2 ≠ ring) n ring
    let blocks := fun (rx seed : Nat) => (List.range 16).map fun c => Out.training p c (trainingBlock c rx seed)
    o.state = 2 → o.stepNo = 6 → bits b.toNat 31 0 = 0x0F35C6A9 → bits b.toNat 35 32 = n → bits b.toNat 39 36 = 15 - n → bits b.toNat 43 40 = st → st ≤ 2 →
    (∀ r, Tab.find? o.seen n = some r → r = ring) → ∃ t, exec (.trainingBlockReceived p ring b) s = .next t ∧ (t.oport p).seen = seen ∧
      (t.oport p).peerRx = st ∧ onlyTouches [.oports, .sent, .fresh] s t ∧
      (seen.length = 16 → o.rxLocked = ~~~0 → st = 2 → (t.oport p).stepNo = 7 ∧ ∃ (seed : Nat) (ctl : BitVec 20) (first : List Out),
        bits ctl.toNat 19 18 = 2 ∧ bits ctl.toNat 15 0 % 256 ≠ 0 ∧ first.length ≤ 1 ∧ (∀ x ∈ first, ∃ k c l, x = Out.codeword p k c l ∧ bits k.toNat 19 18 = 1) ∧
        t.sent = s.sent ++ blocks 2 seed ++ first ++ [Out.codeword p ctl (s.linkContent p) (rsLines ctl (s.linkContent p))]) ∧
      (seen.length = 16 → o.rxLocked = ~~~0 → o.sentReady = false → st = 0 → (t.oport p).stepNo = 6 ∧ ∃ seed, t.sent = s.sent ++ blocks 1 seed) ∧
      (seen.length < 16 → o.sentReady = false → (t.oport p).stepNo = 6 ∧ ∃ seed, t.sent = s.sent ++ blocks 0 seed)) ∧
  (∀ (s : State) (p : Nat) (ctl : BitVec 20) (c : Rec), let o := s.oport p
    let id : BitVec 32 := BitVec.ofNat 32 (le c 0 4)
    let sample := ((s.localTime.toNat : Int) - (le c 16 8 : Nat) - (le c 24 8 : Nat)).fdiv 2
    o.state = 2 → o.stepNo = 7 → bits ctl.toNat 19 18 = 2 → bits (le c 0 4) 31 23 = 0 → zeroAt c 32 608 = true →
    ¬ (bit id.toNat 22 = true ∧ s.fabricValid = true ∧ bits id.toNat 16 0 = s.fabric.toNat) → o.peer = id → le c 4 4 = (s.ownIdentity p).toNat → p < 32 →
    o.samples.length = 4 → le c 16 8 ≠ 0 → o.linkOrder ctl = true → let d := median5 (o.samples ++ [sample])
    ∃ t, exec (.linkCodewordReceived p ctl c) s = .next t ∧
    (d ≤ 10000 → (t.oport p).state = 3 ∧ (t.oport p).delay = d.toNat ∧ (t.oport p).peer = id ∧ (t.oport p).peerValid = true ∧
      (t.oport p).threshold = min 448 (max 256 (reqKiB d.toNat)) ∧ (t.oport p).txNext.toNat = (t.oport p).replay.length ∧
      (∀ q < 2, (t.reg (.intCause q)).getLsbD 2 = true)) ∧
    (10000 < d → (t.oport p).state = 5 ∧ { kind := 3, unit := p, sub := 0, code := 0x47 } ∈ t.flint.reports)) ∧
  (∀ (s : State) (p : Nat), let o := s.oport p
    ∃ t, exec (.identityRetry p) s = .next t ∧ onlyTouches [.oports, .sent] s t ∧ (¬ (o.state = 2 ∧ o.stepNo = 9) → t = s) ∧
    (o.state = 2 → o.stepNo = 9 → t.oport p = { o with
        stepNo := 7, samples := [], echoed := false, peer := 0, lastSent := 0, heard := false,
        txCounter := (t.oport p).txCounter, peerDormant := (t.oport p).peerDormant, grantDue := (t.oport p).grantDue } ∧
      ∃ (ctl : BitVec 20) (c : Rec) (first : List Out), (o.txCounter % 256 ≠ 0 → first = []) ∧
      t.sent = s.sent ++ first ++ [Out.codeword p ctl c (rsLines ctl c)] ∧ bits ctl.toNat 19 18 = 2 ∧ bits ctl.toNat 15 0 % 256 ≠ 0 ∧
      le c 0 4 = (s.ownIdentity p).toNat ∧ le c 4 4 = 0)) ∧
  (∀ (s : State) (p k : Nat) (ctl : BitVec 20) (c : Rec), let o := s.oport p
    o.state = 3 → bits ctl.toNat 19 18 = 1 → o.rxCounter = some k → bits ctl.toNat 15 0 = (k + 1) % 65536 → bits ctl.toNat 15 0 % 256 = 0 →
    bits (le c 16 4) 31 23 = 0 → bits (le c 21 1) 7 3 = 0 → zeroAt c 26 614 = true →
    ∃ t, exec (.managementCodewordReceived p ctl c) s = .next t ∧ (∀ n < 16, (t.ochan p n).peerM = sgn 8 (le c n 1)) ∧
    (BitVec.ofNat 32 (le c 16 4) ≠ o.peer → (t.oport p).state = 1 ∧ { kind := 3, unit := p, sub := 0, code := 0x44 } ∈ t.flint.reports) ∧
    (BitVec.ofNat 32 (le c 16 4) = o.peer → (t.oport p).rxNext = o.rxNext ∧ (t.oport p).peerState = le c 20 1 ∧
      (bits (le c 21 1) 2 0 = 0 → (t.oport p).state = 3)))

/-- A dormant request is granted in the next management codeword, after which the peer is dormant; a grant that was asked for makes the port
dormant and one that was not is violation 8; a grant that does not come takes the port down; a wake request wakes the die and the port trains
again. An overload is fault 0x45 and holds the port down for its time, after which it looks for light again (R288, R317, R318, R323, Table 9.10).
What is the model's own reading here: log 104, 163. -/
def Obligations.PortsSleepWakeAndAreHeldDown : Prop :=
  (∀ (s : State) (p : Nat), let o := s.oport p
    let due := (o.txCounter + 255) / 256 * 256 % 65536
    ∃ t, exec (.dormantRequest p) s = .next t ∧ (o.state ≠ 3 → t = s) ∧
    (o.state = 3 → onlyTouches [.oports, .sent] s t ∧ (∀ q, q ≠ p → t.oport q = s.oport q) ∧
      t.oport p = { o with
        txCounter := (due + 1) % 65536, sinceIdle := if o.txCounter % 256 = 0 then o.sinceIdle else 0,
        peerDormant := true, grantDue := false } ∧
      ∃ (ctl : BitVec 20) (c : Rec), t.sent = s.sent ++ [Out.codeword p ctl c (rsLines ctl c)] ∧ bits ctl.toNat 19 18 = 1 ∧ bits ctl.toNat 15 0 = due ∧
        bit (le c 21 1) 1 = true ∧ le c 16 4 = (s.ownIdentity p).toNat ∧ le c 22 4 = (o.rxNext - 1).toNat)) ∧
  (∀ (s : State) (p : Nat), p < 24 → let o := s.oport p
    ∃ t, exec (.dormantGrant p) s = .next t ∧
    (o.state = 3 → o.dormantAsked = true → t.oport p = { o with state := 4, dormantAsked := false } ∧ (∀ q, q ≠ p → t.oport q = s.oport q) ∧
      ((s.die (portDie p)).pstate = 3 → (∀ i < 6, 6 * portDie p + i ≠ p → (s.oport (6 * portDie p + i)).state ≠ 3) →
        (t.die (portDie p)).pstate = 2 ∧ (t.die (portDie p)).coreMv = 500 ∧ (t.die (portDie p)).clamped = true)) ∧
    ((o.state = 3 ∧ o.dormantAsked = false) ∨ o.state = 4 → t = s.portViolation p 8) ∧ (o.state ≠ 3 → o.state ≠ 4 → t = s)) ∧
  (∀ (s : State) (p : Nat), p < 24 → let o := s.oport p
    ∃ t, exec (.dormantGrantTimeout p) s = .next t ∧ (o.state ≠ 3 ∨ o.dormantAsked = false → t = s) ∧
    (o.state = 3 → o.dormantAsked = true → (t.oport p).state = 5 ∧ (t.oport p).stepNo = 10 ∧ (t.reg (.portStatus p)).getLsbD 60 = true)) ∧
  (∀ (s : State) (p : Nat), p < 24 → let o := s.oport p
    ∃ t, exec (.wakeRequest p) s = .next t ∧
    (o.state = 4 → 2 ≤ (s.die (portDie p)).pstate → (t.oport p).state = 2 ∧ (t.oport p).stepNo = 6 ∧ (t.die (portDie p)).pstate = 0) ∧
    (o.state = 4 → (s.die (portDie p)).pstate < 2 → t.oport p = o.rewake ∧ onlyTouches [.oports, .sent, .fresh] s t) ∧
    (o.state = 3 → o.dormantAsked = true → (t.oport p).dormantAsked = false) ∧
    (o.state = 3 → o.dormantAsked = false → t = s.portViolation p 8) ∧ (o.state ≠ 3 → o.state ≠ 4 → o.dormantAsked = false → t = s)) ∧
  (∀ (s : State) (p : Nat), let o := s.oport p
    ∃ t, exec (.receiveOverload p) s = .next t ∧ (o.state = 6 ∨ o.state = 0 ∨ o.overload = true → t = s) ∧
    (o.state ≠ 6 → o.state ≠ 0 → o.overload = false → (t.oport p).state = 5 ∧ (t.oport p).overload = true ∧
      { kind := 3, unit := p, sub := 0, code := 0x45 } ∈ t.flint.reports)) ∧
  (∀ (s : State) (p : Nat), let o := s.oport p
    ∃ t, exec (.overloadHoldExpiry p) s = .next t ∧ onlyTouches [.oports, .sent, .fresh] s t ∧ (∀ q, q ≠ p → t.oport q = s.oport q) ∧
    t.oport p = if o.overload = false then o else if o.state = 5 then { o with overload := false, state := 1, stepNo := if o.light then 5 else 4 }
      else { o with overload := false }) ∧
  (∀ (s : State) (p row : Nat), s.headerSound → let t := s.portViolation p row
    (t.reg (.portStatus p)).getLsbD 62 = true ∧ fieldOf (t.reg (.portCount p)) 15 8 = min (fieldOf (s.reg (.portCount p)) 15 8 + 1) 255 ∧
    Logged s t 3 0x74 6 p ∧ onlyTouches [.regs, .flint] s t)

/-- MONITOR_SAMPLE takes the readings of a channel and its three ports, and the decline of the serving laser as its baseline less its output; a
decline past the warning threshold claims the own spare and past a dark channel's the standby successor serves at once; at the bias of a
retained die the readings are only held. SUCCESSOR_STANDBY, CROSS_FADE_COMPLETE and SUCCESSOR_RELEASE move a hand-over on, complete it, or
undo the claim (R294 to R300, R317, Table 9.6). What is the model's own reading here: log 161, 171. -/
def Obligations.LasersAreWatchedAndHandedOver : Prop :=
  (∀ (s : State) (o n : Nat) (r : MonitorReadings), o < 8 → n < 16 → ∃ t, exec (.monitorSample o n r) s = .next t ∧
    (∀ i < 3, (t.ochan (3 * o + i) n).m = r.modulator.getD i 0 ∧ (t.ochan (3 * o + i) n).d = r.drop.getD i 0 ∧
      (t.oport (3 * o + i)).total = r.total.getD i 0) ∧ (t.laser o n).branch = r.branch ∧
    let l := s.laser o n
    let base := s.laserBase o n l.serving
    let decline := min 255 ((5 * base - r.output).fdiv 2).toNat
    let dark := r.noCurrent = true ∨ 60 ≤ min 255 ((5 * base - r.instant).fdiv 2).toNat
    ((s.die (o / 2)).lowBias = true → t.laser o n = { l with branch := r.branch } ∧ onlyTouches [.lasers, .oports, .ochans] s t) ∧
    ((s.die (o / 2)).lowBias = false → ¬ dark → (t.laser o n).decline = decline ∧ (t.laser o n).serving = l.serving ∧
      (l.serving = 0 → l.successor = none → l.claimed = false → l.spare = 0 → l.noSpare = false → l.atHandover = false → s.cfg.laserWarn ≤ decline →
        (t.laser o n).successor = some 1 ∧ (t.laser o n).spare = 1 ∧ (t.reg (.laser o n)).getLsbD 63 = true) ∧
      (decline < s.cfg.laserWarn → decline < s.cfg.laserHand → t.laser (neighbour o) n = s.laser (neighbour o) n ∧
        (t.laser o n).successor = l.successor ∧ (t.laser o n).spare = l.spare)) ∧
    ((s.die (o / 2)).lowBias = false → dark → l.serving = 0 → l.successor = some 1 → l.spare = 2 →
      (t.laser o n).serving = 1 ∧ (t.laser o n).primary = 5 ∧ (t.laser o n).spare = 3 ∧ (t.laser o n).successor = none)) ∧
  (∀ (s : State) (o n : Nat), o < 8 → ∃ t, exec (.successorStandby o n) s = .next t ∧ (s.successorState o n ≠ some 1 → t = s) ∧
    (s.successorState o n = some 1 → t.successorState o n = some 2 ∧ (t.laser o n).fading = ((s.laser o n).fading || (s.laser o n).atHandover) ∧
      (t.laser o n).serving = (s.laser o n).serving ∧ onlyTouches [.lasers, .regs] s t)) ∧
  (∀ (s : State) (o n k : Nat), o < 8 → s.headerSound → (s.laser o n).successor = some k → k = 1 ∨ k = 2 → (s.laser o n).serving = 0 →
    ∃ t, exec (.crossFadeComplete o n) s = .next t ∧ ((s.laser o n).fading = false → t = s) ∧
    ((s.laser o n).fading = true → (t.laser o n).serving = k ∧ (t.laser o n).successor = none ∧ (t.laser o n).fading = false ∧ (t.laser o n).primary = 5 ∧
      (if k = 1 then (t.laser o n).spare = 3 else (t.laser (neighbour o) n).spare = 4) ∧ (t.reg (.laser o n)).getLsbD 63 = true ∧
      Logged s t 4 0x79 3 (16 * o + n))) ∧
  (∀ (s : State) (o n : Nat), o < 8 → let l := s.laser o n
    ∃ t, exec (.successorRelease o n) s = .next t ∧
    (s.successorState o n ≠ some 2 ∨ l.fading = true ∨ s.cfg.laserWarn < l.decline + 5 → t = s) ∧
    (s.successorState o n = some 2 → l.fading = false → l.decline + 5 ≤ s.cfg.laserWarn → (t.laser o n).successor = none ∧
      (t.laser o n).atHandover = false ∧ (t.laser o n).serving = l.serving ∧
      (l.successor = some 1 → (t.laser o n).spare = 0) ∧ (l.successor = some 2 → (t.laser (neighbour o) n).spare = 0 ∧
        (t.laser (neighbour o) n).claimed = false)))

/-- RING_LOCK_LOST unlocks the ring, flags it and in training begins alignment anew; RING_SEARCH_COMPLETE locks a ring at the code found
within ±150 GHz of the last, or by the third search, a full sweep, from 1,000 to 60,000, and the third search of one ring without success is fault 0x42; RING_HOP moves the code of a locked ring, which tracking has driven out of 500 to 64,500, by
one free spectral range, and no other code; where tracking has driven it is left open (R306, R307). What is the model's own reading here: log 167. -/
def Obligations.RingsStayLockedAndHop : Prop :=
  (∀ (s : State) (p n : Nat) (rx : Bool), n < 16 → let o := s.oport p
    let was := (if rx then o.rxLocked else o.txLocked).getLsbD n
    ∃ t, exec (.ringLockLost p n rx) s = .next t ∧ onlyTouches [.oports, .ochans, .regs, .sent, .fresh] s t ∧
    (o.state ≠ 2 → t.sent = s.sent) ∧ (was = false → t = s) ∧
    (was = true → (t.reg (.channel p n)).getLsbD (if rx then 60 else 61) = true ∧
      (∀ i < 16, (if rx then (t.oport p).rxLocked else (t.oport p).txLocked).getLsbD i =
        ((if rx then o.rxLocked else o.txLocked).getLsbD i && i != n)) ∧
      (if rx then (t.oport p).txLocked = o.txLocked else (t.oport p).rxLocked = o.rxLocked) ∧
      (o.state = 2 → (t.oport p).state = 2 ∧ (t.oport p).stepNo = 6 ∧ (t.oport p).seen = []) ∧ (o.state ≠ 2 → (t.oport p).state = o.state))) ∧
  (∀ (s : State) (p n : Nat) (rx : Bool) (found : Option Nat), n < 16 → let o := s.oport p
    let c := s.ochan p n
    (if rx then o.rxLocked else o.txLocked).getLsbD n = false → o.state ≠ 6 → ∃ t, exec (.ringSearchComplete p n rx found) s = .next t ∧
    let last := if rx then c.rxCode else c.txCode
    let fits := fun (code : Nat) => if (if rx then c.rxTries else c.txTries) < 2 then code ≤ last + 2235 ∧ last ≤ code + 2235 ∧ code ≤ 65535
      else 1000 ≤ code ∧ code ≤ 60000
    (∀ code, found = some code → fits code → (if rx then (t.oport p).rxLocked else (t.oport p).txLocked).getLsbD n = true ∧
      (if rx then t.ochan p n = { c with rxCode := code, rxTries := 0 } else t.ochan p n = { c with txCode := code, txTries := 0 }) ∧
      onlyTouches [.oports, .ochans] s t) ∧
    ((∀ code, found = some code → ¬ fits code) → let tries := (if rx then c.rxTries else c.txTries) + 1
      (if rx then (t.ochan p n).rxTries = tries else (t.ochan p n).txTries = tries) ∧ (tries < 3 → t.oport p = o ∧ onlyTouches [.ochans] s t) ∧
      (3 ≤ tries → (t.oport p).state = 5 ∧ { kind := 3, unit := p, sub := 0, code := 0x42 } ∈ t.flint.reports))) ∧
  (∀ (s : State) (p n : Nat) (rx : Bool) (found : Option Nat), (if rx then (s.oport p).rxLocked else (s.oport p).txLocked).getLsbD n = true →
    exec (.ringSearchComplete p n rx found) s = .next s) ∧
  (∀ (s : State) (p n : Nat) (rx : Bool), let c := s.ochan p n
    let locked := (if rx then (s.oport p).rxLocked else (s.oport p).txLocked).getLsbD n
    let range := if rx then c.rxRange else c.txRange
    ∃ t, exec (.ringHop p n rx) s = .next t ∧ (locked = false → t = s) ∧
    (locked = true → s.headerSound → (∃ code, (code < 500 ∨ 64500 < code ∧ code ≤ 65535) ∧
        (if rx then (t.ochan p n).rxCode else (t.ochan p n).txCode) = (if code < 500 then code + range else code - range)) ∧
      (if rx then (t.ochan p n).txCode = c.txCode else (t.ochan p n).rxCode = c.rxCode) ∧
      (t.reg (.channel p n)).getLsbD 59 = true ∧ Logged s t 3 0x78 0 p ∧ onlyTouches [.ochans, .regs, .flint, .fresh] s t))

/-! ## Lanes between dies -/

/-- SEGMENT_BIND gives a segment of a stream that crosses the edge the lowest-numbered free pool group and tells the receiver, or with none free
lets it wait; toward a flow-side destination only when its landing buffer has room. SEGMENT_ACKNOWLEDGED frees the group, which a thin ring gang
takes first and a waiting segment else. LANE_FRAME_RECEIVED counts what it corrected, asks again for a frame that it could not correct and holds
the later ones back, marks a gang's words and resends none, and takes none from a clamped sender; a lost word stops the segment's stream with 0x0A and is lane fault 0x50.
GANG_TAKE_IN adds the lowest free pool group to a ring gang below 16 units (R328, R330, R331, R341, Table 10.9). What is the model's own reading
here: log 168, 169. -/
def Obligations.SegmentsFramesAndGangs : Prop :=
  (∀ (s : State) (d e id n : Nat), e < 2 → 1 ≤ n → n ≤ 256 → s.flint.state ≠ .scrubbing → let x := (farEnd d e).1
    let y := (farEnd d e).2
    let k := s.edge x y
    let lands := s.landsAt id d x
    let next := fun (g : Nat) => if k.again.contains (id, n) then g :: k.resent.filter (· ≠ g) else k.resent.filter (· ≠ g)
    (d, x) ∈ s.streamHops id → (lands = true → (s.stream id).landed + 16 * n ≤ 4096) →
    ∃ t, exec (.segmentBind d e id n) s = .next t ∧ (t.stream id).landed = (s.stream id).landed + lands.toNat * (16 * n) ∧
      onlyTouches [.edges, .sent, .chip] s t ∧
      (∀ g, k.freeGroup = some g → g < 94 ∧ Tab.find? k.bound g = none ∧ k.group g ≠ 3 ∧
        (∀ i < g, (Tab.find? k.bound i).isSome = true ∨ i ∈ k.ganged ∨ k.group i = 3) ∧
        t.edge x y = { k with bound := Tab.set k.bound g (id, n), again := k.again.erase (id, n), resent := next g } ∧
        t.sent = s.sent ++ [Out.lane x y true "bind" g]) ∧
      (k.freeGroup = none → t.edge x y = { k with waiting := k.waiting ++ [(id, n)] } ∧ t.sent = s.sent)) ∧
  (∀ (s : State) (d e id n : Nat), let x := (farEnd d e).1
    2 ≤ e ∨ n = 0 ∨ 256 < n ∨ s.flint.state = .scrubbing ∨ (d, x) ∉ s.streamHops id ∨
    (s.landsAt id d x = true ∧ 4096 < (s.stream id).landed + 16 * n) → exec (.segmentBind d e id n) s = .next s) ∧
  (∀ (s : State) (d e g : Nat), e < 2 → let x := (farEnd d e).1
    let y := (farEnd d e).2
    let k := { s.edge x y with bound := Tab.erase (s.edge x y).bound g }
    ∃ t, exec (.segmentAcknowledged d e g) s = .next t ∧ (Tab.find? (s.edge x y).bound g = none → t = s) ∧
    ((Tab.find? (s.edge x y).bound g).isSome = true →
      ((∀ q ∈ k.gangs, 16 ≤ k.unitsOf q.2) → k.waiting = [] → t.edge x y = k ∧ onlyTouches [.edges] s t) ∧
      (∀ seg rest h, (∀ q ∈ k.gangs, 16 ≤ k.unitsOf q.2) → k.waiting = seg :: rest → k.freeGroup = some h →
        (s.flint.state = .scrubbing → t.edge x y = k) ∧ (s.flint.state ≠ .scrubbing → t.edge x y = { k with
          waiting := rest, bound := Tab.set k.bound h seg, again := k.again.erase seg,
          resent := if k.again.contains seg then h :: k.resent.filter (· ≠ h) else k.resent.filter (· ≠ h) } ∧
          t.sent = s.sent ++ [Out.lane x y true "bind" h])) ∧
      (∀ q gs h, (k.gangs.find? fun q => decide (k.unitsOf q.2 < 16)) = some (q, gs) → Tab.find? k.gangs q = some gs → k.freeGroup = some h →
        Tab.find? (t.edge x y).gangs q = some (gs ++ [h]) ∧ (t.edge x y).waiting = k.waiting ∧ (t.edge x y).bound = k.bound))) ∧
  (∀ (s : State) (d e g : Nat), 2 ≤ e → exec (.segmentAcknowledged d e g) s = .next s) ∧
  (∀ (s : State) (d e g : Nat) (f : LaneFrame), (s.die (if e < 2 then (farEnd d e).1 else d)).clamped = true → exec (.laneFrameReceived d e g f) s = .next s) ∧
  (∀ (s : State) (d e g : Nat) (f : LaneFrame), e < 4 → (s.die (if e < 2 then (farEnd d e).1 else d)).clamped = false → let k := s.edge d e
    let c := fun (t : State) (hi lo : Nat) => fieldOf (t.reg (.edgeCount d e)) hi lo
    let ring := if e < 2 then k.ganged.contains g else decide (g < 30)
    let again := f.resent && (k.resending.contains g || k.resent.contains g)
    let held := k.resending.contains g && !f.resent
    ∃ t, exec (.laneFrameReceived d e g f) s = .next t ∧ c t 27 16 = min (c s 27 16 + f.crcLanes.length + f.messages) 4095 ∧
      (ring = true → c t 63 40 = min (c s 63 40 + f.corrected) 0xFFFFFF ∧ c t 15 8 = min (c s 15 8 + f.bad) 255 ∧ c t 39 28 = c s 39 28 ∧
        (f.replay = .none → (t.edge d e).resending = k.resending) ∧
        (2 ≤ e → f.replay = .none → (t.oport (gangPort d e g)).rxq.map (fun w => (w.cls, w.word)) =
          (s.oport (gangPort d e g)).rxq.map (fun w => (w.cls, w.word)) ∧
          ((t.oport (gangPort d e g)).rxq.filter (·.poison)).length ≤ ((s.oport (gangPort d e g)).rxq.filter (·.poison)).length + f.bad)) ∧
      (ring = false → c t 63 40 = min (c s 63 40 + (if held = true ∨ 0 < f.bad then 0 else f.corrected)) 0xFFFFFF ∧ c t 15 8 = c s 15 8 ∧
        c t 39 28 = min (c s 39 28 + again.toNat) 4095 ∧ (again = true → (t.reg (.edgeStatus d e)).getLsbD 60 = true) ∧
        (f.replay = .none → (g ∈ (t.edge d e).resending ↔ held = true ∨ 0 < f.bad) ∧
          (held = false → 0 < f.bad → Out.lane d e k.sidebandLost "resend" g ∈ t.sent) ∧ onlyTouches [.regs, .edges, .sent] s t)) ∧
      (∀ id n, f.replay = .word → Tab.find? k.bound g = some (id, n) → (s.stream id).faulted = false → (t.stream id).faulted = true ∧
        (t.reg (.edgeStatus d e)).getLsbD 63 = true ∧ { kind := 1, unit := (edgeNumber d e).1, sub := 2 * d, code := 0x50 } ∈ t.flint.reports)) ∧
  (∀ (s : State) (d e q g : Nat) (gs : List Nat), e < 2 → Tab.find? (s.edge d e).gangs q = some gs → (s.edge d e).freeGroup = some g →
    ∃ t, exec (.gangTakeIn d e q) s = .next t ∧ (16 ≤ (s.edge d e).unitsOf gs → t = s) ∧
      ((s.edge d e).unitsOf gs < 16 → Tab.find? (t.edge d e).gangs q = some (gs ++ [g]) ∧ (t.edge d e).bound = (s.edge d e).bound ∧
        ((s.edge d e).failed = false → (t.edge d e).failed = true →
          { kind := 1, unit := (edgeNumber d e).1, sub := laneSub d e true, code := 0x52 } ∈ t.flint.reports)))

/-- LANE_MARGIN_UPDATE keeps the margin and reports it to the other end, warns when it falls to the threshold, and asks for a swap at the swap
threshold or at 8 CRC mismatches of the lane within 1 s, as the third in a row does; the swap goes request, compare, switch, and the spare then stands in for the lane;
a spare that fails its compare is used up with fault 0x53; with no spare free a group keeps its other half, once a swap in the half it keeps is
over (R326, R335, R336, R337, R338, R339, Table 10.5). What is the model's own reading here: log 107. -/
def Obligations.LanesAreSwappedOrNarrowed : Prop :=
  (∀ (s : State) (d e lane m crcs run : Nat), lane < dataLanes e → let k := s.edge d e
    let total := crcs + ((Tab.get [] k.crcTimes lane).filter fun x => decide (s.localTime.toNat - x.toNat < 1000000000)).length
    ∃ t, exec (.laneMarginUpdate d e lane m crcs run) s = .next t ∧ Out.lane d e k.sidebandLost "margin" lane ∈ t.sent ∧
    (s.cfg.laneSwap < m → total < 8 → run < 3 → t.edge d e = { k with margins := Tab.set k.margins lane m } ∧ (s.cfg.laneWarn < m → t.flint = s.flint)) ∧
    (s.headerSound → m ≤ s.cfg.laneWarn → (∀ x, Tab.find? k.margins lane = some x → s.cfg.laneWarn < x) → Logged s t 1 0x7A 0 (edgeNumber d e).1) ∧
    (∀ n, m ≤ s.cfg.laneSwap ∨ 8 ≤ total ∨ 3 ≤ run → freeSpare k e = some n → k.swap = none → k.group (lane / 16) = 0 →
      (t.edge d e).swap = some { lane := lane, spare := n, step := 1 } ∧ Out.lane d e k.sidebandLost "swap" n ∈ t.sent)) ∧
  (∀ (s : State) (d e lane n : Nat) (f : LaneFrame), lane < dataLanes e → (s.die (if e < 2 then (farEnd d e).1 else d)).clamped = false → let k := s.edge d e
    f.crcLanes = [lane] → f.replay = .none → Tab.find? k.standIn lane = none → 2 ≤ Tab.get 0 k.crcRun lane → freeSpare k e = some n → k.swap = none →
    k.group (lane / 16) = 0 → ∃ t, exec (.laneFrameReceived d e (lane / 16) f) s = .next t ∧
      (t.edge d e).swap = some { lane := lane, spare := n, step := 1 } ∧ Out.lane d e k.sidebandLost "swap" n ∈ t.sent) ∧
  (∀ (s : State) (d e lane m crcs run : Nat), (s.edge d e).dataLane e lane = none → exec (.laneMarginUpdate d e lane m crcs run) s = .next s) ∧
  (∀ (s : State) (d e lane n : Nat), ∃ t, exec (.laneSwapRequest d e lane n) s = .next t ∧ onlyTouches [.edges, .sent] s t ∧
    t.edge d e = { s.edge d e with
      swap := if (s.edge d e).swap = some { lane := lane, spare := n, step := 1 } then some { lane := lane, spare := n, step := 2 }
        else (s.edge d e).swap }) ∧
  (∀ (s : State) (d e : Nat) (ok : Bool) (w : Swap), (s.edge d e).swap = some w → ∃ t, exec (.spareCompareComplete d e ok) s = .next t ∧
    (w.step ≠ 2 → t = s) ∧
    (w.step = 2 → ok = true → t.edge d e = { s.edge d e with swap := some { w with step := 3 } } ∧ t.sent = s.sent ++ [Out.lane d e (s.edge d e).sidebandLost "switch" w.spare] ∧
      onlyTouches [.edges, .sent] s t) ∧
    (w.step = 2 → ok = false → w.spare ∈ (t.edge d e).sparesUsed ∧ (e < 4 → (t.reg (.edgeStatus d e)).getLsbD 63 = true) ∧ (s.repair.entries.length < 8192 → t.repair.changed = true) ∧
      { kind := 1, unit := (edgeNumber d e).1, sub := laneSub d e false, code := 0x53 } ∈ t.flint.reports ∧ (t.edge d e).standIn = (s.edge d e).standIn)) ∧
  (∀ (s : State) (d e : Nat) (w : Swap), s.headerSound → (s.edge d e).swap = some w → ∃ t, exec (.spareSwitch d e) s = .next t ∧ (w.step ≠ 3 → t = s) ∧
    (w.step = 3 → w.spare ∈ (t.edge d e).sparesUsed ∧ Tab.find? (t.edge d e).standIn w.lane = some w.spare ∧
      (e < 4 → (t.reg (.edgeStatus d e)).getLsbD 62 = true ∧
        fieldOf (t.reg (.edgeCount d e)) 7 0 = min (fieldOf (s.reg (.edgeCount d e)) 7 0 + 1) 255) ∧
      (t.reg (.faultSummary d)).getLsbD 61 = true ∧ Logged s t 1 0x7B 3 (edgeNumber d e).1 ∧ (s.repair.entries.length < 8192 → t.repair.changed = true) ∧
      ((s.edge d e).wanted = [] → (t.edge d e).swap = none))) ∧
  (∀ (s : State) (d e : Nat), (s.edge d e).swap = none → (∀ ok, exec (.spareCompareComplete d e ok) s = .next s) ∧ exec (.spareSwitch d e) s = .next s) ∧
  (∀ (s : State) (d e g lane : Nat), freeSpare (s.edge d e) e = none → lane / 16 = g →
    (s.edge d e).swap.any (fun w => w.lane / 16 == g && decide (8 ≤ w.lane % 16) != decide (8 ≤ lane % 16)) = true →
    (s.edge d e).group g = 0 → ∃ t, exec (.halfWidthSwitch d e g lane) s = .next t ∧ onlyTouches [.edges] s t ∧
      t.edge d e = { s.edge d e with halfAfter := (s.edge d e).halfAfter.filter (· ≠ (g, lane)) ++ [(g, lane)] }) ∧
  (∀ (s : State) (d e g lane : Nat), freeSpare (s.edge d e) e = none → lane / 16 = g →
    (s.edge d e).swap.any (fun w => w.lane / 16 == g && decide (8 ≤ w.lane % 16) != decide (8 ≤ lane % 16)) = false →
    ∃ t, exec (.halfWidthSwitch d e g lane) s = .next t ∧
    ((s.edge d e).group g = 0 → (t.edge d e).group g = (if 8 ≤ lane % 16 then 1 else 2) ∧ (e < 4 → (t.reg (.edgeStatus d e)).getLsbD 61 = true) ∧
      (s.repair.entries.length < 8192 → t.repair.changed = true) ∧ (∀ q < 2, (t.reg (.intCause q)).getLsbD 3 = true) ∧ ∀ h, h ≠ g → (t.edge d e).group h = (s.edge d e).group h) ∧
    ((s.edge d e).group g = 1 ∧ lane % 16 < 8 ∨ (s.edge d e).group g = 2 ∧ 8 ≤ lane % 16 → (t.edge d e).group g = 3 ∧
      { kind := 1, unit := (edgeNumber d e).1, sub := laneSub d e false, code := 0x51 } ∈ t.flint.reports)) ∧
  (∀ (s : State) (d e g lane : Nat), (freeSpare (s.edge d e) e).isSome = true ∨ lane / 16 ≠ g ∨ (s.edge d e).group g = 3 →
    exec (.halfWidthSwitch d e g lane) s = .next s)

/-! ## Power, supply and temperature -/

/-- POWER_SAMPLE takes the figures, keeps every voltage of an active die in the range of R455, lowers and never raises it at 2,600 W, and
changes no voltage of a die that is not active, but that a mover voltage below the floor of a die that is awake goes up to it. QUIET_TIMER_EXPIRY sets the voltages of R459, raising none, and is without effect with the timer off
or in BOOTING and UPDATING.
RETAIN_TIMER_EXPIRY and RETAIN_ENTRY start Retain entry exactly when every condition of R460 holds; an expiry that must be deferred is
counted and marked. DIE_WAKE takes a die out of Retain: Active, full mode, clamps released, memory out of self-refresh, dormant ports
training from step 6, and a device in RETAIN back in its prior state (R461, R462, R463). What is the model's own reading here: log 120, 123. -/
def Obligations.PowerSamplesAndRetain : Prop :=
  ((∀ (s : State) (p : PowerSample), s.powered = true → ∃ t, exec (.powerSample p) s = .next t ∧ t.inputMv = p.millivolts ∧ t.inputW = p.watts ∧
    (2600 ≤ p.watts → (t.reg .moduleSupply).getLsbD 62 = true) ∧ t.flint = s.flint ∧ t.mems = s.mems ∧ t.chip = s.chip ∧
    ∀ d < 4, let k := s.die d
      let floor := if s.onPlane d then 700 else 620
      (t.die d).watts = p.die.getD d 0 ∧ (t.die d).pstate = k.pstate ∧ (t.die d).arrayMv = k.arrayMv ∧
      (620 ≤ k.coreMv → k.coreMv ≤ 860 → 620 ≤ (t.die d).coreMv ∧ (t.die d).coreMv ≤ 860) ∧
      (floor ≤ k.moverMv → k.moverMv ≤ 860 → floor ≤ (t.die d).moverMv ∧ (t.die d).moverMv ≤ 860) ∧
      let lifted := if k.pstate < 2 ∧ k.coreMv ≠ 0 then max floor k.moverMv else k.moverMv
      (2600 ≤ p.watts → (t.die d).coreMv ≤ k.coreMv ∧ (t.die d).moverMv ≤ lifted) ∧
      (k.active = false ∨ s.flint.tripped = true → (t.die d).coreMv = k.coreMv ∧ (t.die d).moverMv = lifted)) ∧
  (∀ (s : State) (d : Nat), ∃ t, exec (.quietTimerExpiry d) s = .next t ∧ onlyTouches [.dies] s t ∧ (∀ i, i ≠ d → t.die i = s.die i) ∧
    let k := s.die d
    t.die d = if k.active = true ∧ k.quietUs ≠ 0xFFFFFFFF ∧ s.flint.state ≠ .booting ∧ s.flint.state ≠ .updating then
      { k with pstate := 1, coreMv := min 660 k.coreMv, moverMv := if s.onPlane d then k.moverMv else min 660 k.moverMv } else k)) ∧
  ((∀ (s : State) (d : Nat), d < 4 → (s.die d).pstate = 1 → (s.die d).retainUs ≠ 0xFFFFFFFF → (s.die d).due = false →
    ∃ t, exec (.retainTimerExpiry d) s = .next t ∧ (t.die d).due = true ∧
      (s.mayRetain d = true → RetainEntered s t d) ∧
      (s.mayRetain d = false → (t.die d) = { s.die d with due := true } ∧ (t.reg (.diePower d)).getLsbD 60 = true ∧
        fieldOf (t.reg (.powerCount d)) 47 32 = min (fieldOf (s.reg (.powerCount d)) 47 32 + 1) 65535 ∧ onlyTouches [.dies, .regs] s t)) ∧
  (∀ (s : State) (d : Nat), d < 4 → (s.die d).pstate = 1 → (s.die d).due = true → s.mayRetain d = true →
    ∃ t, exec (.retainEntry d) s = .next t ∧ RetainEntered s t d) ∧
  (∀ (s : State) (d : Nat), (s.die d).pstate ≠ 1 ∨ (s.die d).due = false ∨ s.mayRetain d = false → exec (.retainEntry d) s = .next s) ∧
  (∀ (s : State) (d : Nat), 2 ≤ (s.die d).pstate → (s.die d).coreMv ≤ 860 → ∃ t, exec (.dieWake d) s = .next t ∧ (t.die d).pstate = 0 ∧ (t.die d).lowMode = false ∧
    (t.die d).clamped = false ∧ 620 ≤ (t.die d).coreMv ∧ (t.die d).coreMv ≤ 860 ∧ (t.die d).arrayMv = 750 ∧ (∀ i, i ≠ d → t.die i = s.die i) ∧
    (∀ m, devDie m = d → (s.mem m).state = 4 → (t.mem m).state = 2) ∧ (∀ p, portDie p = d → (s.oport p).state = 4 → (t.oport p).stepNo = 6) ∧
    t.flint.state = if s.flint.state = .retain then s.flint.prior else s.flint.state) ∧
  (∀ (s : State) (d : Nat), (s.die d).pstate < 2 → exec (.dieWake d) s = .next s))

/-- BROWN_OUT of a powered die halts the device with reason 2, ends a step with outcome 3, loses the die's state and holds it to be
initialised again; BROWN_OUT_REINIT_COMPLETE releases that hold and leaves its memory running and its voltages in range. What is the model's own reading here: log 124. -/
def Obligations.BrownOutHaltsAndIsReinitialised : Prop :=
  (∀ (s : State) (d : Nat), d < 4 → s.powered = true → (s.die d).retired = false → s.flint.state ≠ .booting → s.headerSound →
    ∃ t, exec (.brownOut d) s = .next t ∧ t.flint.state = .halted ∧ t.flint.haltedReason = 2 ∧ t.chip.step = none ∧
      Logged s t 11 (if (s.die d).lowMode then 0x58 else 0x59) 0 d ∧ (t.reg (.diePower d)).getLsbD 61 = true ∧ d ∈ t.flint.reinit ∧
      (t.die d).coreMv = 0 ∧ t.flint.cutWriting.isSome = true ∧
      (∀ run, s.chip.step = some run → run.aborting = false → ∀ q < 2, fieldOf (t.reg (.stepStatus q)) 63 62 = 3)) ∧
  (∀ (s : State) (d : Nat), (∀ k, coreDie k = d → (s.loseDie d).core k = Core.init) ∧
    (∀ a, coreDie (a / 2 ^ 25) = d → (s.loseDie d).chip.scratch.read a = 0) ∧
    (∀ k, coreDie k ≠ d → (s.loseDie d).core k = s.core k) ∧
    (∀ a, coreDie (a / 2 ^ 25) ≠ d → (s.loseDie d).chip.scratch.read a = s.chip.scratch.read a) ∧ (s.loseDie d).devmem = s.devmem) ∧
  (∀ (s : State) (d : Nat), d ∈ s.flint.reinit → (s.die d).coreMv ≤ 860 → ∃ t, exec (.brownOutReinitComplete d) s = .next t ∧ d ∉ t.flint.reinit ∧
    (∀ i, i ≠ d → (i ∈ t.flint.reinit ↔ i ∈ s.flint.reinit)) ∧ 620 ≤ (t.die d).coreMv ∧ (t.die d).coreMv ≤ 860 ∧
    (∀ m x, Tab.find? s.mems m = some x → devDie m = d → x.failed = none → (t.mem m).state = 2) ∧ t.flint.state = s.flint.state) ∧
  (∀ (s : State) (d : Nat), d ∉ s.flint.reinit → exec (.brownOutReinitComplete d) s = .next s)

/-- TEMPERATURE_SAMPLE holds the readings, wakes a retained die that reads 85 °C, and throttles a die above its threshold with the event,
flag and count; THERMAL_TRIP halts a booted device with reason 3 and drops every awake die's voltage to the floor; SUPPLY_LOW is
flagged and logged; SUPPLY_SHUTDOWN and MOD_PWROK_FALL lose everything but the flash and the pins. What is the model's own reading here: log 122, 125, 126. -/
def Obligations.TemperatureAndSupplyEventsAct : Prop :=
  (∀ (s : State) (d : Nat) (basalt opal : List Int), d < 4 → s.powered = true →
    ∃ t, exec (.temperatureSample d basalt opal) s = .next t ∧ (t.die d).basalt = basalt.take 32 ∧ (t.die d).opal = opal.take 8 ∧
      ((s.die d).pstate = 2 → (∃ x ∈ basalt.take 32, 85 ≤ x) → (t.die d).pstate = 1 ∧ (t.die d).stayQuiet = true ∧
        fieldOf (t.reg (.powerCount d)) 15 0 = min (fieldOf (s.reg (.powerCount d)) 15 0 + 1) 65535) ∧
      (s.sensorHot d = false → (∃ x ∈ basalt.take 32, s.cfg.throttleBasalt < x) ∨ (∃ x ∈ opal.take 8, s.cfg.throttleOpal < x) →
        (t.die d).throttled = true ∧ (t.reg (.diePower d)).getLsbD 63 = true ∧
        fieldOf (t.reg (.powerCount d)) 31 16 = min (fieldOf (s.reg (.powerCount d)) 31 16 + 1) 65535)) ∧
  (∀ (s : State), s.powered = true → s.flint.state ≠ .booting → ∃ t, exec .thermalTrip s = .next t ∧ t.flint.state = .halted ∧
    t.flint.haltedReason = 3 ∧ t.flint.tripped = true ∧ t.chip.step = none ∧
    ∀ d < 4, (s.die d).pstate < 2 → (s.die d).coreMv ≠ 0 → (t.die d).coreMv = 620) ∧
  (∀ (s : State), s.powered = true → s.flint.state = .booting → ∃ t, exec .thermalTrip s = .next t ∧
    t.flint = { s.flint with tripWait := true } ∧ onlyTouches [.flint] s t) ∧
  (∀ (s : State) (mv : Nat), s.powered = true → s.headerSound → ∃ t, exec (.supplyLow mv) s = .next t ∧
    (t.reg .moduleSupply).getLsbD 63 = true ∧ Logged s t 11 0x5E 0 0 ∧ onlyTouches [.regs, .flint] s t) ∧
  (∀ (s : State), (∃ t, exec .supplyShutdown s = .next t ∧ t.powered = false ∧ t.flash = s.flash ∧ t.pins = { s.pins with vin := false } ∧
      t.devmem = [] ∧ t.contexts = [] ∧ t.regs = [] ∧ t.chip = Chip.init ∧ t.flint = Flint.init) ∧
    (∃ t, exec .modPwrokFall s = .next t ∧ t.powered = false ∧ t.flash = s.flash ∧ t.pins = { s.pins with pwrok := false } ∧
      t.devmem = [] ∧ t.contexts = [] ∧ t.regs = [] ∧ t.chip = Chip.init ∧ t.flint = Flint.init))

/-! ## Fault handling -/

/-- FAULT_REPORT of a contained fault writes its event and shows it in the die's summary register and on both ports; one that escalates
ends the step with outcome 3 and halts with reason 1, its cut begun; one that is re-run joins the gathering and opens its window; with
the firmware not running a report is not taken (R427, R428, R431, R433, R445).
GATHER_WINDOW_END puts the gathered recoveries in the order of R431, by source kind and then by unit, none lost; RECOVERY_COMPLETE closes the window
of a recovery that is over and goes on to the next. Either may escalate, and the device is then HALTED. What is the model's own reading here: log 111, 109. -/
def Obligations.FaultReportsAndRecoveries : Prop :=
  ((∀ (s : State) (r : Report), r ∈ s.flint.reports → s.flint.alive = true → s.flint.heldInReset = false → s.headerSound → r.kind = 3 →
    r.code ≠ 0x43 → r.code < 256 → portDie r.unit < 4 → ∃ t, exec (.faultReport r) s = .next t ∧ Logged s t 3 r.code 2 r.unit ∧
      t.flint.reports = s.flint.reports.erase r ∧ t.flint.state = s.flint.state ∧
      (∀ q < 2, (t.reg (.intCause q)).getLsbD 4 = true) ∧
      let sum := t.reg (.faultSummary (portDie r.unit))
      sum.getLsbD 47 = true ∧ fieldOf sum 43 36 = r.code ∧ fieldOf sum 35 32 = 3 ∧
        fieldOf sum 31 0 = min (fieldOf (s.reg (.faultSummary (portDie r.unit))) 31 0 + 1) 0xFFFFFFFF ∧
      onlyTouches [.flint, .hosts, .regs, .sent, .fresh] s t) ∧
  (∀ (s : State) (r : Report) (run : StepRun), r ∈ s.flint.reports → s.flint.alive = true → s.flint.heldInReset = false → r.kind = 5 →
    s.chip.step = some run → run.aborting = false → s.flint.state = .running → ∃ t, exec (.faultReport r) s = .next t ∧
      t.flint.state = .halted ∧ t.flint.haltedReason = 1 ∧ t.chip.step = none ∧ t.flint.cutWriting.isSome = true ∧
      (∀ q < 2, fieldOf (t.reg (.stepStatus q)) 63 62 = 3 ∧ t.reg (.stepTag q) = BitVec.ofNat 64 (le run.record 0 8)) ∧
      (t.reg (.faultSummary (s.reportDie r))).getLsbD 63 = true ∧ t.flint.waiting = [] ∧ t.flint.windows = []) ∧
  (∀ (s : State) (r : Report), r ∈ s.flint.reports → s.flint.alive = true → s.flint.heldInReset = false → r.kind = 8 → s.answer r = .rerun →
    (s.flint.windows.any fun w => w.shares (s.reportUnits r) (s.reportPath r)) = false → ∃ t, exec (.faultReport r) s = .next t ∧
      t.flint.gathering = some ((s.flint.gathering.getD []) ++ [r]) ∧ (∃ w ∈ t.flint.windows, w.report = r) ∧
      t.flint.state = s.flint.state ∧ t.chip = s.chip) ∧
  (∀ (s : State) (r : Report), s.flint.alive = false ∨ s.flint.heldInReset = true → exec (.faultReport r) s = .next s)) ∧
  ((∀ rs : List Report, (sortReports rs).Perm rs ∧ (sortReports rs).Pairwise fun a b => reportBefore a b = true) ∧
  (∀ (s : State) (rs : List Report), s.flint.waiting = [] → s.flint.gathering = some rs → ∃ t, exec .gatherWindowEnd s = .next t ∧
    t.flint.gathering = none ∧ (t.flint.waiting = sortReports rs ∨ t.flint.state = .halted)) ∧
  (∀ (s : State), s.flint.waiting ≠ [] ∨ s.flint.gathering = none → exec .gatherWindowEnd s = .next s) ∧
  (∀ (s : State) (r : Report) (rest : List Report), s.flint.waiting = r :: rest → s.recovered r = true →
    ∃ t, exec .recoveryComplete s = .next t ∧ (∀ w ∈ t.flint.windows, w.report ≠ r) ∧
      (rest ≠ [] → t.flint.waiting = rest ∨ t.flint.state = .halted)) ∧
  (∀ (s : State), (∀ r rest, s.flint.waiting = r :: rest → s.recovered r = false) → exec .recoveryComplete s = .next s))

/-- FLINT_WATCHDOG_EXPIRY halts a booted device with reason 4, ends the open session and answers every mailbox; a second within 60 s leaves
the Flint core in reset. REPAIR_MAP_WRITE writes a changed map once, with counter 1 advanced and event 0x70, not while SCRUBBING, and reports an
entry that does not agree with its complement as 0x62 in place of writing. STRATA_LOG_CUT_COMPLETE puts the cut
first among the flash's and starts the next one asked for (R425, R437, R443, R449). What is the model's own reading here: log 115 and log 180. -/
def Obligations.WatchdogMapAndCutsAct : Prop :=
  (∀ (s : State), s.flint.alive = true → s.flint.heldInReset = false →
    ∃ t, exec .flintWatchdogExpiry s = .next t ∧ t.flint.lastExpiry = some s.localTime ∧ t.flint.queue = [] ∧
      if ∃ e, s.flint.lastExpiry = some e ∧ s.localTime.toNat - e.toNat < 60000000000 then
        t.flint.heldInReset = true ∧ t.flint.alive = false ∧ t.flint.state = s.flint.state
      else (t.mgmt.role = none ∧ (∀ b, t.flint.background = some b → b.kind = .reset ∧ b.discarded = true) ∧ t.flint.aborting = none ∧ (∀ p < 2, (t.host p).submitted = 0) ∧
        if s.flint.state = .booting then t.flint.progress = 4 else t.flint.state = .halted ∧ t.flint.haltedReason = 4 ∧ t.chip.step = none)) ∧
  (∀ (s : State), s.repair.changed = true → s.flint.alive = true → s.flint.heldInReset = false → s.headerSound →
    s.flint.state ≠ .scrubbing → s.repair.entries.all entrySound = true → s.flash.repairs.length = 2 → 1 < s.flash.counters.length →
    ∃ t c, exec .repairMapWrite s = .next t ∧ t.repair = { s.repair with version := s.repair.version + 1, changed := false } ∧
      t.flash.counters.getD 1 0 = s.repair.version + 1 ∧ c ∈ t.flash.repairs ∧ c.1.version = s.repair.version + 1 ∧ c.1.signed = true ∧
      c.2 = s.repair.entries ∧ Logged s t 12 0x70 0 0 ∧ onlyTouches [.flint, .flash, .repair] s t) ∧
  (∀ (s : State), s.repair.changed = false ∨ s.flint.state = .scrubbing → exec .repairMapWrite s = .next s) ∧
  (∀ (s : State) (i : Nat) (e : BitVec 128), s.repair.changed = true → s.flint.alive = true → s.flint.heldInReset = false → s.flint.state ≠ .scrubbing →
    s.repair.entries[i]? = some e → entrySound e = false → ∃ t, exec .repairMapWrite s = .next t ∧ onlyTouches [.flint] s t ∧
      { kind := 0, unit := 0, sub := i, code := 0x62 } ∈ t.flint.reports) ∧
  (∀ (s : State) (c : Cut), s.flint.cutWriting = some c → ∃ t, exec .strataLogCutComplete s = .next t ∧
    t.flash = { s.flash with cuts := c :: s.flash.cuts.filter fun x => x.slot ≠ c.slot } ∧
    (s.flint.cutWanted = 0 → t.flint = { s.flint with cutWriting := none, cutReasons := s.flint.cutReasons.drop 1 } ∧ onlyTouches [.flint, .flash] s t) ∧
    (s.flint.cutWanted ≠ 0 → t.flint.cutWriting.isSome = true ∧ t.flint.cutWanted = s.flint.cutWanted - 1))

/-! ## Arithmetic -/

/-- Nearest-even rounding stores the integer nearest to n / d, and of two integers equally near the even one (R50). -/
def Obligations.NearestEvenRoundsToTheNearest : Prop :=
  ∀ (n : Int) (d : Nat), 0 < d → 2 * (roundEven n d * d - n).natAbs ≤ d ∧ (2 * (roundEven n d * d - n).natAbs = d → roundEven n d % 2 = 0)

/-- Deterministic stochastic rounding stores ⌊(W + t) / 2^s⌋ with t the top s bits of u, or u × 2^(s−32) beyond 32 bits, t in [0, 2^s); summed
over every u the stored values differ from 2^32 × W / 2^s by at most 1, so their mean does by at most 2^−32 (R51). -/
def Obligations.StochasticRoundingFloorsAndIsUnbiased : Prop :=
  ∀ (w : Int) (s : Nat),
    (∀ u : Word32, let t := if s ≤ 32 then (u >>> (32 - s)).toNat else u.toNat * 2 ^ (s - 32)
      t < 2 ^ s ∧ roundStoch w (2 ^ s) u = (w + t).fdiv ((2 ^ s : Nat) : Int)) ∧
    ∀ N, N = 2 ^ 32 → (((List.range N).map fun n => roundStoch w (2 ^ s) (BitVec.ofNat 32 n)).sum * 2 ^ s - N * w).natAbs ≤ 2 ^ s

/-- A matrix element is the exact sum of its products; with a vug operand it is vug under the propagate policy, and under zero-substitute the
vug counts as 0 (R44, R61, R70). -/
def Obligations.MatrixElementsAreExactSums : Prop :=
  ∀ (xs : List (Opd × Opd)),
    let val := fun (o : Opd) => ((o.man.getD 0 : Int) : Rat) * twoTo o.exp
    let sum := (xs.map fun p => val p.1 * val p.2).foldl (· + ·) 0
    (∃ v, (macElem true xs).val = some v ∧ v.toRat = sum) ∧
    ((∀ p ∈ xs, p.1.man ≠ none ∧ p.2.man ≠ none) → ∃ v, (macElem false xs).val = some v ∧ v.toRat = sum) ∧
    ((∃ p ∈ xs, p.1.man = none ∨ p.2.man = none) → (macElem false xs).val = none)

/-- The root of a second moment is 0 for a mantissa that is not positive, else ⌊√(a × 2^(30+p))⌋ × 2^((e−30−p)/2) by the exact integer square root; with ε it is
always positive (R218). -/
def Obligations.SecondMomentRootIsExact : Prop :=
  ∀ (a e : Int), a ≤ 32767 → (a ≤ 0 → (rootOf a e).toRat = 0) ∧
    (0 < a → ∃ q : Nat, q * q ≤ a.toNat * 2 ^ (30 + (e % 2).toNat) ∧ a.toNat * 2 ^ (30 + (e % 2).toNat) < (q + 1) * (q + 1) ∧
      (rootOf a e).toRat = (q : Rat) * twoTo ((e - 30 - e % 2) / 2)) ∧
    ∀ h : Rec, 0 < (rootOf a e).toRat + (hyperEps h).toRat

/-- Table 7.8: the moments and the master of an element with no vug input are the exact values of its kind, from the moments as stored
(R217). -/
def Obligations.UpdatesComputeTheirKind : Prop :=
  ∀ (kind i : Nat) (h : Rec) (zero : Bool) (x : Inputs) (m v : Stored), kind ≤ 2 → i < 64 → (∀ o ∈ x.at' i, o.man ≠ none) →
    let c := fun (n : Nat) => (hyperAt h n).toRat
    let val := fun (l : List Opd) => (elemOf l i).toRat
    let root := match v.elems[i]? with | some (some a) => (rootOf a v.exp).toRat | _ => 0
    (∃ y, (newMoment1 kind h zero x)[i]? = some (some y) ∧ y.toRat = c 2 * val x.m + (if kind = 2 then c 3 * val x.g else val x.g)) ∧
    (∃ y, (newMoment2 h zero x)[i]? = some (some y) ∧ y.toRat = c 4 * val x.v + c 5 * (val x.g * val x.g)) ∧
    ∃ y, (newMaster kind h zero x m v)[i]? = some (some y) ∧ y.toRat = val x.w -
      c 0 * (if kind = 0 then val x.g else if kind = 1 then (storedAt m i).toRat else (storedAt m i).toRat / (root + (hyperEps h).toRat)) -
      c 0 * c 1 * val x.w
end

