-- ==== Sys2Proof/Laws/Bits.lean ====
section
/-! SUPPORT. What a field write does to each bit of a register word, and what a little-endian field of a record reads. -/

namespace Sys2Proof.Machine

/-- Each bit of a word after a field write: inside the field the bit of the value, outside it as before. -/
theorem withField_getLsbD (w : Word64) (hi lo v i : Nat) (h : i < 64) :
    (withField w hi lo v).getLsbD i = if lo ≤ i ∧ i ≤ hi then v.testBit (i - lo) else w.getLsbD i := by
  unfold withField
  have hm : (BitVec.ofNat 64 ((2 ^ (hi + 1 - lo) - 1) * 2 ^ lo)).getLsbD i = decide (lo ≤ i ∧ i ≤ hi) := by
    simp only [BitVec.getLsbD_ofNat, Nat.testBit_mul_two_pow, Nat.testBit_two_pow_sub_one, h, decide_true, Bool.true_and]
    by_cases h1 : lo ≤ i <;> by_cases h2 : i ≤ hi <;> simp [h1, h2] <;> omega
  have hv : (BitVec.ofNat 64 (v * 2 ^ lo)).getLsbD i = (decide (lo ≤ i) && v.testBit (i - lo)) := by
    simp only [BitVec.getLsbD_ofNat, Nat.testBit_mul_two_pow, h, decide_true, Bool.true_and]
  simp only [BitVec.getLsbD_or, BitVec.getLsbD_and, BitVec.getLsbD_not, hm, hv, h, decide_true, Bool.true_and]
  by_cases h1 : lo ≤ i <;> by_cases h2 : i ≤ hi <;> simp [h1, h2]

/-- Setting one bit sets it. -/
theorem withField_bit_same (w : Word64) (n : Nat) (h : n < 64) : (withField w n n 1).getLsbD n = true := by
  simp [withField_getLsbD _ _ _ _ _ h]

/-- Setting one bit leaves the others. -/
theorem withField_bit_other (w : Word64) (n i : Nat) (hi : i < 64) (h : i ≠ n) : (withField w n n 1).getLsbD i = w.getLsbD i := by
  rw [withField_getLsbD _ _ _ _ _ hi, if_neg (by omega)]

/-- Reading a field just written gives the value, cut to the field's width. -/
theorem fieldOf_withField (w : Word64) (hi lo v : Nat) (h : hi < 64) (hl : lo ≤ hi) : fieldOf (withField w hi lo v) hi lo = v % 2 ^ (hi + 1 - lo) := by
  apply Nat.eq_of_testBit_eq
  intro j
  unfold fieldOf bits
  simp only [Nat.testBit_mod_two_pow, Nat.testBit_div_two_pow]
  by_cases hj : j < hi + 1 - lo
  · have e : (withField w hi lo v).toNat.testBit (lo + j) = v.testBit j := by
      have := withField_getLsbD w hi lo v (lo + j) (by omega)
      rw [if_pos ⟨by omega, by omega⟩] at this
      simpa [BitVec.getLsbD, Nat.add_sub_cancel_left] using this
    simp [hj, Nat.add_comm, e]
  · simp [hj]

/-- Reading a field outside the one written gives what stood there. -/
theorem fieldOf_withField_other (w : Word64) (hi lo v hi' lo' : Nat) (h : hi' < 64) (hd : hi < lo' ∨ hi' < lo) :
    fieldOf (withField w hi lo v) hi' lo' = fieldOf w hi' lo' := by
  apply Nat.eq_of_testBit_eq
  intro j
  unfold fieldOf bits
  simp only [Nat.testBit_mod_two_pow, Nat.testBit_div_two_pow]
  by_cases hj : j < hi' + 1 - lo'
  · have e : (withField w hi lo v).toNat.testBit (lo' + j) = w.toNat.testBit (lo' + j) := by
      have := withField_getLsbD w hi lo v (lo' + j) (by omega)
      rw [if_neg (by omega)] at this
      simpa [BitVec.getLsbD] using this
    simp [hj, Nat.add_comm, e]
  · simp [hj]

/-! ## Records -/

theorem slice_length (r : Rec) (o n : Nat) : (slice r o n).length = n := by simp [slice]

theorem slice_getElem (r : Rec) (o n i : Nat) (h : i < (slice r o n).length) : (slice r o n)[i] = r.getD (o + i) 0 := by simp [slice]

theorem toLe_length : ∀ n v : Nat, (toLe n v).length = n
  | 0, _ => rfl
  | n + 1, v => by simp [toLe, toLe_length n]

/-- A value written in `n` bytes reads back, cut to those bytes. -/
theorem ofLe_toLe : ∀ n v : Nat, ofLe (toLe n v) = v % 256 ^ n
  | 0, v => by simp [toLe, ofLe, Nat.mod_one]
  | n + 1, v => by
    simp only [toLe, ofLe, BitVec.toNat_ofNat, ofLe_toLe n]
    rw [show 256 ^ (n + 1) = 256 * 256 ^ n by rw [Nat.pow_succ, Nat.mul_comm], Nat.mod_mul]

end Sys2Proof.Machine
end

