-- ==== Sys2Proof/Laws/Memory.lean ====
section
/-! SUPPORT. Every operation on a byte memory keeps its canonical form, and what a read finds after a write. -/

namespace Sys2Proof.Machine

theorem Mem.okFrom_mono {b c : Nat} (h : b ≤ c) : ∀ {m : Mem}, Mem.okFrom c m = true → Mem.okFrom b m = true
  | [], _ => rfl
  | (k, v) :: m, hm => by
    simp only [Mem.okFrom, Bool.and_eq_true, decide_eq_true_eq] at hm ⊢
    exact ⟨⟨by omega, hm.1.2⟩, hm.2⟩

theorem Mem.filter_okFrom (f : Host.Cell → Bool) : ∀ {m : Mem} {b : Nat}, Mem.okFrom b m = true → Mem.okFrom b (m.filter f) = true
  | [], _, _ => rfl
  | (k, v) :: m, b, hm => by
    simp only [Mem.okFrom, Bool.and_eq_true, decide_eq_true_eq] at hm
    have ih := Mem.filter_okFrom f hm.2
    by_cases hf : f (k, v) = true
    · simp only [List.filter_cons_of_pos hf, Mem.okFrom, Bool.and_eq_true, decide_eq_true_eq]
      exact ⟨hm.1, ih⟩
    · rw [List.filter_cons_of_neg hf]
      exact Mem.okFrom_mono (by omega) ih

theorem Mem.insert_okFrom {a : Nat} {v : Byte} (hv : v ≠ 0) :
    ∀ {m : Mem} {b : Nat}, Mem.okFrom b m = true → b ≤ a → Mem.okFrom b (m.insert a v) = true
  | [], b, _, hb => by
    simp only [Mem.insert, Mem.okFrom, Bool.and_eq_true, decide_eq_true_eq]
    exact ⟨⟨hb, hv⟩, trivial⟩
  | (k, w) :: m, b, hm, hb => by
    simp only [Mem.okFrom, Bool.and_eq_true, decide_eq_true_eq] at hm
    unfold Mem.insert
    split
    · rename_i e
      subst e
      simp only [Mem.okFrom, Bool.and_eq_true, decide_eq_true_eq]
      exact ⟨⟨hb, hv⟩, hm.2⟩
    · split
      · rename_i hk
        simp only [Mem.okFrom, Bool.and_eq_true, decide_eq_true_eq]
        exact ⟨⟨hb, hv⟩, ⟨by omega, hm.1.2⟩, hm.2⟩
      · rename_i h1 h2
        simp only [Mem.okFrom, Bool.and_eq_true, decide_eq_true_eq]
        exact ⟨hm.1, Mem.insert_okFrom hv hm.2 (by omega)⟩

theorem Mem.filter_wf (f : Host.Cell → Bool) {m : Mem} (h : m.wf = true) : Mem.wf (m.filter f) = true := Mem.filter_okFrom f h

theorem Mem.write_wf {m : Mem} (a : Nat) (b : Byte) (h : m.wf = true) : (m.write a b).wf = true := by
  unfold Mem.write
  split
  · exact Mem.filter_wf _ h
  · rename_i hb
    exact Mem.insert_okFrom hb h (Nat.zero_le a)

theorem Mem.writeN_wf : ∀ (r : Rec) {m : Mem} (a : Nat), m.wf = true → (m.writeN a r).wf = true
  | [], _, _, h => h
  | b :: r, _, a, h => Mem.writeN_wf r (a + 1) (Mem.write_wf a b h)

theorem Mem.zero_wf {m : Mem} (lo hi : Nat) (h : m.wf = true) : (m.zero lo hi).wf = true := Mem.filter_wf _ h

theorem xorWord_wf {m : Mem} (w : Nat) (r : BitVec 128) (h : m.wf = true) : (xorWord m w r).wf = true := by
  unfold xorWord
  split
  · exact h
  · exact Mem.writeN_wf _ _ h

theorem settleWord_wf {m m' : Mem} {f f' : Flips} {w n : Nat} (e : settleWord m f w = some (m', f', n)) (h : m.wf = true) :
    m'.wf = true := by
  unfold settleWord at e
  dsimp only at e
  split at e
  · cases e; exact h
  · split at e
    · cases e; exact xorWord_wf _ _ h
    · cases e

/-! ## Reads after writes -/

theorem Mem.read_filter_ne (a b : Nat) (h : b ≠ a) : ∀ m : Mem, Mem.read (m.filter fun e => e.1 ≠ a) b = m.read b
  | [] => rfl
  | (k, v) :: m => by
    have ih := Mem.read_filter_ne a b h m
    by_cases hk : k = a
    · subst hk
      rw [List.filter_cons_of_neg (by simp), ih, Mem.read, if_neg (Ne.symm h)]
    · rw [List.filter_cons_of_pos (by simp [hk]), Mem.read, Mem.read, ih]

theorem Mem.read_filter_eq (a : Nat) : ∀ m : Mem, Mem.read (m.filter fun e => e.1 ≠ a) a = 0
  | [] => rfl
  | (k, v) :: m => by
    have ih := Mem.read_filter_eq a m
    by_cases hk : k = a
    · subst hk
      rw [List.filter_cons_of_neg (by simp), ih]
    · rw [List.filter_cons_of_pos (by simp [hk]), Mem.read, if_neg hk, ih]

theorem Mem.read_insert (a b : Nat) (v : Byte) : ∀ m : Mem, (m.insert a v).read b = if b = a then v else m.read b
  | [] => by
    simp only [Mem.insert, Mem.read]
    by_cases h : b = a
    · subst h; simp
    · rw [if_neg (Ne.symm h), if_neg h]
  | (k, w) :: m => by
    have ih := Mem.read_insert a b v m
    unfold Mem.insert
    split
    · rename_i e
      subst e
      by_cases h : b = k
      · subst h; simp [Mem.read]
      · simp [Mem.read, h, Ne.symm h]
    · rename_i h1
      split
      · by_cases h : b = a
        · subst h; simp [Mem.read]
        · simp [Mem.read, h, Ne.symm h]
      · by_cases h : b = a
        · subst h
          simp [Mem.read, h1, ih]
        · simp [Mem.read, h, ih]

/-- The byte written is what a read at its address gives. -/
theorem Mem.read_write_same (m : Mem) (a : Nat) (v : Byte) : (m.write a v).read a = v := by
  unfold Mem.write
  split
  · rename_i h
    subst h
    exact Mem.read_filter_eq a m
  · rw [Mem.read_insert, if_pos rfl]

/-- Every other address reads as before. -/
theorem Mem.read_write_other (m : Mem) (a b : Nat) (v : Byte) (h : b ≠ a) : (m.write a v).read b = m.read b := by
  unfold Mem.write
  split
  · exact Mem.read_filter_ne a b h m
  · rw [Mem.read_insert, if_neg h]

/-- A byte outside a string written reads as before. -/
theorem Mem.read_writeN_other : ∀ (r : Rec) (m : Mem) (a b : Nat), b < a ∨ a + r.length ≤ b → (m.writeN a r).read b = m.read b
  | [], _, _, _, _ => rfl
  | v :: r, m, a, b, h => by
    simp only [List.length_cons] at h
    rw [Mem.writeN, Mem.read_writeN_other r _ (a + 1) b (by omega), Mem.read_write_other m a b v (by omega)]

theorem Mem.read_zero (lo hi b : Nat) : ∀ m : Mem, (m.zero lo hi).read b = if lo ≤ b ∧ b < hi then 0 else m.read b
  | [] => by simp [Mem.zero, Mem.read]
  | (k, v) :: m => by
    have ih := Mem.read_zero lo hi b m
    unfold Mem.zero at ih ⊢
    by_cases hk : k < lo ∨ hi ≤ k
    · rw [List.filter_cons_of_pos (by simpa using hk)]
      simp only [Mem.read]
      by_cases e : k = b
      · subst e
        rw [if_pos rfl, if_neg (by omega), if_pos rfl]
      · rw [if_neg e, ih, if_neg e]
    · rw [List.filter_cons_of_neg (by simpa using hk), ih]
      simp only [Mem.read]
      by_cases e : k = b
      · subst e
        rw [if_pos (by omega), if_pos (by omega)]
      · rw [if_neg e]

/-- A byte string just written reads back. -/
theorem Mem.read_writeN : ∀ (r : Rec) (m : Mem) (a i : Nat), i < r.length → (m.writeN a r).read (a + i) = r.getD i 0
  | [], _, _, _, h => absurd h (by simp)
  | b :: r, m, a, 0, _ => by
    rw [Mem.writeN, Mem.read_writeN_other _ _ _ _ (by omega), Nat.add_zero, Mem.read_write_same]; rfl
  | b :: r, m, a, i + 1, h => by
    rw [Mem.writeN, show a + (i + 1) = a + 1 + i by omega, Mem.read_writeN r _ _ _ (by simpa using h)]; rfl

end Sys2Proof.Machine
end

