-- ==== Sys2Proof/Laws/Image.lean ====
section
/-! SUPPORT. The scratchpad image of a save area: what a save writes, a restore reads back (R397). -/

namespace Sys2Proof.Machine

/-- The die-local address of a byte. -/
theorem keyAddrs_local {a w : Nat} (h4 : w < 4) (h1 : w * 2 ^ 39 ≤ a) (h2 : a < w * 2 ^ 39 + 384000000000) :
    (keyAddrs (devKey (6 * w + (a - w * 2 ^ 39) / 4096 % 6) ((a - w * 2 ^ 39) / 4096 / 6 * 4096 + a % 4096))).1 = a := by
  have hb : windowBase w = w * 2 ^ 39 := by simp [windowBase, h4]
  obtain ⟨x, rfl⟩ := Nat.exists_eq_add_of_le h1
  have hx : w * 2 ^ 39 + x - w * 2 ^ 39 = x := by omega
  have hmod : (w * 2 ^ 39 + x) % 4096 = x % 4096 := by omega
  have h3 : x < 384000000000 := by omega
  rw [hx, hmod]
  clear h1 h2 hx hmod
  simp only [keyAddrs, devKey]
  have e1 : ((6 * w + x / 4096 % 6) * 2 ^ 36 + (x / 4096 / 6 * 4096 + x % 4096)) / 2 ^ 36 = 6 * w + x / 4096 % 6 := by omega
  have e2 : ((6 * w + x / 4096 % 6) * 2 ^ 36 + (x / 4096 / 6 * 4096 + x % 4096)) % 2 ^ 36 = x / 4096 / 6 * 4096 + x % 4096 := by omega
  have e3 : (6 * w + x / 4096 % 6) / 6 = w := by omega
  have e4 : (x / 4096 / 6 * 4096 + x % 4096) / 4096 = x / 4096 / 6 := by
    rw [Nat.add_comm, Nat.add_mul_div_right _ _ (by decide), Nat.div_eq_of_lt (Nat.mod_lt _ (by decide)), Nat.zero_add]
  have e5 : (x / 4096 / 6 * 4096 + x % 4096) % 4096 = x % 4096 := by
    rw [Nat.add_comm, Nat.add_mul_mod_self_right, Nat.mod_mod]
  have e6 : (6 * w + x / 4096 % 6) % 6 = x / 4096 % 6 := by omega
  have e7 : (x / 4096 / 6 * 6 + x / 4096 % 6) * 4096 + x % 4096 = x := by omega
  rw [e1, e2, e3, e4, e5, e6, hb, Nat.add_assoc, e7]

/-- The interleaved address of a byte. -/
theorem keyAddrs_interleaved {a : Nat} (h1 : 0x020000000000 ≤ a) (h2 : a < 0x020000000000 + 1536000000000) :
    (keyAddrs (devKey ((a - 0x020000000000) / 4096 % 24) ((a - 0x020000000000) / 4096 / 24 * 4096 + a % 4096))).2 = a := by
  have hp : (a - 0x020000000000) / 4096 / 24 * 4096 + a % 4096 < 2 ^ 36 := by omega
  generalize hoff : (a - 0x020000000000) / 4096 / 24 * 4096 + a % 4096 = off at hp
  generalize hd : (a - 0x020000000000) / 4096 % 24 = d
  have hb : windowBase 4 = 0x020000000000 := by simp [windowBase]
  simp only [keyAddrs, devKey]
  have e1 : (d * 2 ^ 36 + off) / 2 ^ 36 = d := by omega
  have e2 : (d * 2 ^ 36 + off) % 2 ^ 36 = off := by omega
  rw [e1, e2, hb]
  omega

/-- What the window of an address says of it. -/
theorem windowOf_some {a w : Nat} (h : windowOf a = some w) :
    w < 5 ∧ windowBase w ≤ a ∧ a < windowBase w + windowSize w := by
  have hin := List.find?_some h
  have hlt := List.mem_range.mp (List.mem_of_find?_eq_some h)
  simp only [decide_eq_true_eq] at hin
  exact ⟨hlt, hin.1, hin.2⟩

/-- A mapped address is one of the two that reach its byte, in the window it lies in. -/
theorem State.keyOf_addrs {s : State} {a k : Nat} (h : s.keyOf a = some k) :
    (a < 0x01ff00000000 ∧ (keyAddrs k).1 = a) ∨ (0x020000000000 ≤ a ∧ (keyAddrs k).2 = a) := by
  unfold State.keyOf at h
  cases hw : windowOf a with
  | none => simp [hw] at h
  | some w =>
    obtain ⟨hlt, h1, h2⟩ := windowOf_some hw
    have ht : translate a = some (if w < 4 then (6 * w + (a - windowBase w) / 4096 % 6, (a - windowBase w) / 4096 / 6 * 4096 + a % 4096)
        else ((a - windowBase w) / 4096 % 24, (a - windowBase w) / 4096 / 24 * 4096 + a % 4096)) := by
      unfold translate
      simp only [hw]
      split <;> rfl
    rw [ht] at h
    by_cases h4 : w < 4
    · left
      have hb : windowBase w = w * 2 ^ 39 := by simp [windowBase, h4]
      have hs : windowSize w = 384000000000 := by simp [windowSize, h4]
      rw [hb] at h1 h2
      rw [hs] at h2
      simp only [hw, h4, if_true, hb] at h
      split at h
      · cases h
        exact ⟨by omega, keyAddrs_local h4 h1 h2⟩
      · cases h
    · right
      have h5 : w = 4 := by omega
      subst h5
      have hb : windowBase 4 = 0x020000000000 := by simp [windowBase]
      have hs : windowSize 4 = 1536000000000 := by simp [windowSize]
      rw [hb] at h1 h2
      rw [hs] at h2
      simp only [hw, hb] at h
      split at h
      · cases h
        exact ⟨h1, keyAddrs_interleaved h1 h2⟩
      · cases h

/-- The bytes of an image are all mapped. -/
def State.imageMapped (s : State) (base : Nat) : Prop := ∀ i < scratchImage, (s.keyOf (base + i)).isSome = true

/-- Two addresses of a mapped image that reach one byte are one address. -/
theorem State.imageMapped.inj {s : State} {base i j k : Nat} (hm : s.imageMapped base) (hi : i < scratchImage) (hj : j < scratchImage)
    (h : s.keyOf (base + i) = some k) (h' : s.keyOf (base + j) = some k) : i = j := by
  have gap : ∀ {i j : Nat}, i < scratchImage → j < scratchImage → base + i < 0x01ff00000000 → 0x020000000000 ≤ base + j → False := by
    intro i j hi hj h1 h2
    have := hm (0x01ff00000000 - base) (by omega)
    cases e : s.keyOf (base + (0x01ff00000000 - base)) with
    | none => rw [e] at this; cases this
    | some x => rcases State.keyOf_addrs e with ⟨h3, _⟩ | ⟨h3, _⟩ <;> omega
  rcases State.keyOf_addrs h with ⟨h1, e1⟩ | ⟨h1, e1⟩ <;> rcases State.keyOf_addrs h' with ⟨h2, e2⟩ | ⟨h2, e2⟩
  · omega
  · exact (gap hi hj h1 h2).elim
  · exact (gap hj hi h2 h1).elim
  · omega

/-- The key of an address depends on the devices alone. -/
theorem State.keyOf_congr {s t : State} (h : t.mems = s.mems) (a : Nat) : t.keyOf a = s.keyOf a := by
  unfold State.keyOf State.windowMapped
  rw [h]

/-- A byte of a mapped image stands at its offset. -/
theorem State.imageOffset_eq {s : State} {base k o : Nat} (hm : s.imageMapped base) :
    s.imageOffset base k = some o ↔ o < scratchImage ∧ s.keyOf (base + o) = some k := by
  constructor
  · intro h
    unfold State.imageOffset at h
    cases e : ([(keyAddrs k).1, (keyAddrs k).2].find? fun a => decide (base ≤ a ∧ a < base + scratchImage ∧ s.keyOf a = some k)) with
    | none => rw [e] at h; cases h
    | some a =>
      rw [e, Option.map_some, Option.some.injEq] at h
      have ha := List.find?_some e
      simp only [decide_eq_true_eq] at ha
      have hb : base + o = a := by omega
      exact ⟨by omega, by rw [hb]; exact ha.2.2⟩
  · rintro ⟨ho, hk⟩
    unfold State.imageOffset
    cases e : ([(keyAddrs k).1, (keyAddrs k).2].find? fun a => decide (base ≤ a ∧ a < base + scratchImage ∧ s.keyOf a = some k)) with
    | none =>
      exfalso
      rw [List.find?_eq_none] at e
      have hne := e (base + o) (by
        rcases State.keyOf_addrs hk with ⟨_, h⟩ | ⟨_, h⟩ <;> simp [h])
      simp only [decide_eq_true_eq, hk, and_true] at hne
      omega
    | some a =>
      have ha := List.find?_some e
      simp only [decide_eq_true_eq] at ha
      have hb : base + (a - base) = a := by omega
      have := hm.inj (i := a - base) (by omega) ho (by rw [hb]; exact ha.2.2) hk
      rw [Option.map_some, this]

theorem Mem.read_absent {i : Nat} : ∀ {m : Mem}, (∀ e ∈ m, e.1 ≠ i) → m.read i = 0
  | [], _ => rfl
  | (k, v) :: m, h => by
    rw [Mem.read, if_neg (h (k, v) (List.mem_cons_self ..)), Mem.read_absent fun e he => h e (List.mem_cons_of_mem _ he)]

/-- What a save writes of the scratchpad, byte by byte, from a list of its entries. -/
theorem State.writeImage_read {s : State} {base : Nat} (hm : s.imageMapped base) {i k : Nat} (hi : i < scratchImage)
    (hk : s.keyOf (base + i) = some k) (v : Nat → Byte) :
    ∀ (l : Mem) (t : State), t.mems = s.mems →
      let w := l.foldl (fun (t : State) e => if e.1 < scratchImage then t.devPut (base + e.1) [v e.1] else t) t
      w.mems = s.mems ∧ w.devmem.read k = if ∃ e ∈ l, e.1 = i then v i else t.devmem.read k
  | [], t, ht => ⟨ht, by simp⟩
  | (n, b) :: l, t, ht => by
    simp only [List.foldl_cons]
    by_cases hn : n < scratchImage
    · rw [if_pos hn]
      have hk' := hm n hn
      cases e : s.keyOf (base + n) with
      | none => rw [e] at hk'; cases hk'
      | some x =>
        have hput : t.devPut (base + n) [v n] = { t with devmem := t.devmem.write x (v n) } := by
          simp only [State.devPut, State.keyOf_congr ht, e]
        rw [hput]
        have ih := State.writeImage_read hm hi hk v l { t with devmem := t.devmem.write x (v n) } ht
        refine ⟨ih.1, ih.2.trans ?_⟩
        by_cases hl : ∃ e ∈ l, e.1 = i
        · rw [if_pos hl, if_pos (by obtain ⟨e, he, h⟩ := hl; exact ⟨e, List.mem_cons_of_mem _ he, h⟩)]
        · rw [if_neg hl]
          by_cases hni : n = i
          · subst hni
            have : x = k := by rw [hk] at e; cases e; rfl
            subst this
            rw [if_pos ⟨(n, b), List.mem_cons_self .., rfl⟩]
            exact Mem.read_write_same ..
          · have hxk : k ≠ x := fun h => hni (hm.inj hn hi (h ▸ e) hk)
            rw [if_neg (by
              rintro ⟨e, he, h⟩
              rcases List.mem_cons.mp he with rfl | he
              · exact hni h
              · exact hl ⟨e, he, h⟩)]
            exact Mem.read_write_other _ _ _ _ hxk
    · rw [if_neg hn]
      have ih := State.writeImage_read hm hi hk v l t ht
      refine ⟨ih.1, ih.2.trans ?_⟩
      have : (∃ e ∈ (n, b) :: l, e.1 = i) ↔ ∃ e ∈ l, e.1 = i := by
        constructor
        · rintro ⟨e, he, h⟩
          rcases List.mem_cons.mp he with rfl | he
          · exact (hn ((show n = i from h) ▸ hi)).elim
          · exact ⟨e, he, h⟩
        · rintro ⟨e, he, h⟩
          exact ⟨e, List.mem_cons_of_mem _ he, h⟩
      simp only [this]

theorem Mem.read_filter_out {f : Host.Cell → Bool} {k : Nat} (h : ∀ v, f (k, v) = false) : ∀ m : Mem, Mem.read (m.filter f) k = 0
  | [] => rfl
  | (n, v) :: m => by
    by_cases hf : f (n, v) = true
    · have hn : n ≠ k := fun e => by subst e; rw [h v] at hf; cases hf
      rw [List.filter_cons_of_pos hf, Mem.read, if_neg hn, Mem.read_filter_out h m]
    · rw [List.filter_cons_of_neg hf, Mem.read_filter_out h m]

/-- What a restore reads of an image, from a list of the bytes stored. -/
theorem State.readImage_read {s : State} {base : Nat} (hm : s.imageMapped base) {i k : Nat} (hi : i < scratchImage)
    (hk : s.keyOf (base + i) = some k) (v : Nat → Byte) :
    ∀ (l m : Mem), (l.foldl (fun (m : Mem) e => match s.imageOffset base e.1 with | some o => m.write o (v e.1) | none => m) m).read i =
      if ∃ e ∈ l, e.1 = k then v k else m.read i
  | [], m => by simp
  | (n, b) :: l, m => by
    rw [List.foldl_cons, State.readImage_read hm hi hk v l]
    by_cases hl : ∃ e ∈ l, e.1 = k
    · rw [if_pos hl, if_pos (by obtain ⟨e, he, h⟩ := hl; exact ⟨e, List.mem_cons_of_mem _ he, h⟩)]
    · rw [if_neg hl]
      by_cases hn : n = k
      · subst hn
        rw [if_pos ⟨(n, b), List.mem_cons_self .., rfl⟩]
        simp only [(State.imageOffset_eq hm).mpr ⟨hi, hk⟩]
        exact Mem.read_write_same ..
      · rw [if_neg (by
          rintro ⟨e, he, h⟩
          rcases List.mem_cons.mp he with rfl | he
          · exact hn h
          · exact hl ⟨e, he, h⟩)]
        cases e : s.imageOffset base n with
        | none => rfl
        | some o =>
          have h := (State.imageOffset_eq hm).mp e
          have hoi : i ≠ o := fun x => by subst x; rw [hk] at h; exact hn (Option.some.inj h.2).symm
          exact Mem.read_write_other _ _ _ _ hoi

/-- A scratchpad written into a mapped image is read back from it, byte by byte. -/
theorem State.readImage_writeImage {s : State} {base : Nat} (hm : s.imageMapped base) {i : Nat} (hi : i < scratchImage) :
    ((s.writeImage base).readImage base).read i = s.chip.scratch.read i := by
  have hk' := hm i hi
  cases hk : s.keyOf (base + i) with
  | none => rw [hk] at hk'; cases hk'
  | some k =>
    have hw := State.writeImage_read hm hi hk s.chip.scratch.read s.chip.scratch (s.devZero base scratchImage) rfl
    have hz : (s.devZero base scratchImage).devmem.read k = 0 := by
      unfold State.devZero
      refine Mem.read_filter_out (fun v => ?_) _
      rcases State.keyOf_addrs hk with ⟨_, h⟩ | ⟨_, h⟩ <;> simp [h, hi]
    have hwm : (s.writeImage base).mems = s.mems := hw.1
    have hm' : (s.writeImage base).imageMapped base := fun j hj => by rw [State.keyOf_congr hwm]; exact hm j hj
    have hk'' : (s.writeImage base).keyOf (base + i) = some k := by rw [State.keyOf_congr hwm]; exact hk
    have hread : (s.writeImage base).devmem.read k = s.chip.scratch.read i := by
      refine hw.2.trans ?_
      split
      · rfl
      · rename_i h
        rw [hz, Mem.read_absent fun e he => fun x => h ⟨e, he, x⟩]
    unfold State.readImage
    refine (State.readImage_read hm' hi hk'' (s.writeImage base).devmem.read _ _).trans ?_
    split
    · exact hread
    · rename_i h
      rw [← hread, Mem.read_absent fun e he => fun x => h ⟨e, he, x⟩]
      rfl

end Sys2Proof.Machine
end

