-- ==== Sys2Proof/Laws/Keeps.lean ====
section
/-! SUPPORT. Footprints: which parts of the state an operation can change. A predicate that survives a change of each part an
operation writes survives the operation; one lemma per operation says so, and later proofs cite it instead of unfolding the
operation. Instantiated with "this field is as it was" it is a frame, with an invariant it is the invariant's preservation. -/

namespace Sys2Proof.Machine

/-- A predicate on states, kept folded so that lemmas find it. -/
def Holds (P : State → Prop) (s : State) : Prop := P s

/-! ## A predicate that survives a change of one part -/

/-- The predicate does not look at `localTime`, or any value of it will do. -/
class KLocalTime (P : State → Prop) : Prop where
  keep : ∀ (s : State) (x : Word64), Holds P s → Holds P { s with localTime := x }

/-- The predicate does not look at `epochOffset`, or any value of it will do. -/
class KEpochOffset (P : State → Prop) : Prop where
  keep : ∀ (s : State) (x : Word64), Holds P s → Holds P { s with epochOffset := x }

/-- The predicate does not look at `powered`, or any value of it will do. -/
class KPowered (P : State → Prop) : Prop where
  keep : ∀ (s : State) (x : Bool), Holds P s → Holds P { s with powered := x }

/-- The predicate does not look at `generations`, or any value of it will do. -/
class KGenerations (P : State → Prop) : Prop where
  keep : ∀ (s : State) (x : Tbl Nat), Holds P s → Holds P { s with generations := x }

/-- The predicate does not look at `contexts`, or any value of it will do. -/
class KContexts (P : State → Prop) : Prop where
  keep : ∀ (s : State) (x : Tbl Context), Holds P s → Holds P { s with contexts := x }

/-- The predicate does not look at `chip`, or any value of it will do. -/
class KChip (P : State → Prop) : Prop where
  keep : ∀ (s : State) (x : Chip), Holds P s → Holds P { s with chip := x }

/-- The predicate does not look at `flint`, or any value of it will do. -/
class KFlint (P : State → Prop) : Prop where
  keep : ∀ (s : State) (x : Flint), Holds P s → Holds P { s with flint := x }

/-- The predicate does not look at `hosts`, or any value of it will do. -/
class KHosts (P : State → Prop) : Prop where
  keep : ∀ (s : State) (x : Tbl HostPort), Holds P s → Holds P { s with hosts := x }

/-- The predicate does not look at `mgmt`, or any value of it will do. -/
class KMgmt (P : State → Prop) : Prop where
  keep : ∀ (s : State) (x : Mgmt), Holds P s → Holds P { s with mgmt := x }

/-- The predicate does not look at `flash`, or any value of it will do. -/
class KFlash (P : State → Prop) : Prop where
  keep : ∀ (s : State) (x : Flash), Holds P s → Holds P { s with flash := x }

/-- The predicate does not look at `cfg`, or any value of it will do. -/
class KCfg (P : State → Prop) : Prop where
  keep : ∀ (s : State) (x : Cfg), Holds P s → Holds P { s with cfg := x }

/-- The predicate does not look at `running`, or any value of it will do. -/
class KRunning (P : State → Prop) : Prop where
  keep : ∀ (s : State) (x : Nat), Holds P s → Holds P { s with running := x }

/-- The predicate does not look at `regs`, or any value of it will do. -/
class KRegs (P : State → Prop) : Prop where
  keep : ∀ (s : State) (x : List (Reg × Word64)), Holds P s → Holds P { s with regs := x }

/-- The predicate does not look at `devFlips`, or any value of it will do. -/
class KDevFlips (P : State → Prop) : Prop where
  keep : ∀ (s : State) (x : Flips), Holds P s → Holds P { s with devFlips := x }

/-- The predicate does not look at `mems`, or any value of it will do. -/
class KMems (P : State → Prop) : Prop where
  keep : ∀ (s : State) (x : Tbl MemDev), Holds P s → Holds P { s with mems := x }

/-- The predicate does not look at `oports`, or any value of it will do. -/
class KOports (P : State → Prop) : Prop where
  keep : ∀ (s : State) (x : Tbl OPort), Holds P s → Holds P { s with oports := x }

/-- The predicate does not look at `ochans`, or any value of it will do. -/
class KOchans (P : State → Prop) : Prop where
  keep : ∀ (s : State) (x : Tbl OChan), Holds P s → Holds P { s with ochans := x }

/-- The predicate does not look at `lasers`, or any value of it will do. -/
class KLasers (P : State → Prop) : Prop where
  keep : ∀ (s : State) (x : Tbl Laser), Holds P s → Holds P { s with lasers := x }

/-- The predicate does not look at `edges`, or any value of it will do. -/
class KEdges (P : State → Prop) : Prop where
  keep : ∀ (s : State) (x : Tbl Edge), Holds P s → Holds P { s with edges := x }

/-- The predicate does not look at `gangPairs`, or any value of it will do. -/
class KGangPairs (P : State → Prop) : Prop where
  keep : ∀ (s : State) (x : List (Nat × Nat × Nat)), Holds P s → Holds P { s with gangPairs := x }

/-- The predicate does not look at `dies`, or any value of it will do. -/
class KDies (P : State → Prop) : Prop where
  keep : ∀ (s : State) (x : Tbl Die), Holds P s → Holds P { s with dies := x }

/-- The predicate does not look at `repair`, or any value of it will do. -/
class KRepair (P : State → Prop) : Prop where
  keep : ∀ (s : State) (x : Repair), Holds P s → Holds P { s with repair := x }

/-- The predicate does not look at `pins`, or any value of it will do. -/
class KPins (P : State → Prop) : Prop where
  keep : ∀ (s : State) (x : Pins), Holds P s → Holds P { s with pins := x }

/-- The predicate does not look at `sent`, or any value of it will do. -/
class KSent (P : State → Prop) : Prop where
  keep : ∀ (s : State) (x : List Out), Holds P s → Holds P { s with sent := x }

/-- The predicate does not look at `fresh`, or any value of it will do. -/
class KFresh (P : State → Prop) : Prop where
  keep : ∀ (s : State) (x : Nat), Holds P s → Holds P { s with fresh := x }

/-- The predicate survives a change of the fabric address. -/
class KFabric (P : State → Prop) : Prop where
  keep : ∀ (s : State) (v : Bool) (a : BitVec 17), Holds P s → Holds P { s with fabricValid := v, fabric := a }

/-- The predicate survives naming another context resident. -/
class KResident (P : State → Prop) : Prop where
  keep : ∀ (s : State) (id : BitVec 16), Holds P s → Holds P (s.setResident id)

/-- The predicate survives new input readings. -/
class KInput (P : State → Prop) : Prop where
  keep : ∀ (s : State) (v w : Nat), Holds P s → Holds P { s with inputMv := v, inputW := w }

/-- The predicate survives a change of device memory that keeps the memory's canonical form. -/
class KDevmem (P : State → Prop) : Prop where
  keep : ∀ (s : State) (m : Mem), (s.devmem.wf = true → m.wf = true) → Holds P s → Holds P { s with devmem := m }

/-- The predicate survives the loss of power. -/
class KOff (P : State → Prop) : Prop where
  keep : ∀ (s : State) (p : Pins), Holds P s → Holds P (s.off p)

/-- The predicate survives a module reset or a full-scope reset of everything but the flash, the pins and the queue. -/
class KReset (P : State → Prop) : Prop where
  keep : ∀ (s : State) (k : Bool), Holds P s → Holds P (s.moduleReset k)

/-! ## Folds -/

/-- A fold keeps what each of its steps keeps. -/
theorem Holds.foldl {P : State → Prop} {α : Type} {g : State → α → State} (hg : ∀ s x, Holds P s → Holds P (g s x)) :
    ∀ (l : List α) (s : State), Holds P s → Holds P (l.foldl g s)
  | [], _, h => h
  | x :: l, s, h => Holds.foldl hg l (g s x) (hg s x h)

/-! ## Answers that hold a state where they fail -/

/-- Any value will do. -/
def anyVal {ε : Type} (_ : ε) : Prop := True

theorem anyVal.triv {ε : Type} {x : ε} : anyVal x := True.intro

/-- The state that a memory error carries. -/
def MemErr.has (P : State → Prop) : MemErr → Prop
  | .unmapped => True
  | .dead _ t => Holds P t

theorem MemErr.has_unmapped {P : State → Prop} : MemErr.has P .unmapped := True.intro

theorem MemErr.has_dead {P : State → Prop} {d : Nat} {t : State} (h : Holds P t) : MemErr.has P (.dead d t) := h

theorem MemErr.of_dead {P : State → Prop} {d : Nat} {t : State} (h : MemErr.has P (.dead d t)) : Holds P t := h

/-- The state that a stopped transfer carries. -/
def MoveStop.has (P : State → Prop) : MoveStop → Prop
  | .wait => True
  | .fault _ t | .mem _ t | .bank _ _ t | .slot _ t => Holds P t

theorem MoveStop.has_wait {P : State → Prop} : MoveStop.has P .wait := True.intro

theorem MoveStop.has_fault {P : State → Prop} {c : Nat} {t : State} (h : Holds P t) : MoveStop.has P (.fault c t) := h

theorem MoveStop.of_fault {P : State → Prop} {c : Nat} {t : State} (h : MoveStop.has P (.fault c t)) : Holds P t := h

theorem MoveStop.has_mem {P : State → Prop} {c : Nat} {t : State} (h : Holds P t) : MoveStop.has P (.mem c t) := h

theorem MoveStop.of_mem {P : State → Prop} {c : Nat} {t : State} (h : MoveStop.has P (.mem c t)) : Holds P t := h

theorem MoveStop.has_bank {P : State → Prop} {c b : Nat} {t : State} (h : Holds P t) : MoveStop.has P (.bank c b t) := h

theorem MoveStop.of_bank {P : State → Prop} {c b : Nat} {t : State} (h : MoveStop.has P (.bank c b t)) : Holds P t := h

theorem MoveStop.has_slot {P : State → Prop} {c : Nat} {t : State} (h : Holds P t) : MoveStop.has P (.slot c t) := h

theorem MoveStop.of_slot {P : State → Prop} {c : Nat} {t : State} (h : MoveStop.has P (.slot c t)) : Holds P t := h

/-- The state that an uncorrectable bank word leaves. -/
def BankErr.has (P : State → Prop) (e : BankErr) : Prop := Holds P e.s

theorem BankErr.has_mk {P : State → Prop} {b : Nat} {t : State} (h : Holds P t) : BankErr.has P ⟨b, t⟩ := h

theorem BankErr.of {P : State → Prop} {e : BankErr} (h : BankErr.has P e) : Holds P e.s := h

/-- The state that a row's stop carries. -/
def RowStop.has (P : State → Prop) : RowStop → Prop
  | .bank e => BankErr.has P e
  | .wait _ | .size _ | .entry => True

theorem RowStop.has_wait {P : State → Prop} {bs : List Nat} : RowStop.has P (.wait bs) := True.intro

theorem RowStop.has_size {P : State → Prop} {n : Nat} : RowStop.has P (.size n) := True.intro

theorem RowStop.has_entry {P : State → Prop} : RowStop.has P .entry := True.intro

theorem RowStop.has_bank {P : State → Prop} {e : BankErr} (h : BankErr.has P e) : RowStop.has P (.bank e) := h

theorem RowStop.of_bank {P : State → Prop} {e : BankErr} (h : RowStop.has P (.bank e)) : Holds P e.s := h

/-- The state that what stops an update unit carries. -/
def UpdErr.has (P : State → Prop) : UpdErr → Prop
  | .mem e => MemErr.has P e
  | .scale => True

/-- The state of what stops an update unit, if anything does. -/
def optUpd (P : State → Prop) (x : Option UpdErr) : Prop := ∀ e, x = some e → UpdErr.has P e

theorem optUpd.none {P : State → Prop} : optUpd P none := fun _ h => by cases h

theorem optUpd.some {P : State → Prop} {e : UpdErr} (h : UpdErr.has P e) : optUpd P (some e) := fun _ h' => by cases h'; exact h

theorem optUpd.scale {P : State → Prop} : optUpd P (Option.some .scale) := optUpd.some True.intro

theorem optUpd.of {P : State → Prop} {e : UpdErr} (h : optUpd P (Option.some e)) : UpdErr.has P e := h e rfl

/-- The state of what stops an update unit at a block, if anything does. -/
def optUpd2 (P : State → Prop) (x : Option (Nat × UpdErr)) : Prop := ∀ n e, x = some (n, e) → UpdErr.has P e

theorem optUpd2.none {P : State → Prop} : optUpd2 P none := fun _ _ h => by cases h

theorem optUpd2.some {P : State → Prop} {n : Nat} {e : UpdErr} (h : UpdErr.has P e) : optUpd2 P (some (n, e)) := fun _ _ h' => by cases h'; exact h

theorem optUpd2.of {P : State → Prop} {n : Nat} {e : UpdErr} (h : optUpd2 P (Option.some (n, e))) : UpdErr.has P e := h n e rfl

/-- The state of an answer that holds one. -/
def ansHas (P : State → Prop) (x : Ans × State) : Prop := Holds P x.2

theorem ansHas.mk {P : State → Prop} {a : Ans} {t : State} (h : Holds P t) : ansHas P (a, t) := h

theorem ansHas.of {P : State → Prop} {a : Ans} {t : State} (h : ansHas P (a, t)) : Holds P t := h

/-- The state of a memory error, if there is one. -/
def optErr (P : State → Prop) (x : Option MemErr) : Prop := ∀ e, x = some e → MemErr.has P e

theorem optErr.none {P : State → Prop} : optErr P none := fun _ h => by cases h

theorem optErr.some {P : State → Prop} {e : MemErr} (h : MemErr.has P e) : optErr P (some e) := fun _ h' => by cases h'; exact h

theorem optErr.of {P : State → Prop} {e : MemErr} (h : optErr P (Option.some e)) : MemErr.has P e := h e rfl

theorem optUpd.mapMem {P : State → Prop} {x : Option MemErr} (h : optErr P x) : optUpd P (x.map .mem) := fun e he => by
  cases x with
  | none => cases he
  | some a => cases he; exact h a rfl

/-- The state of a memory error at a block, if there is one. -/
def optErr2 (P : State → Prop) (x : Option (Nat × MemErr)) : Prop := ∀ n e, x = some (n, e) → MemErr.has P e

theorem optErr2.none {P : State → Prop} : optErr2 P none := fun _ _ h => by cases h

theorem optErr2.some {P : State → Prop} {n : Nat} {e : MemErr} (h : MemErr.has P e) : optErr2 P (some (n, e)) := fun _ _ h' => by cases h'; exact h

theorem optErr2.of {P : State → Prop} {n : Nat} {e : MemErr} (h : optErr2 P (Option.some (n, e))) : MemErr.has P e := h n e rfl

/-! ## Operations that answer more than a state -/

/-- The state in an answer of this shape. -/
structure HPair {α : Type} (P : State → Prop) (r : α × State) : Prop where
  out : Holds P r.2

theorem HPair.get {α : Type} {P : State → Prop} {r : α × State} {v : α} {t} (h : HPair P r) (e : r = (v, t)) : Holds P t := by subst e; exact h.out

theorem HPair.ans {α : Type} {P : State → Prop} {v : α} {t : State} (h : Holds P t) : HPair P ((v, t) : α × State) := ⟨h⟩

theorem HPair.proj {α : Type} {P : State → Prop} {r : α × State} (h : HPair P r) : Holds P r.2 := h.out

theorem HPair.foldl {α : Type} {δ : Type} {P : State → Prop} {g : α × State → δ → α × State} (hg : ∀ r x, HPair P r → HPair P (g r x)) :
    ∀ (l : List δ) (r : α × State), HPair P r → HPair P (l.foldl g r)
  | [], _, h => h
  | x :: l, r, h => HPair.foldl hg l (g r x) (hg r x h)

/-- The state in an answer of this shape. -/
structure HPair3 {α β : Type} (P : State → Prop) (r : α × β × State) : Prop where
  out : Holds P r.2.2

theorem HPair3.get {α β : Type} {P : State → Prop} {r : α × β × State} {v : α} {w : β} {t} (h : HPair3 P r) (e : r = (v, w, t)) : Holds P t := by subst e; exact h.out

theorem HPair3.ans {α β : Type} {P : State → Prop} {v : α} {w : β} {t : State} (h : Holds P t) : HPair3 P ((v, w, t) : α × β × State) := ⟨h⟩

theorem HPair3.proj {α β : Type} {P : State → Prop} {r : α × β × State} (h : HPair3 P r) : Holds P r.2.2 := h.out

theorem HPair3.foldl {α β : Type} {δ : Type} {P : State → Prop} {g : α × β × State → δ → α × β × State} (hg : ∀ r x, HPair3 P r → HPair3 P (g r x)) :
    ∀ (l : List δ) (r : α × β × State), HPair3 P r → HPair3 P (l.foldl g r)
  | [], _, h => h
  | x :: l, r, h => HPair3.foldl hg l (g r x) (hg r x h)

/-- The state in an answer of this shape, and what it says besides. -/
structure HFst {α : Type} (P : State → Prop) (E : α → Prop) (r : State × α) : Prop where
  out : Holds P r.1
  other : E r.2

theorem HFst.get {α : Type} {P : State → Prop} {E : α → Prop} {r : State × α} {v : α} {t} (h : HFst P E r) (e : r = (t, v)) : Holds P t := by subst e; exact h.out

theorem HFst.getE {α : Type} {P : State → Prop} {E : α → Prop} {r : State × α} {v : α} {t} (h : HFst P E r) (e : r = (t, v)) : E v := by subst e; exact h.other

theorem HFst.ans {α : Type} {P : State → Prop} {E : α → Prop} {v : α} {t : State} (h : Holds P t) (h2 : E v) : HFst P E ((t, v) : State × α) := ⟨h, h2⟩

theorem HFst.proj {α : Type} {P : State → Prop} {E : α → Prop} {r : State × α} (h : HFst P E r) : Holds P r.1 := h.out

theorem HFst.projE {α : Type} {P : State → Prop} {E : α → Prop} {r : State × α} (h : HFst P E r) : E r.2 := h.other

theorem HFst.foldl {α : Type} {δ : Type} {P : State → Prop} {E : α → Prop} {g : State × α → δ → State × α} (hg : ∀ r x, HFst P E r → HFst P E (g r x)) :
    ∀ (l : List δ) (r : State × α), HFst P E r → HFst P E (l.foldl g r)
  | [], _, h => h
  | x :: l, r, h => HFst.foldl hg l (g r x) (hg r x h)

/-- The state in an answer of this shape, and what it says besides. -/
structure HMid {α β : Type} (P : State → Prop) (E : β → Prop) (r : α × State × β) : Prop where
  out : Holds P r.2.1
  other : E r.2.2

theorem HMid.get {α β : Type} {P : State → Prop} {E : β → Prop} {r : α × State × β} {v : α} {w : β} {t} (h : HMid P E r) (e : r = (v, t, w)) : Holds P t := by subst e; exact h.out

theorem HMid.getE {α β : Type} {P : State → Prop} {E : β → Prop} {r : α × State × β} {v : α} {w : β} {t} (h : HMid P E r) (e : r = (v, t, w)) : E w := by subst e; exact h.other

theorem HMid.ans {α β : Type} {P : State → Prop} {E : β → Prop} {v : α} {w : β} {t : State} (h : Holds P t) (h2 : E w) : HMid P E ((v, t, w) : α × State × β) := ⟨h, h2⟩

theorem HMid.proj {α β : Type} {P : State → Prop} {E : β → Prop} {r : α × State × β} (h : HMid P E r) : Holds P r.2.1 := h.out

theorem HMid.projE {α β : Type} {P : State → Prop} {E : β → Prop} {r : α × State × β} (h : HMid P E r) : E r.2.2 := h.other

theorem HMid.foldl {α β : Type} {δ : Type} {P : State → Prop} {E : β → Prop} {g : α × State × β → δ → α × State × β} (hg : ∀ r x, HMid P E r → HMid P E (g r x)) :
    ∀ (l : List δ) (r : α × State × β), HMid P E r → HMid P E (l.foldl g r)
  | [], _, h => h
  | x :: l, r, h => HMid.foldl hg l (g r x) (hg r x h)

/-- What stops an operation. -/
structure HErr {ε δ : Type} (E : ε → Prop) (r : Except ε δ) : Prop where
  bad : ∀ e, r = .error e → E e

theorem HErr.getE {ε δ : Type} {E : ε → Prop} {r : Except ε δ} {x} (h : HErr E r) (e : r = .error x) : E x := h.bad _ e

theorem HErr.ans {ε δ : Type} {E : ε → Prop} {a : δ} : HErr E (.ok a : Except ε δ) := ⟨fun _ e => by cases e⟩

theorem HErr.err {ε δ : Type} {E : ε → Prop} {x : ε} (h : E x) : HErr E (.error x : Except ε δ) := ⟨fun _ e => by cases e; exact h⟩

theorem HErr.any {ε δ : Type} {r : Except ε δ} : HErr anyVal r := ⟨fun _ _ => True.intro⟩

theorem HErr.bindX {ε δ δ' : Type} {E : ε → Prop} {x : Except ε δ} {k : δ → Except ε δ'} (hx : HErr E x) (h : ∀ a, HErr E (k a)) :
    HErr E (x >>= k) := by
  cases x with
  | error _ => exact HErr.err (hx.bad _ rfl)
  | ok a => exact h a

theorem HErr.foldlM {ε β δ : Type} {E : ε → Prop} {g : β → δ → Except ε β} (hg : ∀ b x, HErr E (g b x)) :
    ∀ {l : List δ} {b : β}, HErr E (l.foldlM g b)
  | [], _ => HErr.ans
  | x :: l, b => by
    rw [List.foldlM_cons]
    exact HErr.bindX (hg b x) fun _ => HErr.foldlM hg

theorem HErr.foldl {ε δ δ' : Type} {E : ε → Prop} {g : Except ε δ → δ' → Except ε δ} (hg : ∀ r x, HErr E r → HErr E (g r x)) :
    ∀ (l : List δ') (r : Except ε δ), HErr E r → HErr E (l.foldl g r)
  | [], _, h => h
  | x :: l, r, h => HErr.foldl hg l (g r x) (hg r x h)

/-- The state in an answer of this shape, or what stops it. -/
structure HOk {ε : Type} (P : State → Prop) (E : ε → Prop) (r : Except ε State) : Prop where
  out : ∀ t, r = .ok t → Holds P t
  bad : ∀ e, r = .error e → E e

theorem HOk.get {ε : Type} {P : State → Prop} {E : ε → Prop} {r : Except ε State}  {t} (h : HOk P E r) (e : r = .ok t) : Holds P t := h.out _ e

theorem HOk.getE {ε : Type} {P : State → Prop} {E : ε → Prop} {r : Except ε State} {x'} (h : HOk P E r) (e : r = .error x') : E x' := h.bad _ e

theorem HOk.ans {ε : Type} {P : State → Prop} {E : ε → Prop}  {t : State} (h : Holds P t) : HOk P E (.ok t : Except ε State) := by
  constructor
  · intro _ e; cases e; exact h
  · intro _ e; cases e

theorem HOk.err {ε : Type} {P : State → Prop} {E : ε → Prop} {x' : ε} (h : E x') : HOk P E (.error x' : Except ε State) := by
  constructor
  · intro _ e; cases e
  · intro _ e; cases e; exact h

theorem HOk.toErr {ε : Type} {P : State → Prop} {E : ε → Prop} {r : Except ε State} (h : HOk P E r) : HErr E r := ⟨h.bad⟩

theorem HOk.bindX {ε : Type} {δ : Type} {P : State → Prop} {E : ε → Prop} {x : Except ε δ} {k : δ → Except ε State} (hx : HErr E x) (h : ∀ a, HOk P E (k a)) :
    HOk P E (x >>= k) := by
  cases x with
  | error _ => exact HOk.err (hx.bad _ rfl)
  | ok a => exact h a

theorem HOk.foldl {ε : Type} {δ : Type} {P : State → Prop} {E : ε → Prop} {g : Except ε State → δ → Except ε State} (hg : ∀ r x, HOk P E r → HOk P E (g r x)) :
    ∀ (l : List δ) (r : Except ε State), HOk P E r → HOk P E (l.foldl g r)
  | [], _, h => h
  | x :: l, r, h => HOk.foldl hg l (g r x) (hg r x h)

/-- The state in an answer of this shape, or what stops it. -/
structure HOk2 {ε α : Type} (P : State → Prop) (E : ε → Prop) (r : Except ε (α × State)) : Prop where
  out : ∀ v t, r = .ok (v, t) → Holds P t
  bad : ∀ e, r = .error e → E e

theorem HOk2.get {ε α : Type} {P : State → Prop} {E : ε → Prop} {r : Except ε (α × State)} {v : α} {t} (h : HOk2 P E r) (e : r = .ok (v, t)) : Holds P t := h.out _ _ e

theorem HOk2.getE {ε α : Type} {P : State → Prop} {E : ε → Prop} {r : Except ε (α × State)} {x'} (h : HOk2 P E r) (e : r = .error x') : E x' := h.bad _ e

theorem HOk2.ans {ε α : Type} {P : State → Prop} {E : ε → Prop} {v : α} {t : State} (h : Holds P t) : HOk2 P E (.ok (v, t) : Except ε (α × State)) := by
  constructor
  · intro _ _ e; cases e; exact h
  · intro _ e; cases e

theorem HOk2.err {ε α : Type} {P : State → Prop} {E : ε → Prop} {x' : ε} (h : E x') : HOk2 P E (.error x' : Except ε (α × State)) := by
  constructor
  · intro _ _ e; cases e
  · intro _ e; cases e; exact h

theorem HOk2.toErr {ε α : Type} {P : State → Prop} {E : ε → Prop} {r : Except ε (α × State)} (h : HOk2 P E r) : HErr E r := ⟨h.bad⟩

theorem HOk2.bindX {ε α : Type} {δ : Type} {P : State → Prop} {E : ε → Prop} {x : Except ε δ} {k : δ → Except ε (α × State)} (hx : HErr E x) (h : ∀ a, HOk2 P E (k a)) :
    HOk2 P E (x >>= k) := by
  cases x with
  | error _ => exact HOk2.err (hx.bad _ rfl)
  | ok a => exact h a

theorem HOk2.foldl {ε α : Type} {δ : Type} {P : State → Prop} {E : ε → Prop} {g : Except ε (α × State) → δ → Except ε (α × State)} (hg : ∀ r x, HOk2 P E r → HOk2 P E (g r x)) :
    ∀ (l : List δ) (r : Except ε (α × State)), HOk2 P E r → HOk2 P E (l.foldl g r)
  | [], _, h => h
  | x :: l, r, h => HOk2.foldl hg l (g r x) (hg r x h)

/-- The state in an answer of this shape, or what stops it. -/
structure HOk3 {ε α β : Type} (P : State → Prop) (E : ε → Prop) (r : Except ε (α × β × State)) : Prop where
  out : ∀ v w t, r = .ok (v, w, t) → Holds P t
  bad : ∀ e, r = .error e → E e

theorem HOk3.get {ε α β : Type} {P : State → Prop} {E : ε → Prop} {r : Except ε (α × β × State)} {v : α} {w : β} {t} (h : HOk3 P E r) (e : r = .ok (v, w, t)) : Holds P t := h.out _ _ _ e

theorem HOk3.getE {ε α β : Type} {P : State → Prop} {E : ε → Prop} {r : Except ε (α × β × State)} {x'} (h : HOk3 P E r) (e : r = .error x') : E x' := h.bad _ e

theorem HOk3.ans {ε α β : Type} {P : State → Prop} {E : ε → Prop} {v : α} {w : β} {t : State} (h : Holds P t) : HOk3 P E (.ok (v, w, t) : Except ε (α × β × State)) := by
  constructor
  · intro _ _ _ e; cases e; exact h
  · intro _ e; cases e

theorem HOk3.err {ε α β : Type} {P : State → Prop} {E : ε → Prop} {x' : ε} (h : E x') : HOk3 P E (.error x' : Except ε (α × β × State)) := by
  constructor
  · intro _ _ _ e; cases e
  · intro _ e; cases e; exact h

theorem HOk3.toErr {ε α β : Type} {P : State → Prop} {E : ε → Prop} {r : Except ε (α × β × State)} (h : HOk3 P E r) : HErr E r := ⟨h.bad⟩

theorem HOk3.bindX {ε α β : Type} {δ : Type} {P : State → Prop} {E : ε → Prop} {x : Except ε δ} {k : δ → Except ε (α × β × State)} (hx : HErr E x) (h : ∀ a, HOk3 P E (k a)) :
    HOk3 P E (x >>= k) := by
  cases x with
  | error _ => exact HOk3.err (hx.bad _ rfl)
  | ok a => exact h a

theorem HOk3.foldl {ε α β : Type} {δ : Type} {P : State → Prop} {E : ε → Prop} {g : Except ε (α × β × State) → δ → Except ε (α × β × State)} (hg : ∀ r x, HOk3 P E r → HOk3 P E (g r x)) :
    ∀ (l : List δ) (r : Except ε (α × β × State)), HOk3 P E r → HOk3 P E (l.foldl g r)
  | [], _, h => h
  | x :: l, r, h => HOk3.foldl hg l (g r x) (hg r x h)

/-- The state in an answer of this shape, or what stops it. -/
structure HOk4 {ε α β γ : Type} (P : State → Prop) (E : ε → Prop) (r : Except ε (α × β × γ × State)) : Prop where
  out : ∀ v w x t, r = .ok (v, w, x, t) → Holds P t
  bad : ∀ e, r = .error e → E e

theorem HOk4.get {ε α β γ : Type} {P : State → Prop} {E : ε → Prop} {r : Except ε (α × β × γ × State)} {v : α} {w : β} {x : γ} {t} (h : HOk4 P E r) (e : r = .ok (v, w, x, t)) : Holds P t := h.out _ _ _ _ e

theorem HOk4.getE {ε α β γ : Type} {P : State → Prop} {E : ε → Prop} {r : Except ε (α × β × γ × State)} {x'} (h : HOk4 P E r) (e : r = .error x') : E x' := h.bad _ e

theorem HOk4.ans {ε α β γ : Type} {P : State → Prop} {E : ε → Prop} {v : α} {w : β} {x : γ} {t : State} (h : Holds P t) : HOk4 P E (.ok (v, w, x, t) : Except ε (α × β × γ × State)) := by
  constructor
  · intro _ _ _ _ e; cases e; exact h
  · intro _ e; cases e

theorem HOk4.err {ε α β γ : Type} {P : State → Prop} {E : ε → Prop} {x' : ε} (h : E x') : HOk4 P E (.error x' : Except ε (α × β × γ × State)) := by
  constructor
  · intro _ _ _ _ e; cases e
  · intro _ e; cases e; exact h

theorem HOk4.toErr {ε α β γ : Type} {P : State → Prop} {E : ε → Prop} {r : Except ε (α × β × γ × State)} (h : HOk4 P E r) : HErr E r := ⟨h.bad⟩

theorem HOk4.bindX {ε α β γ : Type} {δ : Type} {P : State → Prop} {E : ε → Prop} {x : Except ε δ} {k : δ → Except ε (α × β × γ × State)} (hx : HErr E x) (h : ∀ a, HOk4 P E (k a)) :
    HOk4 P E (x >>= k) := by
  cases x with
  | error _ => exact HOk4.err (hx.bad _ rfl)
  | ok a => exact h a

theorem HOk4.foldl {ε α β γ : Type} {δ : Type} {P : State → Prop} {E : ε → Prop} {g : Except ε (α × β × γ × State) → δ → Except ε (α × β × γ × State)} (hg : ∀ r x, HOk4 P E r → HOk4 P E (g r x)) :
    ∀ (l : List δ) (r : Except ε (α × β × γ × State)), HOk4 P E r → HOk4 P E (l.foldl g r)
  | [], _, h => h
  | x :: l, r, h => HOk4.foldl hg l (g r x) (hg r x h)

/-- The state in an answer of this shape, if it holds one. -/
structure HSome (P : State → Prop) (r : Option State) : Prop where
  out : ∀ t, r = some t → Holds P t

theorem HSome.get {P : State → Prop} {r : Option State} {t} (h : HSome P r) (e : r = some t) : Holds P t := h.out  _ e

theorem HSome.ans {P : State → Prop}  {t : State} (h : Holds P t) : HSome P (some t : Option State) := by
  constructor; intro  _ e; cases e; exact h

theorem HSome.none {P : State → Prop} : HSome P none := by
  constructor; intro _ e; cases e

theorem HSome.foldl {δ : Type} {P : State → Prop} {g : Option State → δ → Option State} (hg : ∀ r x, HSome P r → HSome P (g r x)) :
    ∀ (l : List δ) (r : Option State), HSome P r → HSome P (l.foldl g r)
  | [], _, h => h
  | x :: l, r, h => HSome.foldl hg l (g r x) (hg r x h)

/-- The state in an answer of this shape, if it holds one. -/
structure HNext (P : State → Prop) (r : Host.Outcome State Fault Refusal) : Prop where
  out : ∀ t, r = .next t → Holds P t

theorem HNext.get {P : State → Prop} {r : Host.Outcome State Fault Refusal} {t} (h : HNext P r) (e : r = .next t) : Holds P t := h.out  _ e

theorem HNext.ans {P : State → Prop}  {t : State} (h : Holds P t) : HNext P (.next t : Host.Outcome State Fault Refusal) := by
  constructor; intro  _ e; cases e; exact h

theorem HOk.foldlM {ε δ : Type} {P : State → Prop} {E : ε → Prop} {g : State → δ → Except ε State} (hg : ∀ s x, Holds P s → HOk P E (g s x)) :
    ∀ {l : List δ} {s : State}, Holds P s → HOk P E (l.foldlM g s)
  | [], _, h => HOk.ans h
  | x :: l, s, h => by
    rw [List.foldlM_cons]
    have h1 := hg s x h
    cases e : g s x with
    | error y => exact HOk.err (h1.bad _ e)
    | ok t => exact HOk.foldlM hg (h1.out _ e)

theorem HOk2.map {ε α β : Type} {P : State → Prop} {E : ε → Prop} {x : Except ε (α × State)} {f : α × State → β × State} (hx : HOk2 P E x)
    (hf : ∀ r, (f r).2 = r.2) : HOk2 P E (x.map f) := by
  cases x with
  | error y => exact HOk2.err (hx.bad _ rfl)
  | ok r =>
    refine ⟨fun v t e => ?_, fun _ e => by cases e⟩
    have h1 : f r = (v, t) := Except.ok.inj e
    have h2 : t = r.2 := by rw [← hf r, h1]
    subst h2
    exact hx.out _ _ rfl

theorem HSome.obind {P : State → Prop} {x : Option State} {f : State → Option State} (hx : HSome P x) (h : ∀ t, Holds P t → HSome P (f t)) :
    HSome P (x.bind f) := by
  cases x with
  | none => exact HSome.none
  | some a => exact h a (hx.out a rfl)

theorem HOk.bindOk {ε : Type} {P : State → Prop} {E : ε → Prop} {x : Except ε State} {k : State → Except ε State}
    (hx : HOk P E x) (h : ∀ t, Holds P t → HOk P E (k t)) : HOk P E (x >>= k) := by
  cases x with
  | error _ => exact HOk.err (hx.bad _ rfl)
  | ok a => exact h a (hx.out _ rfl)

theorem HOk2.bindOk {ε α' : Type} {P : State → Prop} {E : ε → Prop} {x : Except ε State} {k : State → Except ε (α' × State)}
    (hx : HOk P E x) (h : ∀ t, Holds P t → HOk2 P E (k t)) : HOk2 P E (x >>= k) := by
  cases x with
  | error _ => exact HOk2.err (hx.bad _ rfl)
  | ok a => exact h a (hx.out _ rfl)

theorem HOk3.bindOk {ε α' β' : Type} {P : State → Prop} {E : ε → Prop} {x : Except ε State} {k : State → Except ε (α' × β' × State)}
    (hx : HOk P E x) (h : ∀ t, Holds P t → HOk3 P E (k t)) : HOk3 P E (x >>= k) := by
  cases x with
  | error _ => exact HOk3.err (hx.bad _ rfl)
  | ok a => exact h a (hx.out _ rfl)

theorem HOk4.bindOk {ε α' β' γ' : Type} {P : State → Prop} {E : ε → Prop} {x : Except ε State} {k : State → Except ε (α' × β' × γ' × State)}
    (hx : HOk P E x) (h : ∀ t, Holds P t → HOk4 P E (k t)) : HOk4 P E (x >>= k) := by
  cases x with
  | error _ => exact HOk4.err (hx.bad _ rfl)
  | ok a => exact h a (hx.out _ rfl)

theorem HOk.bindOk2 {ε α : Type} {P : State → Prop} {E : ε → Prop} {x : Except ε (α × State)} {k : (α × State) → Except ε State}
    (hx : HOk2 P E x) (h : ∀ v t, Holds P t → HOk P E (k (v, t))) : HOk P E (x >>= k) := by
  cases x with
  | error _ => exact HOk.err (hx.bad _ rfl)
  | ok a => exact h a.1 a.2 (hx.out _ _ rfl)

theorem HOk2.bindOk2 {ε α α' : Type} {P : State → Prop} {E : ε → Prop} {x : Except ε (α × State)} {k : (α × State) → Except ε (α' × State)}
    (hx : HOk2 P E x) (h : ∀ v t, Holds P t → HOk2 P E (k (v, t))) : HOk2 P E (x >>= k) := by
  cases x with
  | error _ => exact HOk2.err (hx.bad _ rfl)
  | ok a => exact h a.1 a.2 (hx.out _ _ rfl)

theorem HOk3.bindOk2 {ε α α' β' : Type} {P : State → Prop} {E : ε → Prop} {x : Except ε (α × State)} {k : (α × State) → Except ε (α' × β' × State)}
    (hx : HOk2 P E x) (h : ∀ v t, Holds P t → HOk3 P E (k (v, t))) : HOk3 P E (x >>= k) := by
  cases x with
  | error _ => exact HOk3.err (hx.bad _ rfl)
  | ok a => exact h a.1 a.2 (hx.out _ _ rfl)

theorem HOk4.bindOk2 {ε α α' β' γ' : Type} {P : State → Prop} {E : ε → Prop} {x : Except ε (α × State)} {k : (α × State) → Except ε (α' × β' × γ' × State)}
    (hx : HOk2 P E x) (h : ∀ v t, Holds P t → HOk4 P E (k (v, t))) : HOk4 P E (x >>= k) := by
  cases x with
  | error _ => exact HOk4.err (hx.bad _ rfl)
  | ok a => exact h a.1 a.2 (hx.out _ _ rfl)

theorem HOk.bindOk3 {ε α β : Type} {P : State → Prop} {E : ε → Prop} {x : Except ε (α × β × State)} {k : (α × β × State) → Except ε State}
    (hx : HOk3 P E x) (h : ∀ v w t, Holds P t → HOk P E (k (v, w, t))) : HOk P E (x >>= k) := by
  cases x with
  | error _ => exact HOk.err (hx.bad _ rfl)
  | ok a => exact h a.1 a.2.1 a.2.2 (hx.out _ _ _ rfl)

theorem HOk2.bindOk3 {ε α β α' : Type} {P : State → Prop} {E : ε → Prop} {x : Except ε (α × β × State)} {k : (α × β × State) → Except ε (α' × State)}
    (hx : HOk3 P E x) (h : ∀ v w t, Holds P t → HOk2 P E (k (v, w, t))) : HOk2 P E (x >>= k) := by
  cases x with
  | error _ => exact HOk2.err (hx.bad _ rfl)
  | ok a => exact h a.1 a.2.1 a.2.2 (hx.out _ _ _ rfl)

theorem HOk3.bindOk3 {ε α β α' β' : Type} {P : State → Prop} {E : ε → Prop} {x : Except ε (α × β × State)} {k : (α × β × State) → Except ε (α' × β' × State)}
    (hx : HOk3 P E x) (h : ∀ v w t, Holds P t → HOk3 P E (k (v, w, t))) : HOk3 P E (x >>= k) := by
  cases x with
  | error _ => exact HOk3.err (hx.bad _ rfl)
  | ok a => exact h a.1 a.2.1 a.2.2 (hx.out _ _ _ rfl)

theorem HOk4.bindOk3 {ε α β α' β' γ' : Type} {P : State → Prop} {E : ε → Prop} {x : Except ε (α × β × State)} {k : (α × β × State) → Except ε (α' × β' × γ' × State)}
    (hx : HOk3 P E x) (h : ∀ v w t, Holds P t → HOk4 P E (k (v, w, t))) : HOk4 P E (x >>= k) := by
  cases x with
  | error _ => exact HOk4.err (hx.bad _ rfl)
  | ok a => exact h a.1 a.2.1 a.2.2 (hx.out _ _ _ rfl)

theorem HOk.bindOk4 {ε α β γ : Type} {P : State → Prop} {E : ε → Prop} {x : Except ε (α × β × γ × State)} {k : (α × β × γ × State) → Except ε State}
    (hx : HOk4 P E x) (h : ∀ v w x t, Holds P t → HOk P E (k (v, w, x, t))) : HOk P E (x >>= k) := by
  cases x with
  | error _ => exact HOk.err (hx.bad _ rfl)
  | ok a => exact h a.1 a.2.1 a.2.2.1 a.2.2.2 (hx.out _ _ _ _ rfl)

theorem HOk2.bindOk4 {ε α β γ α' : Type} {P : State → Prop} {E : ε → Prop} {x : Except ε (α × β × γ × State)} {k : (α × β × γ × State) → Except ε (α' × State)}
    (hx : HOk4 P E x) (h : ∀ v w x t, Holds P t → HOk2 P E (k (v, w, x, t))) : HOk2 P E (x >>= k) := by
  cases x with
  | error _ => exact HOk2.err (hx.bad _ rfl)
  | ok a => exact h a.1 a.2.1 a.2.2.1 a.2.2.2 (hx.out _ _ _ _ rfl)

theorem HOk3.bindOk4 {ε α β γ α' β' : Type} {P : State → Prop} {E : ε → Prop} {x : Except ε (α × β × γ × State)} {k : (α × β × γ × State) → Except ε (α' × β' × State)}
    (hx : HOk4 P E x) (h : ∀ v w x t, Holds P t → HOk3 P E (k (v, w, x, t))) : HOk3 P E (x >>= k) := by
  cases x with
  | error _ => exact HOk3.err (hx.bad _ rfl)
  | ok a => exact h a.1 a.2.1 a.2.2.1 a.2.2.2 (hx.out _ _ _ _ rfl)

theorem HOk4.bindOk4 {ε α β γ α' β' γ' : Type} {P : State → Prop} {E : ε → Prop} {x : Except ε (α × β × γ × State)} {k : (α × β × γ × State) → Except ε (α' × β' × γ' × State)}
    (hx : HOk4 P E x) (h : ∀ v w x t, Holds P t → HOk4 P E (k (v, w, x, t))) : HOk4 P E (x >>= k) := by
  cases x with
  | error _ => exact HOk4.err (hx.bad _ rfl)
  | ok a => exact h a.1 a.2.1 a.2.2.1 a.2.2.2 (hx.out _ _ _ _ rfl)

theorem HPair.ite {α : Type} {P : State → Prop} {c : Prop} [Decidable c] {a b : α × State} (h : c → HPair P a) (h2 : ¬c → HPair P b) : HPair P (if c then a else b) := by
  by_cases hc : c
  · rw [if_pos hc]; exact h hc
  · rw [if_neg hc]; exact h2 hc

theorem HPair3.ite {α β : Type} {P : State → Prop} {c : Prop} [Decidable c] {a b : α × β × State} (h : c → HPair3 P a) (h2 : ¬c → HPair3 P b) : HPair3 P (if c then a else b) := by
  by_cases hc : c
  · rw [if_pos hc]; exact h hc
  · rw [if_neg hc]; exact h2 hc

theorem HFst.ite {α : Type} {P : State → Prop} {E : α → Prop} {c : Prop} [Decidable c] {a b : State × α} (h : c → HFst P E a) (h2 : ¬c → HFst P E b) : HFst P E (if c then a else b) := by
  by_cases hc : c
  · rw [if_pos hc]; exact h hc
  · rw [if_neg hc]; exact h2 hc

theorem HMid.ite {α β : Type} {P : State → Prop} {E : β → Prop} {c : Prop} [Decidable c] {a b : α × State × β} (h : c → HMid P E a) (h2 : ¬c → HMid P E b) : HMid P E (if c then a else b) := by
  by_cases hc : c
  · rw [if_pos hc]; exact h hc
  · rw [if_neg hc]; exact h2 hc

theorem HErr.ite {ε δ : Type} {E : ε → Prop} {c : Prop} [Decidable c] {a b : Except ε δ} (h : c → HErr E a) (h2 : ¬c → HErr E b) : HErr E (if c then a else b) := by
  by_cases hc : c
  · rw [if_pos hc]; exact h hc
  · rw [if_neg hc]; exact h2 hc

theorem HOk.ite {ε : Type} {P : State → Prop} {E : ε → Prop} {c : Prop} [Decidable c] {a b : Except ε State} (h : c → HOk P E a) (h2 : ¬c → HOk P E b) : HOk P E (if c then a else b) := by
  by_cases hc : c
  · rw [if_pos hc]; exact h hc
  · rw [if_neg hc]; exact h2 hc

theorem HOk2.ite {ε α : Type} {P : State → Prop} {E : ε → Prop} {c : Prop} [Decidable c] {a b : Except ε (α × State)} (h : c → HOk2 P E a) (h2 : ¬c → HOk2 P E b) : HOk2 P E (if c then a else b) := by
  by_cases hc : c
  · rw [if_pos hc]; exact h hc
  · rw [if_neg hc]; exact h2 hc

theorem HOk3.ite {ε α β : Type} {P : State → Prop} {E : ε → Prop} {c : Prop} [Decidable c] {a b : Except ε (α × β × State)} (h : c → HOk3 P E a) (h2 : ¬c → HOk3 P E b) : HOk3 P E (if c then a else b) := by
  by_cases hc : c
  · rw [if_pos hc]; exact h hc
  · rw [if_neg hc]; exact h2 hc

theorem HOk4.ite {ε α β γ : Type} {P : State → Prop} {E : ε → Prop} {c : Prop} [Decidable c] {a b : Except ε (α × β × γ × State)} (h : c → HOk4 P E a) (h2 : ¬c → HOk4 P E b) : HOk4 P E (if c then a else b) := by
  by_cases hc : c
  · rw [if_pos hc]; exact h hc
  · rw [if_neg hc]; exact h2 hc

theorem HSome.ite {P : State → Prop} {c : Prop} [Decidable c] {a b : Option State} (h : c → HSome P a) (h2 : ¬c → HSome P b) : HSome P (if c then a else b) := by
  by_cases hc : c
  · rw [if_pos hc]; exact h hc
  · rw [if_neg hc]; exact h2 hc

theorem HNext.ite {P : State → Prop} {c : Prop} [Decidable c] {a b : Host.Outcome State Fault Refusal} (h : c → HNext P a) (h2 : ¬c → HNext P b) : HNext P (if c then a else b) := by
  by_cases hc : c
  · rw [if_pos hc]; exact h hc
  · rw [if_neg hc]; exact h2 hc

theorem Holds.ite {P : State → Prop} {c : Prop} [Decidable c] {a b : State} (h : c → Holds P a) (h2 : ¬c → Holds P b) : Holds P (if c then a else b) := by
  by_cases hc : c
  · rw [if_pos hc]; exact h hc
  · rw [if_neg hc]; exact h2 hc

theorem HSome.bind {P : State → Prop} {x : Option State} {f : State → Option State} (hx : HSome P x) (h : ∀ t, Holds P t → HSome P (f t)) :
    HSome P (x >>= f) := by
  cases x with
  | none => exact HSome.none
  | some a => exact h a (hx.out a rfl)

theorem HSome.getD {P : State → Prop} {x : Option State} {d : State} (hx : HSome P x) (h : Holds P d) : Holds P (x.getD d) := by
  cases x with
  | none => exact h
  | some a => exact hx.out a rfl

theorem HSome.map {P : State → Prop} {α : Type} {x : Option α} {f : α → State} (h : ∀ a, Holds P (f a)) : HSome P (x.map f) := by
  cases x with
  | none => exact HSome.none
  | some a => exact HSome.ans (h a)

/-- A fold keeps any predicate that each of its steps keeps. -/
theorem foldl_keeps {β δ : Type} {Q : β → Prop} {g : β → δ → β} (hg : ∀ r x, Q r → Q (g r x)) :
    ∀ (l : List δ) (r : β), Q r → Q (l.foldl g r)
  | [], _, h => h
  | x :: l, r, h => foldl_keeps hg l (g r x) (hg r x h)

/-! ## Several parts at once -/

theorem keep_generations_contexts {P : State → Prop} [KGenerations P] [KContexts P] {s : State} {x0 : Tbl Nat} {x1 : Tbl Context} (h : Holds P s) :
    Holds P { s with generations := x0, contexts := x1 } :=
  (KContexts.keep { s with generations := x0 } x1 (KGenerations.keep s x0 h))

theorem keep_flash_cfg {P : State → Prop} [KFlash P] [KCfg P] {s : State} {x0 : Flash} {x1 : Cfg} (h : Holds P s) :
    Holds P { s with flash := x0, cfg := x1 } :=
  (KCfg.keep { s with flash := x0 } x1 (KFlash.keep s x0 h))

theorem keep_flash_repair {P : State → Prop} [KFlash P] [KRepair P] {s : State} {x0 : Flash} {x1 : Repair} (h : Holds P s) :
    Holds P { s with flash := x0, repair := x1 } :=
  (KRepair.keep { s with flash := x0 } x1 (KFlash.keep s x0 h))

theorem keep_contexts_mgmt {P : State → Prop} [KContexts P] [KMgmt P] {s : State} {x0 : Tbl Context} {x1 : Mgmt} (h : Holds P s) :
    Holds P { s with contexts := x0, mgmt := x1 } :=
  (KMgmt.keep { s with contexts := x0 } x1 (KContexts.keep s x0 h))

theorem keep_mems_oports {P : State → Prop} [KMems P] [KOports P] {s : State} {x0 : Tbl MemDev} {x1 : Tbl OPort} (h : Holds P s) :
    Holds P { s with mems := x0, oports := x1 } :=
  (KOports.keep { s with mems := x0 } x1 (KMems.keep s x0 h))

theorem keep_flint_hosts_regs {P : State → Prop} [KFlint P] [KHosts P] [KRegs P] {s : State} {x0 : Flint} {x1 : Tbl HostPort} {x2 : List (Reg × Word64)} (h : Holds P s) :
    Holds P { s with flint := x0, hosts := x1, regs := x2 } :=
  (KRegs.keep { s with flint := x0, hosts := x1 } x2 (KHosts.keep { s with flint := x0 } x1 (KFlint.keep s x0 h)))

theorem keep_mgmt_running {P : State → Prop} [KMgmt P] [KRunning P] {s : State} {x0 : Mgmt} {x1 : Nat} (h : Holds P s) :
    Holds P { s with mgmt := x0, running := x1 } :=
  (KRunning.keep { s with mgmt := x0 } x1 (KMgmt.keep s x0 h))

theorem keep_chip_mems_oports_edges {P : State → Prop} [KChip P] [KMems P] [KOports P] [KEdges P] {s : State} {x0 : Chip} {x1 : Tbl MemDev} {x2 : Tbl OPort} {x3 : Tbl Edge} (h : Holds P s) :
    Holds P { s with chip := x0, mems := x1, oports := x2, edges := x3 } :=
  (KEdges.keep { s with chip := x0, mems := x1, oports := x2 } x3 (KOports.keep { s with chip := x0, mems := x1 } x2 (KMems.keep { s with chip := x0 } x1 (KChip.keep s x0 h))))

theorem keep_chip_regs {P : State → Prop} [KChip P] [KRegs P] {s : State} {x0 : Chip} {x1 : List (Reg × Word64)} (h : Holds P s) :
    Holds P { s with chip := x0, regs := x1 } :=
  (KRegs.keep { s with chip := x0 } x1 (KChip.keep s x0 h))

end Sys2Proof.Machine
end

