-- ==== Sys2Proof/Laws/KeepsShared.lean ====
section
/-! SUPPORT. Footprints of the operations every family shares: for each operation the parts of the state it can change (see Keeps). -/

namespace Sys2Proof.Machine

/-- What `State.setReg` can change. -/
theorem State.setReg_keeps {P : State → Prop} [KRegs P]
    {s : State} {r : Reg} {w : Word64} (hs : Holds P s) : Holds P (State.setReg s r w) := by
  unfold State.setReg
  repeat' first
    | (with_reducible assumption)
    | (apply KRegs.keep)

/-- What `State.setField` can change. -/
theorem State.setField_keeps {P : State → Prop} [KRegs P]
    {s : State} {r : Reg} {hi lo v : Nat} (hs : Holds P s) : Holds P (State.setField s r hi lo v) := by
  unfold State.setField
  repeat' first
    | (with_reducible assumption)
    | (with_reducible apply State.setReg_keeps)

/-- What `State.bump` can change. -/
theorem State.bump_keeps {P : State → Prop} [KRegs P]
    {s : State} {r : Reg} {hi lo n : Nat} (hs : Holds P s) : Holds P (State.bump s r hi lo n) := by
  unfold State.bump
  repeat' first
    | (with_reducible assumption)
    | (with_reducible apply State.setReg_keeps)

/-- What `State.setBit` can change. -/
theorem State.setBit_keeps {P : State → Prop} [KRegs P]
    {s : State} {r : Reg} {n : Nat} (hs : Holds P s) : Holds P (State.setBit s r n) := by
  unfold State.setBit
  repeat' first
    | (with_reducible assumption)
    | (with_reducible apply State.setField_keeps)

/-- What `State.putContext` can change. -/
theorem State.putContext_keeps {P : State → Prop} [KContexts P]
    {s : State} {c : Context} (hs : Holds P s) : Holds P (State.putContext s c) := by
  unfold State.putContext
  repeat' first
    | (with_reducible assumption)
    | (apply KContexts.keep)

/-- What `State.modResident` can change. -/
theorem State.modResident_keeps {P : State → Prop} [KContexts P]
    {s : State} {f : Context → Context} (hs : Holds P s) : Holds P (State.modResident s f) := by
  unfold State.modResident
  repeat' first
    | (with_reducible assumption)
    | (with_reducible apply State.putContext_keeps)
    | split

/-- What `State.setResident` can change. -/
theorem State.setResident_keeps {P : State → Prop} [KResident P]
    {s : State} {id : BitVec 16} (hs : Holds P s) : Holds P (State.setResident s id) := KResident.keep s id hs

/-- What `State.modChip` can change. -/
theorem State.modChip_keeps {P : State → Prop} [KChip P]
    {s : State} {f : Chip → Chip} (hs : Holds P s) : Holds P (State.modChip s f) := by
  unfold State.modChip
  repeat' first
    | (with_reducible assumption)
    | (apply KChip.keep)

/-- What `State.modCore` can change. -/
theorem State.modCore_keeps {P : State → Prop} [KChip P]
    {s : State} {c : Nat} {f : Core → Core} (hs : Holds P s) : Holds P (State.modCore s c f) := by
  unfold State.modCore
  repeat' first
    | (with_reducible assumption)
    | (with_reducible apply State.modChip_keeps)

/-- What `State.modStream` can change. -/
theorem State.modStream_keeps {P : State → Prop} [KChip P]
    {s : State} {id : Nat} {f : Stream → Stream} (hs : Holds P s) : Holds P (State.modStream s id f) := by
  unfold State.modStream
  repeat' first
    | (with_reducible assumption)
    | (with_reducible apply State.modChip_keeps)

/-- What `State.modFlint` can change. -/
theorem State.modFlint_keeps {P : State → Prop} [KFlint P]
    {s : State} {f : Flint → Flint} (hs : Holds P s) : Holds P (State.modFlint s f) := by
  unfold State.modFlint
  repeat' first
    | (with_reducible assumption)
    | (apply KFlint.keep)

/-- What `State.modHost` can change. -/
theorem State.modHost_keeps {P : State → Prop} [KHosts P]
    {s : State} {p : Nat} {f : HostPort → HostPort} (hs : Holds P s) : Holds P (State.modHost s p f) := by
  unfold State.modHost
  repeat' first
    | (with_reducible assumption)
    | (apply KHosts.keep)

/-- What `State.modMem` can change. -/
theorem State.modMem_keeps {P : State → Prop} [KMems P]
    {s : State} {d : Nat} {f : MemDev → MemDev} (hs : Holds P s) : Holds P (State.modMem s d f) := by
  unfold State.modMem
  repeat' first
    | (with_reducible assumption)
    | (apply KMems.keep)

/-- What `State.modOport` can change. -/
theorem State.modOport_keeps {P : State → Prop} [KOports P]
    {s : State} {p : Nat} {f : OPort → OPort} (hs : Holds P s) : Holds P (State.modOport s p f) := by
  unfold State.modOport
  repeat' first
    | (with_reducible assumption)
    | (apply KOports.keep)

/-- What `State.modOchan` can change. -/
theorem State.modOchan_keeps {P : State → Prop} [KOchans P]
    {s : State} {p n : Nat} {f : OChan → OChan} (hs : Holds P s) : Holds P (State.modOchan s p n f) := by
  unfold State.modOchan
  repeat' first
    | (with_reducible assumption)
    | (apply KOchans.keep)

/-- What `State.modLaser` can change. -/
theorem State.modLaser_keeps {P : State → Prop} [KLasers P]
    {s : State} {o n : Nat} {f : Laser → Laser} (hs : Holds P s) : Holds P (State.modLaser s o n f) := by
  unfold State.modLaser
  repeat' first
    | (with_reducible assumption)
    | (apply KLasers.keep)

/-- What `State.modEdge` can change. -/
theorem State.modEdge_keeps {P : State → Prop} [KEdges P]
    {s : State} {d e : Nat} {f : Edge → Edge} (hs : Holds P s) : Holds P (State.modEdge s d e f) := by
  unfold State.modEdge
  repeat' first
    | (with_reducible assumption)
    | (apply KEdges.keep)

/-- What `State.modDie` can change. -/
theorem State.modDie_keeps {P : State → Prop} [KDies P]
    {s : State} {d : Nat} {f : Die → Die} (hs : Holds P s) : Holds P (State.modDie s d f) := by
  unfold State.modDie
  repeat' first
    | (with_reducible assumption)
    | (apply KDies.keep)

/-- What `State.modRepair` can change. -/
theorem State.modRepair_keeps {P : State → Prop} [KRepair P]
    {s : State} {f : Repair → Repair} (hs : Holds P s) : Holds P (State.modRepair s f) := by
  unfold State.modRepair
  repeat' first
    | (with_reducible assumption)
    | (apply KRepair.keep)

/-- What `State.take` can change. -/
theorem State.take_keeps {P : State → Prop} [KFresh P]
    {s : State} (hs : Holds P s) : HPair P (State.take s) := by
  unfold State.take
  repeat' first
    | (with_reducible assumption)
    | (with_reducible apply HPair.ans)
    | (apply KFresh.keep)

/-- What `State.takeWords` can change. -/
theorem State.takeWords_keeps {P : State → Prop} [KFresh P]
    {s : State} {n : Nat} (hs : Holds P s) : HPair P (State.takeWords s n) := by
  unfold State.takeWords
  repeat' first
    | (with_reducible assumption)
    | (with_reducible apply HPair.ans)
    | (apply KFresh.keep)

/-- What `State.takeBytes` can change. -/
theorem State.takeBytes_keeps {P : State → Prop} [KFresh P]
    {s : State} {n : Nat} (hs : Holds P s) : HPair P (State.takeBytes s n) := by
  unfold State.takeBytes
  repeat' first
    | (with_reducible assumption)
    | (with_reducible apply HPair.ans)
    | (apply KFresh.keep)

/-- What `State.emit` can change. -/
theorem State.emit_keeps {P : State → Prop} [KSent P]
    {s : State} {o : Out} (hs : Holds P s) : Holds P (State.emit s o) := by
  unfold State.emit
  repeat' first
    | (with_reducible assumption)
    | (apply KSent.keep)

/-- What `State.readClear` can change. -/
theorem State.readClear_keeps {P : State → Prop} [KRegs P]
    {s : State} {r : Reg} (hs : Holds P s) : HPair P (State.readClear s r) := by
  unfold State.readClear
  repeat' first
    | (with_reducible assumption)
    | (with_reducible apply State.setReg_keeps)
    | (with_reducible apply HPair.ans)

/-- What `State.writeReg` can change. -/
theorem State.writeReg_keeps {P : State → Prop} [KRegs P]
    {s : State} {r : Reg} {v : Word64} (hs : Holds P s) : Holds P (State.writeReg s r v) := by
  unfold State.writeReg
  repeat' first
    | (with_reducible assumption)
    | (with_reducible apply State.setReg_keeps)

/-- What `State.tick` can change. -/
theorem State.tick_keeps {P : State → Prop} [KLocalTime P]
    {s : State} (hs : Holds P s) : Holds P (State.tick s) := by
  unfold State.tick
  repeat' first
    | (with_reducible assumption)
    | (intro _)
    | (with_reducible apply Holds.ite)
    | (apply KLocalTime.keep)

/-- What `State.putLogHeader` can change. -/
theorem State.putLogHeader_keeps {P : State → Prop} [KFlint P]
    {s : State} {x1 : BitVec 128} (hs : Holds P s) : Holds P (State.putLogHeader s x1) := by
  unfold State.putLogHeader
  repeat' first
    | (with_reducible assumption)
    | (with_reducible apply State.modFlint_keeps)

/-- What `State.putEvent` can change. -/
theorem State.putEvent_keeps {P : State → Prop} [KFlint P]
    {s : State} {src code action flags unit : Nat} {detail : Rec} (hs : Holds P s) : Holds P (State.putEvent s src code action flags unit detail) := by
  unfold State.putEvent
  repeat' first
    | (with_reducible assumption)
    | (with_reducible apply State.modFlint_keeps)
    | (with_reducible apply State.putLogHeader_keeps)

/-- What `State.rebuildHeader` can change. -/
theorem State.rebuildHeader_keeps {P : State → Prop} [KFlint P] [KFresh P]
    {s : State} (hs : Holds P s) : Holds P (State.rebuildHeader s) := by
  unfold State.rebuildHeader
  repeat' first
    | (with_reducible assumption)
    | (with_reducible apply State.putLogHeader_keeps)
    | (with_reducible refine HPair.proj (State.take_keeps ?_))

/-- What `State.sendVector` can change. -/
theorem State.sendVector_keeps {P : State → Prop} [KHosts P] [KSent P]
    {s : State} {p v : Nat} (hs : Holds P s) : Holds P (State.sendVector s p v) := by
  unfold State.sendVector
  repeat' first
    | (with_reducible assumption)
    | (with_reducible apply State.emit_keeps)
    | (with_reducible apply State.modHost_keeps)
    | (intro _)
    | (with_reducible apply Holds.ite)

/-- What `State.sendPending` can change. -/
theorem State.sendPending_keeps {P : State → Prop} [KHosts P] [KSent P]
    {s : State} {p : Nat} (hs : Holds P s) : Holds P (State.sendPending s p) := by
  unfold State.sendPending
  repeat' first
    | (with_reducible assumption)
    | (with_reducible apply State.emit_keeps)
    | (with_reducible apply State.modHost_keeps)
    | (with_reducible apply Holds.foldl)
    | (intro _)
    | (with_reducible apply Holds.ite)

/-- What `State.raiseOn` can change. -/
theorem State.raiseOn_keeps {P : State → Prop} [KHosts P] [KRegs P] [KSent P]
    {s : State} {p n : Nat} (hs : Holds P s) : Holds P (State.raiseOn s p n) := by
  unfold State.raiseOn
  repeat' first
    | (with_reducible assumption)
    | (with_reducible apply State.sendVector_keeps)
    | (with_reducible apply State.setBit_keeps)
    | (intro _)
    | (with_reducible apply Holds.ite)

/-- What `State.raiseBoth` can change. -/
theorem State.raiseBoth_keeps {P : State → Prop} [KHosts P] [KRegs P] [KSent P]
    {s : State} {n : Nat} (hs : Holds P s) : Holds P (State.raiseBoth s n) := by
  unfold State.raiseBoth
  repeat' first
    | (with_reducible assumption)
    | (with_reducible apply State.raiseOn_keeps)

/-- What `State.summary` can change. -/
theorem State.summary_keeps {P : State → Prop} [KRegs P]
    {s : State} {d n : Nat} (hs : Holds P s) : Holds P (State.summary s d n) := by
  unfold State.summary
  repeat' first
    | (with_reducible assumption)
    | (with_reducible apply State.setBit_keeps)

/-- What `State.summarise` can change. -/
theorem State.summarise_keeps {P : State → Prop} [KRegs P]
    {s : State} {d kind code : Nat} (hs : Holds P s) : Holds P (State.summarise s d kind code) := by
  unfold State.summarise
  repeat' first
    | (with_reducible assumption)
    | (with_reducible apply State.bump_keeps)
    | (with_reducible apply State.setBit_keeps)
    | (with_reducible apply State.setField_keeps)

/-- What `State.soundLog` can change. -/
theorem State.soundLog_keeps {P : State → Prop} [KFlint P] [KFresh P] [KHosts P] [KRegs P] [KSent P]
    {s : State} (hs : Holds P s) : Holds P (State.soundLog s) := by
  unfold State.soundLog
  repeat' first
    | (with_reducible assumption)
    | (with_reducible apply State.putEvent_keeps)
    | (with_reducible apply State.raiseBoth_keeps)
    | (with_reducible apply State.rebuildHeader_keeps)
    | (with_reducible apply State.summarise_keeps)
    | (intro _)
    | (with_reducible apply Holds.ite)

/-- What `State.logEvent` can change. -/
theorem State.logEvent_keeps {P : State → Prop} [KFlint P] [KFresh P] [KHosts P] [KRegs P] [KSent P]
    {s : State} {src code action flags unit : Nat} {detail : Rec} (hs : Holds P s) : Holds P (State.logEvent s src code action flags unit detail) := by
  unfold State.logEvent
  repeat' first
    | (with_reducible assumption)
    | (with_reducible apply State.putEvent_keeps)
    | (with_reducible apply State.soundLog_keeps)

/-- What `State.enter` can change. -/
theorem State.enter_keeps {P : State → Prop} [KFlint P] [KHosts P] [KRegs P] [KSent P]
    {s : State} {st : DevState} (hs : Holds P s) : Holds P (State.enter s st) := by
  unfold State.enter
  repeat' first
    | (with_reducible assumption)
    | (with_reducible apply State.modFlint_keeps)
    | (with_reducible apply State.raiseBoth_keeps)
    | (intro _)
    | (with_reducible apply Holds.ite)

/-- What `State.violation` can change. -/
theorem State.violation_keeps {P : State → Prop} [KFlint P] [KFresh P] [KHosts P] [KRegs P] [KSent P]
    {s : State} {p code : Nat} (hs : Holds P s) : Holds P (State.violation s p code) := by
  unfold State.violation
  repeat' first
    | (with_reducible assumption)
    | (with_reducible apply State.bump_keeps)
    | (with_reducible apply State.logEvent_keeps)
    | (with_reducible apply State.raiseOn_keeps)
    | (with_reducible apply State.setField_keeps)

/-- What `State.report` can change. -/
theorem State.report_keeps {P : State → Prop} [KFlint P]
    {s : State} {kind unit sub code : Nat} (hs : Holds P s) : Holds P (State.report s kind unit sub code) := by
  unfold State.report
  repeat' first
    | (with_reducible assumption)
    | (with_reducible apply State.modFlint_keeps)

/-- What `State.useResident` can change. -/
theorem State.useResident_keeps {P : State → Prop} [KFlint P]
    {s : State} (hs : Holds P s) : Holds P (State.useResident s) := by
  unfold State.useResident
  repeat' first
    | (with_reducible assumption)
    | (with_reducible apply State.report_keeps)
    | (intro _)
    | (with_reducible apply Holds.ite)

/-- What `State.useEntries` can change. -/
theorem State.useEntries_keeps {P : State → Prop} [KFlint P]
    {s : State} (hs : Holds P s) : Holds P (State.useEntries s) := by
  unfold State.useEntries
  repeat' first
    | (with_reducible assumption)
    | (with_reducible apply State.report_keeps)
    | (with_reducible apply Holds.foldl)
    | (intro _)
    | (with_reducible apply Holds.ite)

/-- What `State.cutFor` can change. -/
theorem State.cutFor_keeps {P : State → Prop} [KFlint P] [KFresh P] [KHosts P] [KRegs P] [KSent P]
    {s : State} {reason : Nat} (hs : Holds P s) : Holds P (State.cutFor s reason) := by
  unfold State.cutFor
  repeat' first
    | (with_reducible assumption)
    | (with_reducible apply State.logEvent_keeps)
    | (with_reducible apply State.modFlint_keeps)
    | (intro _)
    | (with_reducible apply Holds.ite)

/-- What `State.cut` can change. -/
theorem State.cut_keeps {P : State → Prop} [KFlint P] [KFresh P] [KHosts P] [KRegs P] [KSent P]
    {s : State} (hs : Holds P s) : Holds P (State.cut s) := by
  unfold State.cut
  repeat' first
    | (with_reducible assumption)
    | (with_reducible apply State.cutFor_keeps)

/-- What `State.halt` can change. -/
theorem State.halt_keeps {P : State → Prop} [KFlint P] [KFresh P] [KHosts P] [KRegs P] [KSent P]
    {s : State} {reason : Nat} (hs : Holds P s) : Holds P (State.halt s reason) := by
  unfold State.halt
  repeat' first
    | (with_reducible assumption)
    | (with_reducible apply State.cutFor_keeps)
    | (with_reducible apply State.enter_keeps)
    | (with_reducible apply State.modFlint_keeps)

/-- What `State.renew` can change. -/
theorem State.renew_keeps {P : State → Prop} [KFlint P]
    {s : State} {p : Nat} {a : Ans} (hs : Holds P s) : Holds P (State.renew s p a) := by
  unfold State.renew
  repeat' first
    | (with_reducible assumption)
    | (with_reducible apply State.modFlint_keeps)
    | (intro _)
    | (with_reducible apply Holds.ite)

/-- What `State.respond` can change. -/
theorem State.respond_keeps {P : State → Prop} [KFlint P] [KHosts P] [KSent P]
    {s : State} {m : Mbx} {a : Ans} {discarded : Bool} (hs : Holds P s) : Holds P (State.respond s m a discarded) := by
  unfold State.respond
  repeat' first
    | (with_reducible assumption)
    | (with_reducible apply State.modHost_keeps)
    | (with_reducible apply State.renew_keeps)
    | (with_reducible apply State.sendVector_keeps)
    | (intro _)
    | (with_reducible apply Holds.ite)

/-- What `State.dequeue` can change. -/
theorem State.dequeue_keeps {P : State → Prop} [KFlint P]
    {s : State} (hs : Holds P s) : Holds P (State.dequeue s) := by
  unfold State.dequeue
  repeat' first
    | (with_reducible assumption)
    | (with_reducible apply State.modFlint_keeps)

/-- What `serve` can change. -/
theorem serve_keeps {P : State → Prop} [KFlint P] [KHosts P] [KSent P]
    {s : State} {m : Mbx} {row : CmdRow} {form : Rec → Nat → Option Ans} {body : State → Rec → State × Option Ans} (hs : Holds P s) (hf : ∀ s r, Holds P s → HFst P anyVal (body s r)) : Holds P (serve s m row form body) := by
  unfold serve
  repeat' first
    | (with_reducible assumption)
    | (with_reducible apply hf)
    | (with_reducible apply State.dequeue_keeps)
    | (with_reducible apply State.respond_keeps)
    | (refine HFst.get (hf _ _ ?_) (by with_reducible assumption))
    | (dsimp only)
    | split

/-- What `State.readCounters` can change. -/
theorem State.readCounters_keeps {P : State → Prop} [KFresh P]
    {s : State} (hs : Holds P s) : HPair P (State.readCounters s) := by
  unfold State.readCounters
  repeat' first
    | (with_reducible assumption)
    | (with_reducible refine HPair.proj (State.takeBytes_keeps ?_))
    | (with_reducible apply HPair.foldl)
    | (with_reducible apply HPair.ans)
    | (with_reducible refine HPair.proj (by with_reducible assumption))
    | (intro _)

/-- What `State.writeMap` can change. -/
theorem State.writeMap_keeps {P : State → Prop} [KFlash P] [KFlint P] [KFresh P] [KHosts P] [KRegs P] [KRepair P] [KSent P]
    {s : State} (hs : Holds P s) : Holds P (State.writeMap s) := by
  unfold State.writeMap
  repeat' first
    | (with_reducible assumption)
    | (with_reducible apply State.logEvent_keeps)
    | (dsimp only)
    | (apply keep_flash_repair)

/-- What `State.tryWriteMap` can change. -/
theorem State.tryWriteMap_keeps {P : State → Prop} [KFlash P] [KFlint P] [KFresh P] [KHosts P] [KRegs P] [KRepair P] [KSent P]
    {s : State} (hs : Holds P s) : Holds P (State.tryWriteMap s) := by
  unfold State.tryWriteMap
  repeat' first
    | (with_reducible assumption)
    | (with_reducible apply State.useEntries_keeps)
    | (with_reducible apply State.writeMap_keeps)
    | (intro _)
    | (with_reducible apply Holds.ite)

/-- What `State.setVolts` can change. -/
theorem State.setVolts_keeps {P : State → Prop} [KDies P] [KFresh P]
    {s : State} {d : Nat} (hs : Holds P s) : Holds P (State.setVolts s d) := by
  unfold State.setVolts
  repeat' first
    | (with_reducible assumption)
    | (with_reducible apply State.modDie_keeps)
    | (with_reducible refine HPair.proj (State.take_keeps ?_))
    | (intro _)
    | (with_reducible apply Holds.ite)

/-- What `State.liftMover` can change. -/
theorem State.liftMover_keeps {P : State → Prop} [KDies P]
    {s : State} {d : Nat} (hs : Holds P s) : Holds P (State.liftMover s d) := by
  unfold State.liftMover
  repeat' first
    | (with_reducible assumption)
    | (with_reducible apply State.modDie_keeps)
    | (intro _)
    | (with_reducible apply Holds.ite)

/-- What `State.stackCommand` can change. -/
theorem State.stackCommand_keeps {P : State → Prop} [KSent P]
    {s : State} {d select : Nat} {what : String} (hs : Holds P s) : Holds P (State.stackCommand s d select what) := by
  unfold State.stackCommand
  repeat' first
    | (with_reducible assumption)
    | (with_reducible apply State.emit_keeps)

/-- What `State.eachDie` can change. -/
theorem State.eachDie_keeps {P : State → Prop} [KSent P]
    {s : State} {d : Nat} {what : String} (hs : Holds P s) : Holds P (State.eachDie s d what) := by
  unfold State.eachDie
  repeat' first
    | (with_reducible assumption)
    | (with_reducible apply State.stackCommand_keeps)
    | (with_reducible apply Holds.foldl)
    | (intro _)

/-- What `State.memViolation` can change. -/
theorem State.memViolation_keeps {P : State → Prop} [KFlint P] [KFresh P] [KHosts P] [KRegs P] [KSent P]
    {s : State} {d row : Nat} (hs : Holds P s) : Holds P (State.memViolation s d row) := by
  unfold State.memViolation
  repeat' first
    | (with_reducible assumption)
    | (with_reducible apply State.bump_keeps)
    | (with_reducible apply State.logEvent_keeps)
    | (with_reducible apply State.setBit_keeps)

/-- What `State.trainDevice` can change. -/
theorem State.trainDevice_keeps {P : State → Prop} [KFresh P] [KMems P]
    {s : State} {d : Nat} (hs : Holds P s) : Holds P (State.trainDevice s d) := by
  unfold State.trainDevice
  repeat' first
    | (with_reducible assumption)
    | (with_reducible apply State.modMem_keeps)
    | (with_reducible refine HPair.proj (State.takeWords_keeps ?_))

/-- What `State.wakeMem` can change. -/
theorem State.wakeMem_keeps {P : State → Prop} [KFlint P] [KFresh P] [KHosts P] [KMems P] [KRegs P] [KSent P]
    {s : State} {n : Nat} (hs : Holds P s) : Holds P (State.wakeMem s n) := by
  unfold State.wakeMem
  repeat' first
    | (with_reducible assumption)
    | (with_reducible apply State.eachDie_keeps)
    | (with_reducible apply State.memViolation_keeps)
    | (with_reducible apply State.modMem_keeps)
    | (with_reducible refine HPair.proj (State.take_keeps ?_))
    | (intro _)
    | (with_reducible apply Holds.ite)

/-- What `State.sleepMems` can change. -/
theorem State.sleepMems_keeps {P : State → Prop} [KMems P] [KSent P]
    {s : State} {which : Nat → Bool} (hs : Holds P s) : Holds P (State.sleepMems s which) := by
  unfold State.sleepMems
  repeat' first
    | (with_reducible assumption)
    | (with_reducible apply State.eachDie_keeps)
    | (with_reducible apply Holds.foldl)
    | (intro _)
    | (dsimp only)
    | (apply KMems.keep)

/-- What `State.sendTraining` can change. -/
theorem State.sendTraining_keeps {P : State → Prop} [KFresh P] [KSent P]
    {s : State} {p rx : Nat} (hs : Holds P s) : Holds P (State.sendTraining s p rx) := by
  unfold State.sendTraining
  repeat' first
    | (with_reducible assumption)
    | (with_reducible apply State.emit_keeps)
    | (with_reducible refine HPair.proj (State.take_keeps ?_))
    | (with_reducible apply Holds.foldl)
    | (intro _)

/-- What `State.wakePort` can change. -/
theorem State.wakePort_keeps {P : State → Prop} [KFresh P] [KOports P] [KSent P]
    {s : State} {p : Nat} (hs : Holds P s) : Holds P (State.wakePort s p) := by
  unfold State.wakePort
  repeat' first
    | (with_reducible assumption)
    | (with_reducible apply State.modOport_keeps)
    | (with_reducible apply State.sendTraining_keeps)
    | (intro _)
    | (with_reducible apply Holds.ite)

/-- What `State.wakeDie` can change. -/
theorem State.wakeDie_keeps {P : State → Prop} [KDies P] [KFlint P] [KFresh P] [KHosts P] [KMems P] [KOports P] [KRegs P] [KSent P]
    {s : State} {d : Nat} (hs : Holds P s) : Holds P (State.wakeDie s d) := by
  unfold State.wakeDie
  repeat' first
    | (with_reducible assumption)
    | (with_reducible apply State.enter_keeps)
    | (with_reducible apply State.modDie_keeps)
    | (with_reducible apply State.setVolts_keeps)
    | (with_reducible apply State.wakeMem_keeps)
    | (with_reducible apply State.wakePort_keeps)
    | (with_reducible apply Holds.foldl)
    | (intro _)
    | (with_reducible apply Holds.ite)

/-- What `State.stir` can change. -/
theorem State.stir_keeps {P : State → Prop} [KDies P] [KFlint P] [KFresh P] [KHosts P] [KMems P] [KOports P] [KRegs P] [KSent P]
    {s : State} {d : Nat} (hs : Holds P s) : Holds P (State.stir s d) := by
  unfold State.stir
  repeat' first
    | (with_reducible assumption)
    | (with_reducible apply State.modDie_keeps)
    | (with_reducible apply State.setVolts_keeps)
    | (with_reducible apply State.wakeDie_keeps)
    | (intro _)
    | (with_reducible apply Holds.ite)

/-- What `State.settleRetain` can change. -/
theorem State.settleRetain_keeps {P : State → Prop} [KDies P] [KFlint P] [KHosts P] [KMems P] [KRegs P] [KSent P]
    {s : State} {d : Nat} (hs : Holds P s) : Holds P (State.settleRetain s d) := by
  unfold State.settleRetain
  repeat' first
    | (with_reducible assumption)
    | (with_reducible apply State.bump_keeps)
    | (with_reducible apply State.enter_keeps)
    | (with_reducible apply State.modDie_keeps)
    | (with_reducible apply State.modFlint_keeps)
    | (with_reducible apply State.sleepMems_keeps)
    | (intro _)
    | (with_reducible apply Holds.ite)

/-- What `State.wakeAll` can change. -/
theorem State.wakeAll_keeps {P : State → Prop} [KDies P] [KFlint P] [KFresh P] [KHosts P] [KMems P] [KOports P] [KRegs P] [KSent P]
    {s : State} (hs : Holds P s) : Holds P (State.wakeAll s) := by
  unfold State.wakeAll
  repeat' first
    | (with_reducible assumption)
    | (with_reducible apply State.wakeDie_keeps)

/-- What `State.stirAll` can change. -/
theorem State.stirAll_keeps {P : State → Prop} [KDies P] [KFlint P] [KFresh P] [KHosts P] [KMems P] [KOports P] [KRegs P] [KSent P]
    {s : State} (hs : Holds P s) : Holds P (State.stirAll s) := by
  unfold State.stirAll
  repeat' first
    | (with_reducible assumption)
    | (with_reducible apply State.liftMover_keeps)
    | (with_reducible apply State.stir_keeps)
    | (with_reducible apply Holds.foldl)
    | (intro _)

/-- What `State.stirRange` can change. -/
theorem State.stirRange_keeps {P : State → Prop} [KDies P] [KFlint P] [KFresh P] [KHosts P] [KMems P] [KOports P] [KRegs P] [KSent P]
    {s : State} {a n : Nat} (hs : Holds P s) : Holds P (State.stirRange s a n) := by
  unfold State.stirRange
  repeat' first
    | (with_reducible assumption)
    | (with_reducible apply State.stir_keeps)
    | (with_reducible apply Holds.foldl)

/-- What `State.devTouch` can change. -/
theorem State.devTouch_keeps {P : State → Prop} [KDevFlips P] [KDevmem P] [KRegs P]
    {s : State} {a n : Nat} {write : Bool} {x4 : List Nat} (hs : Holds P s) : HOk P (MemErr.has P) (State.devTouch s a n write x4) := by
  induction x4 generalizing s with
  | nil => exact HOk.ans hs
  | cons w ws ih =>
    unfold State.devTouch
    split
    · exact HOk.err MemErr.has_unmapped
    · split
      · exact ih hs
      · split
        · exact ih (KDevFlips.keep s _ hs)
        · split
          · rename_i e
            exact ih (State.bump_keeps (KDevFlips.keep _ _ (KDevmem.keep s _ (settleWord_wf e) hs)))
          · exact HOk.err (MemErr.has_dead hs)

/-- What `State.devRead` can change. -/
theorem State.devRead_keeps {P : State → Prop} [KDevFlips P] [KDevmem P] [KDies P] [KFlint P] [KFresh P] [KHosts P] [KMems P] [KOports P] [KRegs P] [KSent P]
    {s : State} {a n : Nat} (hs : Holds P s) : HOk2 P (MemErr.has P) (State.devRead s a n) := by
  unfold State.devRead
  repeat' first
    | (with_reducible assumption)
    | (refine HOk.get (State.devTouch_keeps ?_) (by with_reducible assumption))
    | (refine HOk.getE (State.devTouch_keeps ?_) (by with_reducible assumption))
    | (with_reducible apply State.stirRange_keeps)
    | (with_reducible apply HOk2.ans)
    | (with_reducible apply HOk2.err)
    | split

/-- What `State.devPut` can change. -/
theorem State.devPut_keeps {P : State → Prop} [KDevmem P]
    {s : State} {a : Nat} {x2 : Rec} (hs : Holds P s) : Holds P (State.devPut s a x2) := by
  induction x2 generalizing s a with
  | nil => exact hs
  | cons b r ih =>
    unfold State.devPut
    split
    · exact ih (KDevmem.keep s _ (Mem.write_wf _ _) hs)
    · exact ih hs

/-- What `State.devWrite` can change. -/
theorem State.devWrite_keeps {P : State → Prop} [KDevFlips P] [KDevmem P] [KDies P] [KFlint P] [KFresh P] [KHosts P] [KMems P] [KOports P] [KRegs P] [KSent P]
    {s : State} {a : Nat} {r : Rec} (hs : Holds P s) : HOk P (MemErr.has P) (State.devWrite s a r) := by
  unfold State.devWrite
  repeat' first
    | (with_reducible assumption)
    | (with_reducible apply State.devPut_keeps)
    | (refine HOk.get (State.devTouch_keeps ?_) (by with_reducible assumption))
    | (refine HOk.getE (State.devTouch_keeps ?_) (by with_reducible assumption))
    | (with_reducible apply State.stirRange_keeps)
    | (with_reducible apply HOk.ans)
    | (with_reducible apply HOk.err)
    | split

/-- What `State.devZero` can change. -/
theorem State.devZero_keeps {P : State → Prop} [KDevFlips P] [KDevmem P]
    {s : State} {a n : Nat} (hs : Holds P s) : Holds P (State.devZero s a n) := KDevFlips.keep _ _ (KDevmem.keep s _ (Mem.filter_wf _) hs)

/-- What `State.mapEntry` can change. -/
theorem State.mapEntry_keeps {P : State → Prop} [KRepair P]
    {s : State} {kind unit site state value : Nat} (hs : Holds P s) : Holds P (State.mapEntry s kind unit site state value) := by
  unfold State.mapEntry
  repeat' first
    | (with_reducible assumption)
    | (with_reducible apply State.modRepair_keeps)

/-- What `State.capability` can change. -/
theorem State.capability_keeps {P : State → Prop} [KHosts P] [KRegs P] [KSent P]
    {s : State} (hs : Holds P s) : Holds P (State.capability s) := by
  unfold State.capability
  repeat' first
    | (with_reducible assumption)
    | (with_reducible apply State.raiseBoth_keeps)

/-- What `State.memFaultAs` can change. -/
theorem State.memFaultAs_keeps {P : State → Prop} [KFlint P] [KHosts P] [KMems P] [KRegs P] [KRepair P] [KSent P]
    {s : State} {d code sub : Nat} (hs : Holds P s) : Holds P (State.memFaultAs s d code sub) := by
  unfold State.memFaultAs
  repeat' first
    | (with_reducible assumption)
    | (with_reducible apply State.capability_keeps)
    | (with_reducible apply State.mapEntry_keeps)
    | (with_reducible apply State.modMem_keeps)
    | (with_reducible apply State.report_keeps)
    | (with_reducible apply State.setBit_keeps)
    | (with_reducible apply State.setField_keeps)
    | (with_reducible apply State.summary_keeps)
    | (intro _)
    | (with_reducible apply Holds.ite)

/-- What `State.memFault` can change. -/
theorem State.memFault_keeps {P : State → Prop} [KFlint P] [KHosts P] [KMems P] [KRegs P] [KRepair P] [KSent P]
    {s : State} {d code : Nat} (hs : Holds P s) : Holds P (State.memFault s d code) := by
  unfold State.memFault
  repeat' first
    | (with_reducible assumption)
    | (with_reducible apply State.memFaultAs_keeps)

/-- What `State.scrCorrected` can change. -/
theorem State.scrCorrected_keeps {P : State → Prop} [KRegs P] [KRepair P]
    {s : State} {c a : Nat} (hs : Holds P s) : Holds P (State.scrCorrected s c a) := by
  unfold State.scrCorrected
  repeat' first
    | (with_reducible assumption)
    | (with_reducible apply State.bump_keeps)
    | (with_reducible apply State.modRepair_keeps)

/-- What `State.scrTouch` can change. -/
theorem State.scrTouch_keeps {P : State → Prop} [KChip P] [KRegs P] [KRepair P]
    {s : State} {c a n : Nat} {write : Bool} {x5 : List Nat} (hs : Holds P s) : HOk P (BankErr.has P) (State.scrTouch s c a n write x5) := by
  induction x5 generalizing s with
  | nil =>
    unfold State.scrTouch
    repeat' first
      | (with_reducible assumption)
      | (with_reducible apply HOk.ans)
  | cons _ _ ih =>
    unfold State.scrTouch
    repeat' first
      | (with_reducible assumption)
      | (with_reducible apply ih)
      | (with_reducible apply State.modChip_keeps)
      | (with_reducible apply State.scrCorrected_keeps)
      | (with_reducible apply BankErr.has_mk)
      | (with_reducible apply HOk.ite)
      | (with_reducible apply HOk.err)
      | (intro _)
      | (with_reducible apply Holds.ite)
      | (dsimp only)
      | split

/-- What `State.scrRead` can change. -/
theorem State.scrRead_keeps {P : State → Prop} [KChip P] [KRegs P] [KRepair P]
    {s : State} {c a n : Nat} (hs : Holds P s) : HOk2 P (BankErr.has P) (State.scrRead s c a n) := by
  unfold State.scrRead
  repeat' first
    | (with_reducible assumption)
    | (refine HOk.get (State.scrTouch_keeps ?_) (by with_reducible assumption))
    | (refine HOk.getE (State.scrTouch_keeps ?_) (by with_reducible assumption))
    | (with_reducible apply HOk2.ans)
    | (with_reducible apply HOk2.err)
    | split

/-- What `State.keepFixes` can change. -/
theorem State.keepFixes_keeps {P : State → Prop} [KChip P] [KRegs P] [KRepair P]
    {s : State} {c : Nat} {t : State} (hs : Holds P s) : Holds P (State.keepFixes s c t) := by
  unfold State.keepFixes
  repeat' first
    | (with_reducible assumption)
    | (refine HOk2.get (State.scrRead_keeps ?_) (by with_reducible assumption))
    | (with_reducible apply Holds.foldl)
    | (intro _)
    | (with_reducible apply Holds.ite)
    | split

/-- What `State.scrWrite` can change. -/
theorem State.scrWrite_keeps {P : State → Prop} [KChip P] [KRegs P] [KRepair P]
    {s : State} {c a : Nat} {r : Rec} (hs : Holds P s) : HOk P (BankErr.has P) (State.scrWrite s c a r) := by
  unfold State.scrWrite
  repeat' first
    | (with_reducible assumption)
    | (with_reducible apply State.modChip_keeps)
    | (refine HOk.get (State.scrTouch_keeps ?_) (by with_reducible assumption))
    | (refine HOk.getE (State.scrTouch_keeps ?_) (by with_reducible assumption))
    | (with_reducible apply HOk.ans)
    | (with_reducible apply HOk.err)
    | split

/-- What `State.modRing` can change. -/
theorem State.modRing_keeps {P : State → Prop} [KChip P]
    {s : State} {f : Ring → Ring} (hs : Holds P s) : Holds P (State.modRing s f) := by
  unfold State.modRing
  repeat' first
    | (with_reducible assumption)
    | (with_reducible apply State.modChip_keeps)

/-- What `State.modColl` can change. -/
theorem State.modColl_keeps {P : State → Prop} [KChip P]
    {s : State} {x : Nat} {f : Coll → Coll} (hs : Holds P s) : Holds P (State.modColl s x f) := by
  unfold State.modColl
  repeat' first
    | (with_reducible assumption)
    | (with_reducible apply State.modRing_keeps)

/-- What `State.ringFault` can change. -/
theorem State.ringFault_keeps {P : State → Prop} [KChip P] [KFlint P] [KRegs P]
    {s : State} {q code : Nat} {xs : List Nat} (hs : Holds P s) : Holds P (State.ringFault s q code xs) := by
  unfold State.ringFault
  repeat' first
    | (with_reducible assumption)
    | (with_reducible apply State.modColl_keeps)
    | (with_reducible apply State.report_keeps)
    | (with_reducible apply State.setBit_keeps)
    | (with_reducible apply State.setField_keeps)
    | (with_reducible apply Holds.foldl)
    | (intro _)
    | (with_reducible apply Holds.ite)

/-- What `State.stopColls` can change. -/
theorem State.stopColls_keeps {P : State → Prop} [KChip P] [KFlint P] [KRegs P]
    {s : State} {id : Nat} (hs : Holds P s) : Holds P (State.stopColls s id) := by
  unfold State.stopColls
  repeat' first
    | (with_reducible assumption)
    | (with_reducible apply State.ringFault_keeps)
    | (with_reducible apply Holds.foldl)
    | (intro _)

/-- What `State.modUpd` can change. -/
theorem State.modUpd_keeps {P : State → Prop} [KChip P]
    {s : State} {d : Nat} {f : Update → Update} (hs : Holds P s) : Holds P (State.modUpd s d f) := by
  unfold State.modUpd
  repeat' first
    | (with_reducible assumption)
    | (with_reducible apply State.modChip_keeps)

/-- What `State.updFault` can change. -/
theorem State.updFault_keeps {P : State → Prop} [KChip P] [KFlint P] [KRegs P]
    {s : State} {d cause : Nat} (hs : Holds P s) : Holds P (State.updFault s d cause) := by
  unfold State.updFault
  repeat' first
    | (with_reducible assumption)
    | (with_reducible apply State.modUpd_keeps)
    | (with_reducible apply State.report_keeps)
    | (with_reducible apply State.setBit_keeps)

/-- What `State.reportUnsound` can change. -/
theorem State.reportUnsound_keeps {P : State → Prop} [KFlint P]
    {s : State} (hs : Holds P s) : Holds P (State.reportUnsound s) := by
  unfold State.reportUnsound
  repeat' first
    | (with_reducible assumption)
    | (with_reducible apply State.report_keeps)
    | (with_reducible apply State.useResident_keeps)
    | (with_reducible apply Holds.foldl)
    | (intro _)
    | (with_reducible apply Holds.ite)
    | (dsimp only)
    | split

/-- What `State.stepAccessFault` can change. -/
theorem State.stepAccessFault_keeps {P : State → Prop} [KFlint P] [KHosts P] [KMems P] [KRegs P] [KRepair P] [KSent P]
    {s : State} {a : Nat} {x2 : MemErr} (hs : Holds P s) (hf : MemErr.has P x2) : Holds P (State.stepAccessFault s a x2) := by
  unfold State.stepAccessFault
  repeat' first
    | (with_reducible assumption)
    | (with_reducible apply State.memFaultAs_keeps)
    | (with_reducible apply State.report_keeps)
    | (with_reducible apply State.reportUnsound_keeps)
    | (with_reducible refine MemErr.of_dead (by with_reducible assumption))
    | split

/-- What `State.stepWrite` can change. -/
theorem State.stepWrite_keeps {P : State → Prop} [KDevFlips P] [KDevmem P] [KDies P] [KFlint P] [KFresh P] [KHosts P] [KMems P] [KOports P] [KRegs P] [KRepair P] [KSent P]
    {s : State} {a : Nat} {r : Rec} (hs : Holds P s) : Holds P (State.stepWrite s a r) := by
  unfold State.stepWrite
  repeat' first
    | (with_reducible assumption)
    | (refine HOk.get (State.devWrite_keeps ?_) (by with_reducible assumption))
    | (refine HOk.getE (State.devWrite_keeps ?_) (by with_reducible assumption))
    | (with_reducible apply State.stepAccessFault_keeps)
    | (with_reducible exact MemErr.has_unmapped)
    | (intro _)
    | (with_reducible apply Holds.ite)
    | split

/-- What `State.stepRead` can change. -/
theorem State.stepRead_keeps {P : State → Prop} [KDevFlips P] [KDevmem P] [KDies P] [KFlint P] [KFresh P] [KHosts P] [KMems P] [KOports P] [KRegs P] [KRepair P] [KSent P]
    {s : State} {a n : Nat} (hs : Holds P s) : HPair P (State.stepRead s a n) := by
  unfold State.stepRead
  repeat' first
    | (with_reducible assumption)
    | (refine HOk2.get (State.devRead_keeps ?_) (by with_reducible assumption))
    | (refine HOk2.getE (State.devRead_keeps ?_) (by with_reducible assumption))
    | (with_reducible apply State.stepAccessFault_keeps)
    | (with_reducible exact MemErr.has_unmapped)
    | (with_reducible apply HPair.ite)
    | (with_reducible apply HPair.ans)
    | (intro _)
    | split

/-- What `State.feed` can change. -/
theorem State.feed_keeps {P : State → Prop} [KChip P]
    {s : State} {i : Nat} {b : Accum} (hs : Holds P s) : Holds P (State.feed s i b) := by
  unfold State.feed
  repeat' first
    | (with_reducible assumption)
    | (with_reducible apply State.modChip_keeps)

/-- What `State.writeInstruments` can change. -/
theorem State.writeInstruments_keeps {P : State → Prop} [KDevFlips P] [KDevmem P] [KDies P] [KFlint P] [KFresh P] [KHosts P] [KMems P] [KOports P] [KRegs P] [KRepair P] [KSent P]
    {s : State} {p : Plan} (hs : Holds P s) : Holds P (State.writeInstruments s p) := by
  unfold State.writeInstruments
  repeat' first
    | (with_reducible assumption)
    | (with_reducible apply State.devZero_keeps)
    | (with_reducible apply State.report_keeps)
    | (with_reducible apply State.reportUnsound_keeps)
    | (with_reducible apply State.stepWrite_keeps)
    | (with_reducible apply Holds.foldl)
    | (intro _)
    | (with_reducible apply Holds.ite)
    | (dsimp only)
    | split

/-- What `State.scaleUpdate` can change. -/
theorem State.scaleUpdate_keeps {P : State → Prop} [KContexts P] [KFlint P]
    {s : State} {r : Word32} (hs : Holds P s) : Holds P (State.scaleUpdate s r) := by
  unfold State.scaleUpdate
  repeat' first
    | (with_reducible assumption)
    | (with_reducible apply State.modResident_keeps)
    | (with_reducible apply State.report_keeps)
    | (intro _)
    | (with_reducible apply Holds.ite)
    | (dsimp only)
    | split

/-- What `State.digest` can change. -/
theorem State.digest_keeps {P : State → Prop} [KChip P] [KDevFlips P] [KDevmem P] [KDies P] [KFlint P] [KFresh P] [KHosts P] [KMems P] [KOports P] [KRegs P] [KRepair P] [KSent P]
    {s : State} {unit idx entry ordinal row block : Nat} {stored : Rec} {status : Word64} (hs : Holds P s) : Holds P (State.digest s unit idx entry ordinal row block stored status) := by
  unfold State.digest
  repeat' first
    | (with_reducible assumption)
    | (with_reducible apply State.modChip_keeps)
    | (with_reducible apply State.stepWrite_keeps)
    | (intro _)
    | (with_reducible apply Holds.ite)
    | (dsimp only)
    | split

/-- What `State.logRingInput` can change. -/
theorem State.logRingInput_keeps {P : State → Prop} [KChip P] [KDevFlips P] [KDevmem P] [KDies P] [KFlint P] [KFresh P] [KHosts P] [KMems P] [KOports P] [KRegs P] [KRepair P] [KSent P]
    {s : State} {key payload : Rec} (hs : Holds P s) : Holds P (State.logRingInput s key payload) := by
  unfold State.logRingInput
  repeat' first
    | (with_reducible assumption)
    | (with_reducible apply State.modChip_keeps)
    | (with_reducible apply State.stepWrite_keeps)
    | (intro _)
    | (with_reducible apply Holds.ite)
    | (dsimp only)
    | split

/-- What `State.reportDivergence` can change. -/
theorem State.reportDivergence_keeps {P : State → Prop} [KFlint P] [KFresh P] [KHosts P] [KRegs P] [KSent P]
    {s : State} {key : Rec} {inputsDiffer : Bool} (hs : Holds P s) : Holds P (State.reportDivergence s key inputsDiffer) := by
  unfold State.reportDivergence
  repeat' first
    | (with_reducible assumption)
    | (with_reducible apply State.logEvent_keeps)
    | (with_reducible apply State.raiseBoth_keeps)
    | (with_reducible apply State.summarise_keeps)

/-- What `State.closeCapture` can change. -/
theorem State.closeCapture_keeps {P : State → Prop} [KDevFlips P] [KDevmem P] [KDies P] [KFlint P] [KFresh P] [KHosts P] [KMems P] [KOports P] [KRegs P] [KRepair P] [KSent P]
    {s : State} {aborted : Bool} (hs : Holds P s) : Holds P (State.closeCapture s aborted) := by
  unfold State.closeCapture
  repeat' first
    | (with_reducible assumption)
    | (with_reducible apply State.reportDivergence_keeps)
    | (with_reducible refine HPair.proj (State.stepRead_keeps ?_))
    | (with_reducible apply State.stepWrite_keeps)
    | (intro _)
    | (with_reducible apply Holds.ite)
    | (dsimp only)
    | split

/-- What `State.stopUnits` can change. -/
theorem State.stopUnits_keeps {P : State → Prop} [KChip P]
    {s : State} (hs : Holds P s) : Holds P (State.stopUnits s) := by
  unfold State.stopUnits
  repeat' first
    | (with_reducible assumption)
    | (with_reducible apply State.modChip_keeps)

/-- What `State.restoreScale` can change. -/
theorem State.restoreScale_keeps {P : State → Prop} [KChip P] [KContexts P]
    {s : State} (hs : Holds P s) : Holds P (State.restoreScale s) := by
  unfold State.restoreScale
  repeat' first
    | (with_reducible assumption)
    | (with_reducible apply State.modChip_keeps)
    | (with_reducible apply State.modResident_keeps)
    | split

/-- What `State.endStep` can change. -/
theorem State.endStep_keeps {P : State → Prop} [KChip P] [KHosts P] [KRegs P] [KSent P]
    {s : State} {outcome : Nat} (hs : Holds P s) : Holds P (State.endStep s outcome) := by
  unfold State.endStep
  repeat' first
    | (with_reducible assumption)
    | (with_reducible apply State.modChip_keeps)
    | (with_reducible apply State.raiseBoth_keeps)
    | (with_reducible apply State.setField_keeps)
    | (with_reducible apply State.setReg_keeps)
    | (dsimp only)
    | split

/-- What `State.failStep` can change. -/
theorem State.failStep_keeps {P : State → Prop} [KChip P] [KContexts P] [KDevFlips P] [KDevmem P] [KDies P] [KFlint P] [KFresh P] [KHosts P] [KMems P] [KOports P] [KRegs P] [KRepair P] [KSent P]
    {s : State} {outcome : Nat} (hs : Holds P s) : Holds P (State.failStep s outcome) := by
  unfold State.failStep
  repeat' first
    | (with_reducible assumption)
    | (with_reducible apply State.closeCapture_keeps)
    | (with_reducible apply State.endStep_keeps)
    | (with_reducible apply State.restoreScale_keeps)
    | (with_reducible apply State.stopUnits_keeps)
    | (intro _)
    | (with_reducible apply Holds.ite)

/-- What `State.abandonBackground` can change. -/
theorem State.abandonBackground_keeps {P : State → Prop} [KFlint P] [KHosts P] [KSent P]
    {s : State} {fatal : Bool} (hs : Holds P s) : Holds P (State.abandonBackground s fatal) := by
  unfold State.abandonBackground
  repeat' first
    | (with_reducible assumption)
    | (with_reducible apply State.modFlint_keeps)
    | (with_reducible apply State.respond_keeps)
    | (intro _)
    | (with_reducible apply Holds.ite)
    | (dsimp only)
    | split

/-- What `State.finishAbort` can change. -/
theorem State.finishAbort_keeps {P : State → Prop} [KFlint P] [KHosts P] [KSent P]
    {s : State} (hs : Holds P s) : Holds P (State.finishAbort s) := by
  unfold State.finishAbort
  repeat' first
    | (with_reducible assumption)
    | (with_reducible apply State.modFlint_keeps)
    | (with_reducible apply State.respond_keeps)
    | split

/-- What `State.fatal` can change. -/
theorem State.fatal_keeps {P : State → Prop} [KChip P] [KContexts P] [KDevFlips P] [KDevmem P] [KDies P] [KFlint P] [KFresh P] [KHosts P] [KMems P] [KOports P] [KRegs P] [KRepair P] [KSent P]
    {s : State} {reason : Nat} (hs : Holds P s) : Holds P (State.fatal s reason) := by
  unfold State.fatal
  repeat' first
    | (with_reducible assumption)
    | (with_reducible apply State.abandonBackground_keeps)
    | (with_reducible apply State.failStep_keeps)
    | (with_reducible apply State.finishAbort_keeps)
    | (with_reducible apply State.halt_keeps)
    | (with_reducible apply State.modFlint_keeps)

/-- What `State.escalate` can change. -/
theorem State.escalate_keeps {P : State → Prop} [KChip P] [KContexts P] [KDevFlips P] [KDevmem P] [KDies P] [KFlint P] [KFresh P] [KHosts P] [KMems P] [KOports P] [KRegs P] [KRepair P] [KSent P]
    {s : State} {r : Report} {unit die flags : Nat} (hs : Holds P s) : Holds P (State.escalate s r unit die flags) := by
  unfold State.escalate
  repeat' first
    | (with_reducible assumption)
    | (with_reducible apply State.abandonBackground_keeps)
    | (with_reducible apply State.cut_keeps)
    | (with_reducible apply State.cutFor_keeps)
    | (with_reducible apply State.enter_keeps)
    | (with_reducible apply State.failStep_keeps)
    | (with_reducible apply State.logEvent_keeps)
    | (with_reducible apply State.modFlint_keeps)
    | (with_reducible apply State.summary_keeps)
    | (intro _)
    | (with_reducible apply Holds.ite)
    | (dsimp only)
    | split

end Sys2Proof.Machine
end

