-- ==== Sys2Proof/Laws/KeepsCompute.lean ====
section
/-! SUPPORT. Footprints of sequencers, engines, function units and streams: for each operation the parts of the state it can change (see Keeps). -/

namespace Sys2Proof.Machine

/-- What `State.readBlock` can change. -/
theorem State.readBlock_keeps {P : State → Prop} [KChip P] [KRegs P] [KRepair P]
    {s : State} {c : Nat} {r : Ref} {f m b n : Nat} (hs : Holds P s) : HOk2 P (BankErr.has P) (State.readBlock s c r f m b n) := by
  unfold State.readBlock
  repeat' first
    | (with_reducible assumption)
    | (with_reducible apply State.scrRead_keeps)
    | (with_reducible apply HOk2.ite)
    | (with_reducible apply HOk2.ans)
    | (with_reducible apply HOk2.bindOk2)
    | (intro _)

/-- What `State.readCol` can change. -/
theorem State.readCol_keeps {P : State → Prop} [KChip P] [KRegs P] [KRepair P]
    {s : State} {c : Nat} {r : Ref} {f m : Nat} (hs : Holds P s) : HOk2 P (BankErr.has P) (State.readCol s c r f m) := by
  unfold State.readCol
  repeat' first
    | (with_reducible assumption)
    | (with_reducible apply State.scrRead_keeps)
    | (with_reducible apply HOk2.ite)
    | (with_reducible apply HOk2.ans)
    | (with_reducible apply HOk2.bindOk2)
    | (intro _)

/-- What `State.writeCodes` can change. -/
theorem State.writeCodes_keeps {P : State → Prop} [KChip P] [KRegs P] [KRepair P]
    {s : State} {c f a : Nat} {codes : List Nat} (hs : Holds P s) : HOk2 P (BankErr.has P) (State.writeCodes s c f a codes) := by
  unfold State.writeCodes
  repeat' first
    | (with_reducible assumption)
    | (with_reducible apply State.scrRead_keeps)
    | (with_reducible apply State.scrWrite_keeps)
    | (with_reducible apply HOk2.ite)
    | (with_reducible apply HOk2.ans)
    | (with_reducible apply HOk2.bindOk)
    | (with_reducible apply HOk2.bindOk2)
    | (intro _)

/-- What `State.writeMask` can change. -/
theorem State.writeMask_keeps {P : State → Prop} [KChip P] [KRegs P] [KRepair P]
    {s : State} {c f a n new : Nat} (hs : Holds P s) : HOk2 P (BankErr.has P) (State.writeMask s c f a n new) := by
  unfold State.writeMask
  repeat' first
    | (with_reducible assumption)
    | (with_reducible apply State.scrRead_keeps)
    | (with_reducible apply State.scrWrite_keeps)
    | (with_reducible apply HOk2.ite)
    | (with_reducible apply HOk2.ans)
    | (with_reducible apply HOk2.bindOk)
    | (with_reducible apply HOk2.bindOk2)
    | (intro _)

/-- What `State.writeBlock` can change. -/
theorem State.writeBlock_keeps {P : State → Prop} [KChip P] [KRegs P] [KRepair P]
    {s : State} {c : Nat} {r : Ref} {f m b : Nat} {st : Stored} (hs : Holds P s) : HOk2 P (BankErr.has P) (State.writeBlock s c r f m b st) := by
  unfold State.writeBlock
  repeat' first
    | (with_reducible assumption)
    | (with_reducible apply State.scrWrite_keeps)
    | (with_reducible apply State.writeCodes_keeps)
    | (with_reducible apply State.writeMask_keeps)
    | (with_reducible apply HOk.ans)
    | (with_reducible apply HOk2.ite)
    | (with_reducible apply HOk2.ans)
    | (with_reducible apply HOk2.bindOk)
    | (with_reducible apply HOk2.bindOk2)
    | (intro _)

/-- What `State.writeColBlock` can change. -/
theorem State.writeColBlock_keeps {P : State → Prop} [KChip P] [KRegs P] [KRepair P]
    {s : State} {c : Nat} {r : Ref} {f t : Nat} {st : Stored} (hs : Holds P s) : HOk2 P (BankErr.has P) (State.writeColBlock s c r f t st) := by
  unfold State.writeColBlock
  repeat' first
    | (with_reducible assumption)
    | (with_reducible apply State.scrWrite_keeps)
    | (with_reducible apply State.writeCodes_keeps)
    | (with_reducible apply State.writeMask_keeps)
    | (with_reducible apply HOk.ans)
    | (with_reducible apply HOk2.foldl)
    | (with_reducible apply HOk2.ite)
    | (with_reducible apply HOk2.ans)
    | (with_reducible apply HOk2.bindOk)
    | (with_reducible apply HOk2.bindOk2)
    | (intro _)

/-- What `State.coreFault` can change. -/
theorem State.coreFault_keeps {P : State → Prop} [KFlint P] [KRegs P]
    {s : State} {c unit code bank idx sub : Nat} (hs : Holds P s) : Holds P (State.coreFault s c unit code bank idx sub) := by
  unfold State.coreFault
  repeat' first
    | (with_reducible assumption)
    | (with_reducible apply State.report_keeps)
    | (with_reducible apply State.setBit_keeps)
    | (with_reducible apply State.setField_keeps)
    | (intro _)
    | (with_reducible apply Holds.ite)

/-- What `State.readProgram` can change. -/
theorem State.readProgram_keeps {P : State → Prop} [KChip P] [KRegs P]
    {s : State} {c w : Nat} (hs : Holds P s) : HSome P (State.readProgram s c w) := by
  unfold State.readProgram
  repeat' first
    | (with_reducible assumption)
    | (with_reducible apply State.bump_keeps)
    | (with_reducible apply State.modCore_keeps)
    | (with_reducible apply HSome.ite)
    | (with_reducible apply HSome.ans)
    | (with_reducible apply HSome.map)
    | (intro _)

/-- What `State.readTable` can change. -/
theorem State.readTable_keeps {P : State → Prop} [KChip P] [KRegs P]
    {s : State} {c w : Nat} (hs : Holds P s) : HSome P (State.readTable s c w) := by
  unfold State.readTable
  repeat' first
    | (with_reducible assumption)
    | (with_reducible apply State.bump_keeps)
    | (with_reducible apply State.modCore_keeps)
    | (with_reducible apply HSome.ite)
    | (with_reducible apply HSome.ans)
    | (with_reducible apply HSome.map)
    | (intro _)

/-- What `State.stopCore` can change. -/
theorem State.stopCore_keeps {P : State → Prop} [KChip P] [KFlint P] [KRegs P]
    {s : State} {c code bank : Nat} (hs : Holds P s) : Holds P (State.stopCore s c code bank) := by
  unfold State.stopCore
  repeat' first
    | (with_reducible assumption)
    | (with_reducible apply State.coreFault_keeps)
    | (with_reducible apply State.modCore_keeps)

/-- What `State.issue` can change. -/
theorem State.issue_keeps {P : State → Prop} [KChip P] [KDies P] [KFlint P] [KFresh P] [KHosts P] [KMems P] [KOports P] [KRegs P] [KSent P]
    {s : State} {c op : Nat} {holds : List Nat} {f : State → Word64 → State} (hs : Holds P s) (hf : ∀ s w, Holds P s → Holds P (f s w)) : Holds P (State.issue s c op holds f) := by
  unfold State.issue
  repeat' first
    | (with_reducible assumption)
    | (with_reducible apply hf)
    | (refine HSome.get (State.readProgram_keeps ?_) (by with_reducible assumption))
    | (with_reducible apply State.stir_keeps)
    | (with_reducible apply State.stopCore_keeps)
    | (intro _)
    | (with_reducible apply Holds.ite)
    | split

/-- What `State.holdAt` can change. -/
theorem State.holdAt_keeps {P : State → Prop} [KChip P]
    {s : State} {c reason qc q : Nat} (hs : Holds P s) : Holds P (State.holdAt s c reason qc q) := by
  unfold State.holdAt
  repeat' first
    | (with_reducible assumption)
    | (with_reducible apply State.modCore_keeps)

/-- What `State.launch` can change. -/
theorem State.launch_keeps {P : State → Prop} [KChip P]
    {s : State} {c : Nat} {w : Word64} {rec : Rec} {reads writes : List Iv} {engines : List Nat} {work : Work} {rerunnable : Bool} (hs : Holds P s) : Holds P (State.launch s c w rec reads writes engines work rerunnable) := by
  unfold State.launch
  repeat' first
    | (with_reducible assumption)
    | (with_reducible apply State.modCore_keeps)

/-- What `State.modFlight` can change. -/
theorem State.modFlight_keeps {P : State → Prop} [KChip P]
    {s : State} {c id : Nat} {f : Flight → Flight} (hs : Holds P s) : Holds P (State.modFlight s c id f) := by
  unfold State.modFlight
  repeat' first
    | (with_reducible assumption)
    | (with_reducible apply State.modCore_keeps)

/-- What `State.retireFlight` can change. -/
theorem State.retireFlight_keeps {P : State → Prop} [KChip P]
    {s : State} {c id : Nat} (hs : Holds P s) : Holds P (State.retireFlight s c id) := by
  unfold State.retireFlight
  repeat' first
    | (with_reducible assumption)
    | (with_reducible apply State.modCore_keeps)

/-- What `issueLoop` can change. -/
theorem issueLoop_keeps {P : State → Prop} [KChip P]
    {c : Nat} {s : State} {w : Word64} (hs : Holds P s) : Holds P (issueLoop c s w) := by
  unfold issueLoop
  repeat' first
    | (with_reducible assumption)
    | (with_reducible apply State.modCore_keeps)

/-- What `issueLoopEnd` can change. -/
theorem issueLoopEnd_keeps {P : State → Prop} [KChip P]
    {c : Nat} {s : State} {x2 : Word64} (hs : Holds P s) : Holds P (issueLoopEnd c s x2) := by
  unfold issueLoopEnd
  repeat' first
    | (with_reducible assumption)
    | (with_reducible apply State.modCore_keeps)

/-- What `issueSetIndex` can change. -/
theorem issueSetIndex_keeps {P : State → Prop} [KChip P]
    {c : Nat} {s : State} {w : Word64} (hs : Holds P s) : Holds P (issueSetIndex c s w) := by
  unfold issueSetIndex
  repeat' first
    | (with_reducible assumption)
    | (with_reducible apply State.modCore_keeps)

/-- What `issueAddIndex` can change. -/
theorem issueAddIndex_keeps {P : State → Prop} [KChip P]
    {c : Nat} {s : State} {w : Word64} (hs : Holds P s) : Holds P (issueAddIndex c s w) := by
  unfold issueAddIndex
  repeat' first
    | (with_reducible assumption)
    | (with_reducible apply State.modCore_keeps)

/-- What `issueFence` can change. -/
theorem issueFence_keeps {P : State → Prop} [KChip P]
    {c : Nat} {s : State} {x2 : Word64} (hs : Holds P s) : Holds P (issueFence c s x2) := by
  unfold issueFence
  repeat' first
    | (with_reducible assumption)
    | (with_reducible apply State.holdAt_keeps)
    | (with_reducible apply State.modCore_keeps)
    | (intro _)
    | (with_reducible apply Holds.ite)

/-- What `issueStepEnd` can change. -/
theorem issueStepEnd_keeps {P : State → Prop} [KChip P]
    {c : Nat} {s : State} {x2 : Word64} (hs : Holds P s) : Holds P (issueStepEnd c s x2) := by
  unfold issueStepEnd
  repeat' first
    | (with_reducible assumption)
    | (with_reducible apply State.holdAt_keeps)
    | (with_reducible apply State.modCore_keeps)
    | (intro _)
    | (with_reducible apply Holds.ite)

/-- What `State.setQueue` can change. -/
theorem State.setQueue_keeps {P : State → Prop} [KChip P]
    {s : State} {c q n : Nat} (hs : Holds P s) : Holds P (State.setQueue s c q n) := by
  unfold State.setQueue
  repeat' first
    | (with_reducible assumption)
    | (with_reducible apply State.modCore_keeps)

/-- What `State.waitTokens` can change. -/
theorem State.waitTokens_keeps {P : State → Prop} [KChip P]
    {s : State} {c q n : Nat} (hs : Holds P s) : HSome P (State.waitTokens s c q n) := by
  unfold State.waitTokens
  repeat' first
    | (with_reducible assumption)
    | (with_reducible apply State.setQueue_keeps)
    | (with_reducible apply HSome.ite)
    | (with_reducible apply HSome.ans)
    | (with_reducible apply HSome.none)
    | (intro _)

/-- What `State.signalTokens` can change. -/
theorem State.signalTokens_keeps {P : State → Prop} [KChip P] [KDies P] [KFlint P] [KFresh P] [KHosts P] [KMems P] [KOports P] [KRegs P] [KSent P]
    {s : State} {c q n : Nat} (hs : Holds P s) : HSome P (State.signalTokens s c q n) := by
  unfold State.signalTokens
  repeat' first
    | (with_reducible assumption)
    | (with_reducible apply State.setQueue_keeps)
    | (with_reducible apply State.stir_keeps)
    | (with_reducible apply HSome.ite)
    | (with_reducible apply HSome.ans)
    | (with_reducible apply HSome.none)
    | (intro _)

/-- What `issueWait` can change. -/
theorem issueWait_keeps {P : State → Prop} [KChip P]
    {c : Nat} {s : State} {w : Word64} (hs : Holds P s) : Holds P (issueWait c s w) := by
  unfold issueWait
  repeat' first
    | (with_reducible assumption)
    | (with_reducible apply State.holdAt_keeps)
    | (with_reducible apply State.modCore_keeps)
    | (refine HSome.get (State.waitTokens_keeps ?_) (by with_reducible assumption))
    | split

/-- What `issueSignal` can change. -/
theorem issueSignal_keeps {P : State → Prop} [KChip P] [KDies P] [KFlint P] [KFresh P] [KHosts P] [KMems P] [KOports P] [KRegs P] [KSent P]
    {c : Nat} {s : State} {w : Word64} (hs : Holds P s) : Holds P (issueSignal c s w) := by
  unfold issueSignal
  repeat' first
    | (with_reducible assumption)
    | (with_reducible apply State.holdAt_keeps)
    | (with_reducible apply State.modCore_keeps)
    | (refine HSome.get (State.signalTokens_keeps ?_) (by with_reducible assumption))
    | split

/-- What `issueFillArm` can change. -/
theorem issueFillArm_keeps {P : State → Prop} [KChip P]
    {c : Nat} {s : State} {w : Word64} (hs : Holds P s) : Holds P (issueFillArm c s w) := by
  unfold issueFillArm
  repeat' first
    | (with_reducible assumption)
    | (with_reducible apply State.modCore_keeps)

/-- What `issueFillJoin` can change. -/
theorem issueFillJoin_keeps {P : State → Prop} [KChip P]
    {c : Nat} {s : State} {w : Word64} (hs : Holds P s) : Holds P (issueFillJoin c s w) := by
  unfold issueFillJoin
  repeat' first
    | (with_reducible assumption)
    | (with_reducible apply State.holdAt_keeps)
    | (with_reducible apply State.modCore_keeps)
    | (intro _)
    | (with_reducible apply Holds.ite)

/-- What `State.stopFlight` can change. -/
theorem State.stopFlight_keeps {P : State → Prop} [KChip P]
    {s : State} {c id code : Nat} (hs : Holds P s) : Holds P (State.stopFlight s c id code) := by
  unfold State.stopFlight
  repeat' first
    | (with_reducible assumption)
    | (with_reducible apply State.modCore_keeps)

/-- What `issueFillEnd` can change. -/
theorem issueFillEnd_keeps {P : State → Prop} [KChip P]
    {c : Nat} {s : State} {x2 : Word64} (hs : Holds P s) : Holds P (issueFillEnd c s x2) := by
  unfold issueFillEnd
  repeat' first
    | (with_reducible assumption)
    | (with_reducible apply State.modCore_keeps)

/-- What `State.startFill` can change. -/
theorem State.startFill_keeps {P : State → Prop} [KChip P]
    {s : State} {c i : Nat} (hs : Holds P s) : Holds P (State.startFill s c i) := by
  unfold State.startFill
  repeat' first
    | (with_reducible assumption)
    | (with_reducible apply State.modCore_keeps)
    | (with_reducible apply State.setQueue_keeps)
    | (intro _)
    | (with_reducible apply Holds.ite)

/-- What `execLoop` can change. -/
theorem execLoop_keeps {P : State → Prop} [KChip P] [KDies P] [KFlint P] [KFresh P] [KHosts P] [KMems P] [KOports P] [KRegs P] [KSent P]
    {core : Nat} {s : State} (hs : Holds P s) : HNext P (execLoop core s) := by
  unfold execLoop
  repeat' first
    | (with_reducible assumption)
    | (with_reducible apply State.issue_keeps)
    | (with_reducible apply issueLoop_keeps)
    | (with_reducible apply HNext.ans)

/-- What `execLoopEnd` can change. -/
theorem execLoopEnd_keeps {P : State → Prop} [KChip P] [KDies P] [KFlint P] [KFresh P] [KHosts P] [KMems P] [KOports P] [KRegs P] [KSent P]
    {core : Nat} {s : State} (hs : Holds P s) : HNext P (execLoopEnd core s) := by
  unfold execLoopEnd
  repeat' first
    | (with_reducible assumption)
    | (with_reducible apply State.issue_keeps)
    | (with_reducible apply issueLoopEnd_keeps)
    | (with_reducible apply HNext.ans)

/-- What `execSetIndex` can change. -/
theorem execSetIndex_keeps {P : State → Prop} [KChip P] [KDies P] [KFlint P] [KFresh P] [KHosts P] [KMems P] [KOports P] [KRegs P] [KSent P]
    {core : Nat} {s : State} (hs : Holds P s) : HNext P (execSetIndex core s) := by
  unfold execSetIndex
  repeat' first
    | (with_reducible assumption)
    | (with_reducible apply State.issue_keeps)
    | (with_reducible apply issueSetIndex_keeps)
    | (with_reducible apply HNext.ans)

/-- What `execAddIndex` can change. -/
theorem execAddIndex_keeps {P : State → Prop} [KChip P] [KDies P] [KFlint P] [KFresh P] [KHosts P] [KMems P] [KOports P] [KRegs P] [KSent P]
    {core : Nat} {s : State} (hs : Holds P s) : HNext P (execAddIndex core s) := by
  unfold execAddIndex
  repeat' first
    | (with_reducible assumption)
    | (with_reducible apply State.issue_keeps)
    | (with_reducible apply issueAddIndex_keeps)
    | (with_reducible apply HNext.ans)

/-- What `execFence` can change. -/
theorem execFence_keeps {P : State → Prop} [KChip P] [KDies P] [KFlint P] [KFresh P] [KHosts P] [KMems P] [KOports P] [KRegs P] [KSent P]
    {core : Nat} {s : State} (hs : Holds P s) : HNext P (execFence core s) := by
  unfold execFence
  repeat' first
    | (with_reducible assumption)
    | (with_reducible apply State.issue_keeps)
    | (with_reducible apply issueFence_keeps)
    | (with_reducible apply HNext.ans)

/-- What `execStepEnd` can change. -/
theorem execStepEnd_keeps {P : State → Prop} [KChip P] [KDies P] [KFlint P] [KFresh P] [KHosts P] [KMems P] [KOports P] [KRegs P] [KSent P]
    {core : Nat} {s : State} (hs : Holds P s) : HNext P (execStepEnd core s) := by
  unfold execStepEnd
  repeat' first
    | (with_reducible assumption)
    | (with_reducible apply State.issue_keeps)
    | (with_reducible apply issueStepEnd_keeps)
    | (with_reducible apply HNext.ans)

/-- What `execWaitToken` can change. -/
theorem execWaitToken_keeps {P : State → Prop} [KChip P] [KDies P] [KFlint P] [KFresh P] [KHosts P] [KMems P] [KOports P] [KRegs P] [KSent P]
    {core : Nat} {s : State} (hs : Holds P s) : HNext P (execWaitToken core s) := by
  unfold execWaitToken
  repeat' first
    | (with_reducible assumption)
    | (with_reducible apply State.issue_keeps)
    | (with_reducible apply issueWait_keeps)
    | (with_reducible apply HNext.ans)

/-- What `execSignalToken` can change. -/
theorem execSignalToken_keeps {P : State → Prop} [KChip P] [KDies P] [KFlint P] [KFresh P] [KHosts P] [KMems P] [KOports P] [KRegs P] [KSent P]
    {core : Nat} {s : State} (hs : Holds P s) : HNext P (execSignalToken core s) := by
  unfold execSignalToken
  repeat' first
    | (with_reducible assumption)
    | (with_reducible apply State.issue_keeps)
    | (with_reducible apply issueSignal_keeps)
    | (with_reducible apply HNext.ans)

/-- What `execTokenWaitGranted` can change. -/
theorem execTokenWaitGranted_keeps {P : State → Prop} [KChip P] [KDies P] [KFlint P] [KFresh P] [KHosts P] [KMems P] [KOports P] [KRegs P] [KSent P]
    {core : Nat} {s : State} (hs : Holds P s) : HNext P (execTokenWaitGranted core s) := by
  unfold execTokenWaitGranted
  repeat' first
    | (with_reducible assumption)
    | (with_reducible apply State.issue_keeps)
    | (with_reducible apply issueWait_keeps)
    | (with_reducible apply HNext.ans)
    | (intro _)
    | (with_reducible apply Holds.ite)

/-- What `execTokenSignalGranted` can change. -/
theorem execTokenSignalGranted_keeps {P : State → Prop} [KChip P] [KDies P] [KFlint P] [KFresh P] [KHosts P] [KMems P] [KOports P] [KRegs P] [KSent P]
    {core : Nat} {s : State} (hs : Holds P s) : HNext P (execTokenSignalGranted core s) := by
  unfold execTokenSignalGranted
  repeat' first
    | (with_reducible assumption)
    | (with_reducible apply State.issue_keeps)
    | (with_reducible apply issueSignal_keeps)
    | (with_reducible apply HNext.ans)
    | (intro _)
    | (with_reducible apply Holds.ite)

/-- What `execFillArm` can change. -/
theorem execFillArm_keeps {P : State → Prop} [KChip P] [KDies P] [KFlint P] [KFresh P] [KHosts P] [KMems P] [KOports P] [KRegs P] [KSent P]
    {core : Nat} {s : State} (hs : Holds P s) : HNext P (execFillArm core s) := by
  unfold execFillArm
  repeat' first
    | (with_reducible assumption)
    | (with_reducible apply State.issue_keeps)
    | (with_reducible apply issueFillArm_keeps)
    | (with_reducible apply HNext.ans)

/-- What `execFillJoin` can change. -/
theorem execFillJoin_keeps {P : State → Prop} [KChip P] [KDies P] [KFlint P] [KFresh P] [KHosts P] [KMems P] [KOports P] [KRegs P] [KSent P]
    {core : Nat} {s : State} (hs : Holds P s) : HNext P (execFillJoin core s) := by
  unfold execFillJoin
  repeat' first
    | (with_reducible assumption)
    | (with_reducible apply State.issue_keeps)
    | (with_reducible apply issueFillJoin_keeps)
    | (with_reducible apply HNext.ans)

/-- What `execFillEnd` can change. -/
theorem execFillEnd_keeps {P : State → Prop} [KChip P] [KDies P] [KFlint P] [KFresh P] [KHosts P] [KMems P] [KOports P] [KRegs P] [KSent P]
    {core : Nat} {s : State} (hs : Holds P s) : HNext P (execFillEnd core s) := by
  unfold execFillEnd
  repeat' first
    | (with_reducible assumption)
    | (with_reducible apply State.issue_keeps)
    | (with_reducible apply issueFillEnd_keeps)
    | (with_reducible apply HNext.ans)

/-- What `execFillTaskStart` can change. -/
theorem execFillTaskStart_keeps {P : State → Prop} [KChip P]
    {core : Nat} {s : State} (hs : Holds P s) : HNext P (execFillTaskStart core s) := by
  unfold execFillTaskStart
  repeat' first
    | (with_reducible assumption)
    | (with_reducible apply State.startFill_keeps)
    | (with_reducible apply HNext.ans)
    | (intro _)
    | (with_reducible apply Holds.ite)
    | split

/-- What `execHoldLimitExpiry` can change. -/
theorem execHoldLimitExpiry_keeps {P : State → Prop} [KChip P] [KFlint P] [KRegs P]
    {core : Nat} {s : State} (hs : Holds P s) : HNext P (execHoldLimitExpiry core s) := by
  unfold execHoldLimitExpiry
  repeat' first
    | (with_reducible assumption)
    | (with_reducible apply State.coreFault_keeps)
    | (with_reducible apply State.modCore_keeps)
    | (with_reducible apply HNext.ans)
    | (intro _)
    | (with_reducible apply Holds.ite)

/-- What `State.modPlanes` can change. -/
theorem State.modPlanes_keeps {P : State → Prop} [KChip P]
    {s : State} {c : Nat} {es : List Nat} {p : Nat} {f : Plane → Plane} (hs : Holds P s) : Holds P (State.modPlanes s c es p f) := by
  unfold State.modPlanes
  repeat' first
    | (with_reducible assumption)
    | (with_reducible apply State.modCore_keeps)

/-- What `State.engineBits` can change. -/
theorem State.engineBits_keeps {P : State → Prop} [KRegs P]
    {s : State} {c lo : Nat} {es : List Nat} (hs : Holds P s) : Holds P (State.engineBits s c lo es) := by
  unfold State.engineBits
  repeat' first
    | (with_reducible assumption)
    | (with_reducible apply State.setBit_keeps)
    | (with_reducible apply Holds.foldl)
    | (intro _)

/-- What `State.markEngines` can change. -/
theorem State.markEngines_keeps {P : State → Prop} [KRegs P]
    {s : State} {c code : Nat} {es : List Nat} (hs : Holds P s) : Holds P (State.markEngines s c code es) := by
  unfold State.markEngines
  repeat' first
    | (with_reducible assumption)
    | (with_reducible apply State.engineBits_keeps)
    | (with_reducible apply State.setField_keeps)
    | (with_reducible apply Holds.foldl)
    | (intro _)

/-- What `State.writeEntry` can change. -/
theorem State.writeEntry_keeps {P : State → Prop} [KChip P] [KRegs P] [KRepair P]
    {s : State} {c : Nat} {p : Pass} {t b : Nat} {v : Word64} (hs : Holds P s) : HOk P (BankErr.has P) (State.writeEntry s c p t b v) := by
  unfold State.writeEntry
  repeat' first
    | (with_reducible assumption)
    | (with_reducible apply State.scrWrite_keeps)

/-- What `State.dropLoad` can change. -/
theorem State.dropLoad_keeps {P : State → Prop} [KChip P]
    {s : State} {c id : Nat} {l : Load} (hs : Holds P s) : Holds P (State.dropLoad s c id l) := by
  unfold State.dropLoad
  repeat' first
    | (with_reducible assumption)
    | (with_reducible apply State.modPlanes_keeps)
    | (with_reducible apply State.retireFlight_keeps)

/-- What `State.stopLoad` can change. -/
theorem State.stopLoad_keeps {P : State → Prop} [KChip P] [KRegs P]
    {s : State} {c id : Nat} {l : Load} {code : Nat} (hs : Holds P s) : Holds P (State.stopLoad s c id l code) := by
  unfold State.stopLoad
  repeat' first
    | (with_reducible assumption)
    | (with_reducible apply State.markEngines_keeps)
    | (with_reducible apply State.modPlanes_keeps)
    | (with_reducible apply State.stopFlight_keeps)

/-- What `State.reportBank` can change. -/
theorem State.reportBank_keeps {P : State → Prop} [KFlint P]
    {s : State} {c sub b : Nat} {units : List Nat} (hs : Holds P s) : Holds P (State.reportBank s c sub b units) := by
  unfold State.reportBank
  repeat' first
    | (with_reducible assumption)
    | (with_reducible apply State.modFlint_keeps)

/-- What `State.oweEntries` can change. -/
theorem State.oweEntries_keeps {P : State → Prop} [KChip P] [KRegs P] [KRepair P]
    {s : State} {c : Nat} {fl : Flight} {p : Pass} (hs : Holds P s) : HFst P anyVal (State.oweEntries s c fl p) := by
  unfold State.oweEntries
  repeat' first
    | (with_reducible assumption)
    | (refine HOk.get (State.writeEntry_keeps ?_) (by with_reducible assumption))
    | (refine BankErr.of (HOk.getE (State.writeEntry_keeps ?_) (by with_reducible assumption)))
    | (with_reducible exact anyVal.triv)
    | (with_reducible apply HFst.foldl)
    | (with_reducible apply HFst.ite)
    | (dsimp only)
    | split
    | (with_reducible apply HFst.ans)
    | (with_reducible refine HFst.proj (by with_reducible assumption))
    | (intro _)

/-- What `State.haltPass` can change. -/
theorem State.haltPass_keeps {P : State → Prop} [KChip P] [KRegs P] [KRepair P]
    {s : State} {c : Nat} {fl : Flight} {p : Pass} {code : Nat} (hs : Holds P s) : HFst P anyVal (State.haltPass s c fl p code) := by
  unfold State.haltPass
  repeat' first
    | (with_reducible assumption)
    | (with_reducible apply State.dropLoad_keeps)
    | (with_reducible apply State.markEngines_keeps)
    | (with_reducible refine HFst.proj (State.oweEntries_keeps ?_))
    | (with_reducible apply State.stopFlight_keeps)
    | (with_reducible exact anyVal.triv)
    | (with_reducible apply Holds.foldl)
    | (dsimp only)
    | split
    | (with_reducible apply HFst.ans)
    | (intro _)

/-- What `State.stopUser` can change. -/
theorem State.stopUser_keeps {P : State → Prop} [KChip P] [KFlint P] [KRegs P] [KRepair P]
    {c b : Nat} {x : State × List (Nat × Option Nat)} {f : Flight}  (hf : Holds P x.1) : HFst P anyVal (State.stopUser c b x f) := by
  unfold State.stopUser
  repeat' first
    | (with_reducible assumption)
    | (with_reducible apply State.coreFault_keeps)
    | (with_reducible refine HFst.proj (State.haltPass_keeps ?_))
    | (with_reducible apply State.stopFlight_keeps)
    | (with_reducible apply State.stopLoad_keeps)
    | (with_reducible exact anyVal.triv)
    | (dsimp only)
    | split
    | (with_reducible apply HFst.ans)

/-- What `State.bankHit` can change. -/
theorem State.bankHit_keeps {P : State → Prop} [KChip P] [KFlint P] [KRegs P] [KRepair P]
    {s : State} {c b : Nat} {culprit : Option Nat} (hs : Holds P s) : HFst P anyVal (State.bankHit s c b culprit) := by
  unfold State.bankHit
  repeat' first
    | (with_reducible assumption)
    | (refine HFst.proj (E := anyVal) (HFst.foldl (fun _ _ h => State.stopUser_keeps h.out) _ _ (HFst.ans ?_ anyVal.triv)))
    | (with_reducible apply State.modFlight_keeps)
    | (with_reducible apply State.reportBank_keeps)
    | (with_reducible apply State.stopUser_keeps)
    | (with_reducible exact anyVal.triv)
    | (with_reducible apply HFst.foldl)
    | (dsimp only)
    | split
    | (with_reducible apply HFst.ans)
    | (with_reducible refine HFst.proj (by with_reducible assumption))
    | (intro _)

/-- What `State.bankErrors` can change. -/
theorem State.bankErrors_keeps {P : State → Prop} [KChip P] [KFlint P] [KRegs P] [KRepair P]
    {c x1 : Nat} {x2 : List (Nat × Option Nat)} {x3 : State} (hs : Holds P x3) : Holds P (State.bankErrors c x1 x2 x3) := by
  induction x1 generalizing x2 x3 with
  | zero => unfold State.bankErrors; exact hs
  | succ n ih =>
    rcases x2 with _ | ⟨⟨b, w⟩, rest⟩
    · unfold State.bankErrors; exact hs
    · unfold State.bankErrors; exact ih (State.bankHit_keeps hs).out

/-- What `State.bankError` can change. -/
theorem State.bankError_keeps {P : State → Prop} [KChip P] [KFlint P] [KRegs P] [KRepair P]
    {s : State} {c b : Nat} {culprit : Option Nat} (hs : Holds P s) : Holds P (State.bankError s c b culprit) := by
  unfold State.bankError
  repeat' first
    | (with_reducible assumption)
    | (with_reducible apply State.bankErrors_keeps)

/-- What `State.stopPass` can change. -/
theorem State.stopPass_keeps {P : State → Prop} [KChip P] [KFlint P] [KRegs P] [KRepair P]
    {s : State} {c : Nat} {fl : Flight} {p : Pass} {code : Nat} (hs : Holds P s) : Holds P (State.stopPass s c fl p code) := by
  unfold State.stopPass
  repeat' first
    | (with_reducible assumption)
    | (with_reducible apply State.bankErrors_keeps)
    | (with_reducible refine HFst.proj (State.haltPass_keeps ?_))
    | (with_reducible apply State.report_keeps)

/-- What `State.argRecord` can change. -/
theorem State.argRecord_keeps {P : State → Prop} [KChip P] [KFlint P] [KRegs P] [KRepair P]
    {s : State} {c : Nat} {w : Word64} (hs : Holds P s) : HOk2 P (Holds P) (State.argRecord s c w) := by
  unfold State.argRecord
  repeat' first
    | (with_reducible assumption)
    | (with_reducible apply State.bankError_keeps)
    | (refine HOk2.get (State.scrRead_keeps ?_) (by with_reducible assumption))
    | (refine BankErr.of (HOk2.getE (State.scrRead_keeps ?_) (by with_reducible assumption)))
    | (with_reducible apply State.stopCore_keeps)
    | (with_reducible apply HOk2.ans)
    | (with_reducible apply HOk2.err)
    | (dsimp only)
    | split

/-- What `State.chainFault` can change. -/
theorem State.chainFault_keeps {P : State → Prop} [KChip P] [KFlint P] [KRegs P] [KRepair P]
    {s : State} {c : Nat} {f : Flight} {l : Load} (hs : Holds P s) : Holds P (State.chainFault s c f l) := by
  unfold State.chainFault
  repeat' first
    | (with_reducible assumption)
    | (with_reducible apply State.report_keeps)
    | (with_reducible apply State.stopLoad_keeps)
    | (with_reducible apply State.stopPass_keeps)
    | (with_reducible apply Holds.foldl)
    | (intro _)
    | (with_reducible apply Holds.ite)
    | split

/-- What `State.stopStream` can change. -/
theorem State.stopStream_keeps {P : State → Prop} [KChip P] [KFlint P] [KRegs P] [KRepair P]
    {s : State} {id code : Nat} (hs : Holds P s) : Holds P (State.stopStream s id code) := by
  unfold State.stopStream
  repeat' first
    | (with_reducible assumption)
    | (with_reducible apply State.chainFault_keeps)
    | (with_reducible apply State.coreFault_keeps)
    | (with_reducible apply State.modStream_keeps)
    | (with_reducible apply State.report_keeps)
    | (with_reducible apply State.setBit_keeps)
    | (with_reducible apply State.setField_keeps)
    | (with_reducible apply State.stopColls_keeps)
    | (with_reducible apply State.stopPass_keeps)
    | (with_reducible apply Holds.foldl)
    | (intro _)
    | (with_reducible apply Holds.ite)
    | split

/-- What `State.faultStream` can change. -/
theorem State.faultStream_keeps {P : State → Prop} [KChip P] [KFlint P] [KRegs P] [KRepair P]
    {s : State} {id code : Nat} (hs : Holds P s) : Holds P (State.faultStream s id code) := by
  unfold State.faultStream
  repeat' first
    | (with_reducible assumption)
    | (with_reducible apply State.stopStream_keeps)
    | (with_reducible apply Holds.foldl)
    | (intro _)
    | (with_reducible apply Holds.ite)

/-- What `issueDrain` can change. -/
theorem issueDrain_keeps {P : State → Prop} [KChip P] [KFlint P] [KRegs P] [KRepair P]
    {c : Nat} {s : State} {w : Word64} (hs : Holds P s) : Holds P (issueDrain c s w) := by
  unfold issueDrain
  repeat' first
    | (with_reducible assumption)
    | (refine HOk2.get (State.argRecord_keeps ?_) (by with_reducible assumption))
    | (refine HOk2.getE (State.argRecord_keeps ?_) (by with_reducible assumption))
    | (with_reducible apply State.holdAt_keeps)
    | (with_reducible apply State.modCore_keeps)
    | (intro _)
    | (with_reducible apply Holds.ite)
    | (dsimp only)
    | split

/-- What `issuePreload` can change. -/
theorem issuePreload_keeps {P : State → Prop} [KChip P] [KFlint P] [KRegs P] [KRepair P]
    {c : Nat} {s : State} {w : Word64} (hs : Holds P s) : Holds P (issuePreload c s w) := by
  unfold issuePreload
  repeat' first
    | (with_reducible assumption)
    | (refine HOk2.get (State.argRecord_keeps ?_) (by with_reducible assumption))
    | (refine HOk2.getE (State.argRecord_keeps ?_) (by with_reducible assumption))
    | (with_reducible apply State.holdAt_keeps)
    | (with_reducible apply State.modCore_keeps)
    | (intro _)
    | (with_reducible apply Holds.ite)
    | (dsimp only)
    | split

/-- What `issueLoad` can change. -/
theorem issueLoad_keeps {P : State → Prop} [KChip P] [KFlint P] [KRegs P] [KRepair P]
    {c : Nat} {s : State} {w : Word64} (hs : Holds P s) : Holds P (issueLoad c s w) := by
  unfold issueLoad
  repeat' first
    | (with_reducible assumption)
    | (refine HOk2.get (State.argRecord_keeps ?_) (by with_reducible assumption))
    | (refine HOk2.getE (State.argRecord_keeps ?_) (by with_reducible assumption))
    | (with_reducible apply State.holdAt_keeps)
    | (with_reducible apply State.launch_keeps)
    | (with_reducible apply State.modPlanes_keeps)
    | (intro _)
    | (with_reducible apply Holds.ite)
    | (dsimp only)
    | split

/-- What `issuePass` can change. -/
theorem issuePass_keeps {P : State → Prop} [KChip P] [KFlint P] [KRegs P] [KRepair P]
    {c : Nat} {s : State} {w : Word64} (hs : Holds P s) : Holds P (issuePass c s w) := by
  unfold issuePass
  repeat' first
    | (with_reducible assumption)
    | (refine HOk2.get (State.argRecord_keeps ?_) (by with_reducible assumption))
    | (refine HOk2.getE (State.argRecord_keeps ?_) (by with_reducible assumption))
    | (with_reducible apply State.holdAt_keeps)
    | (with_reducible apply State.launch_keeps)
    | (with_reducible apply State.modCore_keeps)
    | (with_reducible apply State.stopPass_keeps)
    | (intro _)
    | (with_reducible apply Holds.ite)
    | (dsimp only)
    | split

/-- What `State.readTile` can change. -/
theorem State.readTile_keeps {P : State → Prop} [KChip P] [KRegs P] [KRepair P]
    {s : State} {c : Nat} {l : Load} {i j : Nat} (hs : Holds P s) : HOk2 P (BankErr.has P) (State.readTile s c l i j) := by
  unfold State.readTile
  repeat' first
    | (with_reducible assumption)
    | (with_reducible apply State.scrRead_keeps)
    | (with_reducible apply HOk2.foldl)
    | (with_reducible apply HOk2.ite)
    | (with_reducible apply HOk2.ans)
    | (with_reducible apply HOk2.bindOk2)
    | (intro _)

/-- What `State.fillPlane` can change. -/
theorem State.fillPlane_keeps {P : State → Prop} [KChip P] [KRegs P] [KRepair P]
    {s : State} {c : Nat} {l : Load} {ij : Nat × Nat} (hs : Holds P s) : HOk P (BankErr.has P) (State.fillPlane s c l ij) := by
  unfold State.fillPlane
  repeat' first
    | (with_reducible assumption)
    | (with_reducible apply State.modPlanes_keeps)
    | (with_reducible apply State.readTile_keeps)
    | (with_reducible apply HOk2.ans)
    | (with_reducible apply HOk.ans)
    | (with_reducible apply HOk.bindOk2)
    | (intro _)
    | (dsimp only)
    | split

/-- What `State.fillPlanes` can change. -/
theorem State.fillPlanes_keeps {P : State → Prop} [KChip P] [KRegs P] [KRepair P]
    {s : State} {c : Nat} {l : Load} (hs : Holds P s) : HOk P (BankErr.has P) (State.fillPlanes s c l) := by
  unfold State.fillPlanes
  repeat' first
    | (with_reducible assumption)
    | (with_reducible apply State.fillPlane_keeps)
    | (with_reducible apply HOk.foldl)
    | (with_reducible apply HOk.ans)
    | (with_reducible apply HOk.bindOk)
    | (intro _)

/-- What `completeLoad` can change. -/
theorem completeLoad_keeps {P : State → Prop} [KChip P] [KFlint P] [KRegs P] [KRepair P]
    {c id : Nat} {s : State} (hs : Holds P s) : Holds P (completeLoad c id s) := by
  unfold completeLoad
  repeat' first
    | (with_reducible assumption)
    | (with_reducible apply State.bankError_keeps)
    | (refine HOk.get (State.fillPlanes_keeps ?_) (by with_reducible assumption))
    | (refine BankErr.of (HOk.getE (State.fillPlanes_keeps ?_) (by with_reducible assumption)))
    | (with_reducible apply State.retireFlight_keeps)
    | (intro _)
    | (with_reducible apply Holds.ite)
    | split

/-- What `State.takeRow` can change. -/
theorem State.takeRow_keeps {P : State → Prop} [KChip P]
    {s : State} {id size : Nat} (hs : Holds P s) : HOk2 P (RowStop.has P) (State.takeRow s id size) := by
  unfold State.takeRow
  repeat' first
    | (with_reducible assumption)
    | (with_reducible apply State.modStream_keeps)
    | (with_reducible exact RowStop.has_wait)
    | (with_reducible exact RowStop.has_size)
    | (with_reducible apply HOk2.ite)
    | (with_reducible apply HOk2.ans)
    | (with_reducible apply HOk2.err)
    | (intro _)
    | split

/-- What `State.rowRoom` can change. -/
theorem State.rowRoom_keeps {P : State → Prop} 
    {s : State} {id size : Nat} (hs : Holds P s) : HErr (RowStop.has P) (State.rowRoom s id size) := by
  unfold State.rowRoom
  repeat' first
    | (with_reducible exact RowStop.has_wait)
    | (with_reducible exact RowStop.has_size)
    | (with_reducible apply HErr.ite)
    | (with_reducible apply HErr.ans)
    | (with_reducible apply HErr.err)
    | (intro _)
    | (dsimp only)
    | split

/-- What `State.tileRoom` can change. -/
theorem State.tileRoom_keeps {P : State → Prop} 
    {s : State} {id size f b : Nat} (hs : Holds P s) : HErr (RowStop.has P) (State.tileRoom s id size f b) := by
  unfold State.tileRoom
  repeat' first
    | (with_reducible exact RowStop.has_size)
    | (with_reducible apply HErr.ite)
    | (with_reducible apply HErr.ans)
    | (with_reducible apply HErr.err)
    | (intro _)
    | (dsimp only)
    | split

/-- What a scratchpad access that may stop a row can change. -/
theorem bankStop_keeps {P : State → Prop} {α : Type} {x : Except BankErr (α × State)} (h : HOk2 P (BankErr.has P) x) : HOk2 P (RowStop.has P) (bankStop x) := by
  cases x with
  | error _ => exact HOk2.err (h.bad _ rfl)
  | ok a => exact HOk2.ans (h.out a.1 a.2 rfl)

/-- What a scratchpad write that may stop a row can change. -/
theorem bankStop_keeps' {P : State → Prop} {x : Except BankErr State} (h : HOk P (BankErr.has P) x) : HOk P (RowStop.has P) (bankStop x) := by
  cases x with
  | error _ => exact HOk.err (h.bad _ rfl)
  | ok a => exact HOk.ans (h.out a rfl)

/-- What `Pass.masked` can change. -/
theorem Pass.masked_keeps {P : State → Prop} [KChip P] [KRegs P] [KRepair P]
    {p : Pass} {s : State} {c m : Nat} (hs : Holds P s) : HOk2 P (RowStop.has P) (Pass.masked p s c m) := by
  unfold Pass.masked
  repeat' first
    | (with_reducible assumption)
    | (with_reducible apply bankStop_keeps)
    | (with_reducible apply State.scrRead_keeps)
    | (with_reducible apply HOk2.ite)
    | (with_reducible apply HOk2.ans)
    | (with_reducible apply HOk2.bindOk2)
    | (intro _)

/-- What `State.readRow` can change. -/
theorem State.readRow_keeps {P : State → Prop} [KChip P] [KRegs P] [KRepair P]
    {s : State} {c : Nat} {r : Ref} {f m blocks : Nat} (hs : Holds P s) : HOk2 P (BankErr.has P) (State.readRow s c r f m blocks) := by
  unfold State.readRow
  repeat' first
    | (with_reducible assumption)
    | (with_reducible apply State.readBlock_keeps)
    | (with_reducible apply HOk2.foldl)
    | (with_reducible apply HOk2.ans)
    | (with_reducible apply HOk2.bindOk2)
    | (intro _)

/-- What `Pass.feed` can change. -/
theorem Pass.feed_keeps {P : State → Prop} [KChip P] [KRegs P] [KRepair P]
    {p : Pass} {s : State} {c m : Nat} (hs : Holds P s) : HOk3 P (RowStop.has P) (Pass.feed p s c m) := by
  unfold Pass.feed
  repeat' first
    | (with_reducible assumption)
    | (with_reducible apply bankStop_keeps)
    | (with_reducible apply State.readRow_keeps)
    | (with_reducible apply State.takeRow_keeps)
    | (with_reducible apply HOk3.ans)
    | (with_reducible apply HOk3.bindOk2)
    | (intro _)
    | (dsimp only)
    | split

/-- What `Pass.preloadRow` can change. -/
theorem Pass.preloadRow_keeps {P : State → Prop} [KChip P] [KRegs P] [KRepair P]
    {p : Pass} {s : State} {c m : Nat} (hs : Holds P s) : HOk3 P (RowStop.has P) (Pass.preloadRow p s c m) := by
  unfold Pass.preloadRow
  repeat' first
    | (with_reducible assumption)
    | (with_reducible apply bankStop_keeps)
    | (with_reducible apply State.readRow_keeps)
    | (with_reducible apply State.takeRow_keeps)
    | (with_reducible apply HOk3.ans)
    | (with_reducible apply HOk3.bindOk2)
    | (intro _)
    | (dsimp only)
    | split

/-- What `Pass.storeBlock` can change. -/
theorem Pass.storeBlock_keeps {P : State → Prop} [KChip P] [KRegs P] [KRepair P]
    {p : Pass} {s : State} {c m b : Nat} {es : List Elem} (hs : Holds P s) : HOk4 P (RowStop.has P) (Pass.storeBlock p s c m b es) := by
  unfold Pass.storeBlock
  repeat' first
    | (with_reducible assumption)
    | (with_reducible apply bankStop_keeps)
    | (with_reducible apply State.readBlock_keeps)
    | (with_reducible apply State.writeBlock_keeps)
    | (with_reducible exact RowStop.has_entry)
    | (with_reducible apply HOk2.ans)
    | (with_reducible apply HOk4.ite)
    | (with_reducible apply HOk4.ans)
    | (with_reducible apply HOk4.err)
    | (with_reducible apply HOk4.bindOk2)
    | (intro _)
    | (dsimp only)
    | split

/-- What `Pass.closeTile` can change. -/
theorem Pass.closeTile_keeps {P : State → Prop} [KChip P] [KDevFlips P] [KDevmem P] [KDies P] [KFlint P] [KFresh P] [KHosts P] [KMems P] [KOports P] [KRegs P] [KRepair P] [KSent P]
    {p : Pass} {s : State} {c : Nat} {fl : Flight} {t : Nat} (hs : Holds P s) : HOk P (RowStop.has P) (Pass.closeTile p s c fl t) := by
  unfold Pass.closeTile
  repeat' first
    | (with_reducible assumption)
    | (with_reducible apply bankStop_keeps')
    | (with_reducible apply State.digest_keeps)
    | (with_reducible apply State.engineBits_keeps)
    | (with_reducible apply State.modStream_keeps)
    | (with_reducible apply State.writeEntry_keeps)
    | (with_reducible apply HOk.foldl)
    | (with_reducible apply HOk.ans)
    | (with_reducible apply HOk.bindOk)
    | (intro _)
    | (with_reducible apply Holds.ite)
    | split

/-- What `Pass.rowDone` can change. -/
theorem Pass.rowDone_keeps {P : State → Prop} [KChip P] [KDevFlips P] [KDevmem P] [KDies P] [KFlint P] [KFresh P] [KHosts P] [KMems P] [KOports P] [KRegs P] [KRepair P] [KSent P]
    {p : Pass} {s : State} {c : Nat} {fl : Flight} {m : Nat} (hs : Holds P s) : HOk2 P (RowStop.has P) (Pass.rowDone p s c fl m) := by
  unfold Pass.rowDone
  repeat' first
    | (with_reducible assumption)
    | (with_reducible apply Pass.closeTile_keeps)
    | (with_reducible apply HOk2.ite)
    | (with_reducible apply HOk2.ans)
    | (with_reducible apply HOk2.bindOk)
    | (intro _)

/-- What `Pass.row` can change. -/
theorem Pass.row_keeps {P : State → Prop} [KChip P] [KDevFlips P] [KDevmem P] [KDies P] [KFlint P] [KFresh P] [KHosts P] [KMems P] [KOports P] [KRegs P] [KRepair P] [KSent P]
    {p : Pass} {s : State} {c : Nat} {fl : Flight} (hs : Holds P s) : HOk3 P (RowStop.has P) (Pass.row p s c fl) := by
  unfold Pass.row
  repeat' first
    | (with_reducible assumption)
    | (with_reducible apply Pass.feed_keeps)
    | (with_reducible apply Pass.masked_keeps)
    | (with_reducible apply Pass.preloadRow_keeps)
    | (with_reducible apply Pass.rowDone_keeps)
    | (with_reducible apply Pass.storeBlock_keeps)
    | (with_reducible apply State.modStream_keeps)
    | (with_reducible apply State.rowRoom_keeps)
    | (with_reducible apply State.tileRoom_keeps)
    | (with_reducible exact RowStop.has_wait)
    | (with_reducible apply HErr.ans)
    | (with_reducible apply HErr.err)
    | (with_reducible apply HErr.foldlM)
    | (with_reducible apply HErr.bindX)
    | (with_reducible apply HOk3.foldl)
    | (with_reducible apply HOk3.ite)
    | (with_reducible apply HOk3.ans)
    | (with_reducible apply HOk3.bindOk2)
    | (with_reducible apply HOk3.bindOk3)
    | (with_reducible apply HOk3.bindOk4)
    | (with_reducible apply HOk3.bindX)
    | (intro _)
    | (with_reducible apply Holds.ite)
    | (dsimp only)
    | split

/-- What `Pass.rowsUpTo` can change. -/
theorem Pass.rowsUpTo_keeps {P : State → Prop} [KChip P] [KDevFlips P] [KDevmem P] [KDies P] [KFlint P] [KFresh P] [KHosts P] [KMems P] [KOports P] [KRegs P] [KRepair P] [KSent P]
    {c : Nat} {fl : Flight} {x2 x3 : Nat} {x4 : Pass} {x5 : State} (hs : Holds P x5) : HOk3 P (RowStop.has P) (Pass.rowsUpTo c fl x2 x3 x4 x5) := by
  induction x2 generalizing x3 x4 x5 with
  | zero =>
    unfold Pass.rowsUpTo
    repeat' first
      | (with_reducible assumption)
      | (with_reducible apply HOk3.ans)
  | succ _ ih =>
    unfold Pass.rowsUpTo
    repeat' first
      | (with_reducible assumption)
      | (with_reducible apply ih)
      | (with_reducible apply Pass.row_keeps)
      | (with_reducible apply HOk3.ite)
      | (with_reducible apply HOk3.ans)
      | (with_reducible apply HOk3.bindOk3)
      | (intro _)

/-- What `State.putPass` can change. -/
theorem State.putPass_keeps {P : State → Prop} [KChip P]
    {s : State} {c id : Nat} {p : Pass} (hs : Holds P s) : Holds P (State.putPass s c id p) := by
  unfold State.putPass
  repeat' first
    | (with_reducible assumption)
    | (with_reducible apply State.modFlight_keeps)

/-- What `State.rowWait` can change. -/
theorem State.rowWait_keeps {P : State → Prop} [KChip P] [KRegs P]
    {s : State} {c : Nat} {fl : Flight} {p : Pass} {blocks : List Nat} (hs : Holds P s) : Holds P (State.rowWait s c fl p blocks) := by
  unfold State.rowWait
  repeat' first
    | (with_reducible assumption)
    | (with_reducible apply State.engineBits_keeps)
    | (with_reducible apply State.putPass_keeps)
    | (intro _)
    | (with_reducible apply Holds.ite)

/-- What `State.rowStop` can change. -/
theorem State.rowStop_keeps {P : State → Prop} [KChip P] [KFlint P] [KRegs P] [KRepair P]
    {s : State} {c : Nat} {fl : Flight} {p : Pass} {x4 : RowStop} (hs : Holds P s) : Holds P (State.rowStop s c fl p x4) := by
  unfold State.rowStop
  repeat' first
    | (with_reducible assumption)
    | (with_reducible apply State.bankError_keeps)
    | (with_reducible apply State.faultStream_keeps)
    | (with_reducible apply State.keepFixes_keeps)
    | (with_reducible apply State.modFlight_keeps)
    | (with_reducible apply State.rowWait_keeps)
    | (with_reducible apply State.stopPass_keeps)
    | split

/-- What `Pass.drained` can change. -/
theorem Pass.drained_keeps {P : State → Prop} [KChip P] [KDevFlips P] [KDevmem P] [KDies P] [KFlint P] [KFresh P] [KHosts P] [KMems P] [KOports P] [KRegs P] [KRepair P] [KSent P]
    {c : Nat} {fl : Flight} {p : Pass} {s : State} {x4 : Nat} (hs : Holds P s) : HPair P (Pass.drained c fl p s x4) := by
  induction x4 with
  | zero =>
    unfold Pass.drained
    repeat' first
      | (with_reducible assumption)
      | (with_reducible apply HPair.ans)
  | succ _ ih =>
    unfold Pass.drained
    repeat' first
      | (with_reducible assumption)
      | (with_reducible refine HPair.proj ih)
      | (refine HOk3.get (Pass.rowsUpTo_keeps ?_) (by with_reducible assumption))
      | (with_reducible apply State.putPass_keeps)
      | (with_reducible apply HPair.ans)
      | split

/-- What `State.keepRows` can change. -/
theorem State.keepRows_keeps {P : State → Prop} [KChip P]
    {s : State} {c : Nat} {fl : Flight} {p : Pass} {x : Pass × State} (hs : Holds P s) : Holds P (State.keepRows s c fl p x) := by
  unfold State.keepRows
  repeat' first
    | (with_reducible assumption)
    | (with_reducible apply State.modStream_keeps)
    | (with_reducible apply State.putPass_keeps)
    | (with_reducible apply Holds.foldl)
    | (intro _)

/-- What `State.beat` can change. -/
theorem State.beat_keeps {P : State → Prop} [KChip P] [KDevFlips P] [KDevmem P] [KDies P] [KFlint P] [KFresh P] [KHosts P] [KMems P] [KOports P] [KRegs P] [KRepair P] [KSent P]
    {s : State} {c : Nat} {fl : Flight} {p : Pass} (hs : Holds P s) : Holds P (State.beat s c fl p) := by
  unfold State.beat
  repeat' first
    | (with_reducible assumption)
    | (with_reducible refine HPair.proj (Pass.drained_keeps ?_))
    | (refine HOk3.get (Pass.rowsUpTo_keeps ?_) (by with_reducible assumption))
    | (with_reducible apply State.keepRows_keeps)
    | (with_reducible apply State.putPass_keeps)
    | (with_reducible apply State.rowStop_keeps)
    | (intro _)
    | (with_reducible apply Holds.ite)
    | (dsimp only)
    | split

/-- What `State.askHandover` can change. -/
theorem State.askHandover_keeps {P : State → Prop} [KRepair P]
    {s : State} {c e : Nat} (hs : Holds P s) : Holds P (State.askHandover s c e) := by
  unfold State.askHandover
  repeat' first
    | (with_reducible assumption)
    | (with_reducible apply State.modRepair_keeps)
    | (intro _)
    | (with_reducible apply Holds.ite)

/-- What `State.engineCorrected` can change. -/
theorem State.engineCorrected_keeps {P : State → Prop} [KRegs P] [KRepair P]
    {s : State} {c e : Nat} (hs : Holds P s) : Holds P (State.engineCorrected s c e) := by
  unfold State.engineCorrected
  repeat' first
    | (with_reducible assumption)
    | (with_reducible apply State.askHandover_keeps)
    | (with_reducible apply State.bump_keeps)
    | (with_reducible apply State.modRepair_keeps)
    | (intro _)
    | (with_reducible apply Holds.ite)

/-- What `State.retireEngine` can change. -/
theorem State.retireEngine_keeps {P : State → Prop} [KHosts P] [KRegs P] [KRepair P] [KSent P]
    {s : State} {c e : Nat} (hs : Holds P s) : Holds P (State.retireEngine s c e) := by
  unfold State.retireEngine
  repeat' first
    | (with_reducible assumption)
    | (with_reducible apply State.capability_keeps)
    | (with_reducible apply State.mapEntry_keeps)
    | (with_reducible apply State.modRepair_keeps)
    | (with_reducible apply State.summary_keeps)
    | (intro _)
    | (with_reducible apply Holds.ite)

/-- What `State.beatWith` can change. -/
theorem State.beatWith_keeps {P : State → Prop} [KChip P] [KDevFlips P] [KDevmem P] [KDies P] [KFlint P] [KFresh P] [KHosts P] [KMems P] [KOports P] [KRegs P] [KRepair P] [KSent P]
    {s : State} {c : Nat} {fl : Flight} {p : Pass} {x4 : Upset} (hs : Holds P s) : Holds P (State.beatWith s c fl p x4) := by
  unfold State.beatWith
  repeat' first
    | (with_reducible assumption)
    | (with_reducible apply State.beat_keeps)
    | (with_reducible apply State.engineBits_keeps)
    | (with_reducible apply State.engineCorrected_keeps)
    | (with_reducible apply State.modChip_keeps)
    | (with_reducible apply State.modPlanes_keeps)
    | (with_reducible apply State.putPass_keeps)
    | (with_reducible apply State.retireEngine_keeps)
    | (with_reducible apply State.stopPass_keeps)
    | (intro _)
    | (with_reducible apply Holds.ite)
    | (dsimp only)
    | split

/-- What `completePass` can change. -/
theorem completePass_keeps {P : State → Prop} [KChip P] [KDevFlips P] [KDevmem P] [KDies P] [KFlint P] [KFresh P] [KHosts P] [KMems P] [KOports P] [KRegs P] [KRepair P] [KSent P]
    {c id : Nat} {s : State} (hs : Holds P s) : Holds P (completePass c id s) := by
  unfold completePass
  repeat' first
    | (with_reducible assumption)
    | (refine HOk3.get (Pass.rowsUpTo_keeps ?_) (by with_reducible assumption))
    | (with_reducible apply State.feed_keeps)
    | (with_reducible apply State.retireFlight_keeps)
    | (with_reducible apply State.rowStop_keeps)
    | (intro _)
    | (with_reducible apply Holds.ite)
    | (dsimp only)
    | split

/-- What `execWeightLoad` can change. -/
theorem execWeightLoad_keeps {P : State → Prop} [KChip P] [KDies P] [KFlint P] [KFresh P] [KHosts P] [KMems P] [KOports P] [KRegs P] [KRepair P] [KSent P]
    {core : Nat} {s : State} (hs : Holds P s) : HNext P (execWeightLoad core s) := by
  unfold execWeightLoad
  repeat' first
    | (with_reducible assumption)
    | (with_reducible apply State.issue_keeps)
    | (with_reducible apply issueLoad_keeps)
    | (with_reducible apply HNext.ans)

/-- What `execWeightLoadComplete` can change. -/
theorem execWeightLoadComplete_keeps {P : State → Prop} [KChip P] [KFlint P] [KRegs P] [KRepair P]
    {core id : Nat} {s : State} (hs : Holds P s) : HNext P (execWeightLoadComplete core id s) := by
  unfold execWeightLoadComplete
  repeat' first
    | (with_reducible assumption)
    | (with_reducible apply completeLoad_keeps)
    | (with_reducible apply HNext.ans)

/-- What `execPreload` can change. -/
theorem execPreload_keeps {P : State → Prop} [KChip P] [KDies P] [KFlint P] [KFresh P] [KHosts P] [KMems P] [KOports P] [KRegs P] [KRepair P] [KSent P]
    {core : Nat} {s : State} (hs : Holds P s) : HNext P (execPreload core s) := by
  unfold execPreload
  repeat' first
    | (with_reducible assumption)
    | (with_reducible apply State.issue_keeps)
    | (with_reducible apply issuePreload_keeps)
    | (with_reducible apply HNext.ans)

/-- What `execDrain` can change. -/
theorem execDrain_keeps {P : State → Prop} [KChip P] [KDies P] [KFlint P] [KFresh P] [KHosts P] [KMems P] [KOports P] [KRegs P] [KRepair P] [KSent P]
    {core : Nat} {s : State} (hs : Holds P s) : HNext P (execDrain core s) := by
  unfold execDrain
  repeat' first
    | (with_reducible assumption)
    | (with_reducible apply State.issue_keeps)
    | (with_reducible apply issueDrain_keeps)
    | (with_reducible apply HNext.ans)

/-- What `execStreamRows` can change. -/
theorem execStreamRows_keeps {P : State → Prop} [KChip P] [KDies P] [KFlint P] [KFresh P] [KHosts P] [KMems P] [KOports P] [KRegs P] [KRepair P] [KSent P]
    {core : Nat} {s : State} (hs : Holds P s) : HNext P (execStreamRows core s) := by
  unfold execStreamRows
  repeat' first
    | (with_reducible assumption)
    | (with_reducible apply State.issue_keeps)
    | (with_reducible apply issuePass_keeps)
    | (with_reducible apply HNext.ans)

/-- What `execEngineBeat` can change. -/
theorem execEngineBeat_keeps {P : State → Prop} [KChip P] [KDevFlips P] [KDevmem P] [KDies P] [KFlint P] [KFresh P] [KHosts P] [KMems P] [KOports P] [KRegs P] [KRepair P] [KSent P]
    {core id : Nat} {upset : Upset} {s : State} (hs : Holds P s) : HNext P (execEngineBeat core id upset s) := by
  unfold execEngineBeat
  repeat' first
    | (with_reducible assumption)
    | (with_reducible apply State.beatWith_keeps)
    | (with_reducible apply State.stir_keeps)
    | (with_reducible apply HNext.ans)
    | split

/-- What `execPassComplete` can change. -/
theorem execPassComplete_keeps {P : State → Prop} [KChip P] [KDevFlips P] [KDevmem P] [KDies P] [KFlint P] [KFresh P] [KHosts P] [KMems P] [KOports P] [KRegs P] [KRepair P] [KSent P]
    {core id : Nat} {s : State} (hs : Holds P s) : HNext P (execPassComplete core id s) := by
  unfold execPassComplete
  repeat' first
    | (with_reducible assumption)
    | (with_reducible apply completePass_keeps)
    | (with_reducible apply HNext.ans)

/-- What `execEngineWatchdogExpiry` can change. -/
theorem execEngineWatchdogExpiry_keeps {P : State → Prop} [KChip P] [KFlint P] [KHosts P] [KRegs P] [KRepair P] [KSent P]
    {core engine : Nat} {s : State} (hs : Holds P s) : HNext P (execEngineWatchdogExpiry core engine s) := by
  unfold execEngineWatchdogExpiry
  repeat' first
    | (with_reducible assumption)
    | (with_reducible apply State.retireEngine_keeps)
    | (with_reducible apply State.stopPass_keeps)
    | (with_reducible apply HNext.ans)
    | (intro _)
    | (with_reducible apply Holds.ite)
    | (dsimp only)
    | split

/-- What `State.engineHandover` can change. -/
theorem State.engineHandover_keeps {P : State → Prop} [KChip P] [KFlint P] [KFresh P] [KHosts P] [KRegs P] [KRepair P] [KSent P]
    {s : State} {c e : Nat} {x y : CopiedPlane} (hs : Holds P s) : Holds P (State.engineHandover s c e x y) := by
  unfold State.engineHandover
  repeat' first
    | (with_reducible assumption)
    | (with_reducible apply State.bump_keeps)
    | (with_reducible apply State.logEvent_keeps)
    | (with_reducible apply State.mapEntry_keeps)
    | (with_reducible apply State.modPlanes_keeps)
    | (with_reducible apply State.modRepair_keeps)
    | (with_reducible apply State.summary_keeps)
    | (intro _)
    | (with_reducible apply Holds.ite)

/-- What `execEngineHandover` can change. -/
theorem execEngineHandover_keeps {P : State → Prop} [KChip P] [KFlint P] [KFresh P] [KHosts P] [KRegs P] [KRepair P] [KSent P]
    {core engine : Nat} {plane0 plane1 : CopiedPlane} {s : State} (hs : Holds P s) : HNext P (execEngineHandover core engine plane0 plane1 s) := by
  unfold execEngineHandover
  repeat' first
    | (with_reducible assumption)
    | (with_reducible apply State.engineHandover_keeps)
    | (with_reducible apply HNext.ans)

/-- What `Run.store` can change. -/
theorem Run.store_keeps {P : State → Prop} 
    {r : Run} {k : Sink} {es : List Elem} {us : Nat → Word32} {put : State → Stored → Except BankErr (Rec × State)} (hs : Holds P r.s) (hput : ∀ s st, Holds P s → HOk2 P (BankErr.has P) (put s st)) : Holds P (Run.store r k es us put).s := by
  unfold Run.store
  dsimp only
  split
  · exact (hput _ _ hs).get (by assumption)
  · exact (hput _ _ hs).getE (by assumption)

/-- What `Run.close` can change. -/
theorem Run.close_keeps {P : State → Prop} [KChip P] [KDevFlips P] [KDevmem P] [KDies P] [KFlint P] [KFresh P] [KHosts P] [KMems P] [KOports P] [KRegs P] [KRepair P] [KSent P]
    {r : Run} {k : Sink} {fl : Flight} {t b : Nat} (hs : Holds P r.s) : Holds P (Run.close r k fl t b).s := by
  unfold Run.close
  repeat' first
    | (with_reducible assumption)
    | (with_reducible apply State.digest_keeps)

/-- What `Run.rowBlock` can change. -/
theorem Run.rowBlock_keeps {P : State → Prop} [KChip P] [KRegs P] [KRepair P]
    {k : Sink} {src : State → Nat → Nat → Except BankErr (List Elem × State)} {r : Run} {m b : Nat} (hs : Holds P r.s) (hf : ∀ s m b, Holds P s → HOk2 P (BankErr.has P) (src s m b)) : Holds P (Run.rowBlock k src r m b).s := by
  unfold Run.rowBlock
  split
  · exact hs
  · split
    · exact (hf _ _ _ hs).getE (by assumption)
    · exact Run.store_keeps ((hf _ _ _ hs).get (by assumption)) fun _ _ h => State.writeBlock_keeps h

/-- What `Run.rowForm` can change. -/
theorem Run.rowForm_keeps {P : State → Prop} [KChip P] [KDevFlips P] [KDevmem P] [KDies P] [KFlint P] [KFresh P] [KHosts P] [KMems P] [KOports P] [KRegs P] [KRepair P] [KSent P]
    {k : Sink} {fl : Flight} {src : State → Nat → Nat → Except BankErr (List Elem × State)} {r : Run} (hs : Holds P r.s) (hf : ∀ s m b, Holds P s → HOk2 P (BankErr.has P) (src s m b)) : Holds P (Run.rowForm k fl src r).s := by
  unfold Run.rowForm
  refine foldl_keeps (Q := fun r => Holds P r.s) (fun r t h => ?_) _ r hs
  refine foldl_keeps (Q := fun r => Holds P r.s) (fun r b h => ?_) _ r h
  have h1 := foldl_keeps (Q := fun r => Holds P r.s) (g := fun r i => Run.rowBlock k src r (64 * t + i) b)
    (fun r i h => Run.rowBlock_keeps h hf) (List.range (present k.rows t)) r h
  dsimp only
  split
  · exact h1
  · exact Run.close_keeps h1

/-- What `Run.colForm` can change. -/
theorem Run.colForm_keeps {P : State → Prop} [KChip P] [KDevFlips P] [KDevmem P] [KDies P] [KFlint P] [KFresh P] [KHosts P] [KMems P] [KOports P] [KRegs P] [KRepair P] [KSent P]
    {k : Sink} {fl : Flight} {src : State → Nat → Except BankErr (Elem × State)} {r : Run} (hs : Holds P r.s) (hf : ∀ s m, Holds P s → HOk2 P (BankErr.has P) (src s m)) : Holds P (Run.colForm k fl src r).s := by
  unfold Run.colForm
  refine foldl_keeps (Q := fun r => Holds P r.s) (fun r t h => ?_) _ r hs
  dsimp only
  split
  · exact h
  · have h1 := foldl_keeps (Q := fun (x : Run × List Elem) => Holds P x.1.s)
      (g := fun (x : Run × List Elem) (i : Nat) => if x.1.dead.isSome = true then x
        else match src x.1.s (64 * t + i) with
          | .error b => (({ x.1 with s := b.s, dead := some b.bank } : Run), x.2)
          | .ok (e, s) => (({ x.1 with s := s } : Run), x.2 ++ [e]))
      (fun x i h => by
        dsimp only
        split
        · exact h
        · split
          · exact (hf _ _ h).getE (by assumption)
          · exact (hf _ _ h).get (by assumption)) (List.range (present k.rows t)) (r, []) h
    split
    · exact h1
    · split
      · exact Run.store_keeps h1 fun _ _ h => State.writeColBlock_keeps h
      · exact Run.close_keeps (Run.store_keeps h1 fun _ _ h => State.writeColBlock_keeps h)

/-- What `usedBefore` can change. -/
theorem usedBefore_keeps {P : State → Prop} [KChip P] [KRegs P] [KRepair P]
    {c : Nat} {w : Word64} {rec : Rec} {s : State} {m b : Nat} (hs : Holds P s) : HErr (BankErr.has P) (usedBefore c w rec s m b) := by
  unfold usedBefore
  repeat' first
    | (with_reducible assumption)
    | (with_reducible refine HOk2.toErr (State.readBlock_keeps ?_))
    | (with_reducible apply HErr.ite)
    | (with_reducible apply HErr.ans)
    | (with_reducible apply HErr.foldlM)
    | (with_reducible apply HErr.bindX)
    | (intro _)

/-- What `vecSource` can change. -/
theorem vecSource_keeps {P : State → Prop} [KChip P] [KRegs P] [KRepair P]
    {c : Nat} {w : Word64} {rec : Rec} {s : State} {m b : Nat} (hs : Holds P s) : HOk2 P (BankErr.has P) (vecSource c w rec s m b) := by
  unfold vecSource
  repeat' first
    | (with_reducible assumption)
    | (with_reducible apply State.readBlock_keeps)
    | (with_reducible apply State.readCol_keeps)
    | (with_reducible apply usedBefore_keeps)
    | (with_reducible apply HOk2.ite)
    | (with_reducible apply HOk2.ans)
    | (with_reducible apply HOk2.bindOk2)
    | (with_reducible apply HOk2.bindX)
    | (intro _)

/-- What `State.readTables` can change. -/
theorem State.readTables_keeps {P : State → Prop} [KChip P] [KRegs P]
    {s : State} {c : Nat} {ws : List Nat} (hs : Holds P s) : HOk P (BankErr.has P) (State.readTables s c ws) := by
  unfold State.readTables
  repeat' first
    | (with_reducible assumption)
    | (refine HSome.get (State.readTable_keeps ?_) (by with_reducible assumption))
    | (with_reducible apply BankErr.has_mk)
    | (with_reducible apply HOk.ans)
    | (with_reducible apply HOk.foldlM)
    | (with_reducible apply HOk.err)
    | (intro _)
    | split

/-- What `funSource` can change. -/
theorem funSource_keeps {P : State → Prop} [KChip P] [KRegs P] [KRepair P]
    {c : Nat} {w : Word64} {rec : Rec} {s : State} {m b : Nat} (hs : Holds P s) : HOk2 P (BankErr.has P) (funSource c w rec s m b) := by
  unfold funSource
  repeat' first
    | (with_reducible assumption)
    | (with_reducible apply State.readBlock_keeps)
    | (with_reducible apply State.readTables_keeps)
    | (with_reducible apply HOk2.ite)
    | (with_reducible apply HOk2.ans)
    | (with_reducible apply HOk2.bindOk)
    | (with_reducible apply HOk2.bindOk2)
    | (intro _)

/-- What `redSource` can change. -/
theorem redSource_keeps {P : State → Prop} [KChip P] [KRegs P] [KRepair P]
    {c : Nat} {w : Word64} {rec : Rec} {s : State} {m : Nat} (hs : Holds P s) : HOk2 P (BankErr.has P) (redSource c w rec s m) := by
  unfold redSource
  repeat' first
    | (with_reducible assumption)
    | (with_reducible apply State.readBlock_keeps)
    | (with_reducible apply HOk2.ans)
    | (with_reducible apply HOk3.foldl)
    | (with_reducible apply HOk3.ite)
    | (with_reducible apply HOk3.ans)
    | (with_reducible apply HOk2.bindOk3)
    | (with_reducible apply HOk3.bindOk2)
    | (with_reducible apply HOk3.bindOk3)
    | (intro _)

/-- What `State.runUnit` can change. -/
theorem State.runUnit_keeps {P : State → Prop} [KChip P] [KDevFlips P] [KDevmem P] [KDies P] [KFlint P] [KFresh P] [KHosts P] [KMems P] [KOports P] [KRegs P] [KRepair P] [KSent P]
    {s : State} {c : Nat} {fl : Flight} (hs : Holds P s) : Holds P (State.runUnit s c fl) := by
  unfold State.runUnit
  repeat' first
    | (with_reducible assumption)
    | (with_reducible apply Run.colForm_keeps)
    | (with_reducible apply Run.rowForm_keeps)
    | (with_reducible apply State.bankError_keeps)
    | (with_reducible apply State.coreFault_keeps)
    | (with_reducible apply State.feed_keeps)
    | (with_reducible apply State.modFlight_keeps)
    | (with_reducible apply State.report_keeps)
    | (with_reducible apply State.stopFlight_keeps)
    | (with_reducible apply funSource_keeps)
    | (with_reducible apply redSource_keeps)
    | (with_reducible apply vecSource_keeps)
    | (intro _)
    | (with_reducible apply Holds.ite)
    | (dsimp only)
    | split

/-- What `issueUnit` can change. -/
theorem issueUnit_keeps {P : State → Prop} [KChip P] [KDevFlips P] [KDevmem P] [KDies P] [KFlint P] [KFresh P] [KHosts P] [KMems P] [KOports P] [KRegs P] [KRepair P] [KSent P]
    {c : Nat} {s : State} {w : Word64} (hs : Holds P s) : Holds P (issueUnit c s w) := by
  unfold issueUnit
  repeat' first
    | (with_reducible assumption)
    | (refine HOk2.get (State.argRecord_keeps ?_) (by with_reducible assumption))
    | (refine HOk2.getE (State.argRecord_keeps ?_) (by with_reducible assumption))
    | (with_reducible apply State.holdAt_keeps)
    | (with_reducible apply State.launch_keeps)
    | (with_reducible apply State.runUnit_keeps)
    | (dsimp only)
    | split

/-- What `State.reissue` can change. -/
theorem State.reissue_keeps {P : State → Prop} [KChip P] [KDevFlips P] [KDevmem P] [KDies P] [KFlint P] [KFresh P] [KHosts P] [KMems P] [KOports P] [KRegs P] [KRepair P] [KSent P]
    {s : State} {c : Nat} (hs : Holds P s) : Holds P (State.reissue s c) := by
  unfold State.reissue
  repeat' first
    | (with_reducible assumption)
    | (with_reducible apply State.issue_keeps)
    | (with_reducible apply issueDrain_keeps)
    | (with_reducible apply issueFence_keeps)
    | (with_reducible apply issueLoad_keeps)
    | (with_reducible apply issuePass_keeps)
    | (with_reducible apply issuePreload_keeps)
    | (with_reducible apply issueStepEnd_keeps)
    | (with_reducible apply issueUnit_keeps)
    | (intro _)
    | (with_reducible apply Holds.ite)
    | (dsimp only)
    | split

/-- What `State.copyWord` can change. -/
theorem State.copyWord_keeps {P : State → Prop} [KChip P] [KRegs P]
    {c : Nat} {s : State} {w : Nat} (hs : Holds P s) : Holds P (State.copyWord c s w) := by
  unfold State.copyWord
  repeat' first
    | (with_reducible assumption)
    | (with_reducible apply State.bump_keeps)
    | (with_reducible apply State.modChip_keeps)
    | split

/-- What `State.retireCore` can change. -/
theorem State.retireCore_keeps {P : State → Prop} [KHosts P] [KRegs P] [KRepair P] [KSent P]
    {s : State} {c : Nat} (hs : Holds P s) : Holds P (State.retireCore s c) := by
  unfold State.retireCore
  repeat' first
    | (with_reducible assumption)
    | (with_reducible apply State.capability_keeps)
    | (with_reducible apply State.mapEntry_keeps)
    | (with_reducible apply State.modRepair_keeps)
    | (with_reducible apply State.summary_keeps)
    | (intro _)
    | (with_reducible apply Holds.ite)

/-- What `State.substitute` can change. -/
theorem State.substitute_keeps {P : State → Prop} [KChip P] [KFlint P] [KFresh P] [KHosts P] [KRegs P] [KRepair P] [KSent P]
    {s : State} {c b l : Nat} (hs : Holds P s) : Holds P (State.substitute s c b l) := by
  unfold State.substitute
  repeat' first
    | (with_reducible assumption)
    | (with_reducible apply State.copyWord_keeps)
    | (with_reducible apply State.logEvent_keeps)
    | (with_reducible apply State.mapEntry_keeps)
    | (with_reducible apply State.modRepair_keeps)
    | (with_reducible apply State.retireCore_keeps)
    | (with_reducible apply State.summary_keeps)
    | (with_reducible apply Holds.foldl)
    | (intro _)
    | (with_reducible apply Holds.ite)

/-- What `execInstructionReleased` can change. -/
theorem execInstructionReleased_keeps {P : State → Prop} [KChip P] [KDevFlips P] [KDevmem P] [KDies P] [KFlint P] [KFresh P] [KHosts P] [KMems P] [KOports P] [KRegs P] [KRepair P] [KSent P]
    {core : Nat} {s : State} (hs : Holds P s) : HNext P (execInstructionReleased core s) := by
  unfold execInstructionReleased
  repeat' first
    | (with_reducible assumption)
    | (with_reducible apply State.reissue_keeps)
    | (with_reducible apply HNext.ans)

/-- What `execLineSubstitution` can change. -/
theorem execLineSubstitution_keeps {P : State → Prop} [KChip P] [KFlint P] [KFresh P] [KHosts P] [KRegs P] [KRepair P] [KSent P]
    {core bank line : Nat} {s : State} (hs : Holds P s) : HNext P (execLineSubstitution core bank line s) := by
  unfold execLineSubstitution
  repeat' first
    | (with_reducible assumption)
    | (with_reducible apply State.substitute_keeps)
    | (with_reducible apply HNext.ans)

/-- What `execVector` can change. -/
theorem execVector_keeps {P : State → Prop} [KChip P] [KDevFlips P] [KDevmem P] [KDies P] [KFlint P] [KFresh P] [KHosts P] [KMems P] [KOports P] [KRegs P] [KRepair P] [KSent P]
    {core : Nat} {s : State} (hs : Holds P s) : HNext P (execVector core s) := by
  unfold execVector
  repeat' first
    | (with_reducible assumption)
    | (with_reducible apply State.issue_keeps)
    | (with_reducible apply issueUnit_keeps)
    | (with_reducible apply HNext.ans)

/-- What `execFunction` can change. -/
theorem execFunction_keeps {P : State → Prop} [KChip P] [KDevFlips P] [KDevmem P] [KDies P] [KFlint P] [KFresh P] [KHosts P] [KMems P] [KOports P] [KRegs P] [KRepair P] [KSent P]
    {core : Nat} {s : State} (hs : Holds P s) : HNext P (execFunction core s) := by
  unfold execFunction
  repeat' first
    | (with_reducible assumption)
    | (with_reducible apply State.issue_keeps)
    | (with_reducible apply issueUnit_keeps)
    | (with_reducible apply HNext.ans)

/-- What `execRowReduction` can change. -/
theorem execRowReduction_keeps {P : State → Prop} [KChip P] [KDevFlips P] [KDevmem P] [KDies P] [KFlint P] [KFresh P] [KHosts P] [KMems P] [KOports P] [KRegs P] [KRepair P] [KSent P]
    {core : Nat} {s : State} (hs : Holds P s) : HNext P (execRowReduction core s) := by
  unfold execRowReduction
  repeat' first
    | (with_reducible assumption)
    | (with_reducible apply State.issue_keeps)
    | (with_reducible apply issueUnit_keeps)
    | (with_reducible apply HNext.ans)

/-- What `execInstructionComplete` can change. -/
theorem execInstructionComplete_keeps {P : State → Prop} [KChip P]
    {core id : Nat} {s : State} (hs : Holds P s) : HNext P (execInstructionComplete core id s) := by
  unfold execInstructionComplete
  repeat' first
    | (with_reducible assumption)
    | (with_reducible apply State.retireFlight_keeps)
    | (with_reducible apply HNext.ans)
    | split

/-- What `MoveStop.onState` can change. -/
theorem MoveStop.onState_keeps {P : State → Prop} 
    {f : State → State} {x1 : MoveStop}  (hf : ∀ s, Holds P s → Holds P (f s)) (hx : MoveStop.has P x1) : MoveStop.has P (MoveStop.onState f x1) := by
  cases x1 with
  | wait => exact MoveStop.has_wait
  | fault _ _ => exact hf _ hx
  | mem _ _ => exact hf _ hx
  | bank _ _ _ => exact hf _ hx
  | slot _ _ => exact hf _ hx

/-- What `State.closeSession` can change. -/
theorem State.closeSession_keeps {P : State → Prop} [KContexts P]
    {s : State} {port : Nat} (hs : Holds P s) : Holds P (State.closeSession s port) := by
  unfold State.closeSession
  repeat' first
    | (with_reducible assumption)
    | (with_reducible apply State.modResident_keeps)

/-- What `State.stopSealed` can change. -/
theorem State.stopSealed_keeps {P : State → Prop} [KChip P] [KFlint P] [KRegs P] [KRepair P]
    {s : State} {port : Nat} {but : Option Nat} (hs : Holds P s) : Holds P (State.stopSealed s port but) := by
  unfold State.stopSealed
  repeat' first
    | (with_reducible assumption)
    | (with_reducible apply State.stopStream_keeps)
    | (with_reducible apply Holds.foldl)
    | (intro _)

/-- What `State.streamFault` can change. -/
theorem State.streamFault_keeps {P : State → Prop} [KChip P] [KContexts P] [KFlint P] [KRegs P] [KRepair P]
    {s : State} {id code : Nat} (hs : Holds P s) : Holds P (State.streamFault s id code) := by
  unfold State.streamFault
  repeat' first
    | (with_reducible assumption)
    | (with_reducible apply State.closeSession_keeps)
    | (with_reducible apply State.faultStream_keeps)
    | (with_reducible apply State.stopSealed_keeps)
    | (with_reducible apply State.stopStream_keeps)
    | (intro _)
    | (with_reducible apply Holds.ite)
    | split

/-- What `State.spare` can change. -/
theorem State.spare_keeps {P : State → Prop} [KChip P]
    {s t : State} {id : Nat} (hs : Holds P s) : Holds P (State.spare s t id) := by
  unfold State.spare
  repeat' first
    | (with_reducible assumption)
    | (with_reducible apply State.modStream_keeps)

/-- What `State.streamStrike` can change. -/
theorem State.streamStrike_keeps {P : State → Prop} [KChip P] [KContexts P] [KFlint P] [KRegs P] [KRepair P]
    {s : State} {id code : Nat} (hs : Holds P s) : Holds P (State.streamStrike s id code) := by
  unfold State.streamStrike
  repeat' first
    | (with_reducible assumption)
    | (with_reducible apply State.spare_keeps)
    | (with_reducible apply State.streamFault_keeps)
    | (intro _)
    | (with_reducible apply Holds.ite)

/-- What `State.moveStop` can change. -/
theorem State.moveStop_keeps {P : State → Prop} [KChip P] [KContexts P] [KFlint P] [KHosts P] [KMems P] [KRegs P] [KRepair P] [KSent P]
    {s : State} {id : Nat} {x2 : MoveStop} (hs : Holds P s) (hf : MoveStop.has P x2) : Holds P (State.moveStop s id x2) := by
  unfold State.moveStop
  repeat' first
    | (with_reducible assumption)
    | (with_reducible apply State.bankError_keeps)
    | (with_reducible apply State.memFault_keeps)
    | (with_reducible apply State.modStream_keeps)
    | (with_reducible apply State.reportUnsound_keeps)
    | (with_reducible apply State.streamFault_keeps)
    | (with_reducible refine MoveStop.of_fault (by with_reducible assumption))
    | (with_reducible refine MoveStop.of_mem (by with_reducible assumption))
    | (with_reducible refine MoveStop.of_bank (by with_reducible assumption))
    | (with_reducible refine MoveStop.of_slot (by with_reducible assumption))
    | (intro _)
    | (with_reducible apply Holds.ite)
    | split

/-- What `State.rangesOk` can change. -/
theorem State.rangesOk_keeps {P : State → Prop} 
    {s : State} {write : Bool} {rs : List (Nat × Nat)} (hs : Holds P s) : HErr (MoveStop.has P) (State.rangesOk s write rs) := by
  unfold State.rangesOk
  repeat' first
    | (with_reducible assumption)
    | (with_reducible apply MoveStop.has_wait)
    | (with_reducible apply MoveStop.has_fault)
    | (with_reducible apply HErr.ite)
    | (with_reducible apply HErr.ans)
    | (with_reducible apply HErr.err)
    | (intro _)
    | (dsimp only)
    | split

/-- What `State.moveRead` can change. -/
theorem State.moveRead_keeps {P : State → Prop} [KChip P] [KDevFlips P] [KDevmem P] [KDies P] [KFlint P] [KFresh P] [KHosts P] [KMems P] [KOports P] [KRegs P] [KRepair P] [KSent P]
    {s : State} {kind a n : Nat} (hs : Holds P s) : HOk2 P (MoveStop.has P) (State.moveRead s kind a n) := by
  unfold State.moveRead
  repeat' first
    | (with_reducible assumption)
    | (refine HOk2.get (State.devRead_keeps ?_) (by with_reducible assumption))
    | (refine MemErr.of_dead (HOk2.getE (State.devRead_keeps ?_) (by with_reducible assumption)))
    | (refine HOk2.get (State.scrRead_keeps ?_) (by with_reducible assumption))
    | (refine BankErr.of (HOk2.getE (State.scrRead_keeps ?_) (by with_reducible assumption)))
    | (with_reducible apply State.stir_keeps)
    | (with_reducible apply MoveStop.has_wait)
    | (with_reducible apply MoveStop.has_fault)
    | (with_reducible apply HOk2.ite)
    | (with_reducible apply HOk2.ans)
    | (with_reducible apply HOk2.err)
    | (intro _)
    | (dsimp only)
    | split

/-- What `State.moveWrite` can change. -/
theorem State.moveWrite_keeps {P : State → Prop} [KChip P] [KDevFlips P] [KDevmem P] [KDies P] [KFlint P] [KFresh P] [KHosts P] [KMems P] [KOports P] [KRegs P] [KRepair P] [KSent P]
    {s : State} {kind a : Nat} {r : Rec} (hs : Holds P s) : HOk P (MoveStop.has P) (State.moveWrite s kind a r) := by
  unfold State.moveWrite
  repeat' first
    | (with_reducible assumption)
    | (refine HOk.get (State.devWrite_keeps ?_) (by with_reducible assumption))
    | (refine MemErr.of_dead (HOk.getE (State.devWrite_keeps ?_) (by with_reducible assumption)))
    | (refine HOk.get (State.scrWrite_keeps ?_) (by with_reducible assumption))
    | (refine BankErr.of (HOk.getE (State.scrWrite_keeps ?_) (by with_reducible assumption)))
    | (with_reducible apply State.stir_keeps)
    | (with_reducible apply MoveStop.has_wait)
    | (with_reducible apply MoveStop.has_fault)
    | (with_reducible apply HOk.ite)
    | (with_reducible apply HOk.ans)
    | (with_reducible apply HOk.err)
    | (intro _)
    | (dsimp only)
    | split

/-- What `State.readRow1` can change. -/
theorem State.readRow1_keeps {P : State → Prop} [KChip P] [KDevFlips P] [KDevmem P] [KDies P] [KFlint P] [KFresh P] [KHosts P] [KMems P] [KOports P] [KRegs P] [KRepair P] [KSent P]
    {d : Side} {x : Xfer} {len k : Nat} {s : State} {j : Nat} (hs : Holds P s) : HOk2 P (MoveStop.has P) (State.readRow1 d x len k s j) := by
  unfold State.readRow1
  repeat' first
    | (with_reducible assumption)
    | (with_reducible apply State.moveRead_keeps)
    | (with_reducible apply HOk2.ite)
    | (with_reducible apply HOk2.ans)
    | (with_reducible apply HOk2.bindOk2)
    | (intro _)

/-- What `State.readRows` can change. -/
theorem State.readRows_keeps {P : State → Prop} [KChip P] [KDevFlips P] [KDevmem P] [KDies P] [KFlint P] [KFresh P] [KHosts P] [KMems P] [KOports P] [KRegs P] [KRepair P] [KSent P]
    {s : State} {d : Side} {x : Xfer} {len k : Nat} (hs : Holds P s) : HOk2 P (MoveStop.has P) (State.readRows s d x len k) := by
  unfold State.readRows
  repeat' first
    | (with_reducible assumption)
    | (with_reducible apply State.readRow1_keeps)
    | (with_reducible apply HOk2.foldl)
    | (with_reducible apply HOk2.ans)
    | (with_reducible apply HOk2.bindOk2)
    | (intro _)

/-- What `State.writeRow` can change. -/
theorem State.writeRow_keeps {P : State → Prop} [KChip P] [KDevFlips P] [KDevmem P] [KDies P] [KFlint P] [KFresh P] [KHosts P] [KMems P] [KOports P] [KRegs P] [KRepair P] [KSent P]
    {s : State} {d : Side} {x : Xfer} {k j : Nat} {row : Rec × Rec} (hs : Holds P s) : HOk P (MoveStop.has P) (State.writeRow s d x k j row) := by
  unfold State.writeRow
  repeat' first
    | (with_reducible assumption)
    | (with_reducible apply State.moveWrite_keeps)
    | (with_reducible apply HOk.ite)
    | (with_reducible apply HOk.ans)
    | (with_reducible apply HOk.bindOk)
    | (intro _)

/-- What `State.writeRows` can change. -/
theorem State.writeRows_keeps {P : State → Prop} [KChip P] [KDevFlips P] [KDevmem P] [KDies P] [KFlint P] [KFresh P] [KHosts P] [KMems P] [KOports P] [KRegs P] [KRepair P] [KSent P]
    {s : State} {d : Side} {x : Xfer} {k : Nat} {rows : List (Rec × Rec)} (hs : Holds P s) : HOk P (MoveStop.has P) (State.writeRows s d x k rows) := by
  unfold State.writeRows
  repeat' first
    | (with_reducible assumption)
    | (with_reducible apply State.writeRow_keeps)
    | (with_reducible apply HOk.foldl)
    | (with_reducible apply HOk.ans)
    | (with_reducible apply HOk.bindOk)
    | (intro _)

/-- What `State.arenaAdd` can change. -/
theorem State.arenaAdd_keeps {P : State → Prop} [KChip P]
    {s : State} {id sats vugs : Nat} (hs : Holds P s) : Holds P (State.arenaAdd s id sats vugs) := by
  unfold State.arenaAdd
  repeat' first
    | (with_reducible assumption)
    | (with_reducible apply State.modChip_keeps)

/-- What `State.absorb` can change. -/
theorem State.absorb_keeps {P : State → Prop} [KContexts P]
    {s : State} {i : Nat} {r : Rec} (hs : Holds P s) : Holds P (State.absorb s i r) := by
  unfold State.absorb
  repeat' first
    | (with_reducible assumption)
    | (with_reducible apply State.modResident_keeps)

/-- What `State.closeDigest` can change. -/
theorem State.closeDigest_keeps {P : State → Prop} [KContexts P]
    {s : State} {i : Nat} (hs : Holds P s) : Holds P (State.closeDigest s i) := by
  unfold State.closeDigest
  repeat' first
    | (with_reducible assumption)
    | (with_reducible apply State.modResident_keeps)

/-- What `State.askHost` can change. -/
theorem State.askHost_keeps {P : State → Prop} [KSent P]
    {s : State} {port a n : Nat} (hs : Holds P s) : Holds P (State.askHost s port a n) := by
  unfold State.askHost
  repeat' first
    | (with_reducible assumption)
    | (with_reducible apply State.emit_keeps)
    | (with_reducible apply Holds.foldl)
    | (intro _)

/-- What `State.toHost` can change. -/
theorem State.toHost_keeps {P : State → Prop} [KSent P]
    {s : State} {port a : Nat} {r : Rec} (hs : Holds P s) : Holds P (State.toHost s port a r) := by
  unfold State.toHost
  repeat' first
    | (with_reducible assumption)
    | (with_reducible apply State.emit_keeps)
    | (with_reducible apply Holds.foldl)
    | (intro _)

/-- What `State.countRecords` can change. -/
theorem State.countRecords_keeps {P : State → Prop} [KContexts P]
    {s : State} {port id : Nat} {f : Nat × Nat → Nat × Nat} (hs : Holds P s) : Holds P (State.countRecords s port id f) := by
  unfold State.countRecords
  repeat' first
    | (with_reducible assumption)
    | (with_reducible apply State.modResident_keeps)

/-- What `State.sendRow` can change. -/
theorem State.sendRow_keeps {P : State → Prop} [KContexts P] [KSent P]
    {s : State} {id : Nat} {e : Rec} {x : Xfer} {k j : Nat} {row : Rec × Rec} (hs : Holds P s) : Holds P (State.sendRow s id e x k j row) := by
  unfold State.sendRow
  repeat' first
    | (with_reducible assumption)
    | (with_reducible apply State.countRecords_keeps)
    | (with_reducible apply State.toHost_keeps)
    | (with_reducible apply Holds.foldl)
    | (intro _)
    | (with_reducible apply Holds.ite)
    | (dsimp only)
    | split

/-- What `State.askRows` can change. -/
theorem State.askRows_keeps {P : State → Prop} [KChip P] [KContexts P] [KSent P]
    {s : State} {id : Nat} {e : Rec} {x : Xfer} {k : Nat} (hs : Holds P s) : Holds P (State.askRows s id e x k) := by
  unfold State.askRows
  repeat' first
    | (with_reducible assumption)
    | (with_reducible apply State.askHost_keeps)
    | (with_reducible apply State.countRecords_keeps)
    | (with_reducible apply State.modStream_keeps)
    | (with_reducible apply Holds.foldl)
    | (intro _)
    | (with_reducible apply Holds.ite)

/-- What `State.readSlot` can change. -/
theorem State.readSlot_keeps {P : State → Prop} [KDevFlips P] [KDevmem P] [KDies P] [KFlint P] [KFresh P] [KHosts P] [KMems P] [KOports P] [KRegs P] [KSent P]
    {s : State} {id : Nat} {e : Rec} {slot : Nat} (hs : Holds P s) : HOk2 P (MoveStop.has P) (State.readSlot s id e slot) := by
  unfold State.readSlot
  repeat' first
    | (with_reducible assumption)
    | (refine HOk2.get (State.devRead_keeps ?_) (by with_reducible assumption))
    | (refine MemErr.of_dead (HOk2.getE (State.devRead_keeps ?_) (by with_reducible assumption)))
    | (refine HErr.getE (State.rangesOk_keeps ?_) (by with_reducible assumption))
    | (with_reducible apply MoveStop.has_fault)
    | (with_reducible apply HOk2.ite)
    | (with_reducible apply HOk2.ans)
    | (with_reducible apply HOk2.err)
    | (intro _)
    | (dsimp only)
    | split

/-- What `State.fetchSlots` can change. -/
theorem State.fetchSlots_keeps {P : State → Prop} [KChip P] [KContexts P] [KDevFlips P] [KDevmem P] [KDies P] [KFlint P] [KFresh P] [KHosts P] [KMems P] [KOports P] [KRegs P] [KRepair P] [KSent P]
    {id : Nat} {e : Rec} {x2 : Nat} {x3 : State} (hs : Holds P x3) : Holds P (State.fetchSlots id e x2 x3) := by
  induction x2 generalizing x3 with
  | zero =>
    unfold State.fetchSlots
    repeat' first
      | (with_reducible assumption)
  | succ _ ih =>
    unfold State.fetchSlots
    repeat' first
      | (with_reducible assumption)
      | (with_reducible apply ih)
      | (with_reducible apply State.modStream_keeps)
      | (with_reducible apply State.moveStop_keeps)
      | (refine HOk2.get (State.readSlot_keeps ?_) (by with_reducible assumption))
      | (refine HOk2.getE (State.readSlot_keeps ?_) (by with_reducible assumption))
      | (with_reducible apply State.spare_keeps)
      | (intro _)
      | (with_reducible apply Holds.ite)
      | (dsimp only)
      | split

/-- What `State.checkDesc` can change. -/
theorem State.checkDesc_keeps {P : State → Prop} [KChip P]
    {s : State} {id slot : Nat} (hs : Holds P s) : HSome P (State.checkDesc s id slot) := by
  unfold State.checkDesc
  repeat' first
    | (with_reducible assumption)
    | (with_reducible apply State.modStream_keeps)
    | (with_reducible apply HSome.ite)
    | (with_reducible apply HSome.ans)
    | (with_reducible apply HSome.none)
    | (intro _)

/-- What `State.fetchAgain` can change. -/
theorem State.fetchAgain_keeps {P : State → Prop} [KChip P] [KContexts P] [KDevFlips P] [KDevmem P] [KDies P] [KFlint P] [KFresh P] [KHosts P] [KMems P] [KOports P] [KRegs P] [KRepair P] [KSent P]
    {s : State} {id : Nat} {e : Rec} (hs : Holds P s) : Holds P (State.fetchAgain s id e) := by
  unfold State.fetchAgain
  repeat' first
    | (with_reducible assumption)
    | (with_reducible apply State.modStream_keeps)
    | (with_reducible apply State.moveStop_keeps)
    | (refine HOk2.get (State.readSlot_keeps ?_) (by with_reducible assumption))
    | (refine HOk2.getE (State.readSlot_keeps ?_) (by with_reducible assumption))
    | (with_reducible apply State.spare_keeps)
    | (intro _)
    | (with_reducible apply Holds.ite)
    | (dsimp only)
    | split

/-- What `State.applyArm` can change. -/
theorem State.applyArm_keeps {P : State → Prop} [KChip P] [KContexts P] [KDevFlips P] [KDevmem P] [KDies P] [KFlint P] [KFresh P] [KHosts P] [KMems P] [KOports P] [KRegs P] [KRepair P] [KSent P]
    {s : State} {id : Nat} {e : Rec} {w : Word64} (hs : Holds P s) : HOk P anyVal (State.applyArm s id e w) := by
  unfold State.applyArm
  repeat' first
    | (with_reducible assumption)
    | (with_reducible apply State.fetchAgain_keeps)
    | (with_reducible apply State.modStream_keeps)
    | (with_reducible exact anyVal.triv)
    | (with_reducible apply HOk.ite)
    | (with_reducible apply HOk.ans)
    | (with_reducible apply HOk.err)
    | (intro _)
    | (dsimp only)
    | split

/-- What `State.armFrom` can change. -/
theorem State.armFrom_keeps {P : State → Prop} [KChip P] [KContexts P] [KDevFlips P] [KDevmem P] [KDies P] [KFlint P] [KFresh P] [KHosts P] [KMems P] [KOports P] [KRegs P] [KRepair P] [KSent P]
    {s : State} {port : Nat} {w : Word64} (hs : Holds P s) : HOk P anyVal (State.armFrom s port w) := by
  unfold State.armFrom
  repeat' first
    | (with_reducible assumption)
    | (with_reducible apply State.applyArm_keeps)
    | (with_reducible apply State.stir_keeps)
    | (with_reducible exact anyVal.triv)
    | (with_reducible apply HOk.ite)
    | (with_reducible apply HOk.err)
    | (intro _)
    | (dsimp only)
    | split

/-- What `State.armRefused` can change. -/
theorem State.armRefused_keeps {P : State → Prop} [KRegs P]
    {s : State} {id code : Nat} (hs : Holds P s) : Holds P (State.armRefused s id code) := by
  unfold State.armRefused
  repeat' first
    | (with_reducible assumption)
    | (with_reducible apply State.setBit_keeps)
    | (with_reducible apply State.setField_keeps)

/-- What `State.doorbellArm` can change. -/
theorem State.doorbellArm_keeps {P : State → Prop} [KChip P] [KContexts P] [KDevFlips P] [KDevmem P] [KDies P] [KFlint P] [KFresh P] [KHosts P] [KMems P] [KOports P] [KRegs P] [KRepair P] [KSent P]
    {s : State} {port : Nat} {w : Word64} (hs : Holds P s) : Holds P (State.doorbellArm s port w) := by
  unfold State.doorbellArm
  repeat' first
    | (with_reducible assumption)
    | (refine HOk.get (State.armFrom_keeps ?_) (by with_reducible assumption))
    | (with_reducible apply State.armRefused_keeps)
    | (with_reducible apply State.modFlint_keeps)
    | (with_reducible apply State.raiseOn_keeps)
    | (with_reducible apply State.violation_keeps)
    | (intro _)
    | (with_reducible apply Holds.ite)
    | split

/-- What `State.linkArm` can change. -/
theorem State.linkArm_keeps {P : State → Prop} [KChip P] [KContexts P] [KDevFlips P] [KDevmem P] [KDies P] [KFlint P] [KFresh P] [KHosts P] [KMems P] [KOports P] [KRegs P] [KRepair P] [KSent P]
    {s : State} {id : Nat} (hs : Holds P s) : Holds P (State.linkArm s id) := by
  unfold State.linkArm
  repeat' first
    | (with_reducible assumption)
    | (refine HOk.get (State.applyArm_keeps ?_) (by with_reducible assumption))
    | (with_reducible apply State.armRefused_keeps)
    | (with_reducible apply State.stir_keeps)
    | (with_reducible apply State.streamStrike_keeps)
    | (intro _)
    | (with_reducible apply Holds.ite)
    | (dsimp only)
    | split

/-- What `State.slotDone` can change. -/
theorem State.slotDone_keeps {P : State → Prop} [KChip P] [KContexts P] [KDevFlips P] [KDevmem P] [KDies P] [KFlint P] [KFresh P] [KHosts P] [KMems P] [KOports P] [KRegs P] [KRepair P] [KSent P]
    {s : State} {id : Nat} {e : Rec} {x : Xfer} {r : Running} (hs : Holds P s) : Holds P (State.slotDone s id e x r) := by
  unfold State.slotDone
  repeat' first
    | (with_reducible assumption)
    | (with_reducible apply State.closeDigest_keeps)
    | (with_reducible apply State.fetchAgain_keeps)
    | (with_reducible apply State.linkArm_keeps)
    | (with_reducible apply State.modStream_keeps)
    | (intro _)
    | (with_reducible apply Holds.ite)

/-- What `State.finishTransfer` can change. -/
theorem State.finishTransfer_keeps {P : State → Prop} [KChip P] [KContexts P] [KDevFlips P] [KDevmem P] [KDies P] [KFlint P] [KFresh P] [KHosts P] [KMems P] [KOports P] [KRegs P] [KRepair P] [KSent P]
    {s : State} {id : Nat} {e : Rec} (hs : Holds P s) : Holds P (State.finishTransfer s id e) := by
  unfold State.finishTransfer
  repeat' first
    | (with_reducible assumption)
    | (with_reducible apply State.modStream_keeps)
    | (with_reducible apply State.signalTokens_keeps)
    | (with_reducible apply State.slotDone_keeps)
    | (with_reducible apply HSome.ans)
    | (intro _)
    | (with_reducible apply Holds.ite)
    | (with_reducible apply HSome.ite)
    | (dsimp only)
    | split
    | (refine HSome.get ?_ (by with_reducible assumption))

/-- What `State.sidesOk` can change. -/
theorem State.sidesOk_keeps {P : State → Prop} 
    {s : State} {cls : Nat} {x : Xfer} {k : Nat} (hs : Holds P s) : HErr (MoveStop.has P) (State.sidesOk s cls x k) := by
  unfold State.sidesOk
  repeat' first
    | (with_reducible assumption)
    | (with_reducible apply State.rangesOk_keeps)
    | (with_reducible apply HErr.bindX)
    | (intro _)

/-- What `State.flowRows` can change. -/
theorem State.flowRows_keeps {P : State → Prop} [KChip P]
    {s : State} {id : Nat} {x : Xfer} (hs : Holds P s) : HOk2 P (MoveStop.has P) (State.flowRows s id x) := by
  unfold State.flowRows
  repeat' first
    | (with_reducible assumption)
    | (with_reducible apply State.modStream_keeps)
    | (with_reducible apply MoveStop.has_wait)
    | (with_reducible apply HOk2.ite)
    | (with_reducible apply HOk2.ans)
    | (with_reducible apply HOk2.err)
    | (intro _)

/-- What `State.unpackRows` can change. -/
theorem State.unpackRows_keeps {P : State → Prop} [KChip P] [KDevFlips P] [KDevmem P] [KDies P] [KFlint P] [KFresh P] [KHosts P] [KMems P] [KOports P] [KRegs P] [KRepair P] [KSent P]
    {s : State} {x : Xfer} {k : Nat} (hs : Holds P s) : HOk2 P (MoveStop.has P) (State.unpackRows s x k) := by
  unfold State.unpackRows
  repeat' first
    | (with_reducible assumption)
    | (with_reducible apply State.moveRead_keeps)
    | (with_reducible apply State.rangesOk_keeps)
    | (with_reducible apply MoveStop.has_fault)
    | (with_reducible apply HOk2.ite)
    | (with_reducible apply HOk2.ans)
    | (with_reducible apply HOk2.err)
    | (with_reducible apply HOk2.bindOk2)
    | (with_reducible apply HOk2.bindX)
    | (intro _)
    | split

/-- What `State.packRows` can change. -/
theorem State.packRows_keeps {P : State → Prop} [KChip P] [KDevFlips P] [KDevmem P] [KDies P] [KFlint P] [KFresh P] [KHosts P] [KMems P] [KOports P] [KRegs P] [KRepair P] [KSent P]
    {s : State} {id : Nat} {x : Xfer} {k : Nat} {rows : List (Rec × Rec)} (hs : Holds P s) : HOk2 P (MoveStop.has P) (State.packRows s id x k rows) := by
  unfold State.packRows
  repeat' first
    | (with_reducible assumption)
    | (with_reducible apply State.modStream_keeps)
    | (with_reducible apply State.moveWrite_keeps)
    | (with_reducible apply State.rangesOk_keeps)
    | (with_reducible apply HOk2.ans)
    | (with_reducible apply HOk2.bindOk)
    | (with_reducible apply HOk2.bindX)
    | (intro _)

/-- What `State.rowsReady` can change. -/
theorem State.rowsReady_keeps {P : State → Prop} [KChip P] [KDevFlips P] [KDevmem P] [KDies P] [KFlint P] [KFresh P] [KHosts P] [KMems P] [KOports P] [KRegs P] [KRepair P] [KSent P]
    {s : State} {id cls : Nat} {x : Xfer} {k : Nat} (hs : Holds P s) : HOk2 P (MoveStop.has P) (State.rowsReady s id cls x k) := by
  unfold State.rowsReady
  repeat' first
    | (with_reducible assumption)
    | (with_reducible apply State.flowRows_keeps)
    | (with_reducible apply State.unpackRows_keeps)
    | (with_reducible apply MoveStop.has_wait)
    | (with_reducible apply HOk2.ite)
    | (with_reducible apply HOk2.ans)
    | (with_reducible refine HOk2.map ?_ (fun _ => rfl))
    | (with_reducible apply HOk2.err)
    | (intro _)
    | split

/-- What `State.sourceRow` can change. -/
theorem State.sourceRow_keeps {P : State → Prop} [KChip P] [KDevFlips P] [KDevmem P] [KDies P] [KFlint P] [KFresh P] [KHosts P] [KMems P] [KOports P] [KRegs P] [KRepair P] [KSent P]
    {s : State} {cls : Nat} {x : Xfer} {k j : Nat} {x5 : Option (List (Rec × Rec))} (hs : Holds P s) : HOk2 P (MoveStop.has P) (State.sourceRow s cls x k j x5) := by
  unfold State.sourceRow
  repeat' first
    | (with_reducible assumption)
    | (with_reducible apply State.readRow1_keeps)
    | (with_reducible apply HOk2.ans)
    | split

/-- What `State.convert` can change. -/
theorem State.convert_keeps {P : State → Prop} [KChip P]
    {s : State} {id cls slot : Nat} {x : Xfer} {k j : Nat} {row : Rec × Rec} (hs : Holds P s) : HPair P (State.convert s id cls slot x k j row) := by
  unfold State.convert
  repeat' first
    | (with_reducible assumption)
    | (with_reducible apply State.arenaAdd_keeps)
    | (with_reducible apply HPair.ite)
    | (with_reducible apply HPair.ans)
    | (intro _)

/-- What `State.placeRow` can change. -/
theorem State.placeRow_keeps {P : State → Prop} [KChip P] [KContexts P] [KDevFlips P] [KDevmem P] [KDies P] [KFlint P] [KFresh P] [KHosts P] [KMems P] [KOports P] [KRegs P] [KRepair P] [KSent P]
    {s : State} {id : Nat} {e : Rec} {x : Xfer} {k j : Nat} {row : Rec × Rec} (hs : Holds P s) : HOk P (MoveStop.has P) (State.placeRow s id e x k j row) := by
  unfold State.placeRow
  repeat' first
    | (with_reducible assumption)
    | (with_reducible apply State.modStream_keeps)
    | (with_reducible apply State.sendRow_keeps)
    | (with_reducible apply State.writeRow_keeps)
    | (with_reducible apply HOk.ite)
    | (with_reducible apply HOk.ans)
    | (intro _)

/-- What `State.moveRow` can change. -/
theorem State.moveRow_keeps {P : State → Prop} [KChip P] [KContexts P] [KDevFlips P] [KDevmem P] [KDies P] [KFlint P] [KFresh P] [KHosts P] [KMems P] [KOports P] [KRegs P] [KRepair P] [KSent P]
    {id slot : Nat} {e : Rec} {x : Xfer} {k : Nat} {ready : Option (List (Rec × Rec))} {s : State} {j : Nat} (hs : Holds P s) : HOk P (MoveStop.has P) (State.moveRow id slot e x k ready s j) := by
  unfold State.moveRow
  repeat' first
    | (with_reducible assumption)
    | (with_reducible apply State.absorb_keeps)
    | (with_reducible refine HPair.proj (State.convert_keeps ?_))
    | (with_reducible apply State.placeRow_keeps)
    | (with_reducible apply State.sourceRow_keeps)
    | (with_reducible apply HOk.ans)
    | (with_reducible apply HOk.bindOk)
    | (with_reducible apply HOk.bindOk2)
    | (intro _)
    | (with_reducible apply Holds.ite)

/-- What `State.moveRows` can change. -/
theorem State.moveRows_keeps {P : State → Prop} [KChip P] [KContexts P] [KDevFlips P] [KDevmem P] [KDies P] [KFlint P] [KFresh P] [KHosts P] [KMems P] [KOports P] [KRegs P] [KRepair P] [KSent P]
    {s : State} {id : Nat} {e : Rec} {x : Xfer} {r : Running} (hs : Holds P s) : HOk P (MoveStop.has P) (State.moveRows s id e x r) := by
  unfold State.moveRows
  repeat' first
    | (with_reducible assumption)
    | (with_reducible apply State.absorb_keeps)
    | (with_reducible apply State.moveRow_keeps)
    | (with_reducible apply State.packRows_keeps)
    | (with_reducible apply State.readRows_keeps)
    | (with_reducible apply State.rowsReady_keeps)
    | (with_reducible apply MoveStop.has_fault)
    | (with_reducible apply HOk2.ans)
    | (with_reducible apply HOk.ite)
    | (with_reducible apply HOk.ans)
    | (with_reducible apply HOk.foldlM)
    | (with_reducible apply HOk.bindOk2)
    | (with_reducible apply HOk.bindX)
    | (with_reducible apply HErr.err)
    | (intro _)
    | (with_reducible apply Holds.ite)
    | (dsimp only)
    | split

/-- What `State.setLode` can change. -/
theorem State.setLode_keeps {P : State → Prop} [KChip P]
    {s : State} {id : Nat} {ts : List LodeTile} (hs : Holds P s) : Holds P (State.setLode s id ts) := by
  unfold State.setLode
  repeat' first
    | (with_reducible assumption)
    | (with_reducible apply State.modChip_keeps)

/-- What `State.headTile` can change. -/
theorem State.headTile_keeps {P : State → Prop} [KChip P] [KDevFlips P] [KDevmem P] [KDies P] [KFlint P] [KFresh P] [KHosts P] [KMems P] [KOports P] [KRegs P] [KRepair P] [KSent P]
    {s : State} {id : Nat} {x : Xfer} {k : Nat} (hs : Holds P s) : HOk P (MoveStop.has P) (State.headTile s id x k) := by
  unfold State.headTile
  repeat' first
    | (with_reducible assumption)
    | (with_reducible apply State.modStream_keeps)
    | (with_reducible apply State.rangesOk_keeps)
    | (with_reducible apply State.readRows_keeps)
    | (with_reducible apply HOk.ans)
    | (with_reducible apply HOk.bindOk2)
    | (with_reducible apply HOk.bindX)
    | (intro _)

/-- What `State.takeTile` can change. -/
theorem State.takeTile_keeps {P : State → Prop} [KChip P]
    {s : State} {id : Nat} {x : Xfer} (hs : Holds P s) : HOk P (MoveStop.has P) (State.takeTile s id x) := by
  unfold State.takeTile
  repeat' first
    | (with_reducible assumption)
    | (with_reducible apply State.modFlight_keeps)
    | (with_reducible apply State.setLode_keeps)
    | (with_reducible apply MoveStop.has_wait)
    | (with_reducible apply MoveStop.has_fault)
    | (with_reducible apply HOk.ite)
    | (with_reducible apply HOk.ans)
    | (with_reducible apply HOk.err)
    | (intro _)
    | (dsimp only)
    | split

/-- What `State.stirHops` can change. -/
theorem State.stirHops_keeps {P : State → Prop} [KDies P] [KFlint P] [KFresh P] [KHosts P] [KMems P] [KOports P] [KRegs P] [KSent P]
    {s : State} {id : Nat} (hs : Holds P s) : Holds P (State.stirHops s id) := by
  unfold State.stirHops
  generalize List.eraseDups (α := Nat) _ = l
  exact Holds.foldl (fun _ _ h => State.stir_keeps h) l _ hs

/-- What `State.countStarted` can change. -/
theorem State.countStarted_keeps {P : State → Prop} [KChip P]
    {s : State} {id : Nat} {r : Running} (hs : Holds P s) : Holds P (State.countStarted s id r) := by
  unfold State.countStarted
  repeat' first
    | (with_reducible assumption)
    | (with_reducible apply State.modStream_keeps)

/-- What `State.openTransfer` can change. -/
theorem State.openTransfer_keeps {P : State → Prop} [KChip P] [KContexts P] [KDevFlips P] [KDevmem P] [KDies P] [KFlint P] [KFresh P] [KHosts P] [KMems P] [KOports P] [KRegs P] [KRepair P] [KSent P]
    {s : State} {id : Nat} {e : Rec} {x : Xfer} {r : Running} (hs : Holds P s) : Holds P (State.openTransfer s id e x r) := by
  unfold State.openTransfer
  repeat' first
    | (with_reducible assumption)
    | (with_reducible apply State.askRows_keeps)
    | (with_reducible apply State.countStarted_keeps)
    | (refine HOk.get (State.headTile_keeps ?_) (by with_reducible assumption))
    | (refine HOk.getE (State.headTile_keeps ?_) (by with_reducible assumption))
    | (with_reducible apply State.moveStop_keeps)
    | (refine HErr.getE (State.sidesOk_keeps ?_) (by with_reducible assumption))
    | (intro _)
    | (with_reducible apply Holds.ite)
    | split

/-- What `startTransfer` can change. -/
theorem startTransfer_keeps {P : State → Prop} [KChip P] [KContexts P] [KDevFlips P] [KDevmem P] [KDies P] [KFlint P] [KFresh P] [KHosts P] [KMems P] [KOports P] [KRegs P] [KRepair P] [KSent P]
    {id : Nat} {s : State} (hs : Holds P s) : Holds P (startTransfer id s) := by
  unfold startTransfer
  repeat' first
    | (with_reducible assumption)
    | (refine HSome.get (State.checkDesc_keeps ?_) (by with_reducible assumption))
    | (with_reducible apply State.modStream_keeps)
    | (with_reducible apply State.moveStop_keeps)
    | (with_reducible apply State.openTransfer_keeps)
    | (with_reducible apply State.stir_keeps)
    | (with_reducible apply State.stirHops_keeps)
    | (with_reducible apply State.streamFault_keeps)
    | (with_reducible apply State.waitTokens_keeps)
    | (with_reducible apply MoveStop.has_wait)
    | (with_reducible apply HSome.ans)
    | (intro _)
    | (with_reducible apply Holds.ite)
    | (with_reducible apply HSome.ite)
    | (dsimp only)
    | split
    | (refine HSome.get ?_ (by with_reducible assumption))

/-- What `completeTransfer` can change. -/
theorem completeTransfer_keeps {P : State → Prop} [KChip P] [KContexts P] [KDevFlips P] [KDevmem P] [KDies P] [KFlint P] [KFresh P] [KHosts P] [KMems P] [KOports P] [KRegs P] [KRepair P] [KSent P]
    {id : Nat} {s : State} (hs : Holds P s) : Holds P (completeTransfer id s) := by
  unfold completeTransfer
  repeat' first
    | (with_reducible assumption)
    | (refine HSome.get (State.checkDesc_keeps ?_) (by with_reducible assumption))
    | (with_reducible apply State.finishTransfer_keeps)
    | (with_reducible apply State.modStream_keeps)
    | (with_reducible apply State.moveRows_keeps)
    | (with_reducible apply State.moveStop_keeps)
    | (with_reducible apply State.stirHops_keeps)
    | (with_reducible apply State.streamFault_keeps)
    | (with_reducible apply State.takeTile_keeps)
    | (with_reducible apply MoveStop.has_wait)
    | (with_reducible apply HOk.ans)
    | (with_reducible apply HOk.err)
    | (intro _)
    | (with_reducible apply Holds.ite)
    | (with_reducible apply HOk.ite)
    | (dsimp only)
    | split
    | (refine HOk.get (E := MoveStop.has P) ?_ (by with_reducible assumption))
    | (refine HOk.getE (P := P) (E := MoveStop.has P) ?_ (by with_reducible assumption))

/-- What `State.clearFault` can change. -/
theorem State.clearFault_keeps {P : State → Prop} [KChip P] [KRegs P]
    {s : State} {id : Nat} (hs : Holds P s) : Holds P (State.clearFault s id) := by
  unfold State.clearFault
  repeat' first
    | (with_reducible assumption)
    | (with_reducible apply State.modStream_keeps)
    | (with_reducible apply State.setField_keeps)
    | (intro _)
    | (with_reducible apply Holds.ite)
    | (dsimp only)
    | split

/-- What `State.armWord` can change. -/
theorem State.armWord_keeps {P : State → Prop} [KChip P] [KContexts P] [KDevFlips P] [KDevmem P] [KDies P] [KFlint P] [KFresh P] [KHosts P] [KMems P] [KOports P] [KRegs P] [KRepair P] [KSent P]
    {s : State} {src : ArmSource} {w : Word64} (hs : Holds P s) : Holds P (State.armWord s src w) := by
  unfold State.armWord
  repeat' first
    | (with_reducible assumption)
    | (refine HOk.get (State.armFrom_keeps ?_) (by with_reducible assumption))
    | (with_reducible apply State.doorbellArm_keeps)
    | (with_reducible apply State.linkArm_keeps)
    | split

/-- What `execStreamArm` can change. -/
theorem execStreamArm_keeps {P : State → Prop} [KChip P] [KContexts P] [KDevFlips P] [KDevmem P] [KDies P] [KFlint P] [KFresh P] [KHosts P] [KMems P] [KOports P] [KRegs P] [KRepair P] [KSent P]
    {src : ArmSource} {w : Word64} {s : State} (hs : Holds P s) : HNext P (execStreamArm src w s) := by
  unfold execStreamArm
  repeat' first
    | (with_reducible assumption)
    | (with_reducible apply State.armWord_keeps)
    | (with_reducible apply HNext.ans)
    | (intro _)
    | (with_reducible apply Holds.ite)

/-- What `execStreamRearm` can change. -/
theorem execStreamRearm_keeps {P : State → Prop} [KChip P] [KContexts P] [KDevFlips P] [KDevmem P] [KDies P] [KFlint P] [KFresh P] [KHosts P] [KMems P] [KOports P] [KRegs P] [KRepair P] [KSent P]
    {src : ArmSource} {w : Word64} {s : State} (hs : Holds P s) : HNext P (execStreamRearm src w s) := by
  unfold execStreamRearm
  repeat' first
    | (with_reducible assumption)
    | (with_reducible apply State.armWord_keeps)
    | (with_reducible apply HNext.ans)
    | (intro _)
    | (with_reducible apply Holds.ite)

/-- What `execStreamFaultClear` can change. -/
theorem execStreamFaultClear_keeps {P : State → Prop} [KChip P] [KRegs P]
    {stream : Nat} {s : State} (hs : Holds P s) : HNext P (execStreamFaultClear stream s) := by
  unfold execStreamFaultClear
  repeat' first
    | (with_reducible assumption)
    | (with_reducible apply State.clearFault_keeps)
    | (with_reducible apply HNext.ans)
    | (intro _)
    | (with_reducible apply Holds.ite)

/-- What `execDescriptorFetch` can change. -/
theorem execDescriptorFetch_keeps {P : State → Prop} [KChip P] [KContexts P] [KDevFlips P] [KDevmem P] [KDies P] [KFlint P] [KFresh P] [KHosts P] [KMems P] [KOports P] [KRegs P] [KRepair P] [KSent P]
    {stream : Nat} {s : State} (hs : Holds P s) : HNext P (execDescriptorFetch stream s) := by
  unfold execDescriptorFetch
  repeat' first
    | (with_reducible assumption)
    | (with_reducible apply State.fetchAgain_keeps)
    | (with_reducible apply State.fetchSlots_keeps)
    | (with_reducible apply State.modStream_keeps)
    | (with_reducible apply State.stir_keeps)
    | (with_reducible apply HNext.ans)
    | (intro _)
    | (with_reducible apply Holds.ite)
    | (dsimp only)
    | split

/-- What `execPebbleLineFetch` can change. -/
theorem execPebbleLineFetch_keeps {P : State → Prop} [KChip P] [KContexts P] [KDevFlips P] [KDevmem P] [KDies P] [KFlint P] [KFresh P] [KHosts P] [KMems P] [KOports P] [KRegs P] [KRepair P] [KSent P]
    {stream : Nat} {s : State} (hs : Holds P s) : HNext P (execPebbleLineFetch stream s) := by
  unfold execPebbleLineFetch
  repeat' first
    | (with_reducible assumption)
    | (with_reducible apply State.fetchAgain_keeps)
    | (with_reducible apply State.fetchSlots_keeps)
    | (with_reducible apply State.modStream_keeps)
    | (with_reducible apply State.stir_keeps)
    | (with_reducible apply HNext.ans)
    | (intro _)
    | (with_reducible apply Holds.ite)
    | (dsimp only)
    | split

/-- What `execStreamFault` can change. -/
theorem execStreamFault_keeps {P : State → Prop} [KChip P] [KContexts P] [KFlint P] [KRegs P] [KRepair P]
    {stream code : Nat} {s : State} (hs : Holds P s) : HNext P (execStreamFault stream code s) := by
  unfold execStreamFault
  repeat' first
    | (with_reducible assumption)
    | (with_reducible apply State.streamStrike_keeps)
    | (with_reducible apply HNext.ans)
    | (intro _)
    | (with_reducible apply Holds.ite)

/-- What `execLodeTileAccept` can change. -/
theorem execLodeTileAccept_keeps {P : State → Prop} [KChip P] [KDies P] [KFlint P] [KFresh P] [KHosts P] [KMems P] [KOports P] [KRegs P] [KSent P]
    {stream : Nat} {s : State} (hs : Holds P s) : HNext P (execLodeTileAccept stream s) := by
  unfold execLodeTileAccept
  repeat' first
    | (with_reducible assumption)
    | (with_reducible apply State.modStream_keeps)
    | (with_reducible apply State.setLode_keeps)
    | (with_reducible apply State.stir_keeps)
    | (with_reducible apply HNext.ans)
    | (intro _)
    | (with_reducible apply Holds.ite)
    | (dsimp only)
    | split

/-- What `execLodeTileForward` can change. -/
theorem execLodeTileForward_keeps {P : State → Prop} [KChip P] [KDies P] [KFlint P] [KFresh P] [KHosts P] [KMems P] [KOports P] [KRegs P] [KSent P]
    {stream : Nat} {s : State} (hs : Holds P s) : HNext P (execLodeTileForward stream s) := by
  unfold execLodeTileForward
  repeat' first
    | (with_reducible assumption)
    | (with_reducible apply State.modStream_keeps)
    | (with_reducible apply State.setLode_keeps)
    | (with_reducible apply State.stir_keeps)
    | (with_reducible apply State.stirHops_keeps)
    | (with_reducible apply HNext.ans)
    | (intro _)
    | (with_reducible apply Holds.ite)
    | (dsimp only)
    | split

end Sys2Proof.Machine
end

