-- ==== Sys2Proof/Laws/KeepsLinks.lean ====
section
/-! SUPPORT. Footprints of ring ports, collectives, optical ports and lanes: for each operation the parts of the state it can change (see Keeps). -/

namespace Sys2Proof.Machine

/-- What `State.sendCodeword` can change. -/
theorem State.sendCodeword_keeps {P : State → Prop} [KOports P] [KSent P]
    {s : State} {p type : Nat} {content : Rec} (hs : Holds P s) : Holds P (State.sendCodeword s p type content) := by
  unfold State.sendCodeword
  repeat' first
    | (with_reducible assumption)
    | (with_reducible apply State.emit_keeps)
    | (with_reducible apply State.modOport_keeps)

/-- What `State.sendManagement` can change. -/
theorem State.sendManagement_keeps {P : State → Prop} [KOports P] [KSent P]
    {s : State} {p : Nat} (hs : Holds P s) : Holds P (State.sendManagement s p) := by
  unfold State.sendManagement
  repeat' first
    | (with_reducible assumption)
    | (with_reducible apply State.modOport_keeps)
    | (with_reducible apply State.sendCodeword_keeps)

/-- What `State.nextManagement` can change. -/
theorem State.nextManagement_keeps {P : State → Prop} [KOports P] [KSent P]
    {s : State} {p : Nat} (hs : Holds P s) : Holds P (State.nextManagement s p) := by
  unfold State.nextManagement
  repeat' first
    | (with_reducible assumption)
    | (with_reducible apply State.modOport_keeps)
    | (with_reducible apply State.sendManagement_keeps)

/-- What `State.sendFlit` can change. -/
theorem State.sendFlit_keeps {P : State → Prop} [KOports P] [KSent P]
    {s : State} {p : Nat} {f : Rec} (hs : Holds P s) : Holds P (State.sendFlit s p f) := by
  unfold State.sendFlit
  repeat' first
    | (with_reducible assumption)
    | (with_reducible apply State.sendCodeword_keeps)
    | (with_reducible apply State.sendManagement_keeps)
    | (intro _)
    | (with_reducible apply Holds.ite)

/-- What `State.sendLink` can change. -/
theorem State.sendLink_keeps {P : State → Prop} [KOports P] [KSent P]
    {s : State} {p : Nat} {content : Rec} (hs : Holds P s) : Holds P (State.sendLink s p content) := by
  unfold State.sendLink
  repeat' first
    | (with_reducible assumption)
    | (with_reducible apply State.sendCodeword_keeps)
    | (with_reducible apply State.sendManagement_keeps)
    | (intro _)
    | (with_reducible apply Holds.ite)

/-- What `State.idleFlit` can change. -/
theorem State.idleFlit_keeps {P : State → Prop} [KOports P] [KSent P]
    {s : State} {p : Nat} (hs : Holds P s) : Holds P (State.idleFlit s p) := by
  unfold State.idleFlit
  repeat' first
    | (with_reducible assumption)
    | (with_reducible apply State.modOport_keeps)
    | (with_reducible apply State.sendFlit_keeps)

/-- What `State.dataFlit` can change. -/
theorem State.dataFlit_keeps {P : State → Prop} [KOports P] [KSent P]
    {s : State} {p : Nat} {f : Rec} (hs : Holds P s) : Holds P (State.dataFlit s p f) := by
  unfold State.dataFlit
  repeat' first
    | (with_reducible assumption)
    | (with_reducible apply State.idleFlit_keeps)
    | (with_reducible apply State.modOport_keeps)
    | (with_reducible apply State.sendFlit_keeps)
    | (intro _)
    | (with_reducible apply Holds.ite)

/-- What `State.noteClass1` can change. -/
theorem State.noteClass1_keeps {P : State → Prop} [KDies P]
    {s : State} {p src : Nat} (hs : Holds P s) : Holds P (State.noteClass1 s p src) := by
  unfold State.noteClass1
  repeat' first
    | (with_reducible assumption)
    | (with_reducible apply State.modDie_keeps)
    | (with_reducible apply Holds.foldl)
    | (intro _)

/-- What `State.pump` can change. -/
theorem State.pump_keeps {P : State → Prop} [KDies P] [KOports P] [KSent P]
    {p x1 : Nat} {x2 : State} (hs : Holds P x2) : Holds P (State.pump p x1 x2) := by
  induction x1 generalizing x2 with
  | zero =>
    unfold State.pump
    repeat' first
      | (with_reducible assumption)
  | succ _ ih =>
    unfold State.pump
    repeat' first
      | (with_reducible assumption)
      | (with_reducible apply ih)
      | (with_reducible apply State.dataFlit_keeps)
      | (with_reducible apply State.modOport_keeps)
      | (with_reducible apply State.noteClass1_keeps)
      | (with_reducible apply Holds.foldl)
      | (intro _)
      | (with_reducible apply Holds.ite)
      | (dsimp only)
      | split

/-- What `State.flush` can change. -/
theorem State.flush_keeps {P : State → Prop} [KDies P] [KOports P] [KSent P]
    {s : State} {p : Nat} (hs : Holds P s) : Holds P (State.flush s p) := by
  unfold State.flush
  repeat' first
    | (with_reducible assumption)
    | (with_reducible apply State.modOport_keeps)
    | (with_reducible apply State.nextManagement_keeps)
    | (with_reducible apply State.pump_keeps)
    | (intro _)
    | (with_reducible apply Holds.ite)

/-- What `State.stopCheck` can change. -/
theorem State.stopCheck_keeps {P : State → Prop} [KOports P] [KSent P]
    {s : State} {p : Nat} (hs : Holds P s) : Holds P (State.stopCheck s p) := by
  unfold State.stopCheck
  repeat' first
    | (with_reducible assumption)
    | (with_reducible apply State.idleFlit_keeps)
    | (with_reducible apply State.modOport_keeps)
    | (intro _)
    | (with_reducible apply Holds.ite)

/-- What `State.stopCheckAll` can change. -/
theorem State.stopCheckAll_keeps {P : State → Prop} [KOports P] [KSent P]
    {s : State} (hs : Holds P s) : Holds P (State.stopCheckAll s) := by
  unfold State.stopCheckAll
  repeat' first
    | (with_reducible assumption)
    | (with_reducible apply State.stopCheck_keeps)
    | (with_reducible apply Holds.foldl)

/-- What `State.endScrub` can change. -/
theorem State.endScrub_keeps {P : State → Prop} [KDies P] [KMems P] [KOports P] [KSent P]
    {s : State} (hs : Holds P s) : Holds P (State.endScrub s) := by
  unfold State.endScrub
  repeat' first
    | (with_reducible assumption)
    | (with_reducible apply State.flush_keeps)
    | (with_reducible apply State.stopCheckAll_keeps)
    | (with_reducible apply Holds.foldl)
    | (dsimp only)
    | (apply KMems.keep)

/-- What `State.sendMessage` can change. -/
theorem State.sendMessage_keeps {P : State → Prop} [KDies P] [KFlint P] [KFresh P] [KHosts P] [KMems P] [KOports P] [KRegs P] [KSent P]
    {s : State} {p cls src : Nat} {control : Bool} {poison : Nat} {bytes : Rec} (hs : Holds P s) : Holds P (State.sendMessage s p cls src control poison bytes) := by
  unfold State.sendMessage
  repeat' first
    | (with_reducible assumption)
    | (with_reducible apply State.flush_keeps)
    | (with_reducible apply State.modOport_keeps)
    | (with_reducible apply State.stir_keeps)
    | (with_reducible apply State.stopCheck_keeps)

/-- What `State.ringViolation` can change. -/
theorem State.ringViolation_keeps {P : State → Prop} [KFlint P] [KFresh P] [KHosts P] [KRegs P] [KSent P]
    {s : State} {q row tag : Nat} (hs : Holds P s) : Holds P (State.ringViolation s q row tag) := by
  unfold State.ringViolation
  repeat' first
    | (with_reducible assumption)
    | (with_reducible apply State.bump_keeps)
    | (with_reducible apply State.logEvent_keeps)
    | (with_reducible apply State.setBit_keeps)

/-- What `State.planeFault` can change. -/
theorem State.planeFault_keeps {P : State → Prop} [KChip P] [KFlint P] [KRegs P]
    {s : State} {q : Nat} (hs : Holds P s) : Holds P (State.planeFault s q) := by
  unfold State.planeFault
  repeat' first
    | (with_reducible assumption)
    | (with_reducible apply State.ringFault_keeps)

/-- What `State.sendUp` can change. -/
theorem State.sendUp_keeps {P : State → Prop} [KChip P] [KDies P] [KFlint P] [KFresh P] [KHosts P] [KMems P] [KOports P] [KRegs P] [KSent P]
    {s : State} {pl : Plan} {type q sender dest : Nat} {number : Word32} (hs : Holds P s) : Holds P (State.sendUp s pl type q sender dest number) := by
  unfold State.sendUp
  repeat' first
    | (with_reducible assumption)
    | (with_reducible apply State.planeFault_keeps)
    | (with_reducible apply State.sendMessage_keeps)
    | (intro _)
    | (with_reducible apply Holds.ite)
    | split

/-- What `State.class1Full` can change. -/
theorem State.class1Full_keeps {P : State → Prop} [KChip P] [KDies P] [KFlint P] [KFresh P] [KHosts P] [KMems P] [KOports P] [KRegs P] [KSent P]
    {s : State} {pl : Plan} {src q tag : Nat} {m : Rec} (hs : Holds P s) : Holds P (State.class1Full s pl src q tag m) := by
  unfold State.class1Full
  repeat' first
    | (with_reducible assumption)
    | (with_reducible apply State.ringViolation_keeps)
    | (with_reducible apply State.sendUp_keeps)

/-- What `State.forward` can change. -/
theorem State.forward_keeps {P : State → Prop} [KChip P] [KDies P] [KFlint P] [KFresh P] [KHosts P] [KMems P] [KOports P] [KRegs P] [KSent P]
    {s : State} {pl : Plan} {src q tag : Nat} {control : Bool} {poison : Nat} {m : Rec} (hs : Holds P s) : Holds P (State.forward s pl src q tag control poison m) := by
  unfold State.forward
  repeat' first
    | (with_reducible assumption)
    | (with_reducible apply State.class1Full_keeps)
    | (with_reducible apply State.planeFault_keeps)
    | (with_reducible apply State.ringViolation_keeps)
    | (with_reducible apply State.sendMessage_keeps)
    | (intro _)
    | (with_reducible apply Holds.ite)
    | (dsimp only)
    | split

/-- What `State.tellUp` can change. -/
theorem State.tellUp_keeps {P : State → Prop} [KChip P] [KDies P] [KFlint P] [KFresh P] [KHosts P] [KMems P] [KOports P] [KRegs P] [KSent P]
    {s : State} {pl : Plan} {type q dest : Nat} {number : Word32} (hs : Holds P s) : Holds P (State.tellUp s pl type q dest number) := by
  unfold State.tellUp
  repeat' first
    | (with_reducible assumption)
    | (with_reducible apply State.sendUp_keeps)
    | (intro _)
    | (with_reducible apply Holds.ite)

/-- What `State.modUp` can change. -/
theorem State.modUp_keeps {P : State → Prop} [KChip P]
    {s : State} {q peer : Nat} {f : Link → Link} (hs : Holds P s) : Holds P (State.modUp s q peer f) := by
  unfold State.modUp
  repeat' first
    | (with_reducible assumption)
    | (with_reducible apply State.modRing_keeps)

/-- What `State.modDown` can change. -/
theorem State.modDown_keeps {P : State → Prop} [KChip P]
    {s : State} {q peer : Nat} {f : Link → Link} (hs : Holds P s) : Holds P (State.modDown s q peer f) := by
  unfold State.modDown
  repeat' first
    | (with_reducible assumption)
    | (with_reducible apply State.modRing_keeps)

/-- What `State.query` can change. -/
theorem State.query_keeps {P : State → Prop} [KChip P] [KDies P] [KFlint P] [KFresh P] [KHosts P] [KMems P] [KOports P] [KRegs P] [KSent P]
    {s : State} {pl : Plan} {q peer : Nat} (hs : Holds P s) : Holds P (State.query s pl q peer) := by
  unfold State.query
  repeat' first
    | (with_reducible assumption)
    | (with_reducible apply State.bump_keeps)
    | (with_reducible apply State.modUp_keeps)
    | (with_reducible apply State.planeFault_keeps)
    | (with_reducible apply State.sendMessage_keeps)
    | (intro _)
    | (with_reducible apply Holds.ite)
    | split

/-- What `State.takeRoute` can change. -/
theorem State.takeRoute_keeps {P : State → Prop} [KChip P] [KDies P] [KFlint P] [KFresh P] [KHosts P] [KMems P] [KOports P] [KRegs P] [KSent P]
    {s : State} {pl : Plan} {q peer k : Nat} (hs : Holds P s) : Holds P (State.takeRoute s pl q peer k) := by
  unfold State.takeRoute
  repeat' first
    | (with_reducible assumption)
    | (with_reducible apply State.modUp_keeps)
    | (with_reducible apply State.query_keeps)
    | (with_reducible apply State.ringFault_keeps)
    | (dsimp only)
    | split

/-- What `State.transmit` can change. -/
theorem State.transmit_keeps {P : State → Prop} [KChip P] [KDies P] [KFlint P] [KFresh P] [KHosts P] [KMems P] [KOports P] [KRegs P] [KSent P]
    {s : State} {pl : Plan} {q peer : Nat} {c : Chunk} (hs : Holds P s) : Holds P (State.transmit s pl q peer c) := by
  unfold State.transmit
  repeat' first
    | (with_reducible assumption)
    | (with_reducible apply State.bump_keeps)
    | (with_reducible apply State.modColl_keeps)
    | (with_reducible apply State.modUp_keeps)
    | (with_reducible apply State.planeFault_keeps)
    | (with_reducible apply State.sendMessage_keeps)
    | (with_reducible apply State.setBit_keeps)
    | (with_reducible apply State.takeRoute_keeps)
    | (intro _)
    | (with_reducible apply Holds.ite)
    | (dsimp only)
    | split

/-- What `State.sendChunk` can change. -/
theorem State.sendChunk_keeps {P : State → Prop} [KChip P] [KDies P] [KFlint P] [KFresh P] [KHosts P] [KMems P] [KOports P] [KRegs P] [KSent P]
    {s : State} {pl : Plan} {x level kind q peer b code mask : Nat} {payload : Rec} (hs : Holds P s) : Holds P (State.sendChunk s pl x level kind q peer b code mask payload) := by
  unfold State.sendChunk
  repeat' first
    | (with_reducible assumption)
    | (with_reducible apply State.modUp_keeps)
    | (with_reducible apply State.ringFault_keeps)
    | (with_reducible apply State.transmit_keeps)
    | (intro _)
    | (with_reducible apply Holds.ite)

/-- What `State.resendFrom` can change. -/
theorem State.resendFrom_keeps {P : State → Prop} [KChip P] [KDies P] [KFlint P] [KFresh P] [KHosts P] [KMems P] [KOports P] [KRegs P] [KSent P]
    {s : State} {pl : Plan} {q peer : Nat} {n : Word32} (hs : Holds P s) : Holds P (State.resendFrom s pl q peer n) := by
  unfold State.resendFrom
  repeat' first
    | (with_reducible assumption)
    | (with_reducible apply State.transmit_keeps)
    | (with_reducible apply Holds.foldl)
    | (intro _)

/-- What `State.linkLost` can change. -/
theorem State.linkLost_keeps {P : State → Prop} [KChip P] [KDies P] [KFlint P] [KFresh P] [KHosts P] [KMems P] [KOports P] [KRegs P] [KSent P]
    {s : State} {port : Nat} (hs : Holds P s) : Holds P (State.linkLost s port) := by
  unfold State.linkLost
  repeat' first
    | (with_reducible assumption)
    | (with_reducible apply State.forward_keeps)
    | (with_reducible apply State.modOport_keeps)
    | (with_reducible apply State.modUp_keeps)
    | (with_reducible apply State.planeFault_keeps)
    | (with_reducible apply State.takeRoute_keeps)
    | (with_reducible apply Holds.foldl)
    | (intro _)
    | (with_reducible apply Holds.ite)
    | split

/-- What `State.linkBack` can change. -/
theorem State.linkBack_keeps {P : State → Prop} [KChip P] [KFlint P] [KRegs P]
    {s : State} {port : Nat} (hs : Holds P s) : Holds P (State.linkBack s port) := by
  unfold State.linkBack
  repeat' first
    | (with_reducible assumption)
    | (with_reducible apply State.modRing_keeps)
    | (with_reducible apply State.planeFault_keeps)
    | (with_reducible apply Holds.foldl)
    | (dsimp only)
    | split

/-- What `startRing` can change. -/
theorem startRing_keeps {P : State → Prop} [KChip P] [KContexts P] [KDies P] [KFlint P] [KFresh P] [KHosts P] [KMems P] [KOports P] [KRegs P] [KRepair P] [KSent P]
    {id : Nat} {e : Rec} {s : State} (hs : Holds P s) : Holds P (startRing id e s) := by
  unfold startRing
  repeat' first
    | (with_reducible assumption)
    | (refine HSome.get (State.checkDesc_keeps ?_) (by with_reducible assumption))
    | (with_reducible apply State.modStream_keeps)
    | (with_reducible apply State.moveStop_keeps)
    | (with_reducible apply State.stir_keeps)
    | (with_reducible apply State.streamFault_keeps)
    | (with_reducible apply State.waitTokens_keeps)
    | (with_reducible apply MoveStop.has_wait)
    | (with_reducible apply HSome.ans)
    | (intro _)
    | (with_reducible apply Holds.ite)
    | (with_reducible apply HSome.ite)
    | (dsimp only)
    | split
    | (refine HSome.get ?_ (by with_reducible assumption))

/-- What `State.settleSignals` can change. -/
theorem State.settleSignals_keeps {P : State → Prop} [KChip P] [KContexts P] [KDevFlips P] [KDevmem P] [KDies P] [KFlint P] [KFresh P] [KHosts P] [KMems P] [KOports P] [KRegs P] [KRepair P] [KSent P]
    {id : Nat} {e : Rec} {x2 : Nat} {x3 : State} (hs : Holds P x3) : Holds P (State.settleSignals id e x2 x3) := by
  induction x2 generalizing x3 with
  | zero =>
    unfold State.settleSignals
    repeat' first
      | (with_reducible assumption)
  | succ _ ih =>
    unfold State.settleSignals
    repeat' first
      | (with_reducible assumption)
      | (with_reducible apply ih)
      | (refine HSome.get (State.checkDesc_keeps ?_) (by with_reducible assumption))
      | (with_reducible apply State.modStream_keeps)
      | (with_reducible apply State.signalTokens_keeps)
      | (with_reducible apply State.slotDone_keeps)
      | (with_reducible apply State.streamFault_keeps)
      | (with_reducible apply HSome.ans)
      | (intro _)
      | (with_reducible apply Holds.ite)
      | (with_reducible apply HSome.ite)
      | (dsimp only)
      | split
      | (refine HSome.get ?_ (by with_reducible assumption))

/-- What `State.placed` can change. -/
theorem State.placed_keeps {P : State → Prop} [KChip P] [KContexts P] [KDevFlips P] [KDevmem P] [KDies P] [KFlint P] [KFresh P] [KHosts P] [KMems P] [KOports P] [KRegs P] [KRepair P] [KSent P]
    {s : State} {id : Nat} {e : Rec} {T : Nat} (hs : Holds P s) : Holds P (State.placed s id e T) := by
  unfold State.placed
  repeat' first
    | (with_reducible assumption)
    | (with_reducible apply State.modStream_keeps)
    | (with_reducible apply State.settleSignals_keeps)

/-- What `State.collStream` can change. -/
theorem State.collStream_keeps {P : State → Prop} [KChip P] [KContexts P] [KFlint P] [KHosts P] [KMems P] [KRegs P] [KRepair P] [KSent P]
    {s : State} {q x id : Nat} {m : MoveStop} (hs : Holds P s) (hf : MoveStop.has P m) : Holds P (State.collStream s q x id m) := by
  unfold State.collStream
  repeat' first
    | (with_reducible assumption)
    | (with_reducible apply MoveStop.onState_keeps)
    | (with_reducible apply State.moveStop_keeps)
    | (with_reducible apply State.ringFault_keeps)
    | (intro _)

/-- What `State.ringWrite` can change. -/
theorem State.ringWrite_keeps {P : State → Prop} [KChip P] [KDevFlips P] [KDevmem P] [KDies P] [KFlint P] [KFresh P] [KHosts P] [KMems P] [KOports P] [KRegs P] [KRepair P] [KSent P]
    {s : State} {q x a : Nat} {r : Rec} (hs : Holds P s) : Holds P (State.ringWrite s q x a r) := by
  unfold State.ringWrite
  repeat' first
    | (with_reducible assumption)
    | (refine HOk.get (State.devWrite_keeps ?_) (by with_reducible assumption))
    | (refine MemErr.of_dead (HOk.getE (State.devWrite_keeps ?_) (by with_reducible assumption)))
    | (with_reducible apply State.memFaultAs_keeps)
    | (with_reducible apply State.ringFault_keeps)
    | split

/-- What `State.ringDigest` can change. -/
theorem State.ringDigest_keeps {P : State → Prop} [KChip P] [KDevFlips P] [KDevmem P] [KDies P] [KFlint P] [KFresh P] [KHosts P] [KMems P] [KOports P] [KRegs P] [KRepair P] [KSent P]
    {s : State} {q x store b : Nat} {stored : Rec} {sats vugs : Nat} (hs : Holds P s) : Holds P (State.ringDigest s q x store b stored sats vugs) := by
  unfold State.ringDigest
  repeat' first
    | (with_reducible assumption)
    | (with_reducible apply State.digest_keeps)

/-- What `State.writtenDigest` can change. -/
theorem State.writtenDigest_keeps {P : State → Prop} [KChip P] [KDevFlips P] [KDevmem P] [KDies P] [KFlint P] [KFresh P] [KHosts P] [KMems P] [KOports P] [KRegs P] [KRepair P] [KSent P]
    {s : State} {q x b : Nat} {stored : Rec} (hs : Holds P s) : Holds P (State.writtenDigest s q x b stored) := by
  unfold State.writtenDigest
  repeat' first
    | (with_reducible assumption)
    | (with_reducible apply State.ringDigest_keeps)
    | (intro _)
    | (with_reducible apply Holds.ite)

/-- What `State.putOut` can change. -/
theorem State.putOut_keeps {P : State → Prop} [KChip P] [KContexts P] [KDevFlips P] [KDevmem P] [KDies P] [KFlint P] [KFresh P] [KHosts P] [KMems P] [KOports P] [KRegs P] [KRepair P] [KSent P]
    {s : State} {x : Nat} {e : Rec} {f k b : Nat} {rows : List (Rec × Rec)} {counts : Nat × Nat} (hs : Holds P s) : HSome P (State.putOut s x e f k b rows counts) := by
  unfold State.putOut
  repeat' first
    | (with_reducible assumption)
    | (refine HSome.get (State.checkDesc_keeps ?_) (by with_reducible assumption))
    | (with_reducible apply State.collStream_keeps)
    | (with_reducible apply State.modColl_keeps)
    | (with_reducible apply State.placed_keeps)
    | (refine HErr.getE (State.rangesOk_keeps ?_) (by with_reducible assumption))
    | (with_reducible apply State.ringFault_keeps)
    | (with_reducible apply State.ringWrite_keeps)
    | (refine HOk.get (State.writeRows_keeps ?_) (by with_reducible assumption))
    | (refine HOk.getE (State.writeRows_keeps ?_) (by with_reducible assumption))
    | (with_reducible apply MoveStop.has_fault)
    | (with_reducible apply HSome.ite)
    | (with_reducible apply HSome.ans)
    | (with_reducible apply HSome.none)
    | (intro _)
    | (with_reducible apply Holds.ite)
    | (dsimp only)
    | split

/-- What `State.collCounts` can change. -/
theorem State.collCounts_keeps {P : State → Prop} [KChip P]
    {s : State} {x : Nat} {n : Nat × Nat} (hs : Holds P s) : Holds P (State.collCounts s x n) := by
  unfold State.collCounts
  repeat' first
    | (with_reducible assumption)
    | (with_reducible apply State.modColl_keeps)

/-- What `State.collFeed` can change. -/
theorem State.collFeed_keeps {P : State → Prop} [KChip P]
    {s : State} {e : Rec} {blocks : List (List Opd)} {n : Nat × Nat} (hs : Holds P s) : Holds P (State.collFeed s e blocks n) := by
  unfold State.collFeed
  repeat' first
    | (with_reducible assumption)
    | (with_reducible apply State.feed_keeps)
    | (dsimp only)
    | split

/-- What `State.clearBlock` can change. -/
theorem State.clearBlock_keeps {P : State → Prop} [KChip P]
    {s : State} {x b : Nat} (hs : Holds P s) : Holds P (State.clearBlock s x b) := by
  unfold State.clearBlock
  repeat' first
    | (with_reducible assumption)
    | (with_reducible apply State.modColl_keeps)

/-- What `State.tryReduce` can change. -/
theorem State.tryReduce_keeps {P : State → Prop} [KChip P] [KContexts P] [KDevFlips P] [KDevmem P] [KDies P] [KFlint P] [KFresh P] [KHosts P] [KMems P] [KOports P] [KRegs P] [KRepair P] [KSent P]
    {s : State} {pl : Plan} {x : Nat} {e : Rec} {b : Nat} {own : Rec} (hs : Holds P s) : Holds P (State.tryReduce s pl x e b own) := by
  unfold State.tryReduce
  repeat' first
    | (with_reducible assumption)
    | (with_reducible apply State.clearBlock_keeps)
    | (with_reducible apply State.collCounts_keeps)
    | (with_reducible apply State.collFeed_keeps)
    | (refine HSome.get (State.putOut_keeps ?_) (by with_reducible assumption))
    | (with_reducible apply State.ringDigest_keeps)
    | (with_reducible apply State.sendChunk_keeps)
    | (intro _)
    | (with_reducible apply Holds.ite)
    | (dsimp only)
    | split

/-- What `State.tryOwned` can change. -/
theorem State.tryOwned_keeps {P : State → Prop} [KChip P] [KContexts P] [KDevFlips P] [KDevmem P] [KDies P] [KFlint P] [KFresh P] [KHosts P] [KMems P] [KOports P] [KRegs P] [KRepair P] [KSent P]
    {s : State} {pl : Plan} {x : Nat} {e : Rec} {b : Nat} {own : Rec} (hs : Holds P s) : Holds P (State.tryOwned s pl x e b own) := by
  unfold State.tryOwned
  repeat' first
    | (with_reducible assumption)
    | (with_reducible apply State.clearBlock_keeps)
    | (refine HSome.get (State.putOut_keeps ?_) (by with_reducible assumption))
    | (with_reducible apply State.sendChunk_keeps)
    | (intro _)
    | (with_reducible apply Holds.ite)
    | (dsimp only)
    | split

/-- What `State.tryGathered` can change. -/
theorem State.tryGathered_keeps {P : State → Prop} [KChip P] [KContexts P] [KDevFlips P] [KDevmem P] [KDies P] [KFlint P] [KFresh P] [KHosts P] [KMems P] [KOports P] [KRegs P] [KRepair P] [KSent P]
    {s : State} {pl : Plan} {x : Nat} {e : Rec} {b : Nat} {got : Rec} (hs : Holds P s) : Holds P (State.tryGathered s pl x e b got) := by
  unfold State.tryGathered
  repeat' first
    | (with_reducible assumption)
    | (with_reducible apply State.clearBlock_keeps)
    | (refine HSome.get (State.putOut_keeps ?_) (by with_reducible assumption))
    | (with_reducible apply State.sendChunk_keeps)
    | (with_reducible apply State.writtenDigest_keeps)
    | (intro _)
    | (with_reducible apply Holds.ite)
    | (dsimp only)
    | split

/-- What `State.tryShiftOwn` can change. -/
theorem State.tryShiftOwn_keeps {P : State → Prop} [KChip P] [KContexts P] [KDevFlips P] [KDevmem P] [KDies P] [KFlint P] [KFresh P] [KHosts P] [KMems P] [KOports P] [KRegs P] [KRepair P] [KSent P]
    {s : State} {pl : Plan} {x : Nat} {e : Rec} {b : Nat} {own : Rec} (hs : Holds P s) : Holds P (State.tryShiftOwn s pl x e b own) := by
  unfold State.tryShiftOwn
  repeat' first
    | (with_reducible assumption)
    | (with_reducible apply State.modColl_keeps)
    | (refine HSome.get (State.putOut_keeps ?_) (by with_reducible assumption))
    | (with_reducible apply State.sendChunk_keeps)
    | (with_reducible apply State.writtenDigest_keeps)
    | (intro _)
    | (with_reducible apply Holds.ite)
    | split

/-- What `State.tryShifted` can change. -/
theorem State.tryShifted_keeps {P : State → Prop} [KChip P] [KContexts P] [KDevFlips P] [KDevmem P] [KDies P] [KFlint P] [KFresh P] [KHosts P] [KMems P] [KOports P] [KRegs P] [KRepair P] [KSent P]
    {s : State} {x : Nat} {e : Rec} {b : Nat} {got : Rec} (hs : Holds P s) : Holds P (State.tryShifted s x e b got) := by
  unfold State.tryShifted
  repeat' first
    | (with_reducible assumption)
    | (with_reducible apply State.modColl_keeps)
    | (refine HSome.get (State.putOut_keeps ?_) (by with_reducible assumption))
    | (with_reducible apply State.writtenDigest_keeps)
    | (dsimp only)
    | split

/-- What `State.tryBlock` can change. -/
theorem State.tryBlock_keeps {P : State → Prop} [KChip P] [KContexts P] [KDevFlips P] [KDevmem P] [KDies P] [KFlint P] [KFresh P] [KHosts P] [KMems P] [KOports P] [KRegs P] [KRepair P] [KSent P]
    {s : State} {x b : Nat} (hs : Holds P s) : Holds P (State.tryBlock s x b) := by
  unfold State.tryBlock
  repeat' first
    | (with_reducible assumption)
    | (with_reducible apply State.ringFault_keeps)
    | (with_reducible apply State.tryGathered_keeps)
    | (with_reducible apply State.tryOwned_keeps)
    | (with_reducible apply State.tryReduce_keeps)
    | (with_reducible apply State.tryShiftOwn_keeps)
    | (with_reducible apply State.tryShifted_keeps)
    | (intro _)
    | (with_reducible apply Holds.ite)
    | (dsimp only)
    | split

/-- What `State.tryAll` can change. -/
theorem State.tryAll_keeps {P : State → Prop} [KChip P] [KContexts P] [KDevFlips P] [KDevmem P] [KDies P] [KFlint P] [KFresh P] [KHosts P] [KMems P] [KOports P] [KRegs P] [KRepair P] [KSent P]
    {s : State} {x : Nat} (hs : Holds P s) : Holds P (State.tryAll s x) := by
  unfold State.tryAll
  repeat' first
    | (with_reducible assumption)
    | (with_reducible apply State.tryBlock_keeps)
    | (with_reducible apply Holds.foldl)
    | (intro _)

/-- What `State.openColl` can change. -/
theorem State.openColl_keeps {P : State → Prop} [KChip P] [KFlint P] [KRegs P]
    {s : State} {x : Nat} {e : Rec} (hs : Holds P s) : Holds P (State.openColl s x e) := by
  unfold State.openColl
  repeat' first
    | (with_reducible assumption)
    | (with_reducible apply State.modColl_keeps)
    | (with_reducible apply State.modRing_keeps)
    | (with_reducible apply State.ringFault_keeps)
    | (with_reducible apply Holds.foldl)
    | (intro _)
    | (with_reducible apply Holds.ite)
    | (dsimp only)
    | split

/-- What `State.agreeSignal` can change. -/
theorem State.agreeSignal_keeps {P : State → Prop} [KChip P] [KDies P] [KFlint P] [KFresh P] [KHosts P] [KMems P] [KOports P] [KRegs P] [KSent P]
    {s : State} {x : Nat} {e : Rec} (hs : Holds P s) : Holds P (State.agreeSignal s x e) := by
  unfold State.agreeSignal
  repeat' first
    | (with_reducible assumption)
    | (with_reducible apply State.modColl_keeps)
    | (refine HSome.get (State.signalTokens_keeps ?_) (by with_reducible assumption))
    | (intro _)
    | (with_reducible apply Holds.ite)
    | split

/-- What `State.agreed` can change. -/
theorem State.agreed_keeps {P : State → Prop} [KChip P] [KDies P] [KFlint P] [KFresh P] [KHosts P] [KMems P] [KOports P] [KRegs P] [KSent P]
    {s : State} {x : Nat} {e v : Rec} (hs : Holds P s) : Holds P (State.agreed s x e v) := by
  unfold State.agreed
  repeat' first
    | (with_reducible assumption)
    | (with_reducible apply State.agreeSignal_keeps)
    | (with_reducible apply State.feed_keeps)
    | (with_reducible apply State.modColl_keeps)
    | (with_reducible apply Holds.foldl)
    | (intro _)

/-- What `State.tryAgree` can change. -/
theorem State.tryAgree_keeps {P : State → Prop} [KChip P] [KDies P] [KFlint P] [KFresh P] [KHosts P] [KMems P] [KOports P] [KRegs P] [KSent P]
    {s : State} {pl : Plan} {x : Nat} {e : Rec} (hs : Holds P s) : Holds P (State.tryAgree s pl x e) := by
  unfold State.tryAgree
  repeat' first
    | (with_reducible assumption)
    | (with_reducible apply State.agreeSignal_keeps)
    | (with_reducible apply State.agreed_keeps)
    | (with_reducible apply State.modColl_keeps)
    | (with_reducible apply State.ringFault_keeps)
    | (with_reducible apply State.sendChunk_keeps)
    | (intro _)
    | (with_reducible apply Holds.ite)
    | (dsimp only)
    | split

/-- What `State.tryColl` can change. -/
theorem State.tryColl_keeps {P : State → Prop} [KChip P] [KContexts P] [KDevFlips P] [KDevmem P] [KDies P] [KFlint P] [KFresh P] [KHosts P] [KMems P] [KOports P] [KRegs P] [KRepair P] [KSent P]
    {s : State} {x : Nat} (hs : Holds P s) : Holds P (State.tryColl s x) := by
  unfold State.tryColl
  repeat' first
    | (with_reducible assumption)
    | (with_reducible apply State.tryAgree_keeps)
    | (with_reducible apply State.tryAll_keeps)
    | (intro _)
    | (with_reducible apply Holds.ite)
    | split

/-- What `State.tryColls` can change. -/
theorem State.tryColls_keeps {P : State → Prop} [KChip P] [KContexts P] [KDevFlips P] [KDevmem P] [KDies P] [KFlint P] [KFresh P] [KHosts P] [KMems P] [KOports P] [KRegs P] [KRepair P] [KSent P]
    {s : State} (hs : Holds P s) : Holds P (State.tryColls s) := by
  unfold State.tryColls
  repeat' first
    | (with_reducible assumption)
    | (with_reducible apply State.tryColl_keeps)
    | (with_reducible apply Holds.foldl)

/-- What `State.deliver` can change. -/
theorem State.deliver_keeps {P : State → Prop} [KChip P] [KContexts P] [KDevFlips P] [KDevmem P] [KDies P] [KFlint P] [KFresh P] [KHosts P] [KMems P] [KOports P] [KRegs P] [KRepair P] [KSent P]
    {s : State} {x1 payload : Rec} (hs : Holds P s) : Holds P (State.deliver s x1 payload) := by
  unfold State.deliver
  repeat' first
    | (with_reducible assumption)
    | (with_reducible apply State.bump_keeps)
    | (with_reducible apply State.logEvent_keeps)
    | (with_reducible apply State.logRingInput_keeps)
    | (with_reducible apply State.modColl_keeps)
    | (with_reducible apply State.openColl_keeps)
    | (with_reducible apply State.setBit_keeps)
    | (with_reducible apply State.tryAgree_keeps)
    | (with_reducible apply State.tryBlock_keeps)
    | (intro _)
    | (with_reducible apply Holds.ite)
    | (dsimp only)
    | split

/-- What `State.integrityError` can change. -/
theorem State.integrityError_keeps {P : State → Prop} [KOports P]
    {s : State} {port : Nat} (hs : Holds P s) : Holds P (State.integrityError s port) := by
  unfold State.integrityError
  repeat' first
    | (with_reducible assumption)
    | (with_reducible apply State.modOport_keeps)

/-- What `State.acceptChunk` can change. -/
theorem State.acceptChunk_keeps {P : State → Prop} [KChip P] [KContexts P] [KDevFlips P] [KDevmem P] [KDies P] [KFlint P] [KFresh P] [KHosts P] [KMems P] [KOports P] [KRegs P] [KRepair P] [KSent P]
    {s : State} {pl : Plan} {port : Nat} {x3 payload : Rec} {bad : Bool} (hs : Holds P s) : Holds P (State.acceptChunk s pl port x3 payload bad) := by
  unfold State.acceptChunk
  repeat' first
    | (with_reducible assumption)
    | (with_reducible apply State.deliver_keeps)
    | (with_reducible apply State.integrityError_keeps)
    | (with_reducible apply State.modDown_keeps)
    | (with_reducible apply State.modRing_keeps)
    | (with_reducible apply State.ringFault_keeps)
    | (with_reducible apply State.ringViolation_keeps)
    | (with_reducible apply State.tellUp_keeps)
    | (intro _)
    | (with_reducible apply Holds.ite)
    | (dsimp only)
    | split

/-- What `State.receiveChunk` can change. -/
theorem State.receiveChunk_keeps {P : State → Prop} [KChip P] [KContexts P] [KDevFlips P] [KDevmem P] [KDies P] [KFlint P] [KFresh P] [KHosts P] [KMems P] [KOports P] [KRegs P] [KRepair P] [KSent P]
    {s : State} {port : Nat} {x2 payload : Rec} {bad : Bool} {poison : Option Nat} (hs : Holds P s) : Holds P (State.receiveChunk s port x2 payload bad poison) := by
  unfold State.receiveChunk
  repeat' first
    | (with_reducible assumption)
    | (with_reducible apply State.acceptChunk_keeps)
    | (with_reducible apply State.forward_keeps)
    | (with_reducible apply State.modOport_keeps)
    | (with_reducible apply State.planeFault_keeps)
    | (with_reducible apply State.ringViolation_keeps)
    | (with_reducible apply State.stopCheck_keeps)
    | (with_reducible refine HPair.proj (State.take_keeps ?_))
    | (with_reducible apply State.tellUp_keeps)
    | (intro _)
    | (with_reducible apply Holds.ite)
    | (dsimp only)
    | split

/-- What `State.unpark` can change. -/
theorem State.unpark_keeps {P : State → Prop} [KChip P] [KContexts P] [KDevFlips P] [KDevmem P] [KDies P] [KFlint P] [KFresh P] [KHosts P] [KMems P] [KOports P] [KRegs P] [KRepair P] [KSent P]
    {port x1 : Nat} {x2 : State} (hs : Holds P x2) : Holds P (State.unpark port x1 x2) := by
  induction x1 generalizing x2 with
  | zero =>
    unfold State.unpark
    repeat' first
      | (with_reducible assumption)
  | succ _ ih =>
    unfold State.unpark
    repeat' first
      | (with_reducible assumption)
      | (with_reducible apply ih)
      | (with_reducible apply State.acceptChunk_keeps)
      | (with_reducible apply State.modOport_keeps)
      | (with_reducible apply State.ringViolation_keeps)
      | (with_reducible apply State.stopCheck_keeps)
      | (intro _)
      | (with_reducible apply Holds.ite)
      | split

/-- What `State.unparkAll` can change. -/
theorem State.unparkAll_keeps {P : State → Prop} [KChip P] [KContexts P] [KDevFlips P] [KDevmem P] [KDies P] [KFlint P] [KFresh P] [KHosts P] [KMems P] [KOports P] [KRegs P] [KRepair P] [KSent P]
    {s : State} (hs : Holds P s) : Holds P (State.unparkAll s) := by
  unfold State.unparkAll
  repeat' first
    | (with_reducible assumption)
    | (with_reducible apply State.unpark_keeps)
    | (with_reducible apply Holds.foldl)
    | (intro _)

/-- What `State.serveLog` can change. -/
theorem State.serveLog_keeps {P : State → Prop} [KChip P] [KContexts P] [KDevFlips P] [KDevmem P] [KDies P] [KFlint P] [KFresh P] [KHosts P] [KMems P] [KOports P] [KRegs P] [KRepair P] [KSent P]
    {log : Rec} {x1 x2 : Nat} {x3 : State} (hs : Holds P x3) : Holds P (State.serveLog log x1 x2 x3) := by
  induction x1 generalizing x2 x3 with
  | zero =>
    unfold State.serveLog
    repeat' first
      | (with_reducible assumption)
  | succ _ ih =>
    unfold State.serveLog
    repeat' first
      | (with_reducible assumption)
      | (with_reducible apply ih)
      | (with_reducible apply State.deliver_keeps)
      | (intro _)
      | (with_reducible apply Holds.ite)

/-- What `State.ringStart` can change. -/
theorem State.ringStart_keeps {P : State → Prop} [KChip P] [KContexts P] [KDevFlips P] [KDevmem P] [KDies P] [KFlint P] [KFresh P] [KHosts P] [KMems P] [KOports P] [KRegs P] [KRepair P] [KSent P]
    {s : State} (hs : Holds P s) : Holds P (State.ringStart s) := by
  unfold State.ringStart
  repeat' first
    | (with_reducible assumption)
    | (with_reducible apply State.deliver_keeps)
    | (with_reducible apply State.modRing_keeps)
    | (with_reducible apply State.stopCheckAll_keeps)
    | (with_reducible apply State.tellUp_keeps)
    | (with_reducible apply State.unparkAll_keeps)
    | (with_reducible apply Holds.foldl)
    | (intro _)
    | (with_reducible apply Holds.ite)
    | (dsimp only)
    | split

/-- What `State.inputRows` can change. -/
theorem State.inputRows_keeps {P : State → Prop} [KChip P] [KDevFlips P] [KDevmem P] [KDies P] [KFlint P] [KFresh P] [KHosts P] [KMems P] [KOports P] [KRegs P] [KRepair P] [KSent P]
    {s : State} {id f b : Nat} {xf : Xfer} {i : Nat} (hs : Holds P s) : HOk2 P (MoveStop.has P) (State.inputRows s id f b xf i) := by
  unfold State.inputRows
  repeat' first
    | (with_reducible assumption)
    | (with_reducible apply State.modStream_keeps)
    | (with_reducible apply State.rangesOk_keeps)
    | (with_reducible apply State.readRows_keeps)
    | (with_reducible apply MoveStop.has_wait)
    | (with_reducible apply HOk2.ite)
    | (with_reducible apply HOk2.ans)
    | (with_reducible apply HOk2.err)
    | (with_reducible apply HOk2.bindOk2)
    | (with_reducible apply HOk2.bindX)
    | (intro _)

/-- What `State.contribute` can change. -/
theorem State.contribute_keeps {P : State → Prop} [KChip P] [KDevFlips P] [KDevmem P] [KDies P] [KFlint P] [KFresh P] [KHosts P] [KMems P] [KOports P] [KRegs P] [KRepair P] [KSent P]
    {s : State} {x : Nat} {e : Rec} {b : Nat} {rows : List Rec} (hs : Holds P s) : HSome P (State.contribute s x e b rows) := by
  unfold State.contribute
  repeat' first
    | (with_reducible assumption)
    | (with_reducible apply State.collCounts_keeps)
    | (with_reducible apply State.feed_keeps)
    | (with_reducible apply State.modColl_keeps)
    | (with_reducible apply State.ringDigest_keeps)
    | (with_reducible apply HSome.ans)
    | (with_reducible apply HSome.map)
    | (intro _)
    | (dsimp only)
    | split

/-- What `inputTransfer` can change. -/
theorem inputTransfer_keeps {P : State → Prop} [KChip P] [KContexts P] [KDevFlips P] [KDevmem P] [KDies P] [KFlint P] [KFresh P] [KHosts P] [KMems P] [KOports P] [KRegs P] [KRepair P] [KSent P]
    {x b : Nat} {s : State} (hs : Holds P s) : Holds P (inputTransfer x b s) := by
  unfold inputTransfer
  repeat' first
    | (with_reducible assumption)
    | (refine HSome.get (State.checkDesc_keeps ?_) (by with_reducible assumption))
    | (with_reducible apply State.collStream_keeps)
    | (refine HSome.get (State.contribute_keeps ?_) (by with_reducible assumption))
    | (refine HOk2.get (State.inputRows_keeps ?_) (by with_reducible assumption))
    | (refine HOk2.getE (State.inputRows_keeps ?_) (by with_reducible assumption))
    | (with_reducible apply State.moveStop_keeps)
    | (with_reducible apply State.openColl_keeps)
    | (with_reducible apply State.placed_keeps)
    | (with_reducible apply State.ringFault_keeps)
    | (with_reducible apply State.stir_keeps)
    | (with_reducible apply State.tryBlock_keeps)
    | (with_reducible apply MoveStop.has_fault)
    | (intro _)
    | (with_reducible apply Holds.ite)
    | (dsimp only)
    | split

/-- What `completeColl` can change. -/
theorem completeColl_keeps {P : State → Prop} [KChip P] [KContexts P] [KDevFlips P] [KDevmem P] [KDies P] [KFlint P] [KFresh P] [KHosts P] [KMems P] [KOports P] [KRegs P] [KRepair P] [KSent P]
    {x : Nat} {s : State} (hs : Holds P s) : Holds P (completeColl x s) := by
  unfold completeColl
  repeat' first
    | (with_reducible assumption)
    | (with_reducible apply State.modColl_keeps)
    | (with_reducible apply State.ringWrite_keeps)
    | (with_reducible apply State.tryAgree_keeps)
    | (with_reducible apply State.tryAll_keeps)
    | (intro _)
    | (with_reducible apply Holds.ite)
    | (dsimp only)
    | split

/-- What `State.onControl` can change. -/
theorem State.onControl_keeps {P : State → Prop} [KChip P] [KDies P] [KFlint P] [KFresh P] [KHosts P] [KMems P] [KOports P] [KRegs P] [KSent P]
    {s : State} {port type : Nat} {m : Rec} {poison : Nat} {f : State → Plan → Nat → Nat → Word32 → State} (hs : Holds P s) (hf : ∀ s p q n w, Holds P s → Holds P (f s p q n w)) : Holds P (State.onControl s port type m poison f) := by
  unfold State.onControl
  repeat' first
    | (with_reducible assumption)
    | (with_reducible apply hf)
    | (with_reducible apply State.forward_keeps)
    | (with_reducible apply State.integrityError_keeps)
    | (with_reducible apply State.planeFault_keeps)
    | (with_reducible apply State.ringViolation_keeps)
    | (intro _)
    | (with_reducible apply Holds.ite)
    | (dsimp only)
    | split

/-- What `State.acked` can change. -/
theorem State.acked_keeps {P : State → Prop} [KChip P] [KContexts P] [KDevFlips P] [KDevmem P] [KDies P] [KFlint P] [KFresh P] [KHosts P] [KMems P] [KOports P] [KRegs P] [KRepair P] [KSent P]
    {s : State} {x1 : Plan} {q peer : Nat} {n : Word32} (hs : Holds P s) : Holds P (State.acked s x1 q peer n) := by
  unfold State.acked
  repeat' first
    | (with_reducible assumption)
    | (with_reducible apply State.modUp_keeps)
    | (with_reducible apply State.tryColls_keeps)

/-- What `State.refused` can change. -/
theorem State.refused_keeps {P : State → Prop} [KChip P] [KDies P] [KFlint P] [KFresh P] [KHosts P] [KMems P] [KOports P] [KRegs P] [KSent P]
    {s : State} {pl : Plan} {q peer : Nat} {n : Word32} (hs : Holds P s) : Holds P (State.refused s pl q peer n) := by
  unfold State.refused
  repeat' first
    | (with_reducible assumption)
    | (with_reducible apply State.modUp_keeps)
    | (with_reducible apply State.resendFrom_keeps)
    | (with_reducible apply State.ringFault_keeps)
    | (intro _)
    | (with_reducible apply Holds.ite)

/-- What `State.resumed` can change. -/
theorem State.resumed_keeps {P : State → Prop} [KChip P] [KContexts P] [KDevFlips P] [KDevmem P] [KDies P] [KFlint P] [KFresh P] [KHosts P] [KMems P] [KOports P] [KRegs P] [KRepair P] [KSent P]
    {s : State} {pl : Plan} {q peer : Nat} {n : Word32} (hs : Holds P s) : Holds P (State.resumed s pl q peer n) := by
  unfold State.resumed
  repeat' first
    | (with_reducible assumption)
    | (with_reducible apply State.modUp_keeps)
    | (with_reducible apply State.resendFrom_keeps)
    | (with_reducible apply State.ringViolation_keeps)
    | (with_reducible apply State.tryColls_keeps)
    | (intro _)
    | (with_reducible apply Holds.ite)

/-- What `execTransferStart` can change. -/
theorem execTransferStart_keeps {P : State → Prop} [KChip P] [KContexts P] [KDevFlips P] [KDevmem P] [KDies P] [KFlint P] [KFresh P] [KHosts P] [KMems P] [KOports P] [KRegs P] [KRepair P] [KSent P]
    {stream : Nat} {s : State} (hs : Holds P s) : HNext P (execTransferStart stream s) := by
  unfold execTransferStart
  repeat' first
    | (with_reducible assumption)
    | (with_reducible apply startRing_keeps)
    | (with_reducible apply startTransfer_keeps)
    | (with_reducible apply HNext.ans)
    | (intro _)
    | (with_reducible apply Holds.ite)
    | split

/-- What `execTransferComplete` can change. -/
theorem execTransferComplete_keeps {P : State → Prop} [KChip P] [KContexts P] [KDevFlips P] [KDevmem P] [KDies P] [KFlint P] [KFresh P] [KHosts P] [KMems P] [KOports P] [KRegs P] [KRepair P] [KSent P]
    {stream : Nat} {s : State} (hs : Holds P s) : HNext P (execTransferComplete stream s) := by
  unfold execTransferComplete
  repeat' first
    | (with_reducible assumption)
    | (with_reducible apply State.settleSignals_keeps)
    | (with_reducible apply State.stopCheckAll_keeps)
    | (with_reducible apply State.tryAll_keeps)
    | (with_reducible apply completeTransfer_keeps)
    | (with_reducible apply Holds.foldl)
    | (with_reducible apply HNext.ans)
    | (intro _)
    | (with_reducible apply Holds.ite)
    | (dsimp only)
    | split

/-- What `execCollectiveInputTransfer` can change. -/
theorem execCollectiveInputTransfer_keeps {P : State → Prop} [KChip P] [KContexts P] [KDevFlips P] [KDevmem P] [KDies P] [KFlint P] [KFresh P] [KHosts P] [KMems P] [KOports P] [KRegs P] [KRepair P] [KSent P]
    {seq block : Nat} {s : State} (hs : Holds P s) : HNext P (execCollectiveInputTransfer seq block s) := by
  unfold execCollectiveInputTransfer
  repeat' first
    | (with_reducible assumption)
    | (with_reducible apply State.stopCheckAll_keeps)
    | (with_reducible apply inputTransfer_keeps)
    | (with_reducible apply HNext.ans)

/-- What `State.takeMessage` can change. -/
theorem State.takeMessage_keeps {P : State → Prop} [KOports P]
    {s : State} {port : Nat} {m : Rec} (hs : Holds P s) : HPair P (State.takeMessage s port m) := by
  unfold State.takeMessage
  repeat' first
    | (with_reducible assumption)
    | (with_reducible apply State.modOport_keeps)
    | (with_reducible apply HPair.ans)
    | split

/-- What `execChunkReceived` can change. -/
theorem execChunkReceived_keeps {P : State → Prop} [KChip P] [KContexts P] [KDevFlips P] [KDevmem P] [KDies P] [KFlint P] [KFresh P] [KHosts P] [KMems P] [KOports P] [KRegs P] [KRepair P] [KSent P]
    {port : Nat} {header payload : Rec} {bad : Bool} {s : State} (hs : Holds P s) : HNext P (execChunkReceived port header payload bad s) := by
  unfold execChunkReceived
  repeat' first
    | (with_reducible assumption)
    | (with_reducible apply State.receiveChunk_keeps)
    | (with_reducible refine HPair.proj (State.takeMessage_keeps ?_))
    | (with_reducible apply HNext.ans)
    | (intro _)
    | (with_reducible apply Holds.ite)

/-- What `execStopReceived` can change. -/
theorem execStopReceived_keeps {P : State → Prop} [KOports P]
    {port cls : Nat} {s : State} (hs : Holds P s) : HNext P (execStopReceived port cls s) := by
  unfold execStopReceived
  repeat' first
    | (with_reducible assumption)
    | (with_reducible apply State.modOport_keeps)
    | (with_reducible apply HNext.ans)

/-- What `execGoReceived` can change. -/
theorem execGoReceived_keeps {P : State → Prop} [KChip P] [KContexts P] [KDevFlips P] [KDevmem P] [KDies P] [KFlint P] [KFresh P] [KHosts P] [KMems P] [KOports P] [KRegs P] [KRepair P] [KSent P]
    {port cls : Nat} {s : State} (hs : Holds P s) : HNext P (execGoReceived port cls s) := by
  unfold execGoReceived
  repeat' first
    | (with_reducible assumption)
    | (with_reducible apply State.flush_keeps)
    | (with_reducible apply State.modOport_keeps)
    | (with_reducible apply State.stopCheckAll_keeps)
    | (with_reducible apply State.tryColls_keeps)
    | (with_reducible apply HNext.ans)

/-- What `State.takeControl` can change. -/
theorem State.takeControl_keeps {P : State → Prop} [KChip P] [KDies P] [KFlint P] [KFresh P] [KHosts P] [KMems P] [KOports P] [KRegs P] [KSent P]
    {s : State} {port type : Nat} {m : Rec} {f : State → Plan → Nat → Nat → Word32 → State} (hs : Holds P s) (hf : ∀ s p q n w, Holds P s → Holds P (f s p q n w)) : Holds P (State.takeControl s port type m f) := by
  unfold State.takeControl
  repeat' first
    | (with_reducible assumption)
    | (with_reducible apply State.onControl_keeps)
    | (with_reducible refine HPair.proj (State.takeMessage_keeps ?_))

/-- What `execAcknowledgeReceived` can change. -/
theorem execAcknowledgeReceived_keeps {P : State → Prop} [KChip P] [KContexts P] [KDevFlips P] [KDevmem P] [KDies P] [KFlint P] [KFresh P] [KHosts P] [KMems P] [KOports P] [KRegs P] [KRepair P] [KSent P]
    {port : Nat} {msg : Rec} {s : State} (hs : Holds P s) : HNext P (execAcknowledgeReceived port msg s) := by
  unfold execAcknowledgeReceived
  repeat' first
    | (with_reducible assumption)
    | (with_reducible apply State.acked_keeps)
    | (with_reducible apply State.stopCheckAll_keeps)
    | (with_reducible apply State.takeControl_keeps)
    | (with_reducible apply HNext.ans)

/-- What `execRefuseReceived` can change. -/
theorem execRefuseReceived_keeps {P : State → Prop} [KChip P] [KDies P] [KFlint P] [KFresh P] [KHosts P] [KMems P] [KOports P] [KRegs P] [KSent P]
    {port : Nat} {msg : Rec} {s : State} (hs : Holds P s) : HNext P (execRefuseReceived port msg s) := by
  unfold execRefuseReceived
  repeat' first
    | (with_reducible assumption)
    | (with_reducible apply State.refused_keeps)
    | (with_reducible apply State.takeControl_keeps)
    | (with_reducible apply HNext.ans)

/-- What `execResumeQueryReceived` can change. -/
theorem execResumeQueryReceived_keeps {P : State → Prop} [KChip P] [KDies P] [KFlint P] [KFresh P] [KHosts P] [KMems P] [KOports P] [KRegs P] [KSent P]
    {port : Nat} {msg : Rec} {s : State} (hs : Holds P s) : HNext P (execResumeQueryReceived port msg s) := by
  unfold execResumeQueryReceived
  repeat' first
    | (with_reducible assumption)
    | (with_reducible apply State.takeControl_keeps)
    | (with_reducible apply State.tellUp_keeps)
    | (with_reducible apply HNext.ans)
    | (intro _)

/-- What `execResumeAnswerReceived` can change. -/
theorem execResumeAnswerReceived_keeps {P : State → Prop} [KChip P] [KContexts P] [KDevFlips P] [KDevmem P] [KDies P] [KFlint P] [KFresh P] [KHosts P] [KMems P] [KOports P] [KRegs P] [KRepair P] [KSent P]
    {port : Nat} {msg : Rec} {s : State} (hs : Holds P s) : HNext P (execResumeAnswerReceived port msg s) := by
  unfold execResumeAnswerReceived
  repeat' first
    | (with_reducible assumption)
    | (with_reducible apply State.resumed_keeps)
    | (with_reducible apply State.takeControl_keeps)
    | (with_reducible apply HNext.ans)

/-- What `execResumeQueryTimeout` can change. -/
theorem execResumeQueryTimeout_keeps {P : State → Prop} [KChip P] [KDies P] [KFlint P] [KFresh P] [KHosts P] [KMems P] [KOports P] [KRegs P] [KSent P]
    {plane peer : Nat} {s : State} (hs : Holds P s) : HNext P (execResumeQueryTimeout plane peer s) := by
  unfold execResumeQueryTimeout
  repeat' first
    | (with_reducible assumption)
    | (with_reducible apply State.modUp_keeps)
    | (with_reducible apply State.query_keeps)
    | (with_reducible apply State.takeRoute_keeps)
    | (with_reducible apply HNext.ans)
    | (intro _)
    | (with_reducible apply Holds.ite)
    | (dsimp only)
    | split

/-- What `execDetourEnd` can change. -/
theorem execDetourEnd_keeps {P : State → Prop} [KChip P] [KDies P] [KFlint P] [KFresh P] [KHosts P] [KMems P] [KOports P] [KRegs P] [KSent P]
    {plane peer : Nat} {s : State} (hs : Holds P s) : HNext P (execDetourEnd plane peer s) := by
  unfold execDetourEnd
  repeat' first
    | (with_reducible assumption)
    | (with_reducible apply State.query_keeps)
    | (with_reducible apply HNext.ans)
    | (intro _)
    | (with_reducible apply Holds.ite)
    | (dsimp only)
    | split

/-- What `execAgreementStart` can change. -/
theorem execAgreementStart_keeps {P : State → Prop} [KChip P] [KDies P] [KFlint P] [KFresh P] [KHosts P] [KMems P] [KOports P] [KRegs P] [KSent P]
    {seq : Nat} {s : State} (hs : Holds P s) : HNext P (execAgreementStart seq s) := by
  unfold execAgreementStart
  repeat' first
    | (with_reducible assumption)
    | (with_reducible apply State.modColl_keeps)
    | (with_reducible apply State.openColl_keeps)
    | (with_reducible apply State.tryAgree_keeps)
    | (refine HSome.get (State.waitTokens_keeps ?_) (by with_reducible assumption))
    | (with_reducible apply HNext.ans)
    | (intro _)
    | (with_reducible apply Holds.ite)
    | (dsimp only)
    | split

/-- What `execCollectiveComplete` can change. -/
theorem execCollectiveComplete_keeps {P : State → Prop} [KChip P] [KContexts P] [KDevFlips P] [KDevmem P] [KDies P] [KFlint P] [KFresh P] [KHosts P] [KMems P] [KOports P] [KRegs P] [KRepair P] [KSent P]
    {seq : Nat} {s : State} (hs : Holds P s) : HNext P (execCollectiveComplete seq s) := by
  unfold execCollectiveComplete
  repeat' first
    | (with_reducible assumption)
    | (with_reducible apply completeColl_keeps)
    | (with_reducible apply HNext.ans)

/-- What `execCollectiveHoldLimit` can change. -/
theorem execCollectiveHoldLimit_keeps {P : State → Prop} [KChip P] [KFlint P] [KRegs P]
    {seq : Nat} {s : State} (hs : Holds P s) : HNext P (execCollectiveHoldLimit seq s) := by
  unfold execCollectiveHoldLimit
  repeat' first
    | (with_reducible assumption)
    | (with_reducible apply State.ringFault_keeps)
    | (with_reducible apply HNext.ans)
    | (intro _)
    | (with_reducible apply Holds.ite)
    | (dsimp only)
    | split

/-- What `execHeldChunkHoldLimit` can change. -/
theorem execHeldChunkHoldLimit_keeps {P : State → Prop} [KChip P] [KContexts P] [KDevFlips P] [KDevmem P] [KDies P] [KFlint P] [KFresh P] [KHosts P] [KMems P] [KOports P] [KRegs P] [KRepair P] [KSent P]
    {port : Nat} {s : State} (hs : Holds P s) : HNext P (execHeldChunkHoldLimit port s) := by
  unfold execHeldChunkHoldLimit
  repeat' first
    | (with_reducible assumption)
    | (with_reducible apply State.modOport_keeps)
    | (with_reducible apply State.ringViolation_keeps)
    | (with_reducible apply State.stopCheck_keeps)
    | (with_reducible apply State.unpark_keeps)
    | (with_reducible apply HNext.ans)
    | (dsimp only)
    | split

/-- What `State.portFault` can change. -/
theorem State.portFault_keeps {P : State → Prop} [KFlint P] [KRegs P]
    {s : State} {p code : Nat} (hs : Holds P s) : Holds P (State.portFault s p code) := by
  unfold State.portFault
  repeat' first
    | (with_reducible assumption)
    | (with_reducible apply State.report_keeps)
    | (with_reducible apply State.setBit_keeps)
    | (with_reducible apply State.setField_keeps)
    | (intro _)
    | (with_reducible apply Holds.ite)

/-- What `State.portViolation` can change. -/
theorem State.portViolation_keeps {P : State → Prop} [KFlint P] [KFresh P] [KHosts P] [KRegs P] [KSent P]
    {s : State} {p row : Nat} (hs : Holds P s) : Holds P (State.portViolation s p row) := by
  unfold State.portViolation
  repeat' first
    | (with_reducible assumption)
    | (with_reducible apply State.bump_keeps)
    | (with_reducible apply State.logEvent_keeps)
    | (with_reducible apply State.setBit_keeps)

/-- What `State.portOff` can change. -/
theorem State.portOff_keeps {P : State → Prop} [KChip P] [KDies P] [KFlint P] [KFresh P] [KHosts P] [KMems P] [KOports P] [KRegs P] [KSent P]
    {s : State} {p state step : Nat} (hs : Holds P s) : Holds P (State.portOff s p state step) := by
  unfold State.portOff
  repeat' first
    | (with_reducible assumption)
    | (with_reducible apply State.bump_keeps)
    | (with_reducible apply State.linkLost_keeps)
    | (with_reducible apply State.modOport_keeps)
    | (with_reducible apply State.raiseBoth_keeps)
    | (with_reducible apply State.setBit_keeps)
    | (intro _)
    | (with_reducible apply Holds.ite)

/-- What `State.portDown` can change. -/
theorem State.portDown_keeps {P : State → Prop} [KChip P] [KDies P] [KFlint P] [KFresh P] [KHosts P] [KMems P] [KOports P] [KRegs P] [KSent P]
    {s : State} {p : Nat} (hs : Holds P s) : Holds P (State.portDown s p) := by
  unfold State.portDown
  repeat' first
    | (with_reducible assumption)
    | (with_reducible apply State.portOff_keeps)
    | (with_reducible apply State.sendTraining_keeps)

/-- What `State.portUp` can change. -/
theorem State.portUp_keeps {P : State → Prop} [KChip P] [KDies P] [KFlint P] [KFresh P] [KHosts P] [KOports P] [KRegs P] [KSent P]
    {s : State} {p d : Nat} (hs : Holds P s) : Holds P (State.portUp s p d) := by
  unfold State.portUp
  repeat' first
    | (with_reducible assumption)
    | (with_reducible apply State.flush_keeps)
    | (with_reducible apply State.linkBack_keeps)
    | (with_reducible apply State.logEvent_keeps)
    | (with_reducible apply State.modOport_keeps)
    | (with_reducible apply State.raiseBoth_keeps)
    | (with_reducible apply State.setBit_keeps)
    | (with_reducible apply State.stopCheck_keeps)
    | (intro _)
    | (with_reducible apply Holds.ite)

/-- What `State.retirePort` can change. -/
theorem State.retirePort_keeps {P : State → Prop} [KChip P] [KDies P] [KFlint P] [KFresh P] [KHosts P] [KMems P] [KOports P] [KRegs P] [KRepair P] [KSent P]
    {s : State} {p : Nat} (hs : Holds P s) : Holds P (State.retirePort s p) := by
  unfold State.retirePort
  repeat' first
    | (with_reducible assumption)
    | (with_reducible apply State.capability_keeps)
    | (with_reducible apply State.mapEntry_keeps)
    | (with_reducible apply State.modRepair_keeps)
    | (with_reducible apply State.portOff_keeps)
    | (with_reducible apply State.summary_keeps)
    | (intro _)
    | (with_reducible apply Holds.ite)

/-- What `State.relink` can change. -/
theorem State.relink_keeps {P : State → Prop} [KChip P] [KDies P] [KFlint P] [KFresh P] [KHosts P] [KMems P] [KOports P] [KRegs P] [KSent P]
    {s : State} {p : Nat} (hs : Holds P s) : Holds P (State.relink s p) := by
  unfold State.relink
  repeat' first
    | (with_reducible assumption)
    | (with_reducible apply State.portOff_keeps)
    | (with_reducible apply State.sendTraining_keeps)
    | (intro _)
    | (with_reducible apply Holds.ite)

/-- What `State.ackTo` can change. -/
theorem State.ackTo_keeps {P : State → Prop} [KFlint P] [KFresh P] [KHosts P] [KOports P] [KRegs P] [KSent P]
    {s : State} {p : Nat} {n : Word32} (hs : Holds P s) : Holds P (State.ackTo s p n) := by
  unfold State.ackTo
  repeat' first
    | (with_reducible assumption)
    | (with_reducible apply State.modOport_keeps)
    | (with_reducible apply State.portViolation_keeps)
    | (intro _)
    | (with_reducible apply Holds.ite)

/-- What `State.flitAck` can change. -/
theorem State.flitAck_keeps {P : State → Prop} [KDies P] [KFlint P] [KFresh P] [KHosts P] [KOports P] [KRegs P] [KSent P]
    {s : State} {p : Nat} {n : Word32} (hs : Holds P s) : Holds P (State.flitAck s p n) := by
  unfold State.flitAck
  repeat' first
    | (with_reducible assumption)
    | (with_reducible apply State.ackTo_keeps)
    | (with_reducible apply State.flush_keeps)

/-- What `State.replayAll` can change. -/
theorem State.replayAll_keeps {P : State → Prop} [KOports P] [KRegs P] [KSent P]
    {s : State} {p : Nat} (hs : Holds P s) : Holds P (State.replayAll s p) := by
  unfold State.replayAll
  repeat' first
    | (with_reducible assumption)
    | (with_reducible apply State.bump_keeps)
    | (with_reducible apply State.dataFlit_keeps)
    | (with_reducible apply State.setBit_keeps)
    | (with_reducible apply Holds.foldl)
    | (intro _)
    | (with_reducible apply Holds.ite)

/-- What `State.nack` can change. -/
theorem State.nack_keeps {P : State → Prop} [KOports P] [KSent P]
    {s : State} {p : Nat} (hs : Holds P s) : Holds P (State.nack s p) := by
  unfold State.nack
  repeat' first
    | (with_reducible assumption)
    | (with_reducible apply State.idleFlit_keeps)
    | (with_reducible apply State.modOport_keeps)
    | (intro _)
    | (with_reducible apply Holds.ite)

/-- What `State.nacked` can change. -/
theorem State.nacked_keeps {P : State → Prop} [KDies P] [KFlint P] [KFresh P] [KHosts P] [KOports P] [KRegs P] [KSent P]
    {s : State} {p : Nat} {n : Word32} (hs : Holds P s) : Holds P (State.nacked s p n) := by
  unfold State.nacked
  repeat' first
    | (with_reducible assumption)
    | (with_reducible apply State.ackTo_keeps)
    | (with_reducible apply State.flush_keeps)
    | (with_reducible apply State.portViolation_keeps)
    | (with_reducible apply State.replayAll_keeps)
    | (intro _)
    | (with_reducible apply Holds.ite)

/-- What `State.codeword` can change. -/
theorem State.codeword_keeps {P : State → Prop} [KDies P] [KFlint P] [KFresh P] [KHosts P] [KOports P] [KRegs P] [KSent P]
    {s : State} {p : Nat} {control : BitVec 20} {management : Bool} (hs : Holds P s) : HPair P (State.codeword s p control management) := by
  unfold State.codeword
  repeat' first
    | (with_reducible assumption)
    | (with_reducible apply State.flush_keeps)
    | (with_reducible apply State.modOport_keeps)
    | (with_reducible apply State.portViolation_keeps)
    | (with_reducible apply HPair.ite)
    | (with_reducible apply HPair.ans)
    | (intro _)

/-- What `State.overflows` can change. -/
theorem State.overflows_keeps {P : State → Prop} [KFresh P]
    {s : State} {p : Nat} {idle : Bool} (hs : Holds P s) : HPair P (State.overflows s p idle) := by
  unfold State.overflows
  repeat' first
    | (with_reducible assumption)
    | (with_reducible refine HPair.proj (State.take_keeps ?_))
    | (with_reducible apply HPair.ite)
    | (with_reducible apply HPair.ans)
    | (intro _)

/-- What `State.keepWords` can change. -/
theorem State.keepWords_keeps {P : State → Prop} [KOports P] [KSent P]
    {s : State} {p : Nat} {f : Rec} (hs : Holds P s) : Holds P (State.keepWords s p f) := by
  unfold State.keepWords
  repeat' first
    | (with_reducible assumption)
    | (with_reducible apply State.modOport_keeps)
    | (with_reducible apply State.stopCheck_keeps)

/-- What `State.early` can change. -/
theorem State.early_keeps {P : State → Prop} [KOports P]
    {s : State} {p : Nat} {control : BitVec 20} (hs : Holds P s) : Holds P (State.early s p control) := by
  unfold State.early
  repeat' first
    | (with_reducible assumption)
    | (with_reducible apply State.modOport_keeps)
    | (intro _)
    | (with_reducible apply Holds.ite)

/-- What `flitIn` can change. -/
theorem flitIn_keeps {P : State → Prop} [KDies P] [KFlint P] [KFresh P] [KHosts P] [KOports P] [KRegs P] [KSent P]
    {p : Nat} {control : BitVec 20} {f : Rec} {corrected : Nat} {uncorrectable : Bool} {s : State} (hs : Holds P s) : Holds P (flitIn p control f corrected uncorrectable s) := by
  unfold flitIn
  repeat' first
    | (with_reducible assumption)
    | (with_reducible apply State.bump_keeps)
    | (refine HPair.get (State.codeword_keeps ?_) (by with_reducible assumption))
    | (with_reducible refine HPair.proj (State.codeword_keeps ?_))
    | (with_reducible apply State.early_keeps)
    | (with_reducible apply State.flitAck_keeps)
    | (with_reducible apply State.idleFlit_keeps)
    | (with_reducible apply State.keepWords_keeps)
    | (with_reducible apply State.modOport_keeps)
    | (with_reducible apply State.nack_keeps)
    | (with_reducible apply State.nacked_keeps)
    | (with_reducible apply State.noteClass1_keeps)
    | (refine HPair.get (State.overflows_keeps ?_) (by with_reducible assumption))
    | (with_reducible apply State.portViolation_keeps)
    | (intro _)
    | (with_reducible apply Holds.ite)
    | (dsimp only)
    | split

/-- What `searchDone` can change. -/
theorem searchDone_keeps {P : State → Prop} [KChip P] [KDies P] [KFlint P] [KFresh P] [KHosts P] [KMems P] [KOchans P] [KOports P] [KRegs P] [KSent P]
    {p : Nat} {full : Bool} {x2 : List (List Nat)} {s : State} (hs : Holds P s) : Holds P (searchDone p full x2 s) := by
  unfold searchDone
  repeat' first
    | (with_reducible assumption)
    | (with_reducible apply State.modOchan_keeps)
    | (with_reducible apply State.modOport_keeps)
    | (with_reducible apply State.portFault_keeps)
    | (with_reducible apply State.portOff_keeps)
    | (with_reducible apply State.sendTraining_keeps)
    | (with_reducible refine HPair.proj (State.take_keeps ?_))
    | (with_reducible apply Holds.foldl)
    | (intro _)
    | (with_reducible apply Holds.ite)
    | (dsimp only)
    | split

/-- What `State.rouse` can change. -/
theorem State.rouse_keeps {P : State → Prop} [KFresh P] [KOports P] [KSent P]
    {s : State} {p : Nat} (hs : Holds P s) : Holds P (State.rouse s p) := by
  unfold State.rouse
  repeat' first
    | (with_reducible assumption)
    | (with_reducible apply State.modOport_keeps)
    | (with_reducible apply State.sendTraining_keeps)
    | (intro _)
    | (with_reducible apply Holds.ite)

/-- What `trainingIn` can change. -/
theorem trainingIn_keeps {P : State → Prop} [KFlint P] [KFresh P] [KHosts P] [KOports P] [KRegs P] [KSent P]
    {p ring : Nat} {block : BitVec 340} {s : State} (hs : Holds P s) : Holds P (trainingIn p ring block s) := by
  unfold trainingIn
  repeat' first
    | (with_reducible assumption)
    | (with_reducible apply State.modOport_keeps)
    | (with_reducible apply State.portViolation_keeps)
    | (with_reducible apply State.rouse_keeps)
    | (with_reducible apply State.sendLink_keeps)
    | (with_reducible apply State.sendTraining_keeps)
    | (with_reducible refine HPair.proj (State.take_keeps ?_))
    | (intro _)
    | (with_reducible apply Holds.ite)

/-- What `State.identityFault` can change. -/
theorem State.identityFault_keeps {P : State → Prop} [KFlint P] [KFresh P] [KHosts P] [KOports P] [KRegs P] [KSent P]
    {s : State} {p : Nat} (hs : Holds P s) : Holds P (State.identityFault s p) := by
  unfold State.identityFault
  repeat' first
    | (with_reducible assumption)
    | (with_reducible apply State.modOport_keeps)
    | (with_reducible apply State.portFault_keeps)
    | (with_reducible apply State.portViolation_keeps)

/-- What `linkWordIn` can change. -/
theorem linkWordIn_keeps {P : State → Prop} [KChip P] [KDies P] [KFlint P] [KFresh P] [KHosts P] [KMems P] [KOports P] [KRegs P] [KSent P]
    {p : Nat} {control : BitVec 20} {c : Rec} {s : State} (hs : Holds P s) : Holds P (linkWordIn p control c s) := by
  unfold linkWordIn
  repeat' first
    | (with_reducible assumption)
    | (with_reducible apply State.identityFault_keeps)
    | (with_reducible apply State.modOport_keeps)
    | (with_reducible apply State.portFault_keeps)
    | (with_reducible apply State.portOff_keeps)
    | (with_reducible apply State.portUp_keeps)
    | (with_reducible apply State.portViolation_keeps)
    | (with_reducible apply State.sendLink_keeps)
    | (intro _)
    | (with_reducible apply Holds.ite)

/-- What `State.dormantRequest` can change. -/
theorem State.dormantRequest_keeps {P : State → Prop} [KOports P] [KSent P]
    {s : State} {p : Nat} (hs : Holds P s) : Holds P (State.dormantRequest s p) := by
  unfold State.dormantRequest
  repeat' first
    | (with_reducible assumption)
    | (with_reducible apply State.modOport_keeps)
    | (with_reducible apply State.nextManagement_keeps)
    | (intro _)
    | (with_reducible apply Holds.ite)

/-- What `State.dormantGrant` can change. -/
theorem State.dormantGrant_keeps {P : State → Prop} [KDies P] [KFlint P] [KFresh P] [KHosts P] [KMems P] [KOports P] [KRegs P] [KSent P]
    {s : State} {p : Nat} (hs : Holds P s) : Holds P (State.dormantGrant s p) := by
  unfold State.dormantGrant
  repeat' first
    | (with_reducible assumption)
    | (with_reducible apply State.modOport_keeps)
    | (with_reducible apply State.portViolation_keeps)
    | (with_reducible apply State.settleRetain_keeps)
    | (intro _)
    | (with_reducible apply Holds.ite)

/-- What `State.wakeRequest` can change. -/
theorem State.wakeRequest_keeps {P : State → Prop} [KDies P] [KFlint P] [KFresh P] [KHosts P] [KMems P] [KOports P] [KRegs P] [KSent P]
    {s : State} {p : Nat} (hs : Holds P s) : Holds P (State.wakeRequest s p) := by
  unfold State.wakeRequest
  repeat' first
    | (with_reducible assumption)
    | (with_reducible apply State.modOport_keeps)
    | (with_reducible apply State.portViolation_keeps)
    | (with_reducible apply State.sendTraining_keeps)
    | (with_reducible apply State.wakeDie_keeps)
    | (intro _)
    | (with_reducible apply Holds.ite)

/-- What `State.takeRequests` can change. -/
theorem State.takeRequests_keeps {P : State → Prop} [KDies P] [KFlint P] [KFresh P] [KHosts P] [KMems P] [KOports P] [KRegs P] [KSent P]
    {s : State} {p r : Nat} (hs : Holds P s) : Holds P (State.takeRequests s p r) := by
  unfold State.takeRequests
  repeat' first
    | (with_reducible assumption)
    | (with_reducible apply State.dormantGrant_keeps)
    | (with_reducible apply State.dormantRequest_keeps)
    | (with_reducible apply State.wakeRequest_keeps)
    | (intro _)
    | (with_reducible apply Holds.ite)

/-- What `State.takeBaselines` can change. -/
theorem State.takeBaselines_keeps {P : State → Prop} [KOchans P] [KOports P]
    {s : State} {p : Nat} (hs : Holds P s) : Holds P (State.takeBaselines s p) := by
  unfold State.takeBaselines
  repeat' first
    | (with_reducible assumption)
    | (with_reducible apply State.modOchan_keeps)
    | (with_reducible apply State.modOport_keeps)
    | (with_reducible apply Holds.foldl)
    | (intro _)
    | (with_reducible apply Holds.ite)

/-- What `managementIn` can change. -/
theorem managementIn_keeps {P : State → Prop} [KChip P] [KDies P] [KFlint P] [KFresh P] [KHosts P] [KMems P] [KOchans P] [KOports P] [KRegs P] [KSent P]
    {p : Nat} {control : BitVec 20} {c : Rec} {s : State} (hs : Holds P s) : Holds P (managementIn p control c s) := by
  unfold managementIn
  repeat' first
    | (with_reducible assumption)
    | (with_reducible apply State.bump_keeps)
    | (refine HPair.get (State.codeword_keeps ?_) (by with_reducible assumption))
    | (with_reducible refine HPair.proj (State.codeword_keeps ?_))
    | (with_reducible apply State.early_keeps)
    | (with_reducible apply State.flitAck_keeps)
    | (with_reducible apply State.modOchan_keeps)
    | (with_reducible apply State.modOport_keeps)
    | (with_reducible apply State.nack_keeps)
    | (with_reducible apply State.portDown_keeps)
    | (with_reducible apply State.portFault_keeps)
    | (with_reducible apply State.portViolation_keeps)
    | (with_reducible refine HPair.proj (State.take_keeps ?_))
    | (with_reducible apply State.takeBaselines_keeps)
    | (with_reducible apply State.takeRequests_keeps)
    | (with_reducible apply Holds.foldl)
    | (intro _)
    | (with_reducible apply Holds.ite)
    | (dsimp only)
    | split

/-- What `State.laserEvent` can change. -/
theorem State.laserEvent_keeps {P : State → Prop} [KFlint P] [KFresh P] [KHosts P] [KRegs P] [KSent P]
    {s : State} {o n what action : Nat} (hs : Holds P s) : Holds P (State.laserEvent s o n what action) := by
  unfold State.laserEvent
  repeat' first
    | (with_reducible assumption)
    | (with_reducible apply State.logEvent_keeps)

/-- What `State.changeLaser` can change. -/
theorem State.changeLaser_keeps {P : State → Prop} [KLasers P] [KRegs P]
    {s : State} {o n : Nat} {f : Laser → Laser} (hs : Holds P s) : Holds P (State.changeLaser s o n f) := by
  unfold State.changeLaser
  repeat' first
    | (with_reducible assumption)
    | (with_reducible apply State.modLaser_keeps)
    | (with_reducible apply State.setBit_keeps)

/-- What `State.noSuccessor` can change. -/
theorem State.noSuccessor_keeps {P : State → Prop} [KLasers P]
    {s : State} {o n : Nat} (hs : Holds P s) : Holds P (State.noSuccessor s o n) := by
  unfold State.noSuccessor
  repeat' first
    | (with_reducible assumption)
    | (with_reducible apply State.modLaser_keeps)

/-- What `State.setSuccessor` can change. -/
theorem State.setSuccessor_keeps {P : State → Prop} [KLasers P] [KRegs P]
    {s : State} {o n st : Nat} (hs : Holds P s) : Holds P (State.setSuccessor s o n st) := by
  unfold State.setSuccessor
  repeat' first
    | (with_reducible assumption)
    | (with_reducible apply State.changeLaser_keeps)
    | split

/-- What `State.spareBack` can change. -/
theorem State.spareBack_keeps {P : State → Prop} [KLasers P]
    {s : State} {o n : Nat} (hs : Holds P s) : Holds P (State.spareBack s o n) := by
  unfold State.spareBack
  repeat' first
    | (with_reducible assumption)
    | (with_reducible apply State.modLaser_keeps)
    | (with_reducible apply Holds.foldl)
    | (intro _)
    | (with_reducible apply Holds.ite)

/-- What `State.claimSuccessor` can change. -/
theorem State.claimSuccessor_keeps {P : State → Prop} [KLasers P] [KRegs P]
    {s : State} {o n : Nat} (hs : Holds P s) : HPair P (State.claimSuccessor s o n) := by
  unfold State.claimSuccessor
  repeat' first
    | (with_reducible assumption)
    | (with_reducible apply State.changeLaser_keeps)
    | (with_reducible apply State.modLaser_keeps)
    | (with_reducible apply HPair.ite)
    | (with_reducible apply HPair.ans)
    | (intro _)

/-- What `State.mapLaser` can change. -/
theorem State.mapLaser_keeps {P : State → Prop} [KRepair P]
    {s : State} {o n which st : Nat} (hs : Holds P s) : Holds P (State.mapLaser s o n which st) := by
  unfold State.mapLaser
  repeat' first
    | (with_reducible assumption)
    | (with_reducible apply State.mapEntry_keeps)

/-- What `State.handOver` can change. -/
theorem State.handOver_keeps {P : State → Prop} [KFlint P] [KFresh P] [KHosts P] [KLasers P] [KOchans P] [KRegs P] [KRepair P] [KSent P]
    {s : State} {o n : Nat} (hs : Holds P s) : Holds P (State.handOver s o n) := by
  unfold State.handOver
  repeat' first
    | (with_reducible assumption)
    | (with_reducible apply State.changeLaser_keeps)
    | (with_reducible apply State.laserEvent_keeps)
    | (with_reducible apply State.mapLaser_keeps)
    | (with_reducible apply State.modOchan_keeps)
    | (with_reducible apply State.setSuccessor_keeps)
    | (with_reducible apply State.summary_keeps)
    | (with_reducible apply Holds.foldl)
    | (intro _)
    | (with_reducible apply Holds.ite)
    | (dsimp only)
    | split

/-- What `State.channelDark` can change. -/
theorem State.channelDark_keeps {P : State → Prop} [KChip P] [KDies P] [KFlint P] [KFresh P] [KHosts P] [KLasers P] [KMems P] [KOports P] [KRegs P] [KRepair P] [KSent P]
    {s : State} {o n : Nat} (hs : Holds P s) : Holds P (State.channelDark s o n) := by
  unfold State.channelDark
  repeat' first
    | (with_reducible assumption)
    | (with_reducible apply State.changeLaser_keeps)
    | (with_reducible apply State.mapLaser_keeps)
    | (with_reducible apply State.portFault_keeps)
    | (with_reducible apply State.retirePort_keeps)
    | (with_reducible apply Holds.foldl)
    | (intro _)
    | (with_reducible apply Holds.ite)

/-- What `State.watchLaser` can change. -/
theorem State.watchLaser_keeps {P : State → Prop} [KChip P] [KDies P] [KFlint P] [KFresh P] [KHosts P] [KLasers P] [KMems P] [KOchans P] [KOports P] [KRegs P] [KRepair P] [KSent P]
    {s : State} {o n : Nat} {dark : Bool} (hs : Holds P s) : Holds P (State.watchLaser s o n dark) := by
  unfold State.watchLaser
  repeat' first
    | (with_reducible assumption)
    | (with_reducible apply State.channelDark_keeps)
    | (refine HPair.get (State.claimSuccessor_keeps ?_) (by with_reducible assumption))
    | (with_reducible apply State.handOver_keeps)
    | (with_reducible apply State.laserEvent_keeps)
    | (with_reducible apply State.modLaser_keeps)
    | (with_reducible apply State.noSuccessor_keeps)
    | (intro _)
    | (with_reducible apply Holds.ite)
    | split

/-- What `State.lossEvent` can change. -/
theorem State.lossEvent_keeps {P : State → Prop} [KFlint P] [KFresh P] [KHosts P] [KRegs P] [KSent P]
    {s : State} {p sect mask : Nat} (hs : Holds P s) : Holds P (State.lossEvent s p sect mask) := by
  unfold State.lossEvent
  repeat' first
    | (with_reducible assumption)
    | (with_reducible apply State.logEvent_keeps)

/-- What `monitorIn` can change. -/
theorem monitorIn_keeps {P : State → Prop} [KChip P] [KDies P] [KFlint P] [KFresh P] [KHosts P] [KLasers P] [KMems P] [KOchans P] [KOports P] [KRegs P] [KRepair P] [KSent P]
    {o n : Nat} {r : MonitorReadings} {s : State} (hs : Holds P s) : Holds P (monitorIn o n r s) := by
  unfold monitorIn
  repeat' first
    | (with_reducible assumption)
    | (with_reducible apply State.lossEvent_keeps)
    | (with_reducible apply State.modLaser_keeps)
    | (with_reducible apply State.modOchan_keeps)
    | (with_reducible apply State.modOport_keeps)
    | (with_reducible apply State.watchLaser_keeps)
    | (with_reducible apply Holds.foldl)
    | (intro _)
    | (with_reducible apply Holds.ite)

/-- What `ringFound` can change. -/
theorem ringFound_keeps {P : State → Prop} [KChip P] [KDies P] [KFlint P] [KFresh P] [KHosts P] [KMems P] [KOchans P] [KOports P] [KRegs P] [KSent P]
    {p n : Nat} {rx : Bool} {found : Option Nat} {s : State} (hs : Holds P s) : Holds P (ringFound p n rx found s) := by
  unfold ringFound
  repeat' first
    | (with_reducible assumption)
    | (with_reducible apply State.modOchan_keeps)
    | (with_reducible apply State.modOport_keeps)
    | (with_reducible apply State.portFault_keeps)
    | (with_reducible apply State.portOff_keeps)
    | (intro _)
    | (with_reducible apply Holds.ite)
    | (dsimp only)
    | split

/-- What `execFlitReceived` can change. -/
theorem execFlitReceived_keeps {P : State → Prop} [KDies P] [KFlint P] [KFresh P] [KHosts P] [KOports P] [KRegs P] [KSent P]
    {port : Nat} {control : BitVec 20} {flit : Rec} {corrected : Nat} {uncorrectable : Bool} {s : State} (hs : Holds P s) : HNext P (execFlitReceived port control flit corrected uncorrectable s) := by
  unfold execFlitReceived
  repeat' first
    | (with_reducible assumption)
    | (with_reducible apply flitIn_keeps)
    | (with_reducible apply HNext.ans)

/-- What `execNackReceived` can change. -/
theorem execNackReceived_keeps {P : State → Prop} [KDies P] [KFlint P] [KFresh P] [KHosts P] [KOports P] [KRegs P] [KSent P]
    {port : Nat} {ack : Word32} {s : State} (hs : Holds P s) : HNext P (execNackReceived port ack s) := by
  unfold execNackReceived
  repeat' first
    | (with_reducible assumption)
    | (with_reducible apply State.nacked_keeps)
    | (with_reducible apply HNext.ans)
    | (intro _)
    | (with_reducible apply Holds.ite)

/-- What `execNackTimeout` can change. -/
theorem execNackTimeout_keeps {P : State → Prop} [KChip P] [KDies P] [KFlint P] [KFresh P] [KHosts P] [KMems P] [KOports P] [KRegs P] [KSent P]
    {port : Nat} {s : State} (hs : Holds P s) : HNext P (execNackTimeout port s) := by
  unfold execNackTimeout
  repeat' first
    | (with_reducible assumption)
    | (with_reducible apply State.idleFlit_keeps)
    | (with_reducible apply State.modOport_keeps)
    | (with_reducible apply State.portDown_keeps)
    | (with_reducible apply State.portFault_keeps)
    | (with_reducible apply HNext.ans)
    | (intro _)
    | (with_reducible apply Holds.ite)

/-- What `execLinkDownTimeExpiry` can change. -/
theorem execLinkDownTimeExpiry_keeps {P : State → Prop} [KChip P] [KDies P] [KFlint P] [KFresh P] [KHosts P] [KMems P] [KOports P] [KRegs P] [KSent P]
    {port : Nat} {s : State} (hs : Holds P s) : HNext P (execLinkDownTimeExpiry port s) := by
  unfold execLinkDownTimeExpiry
  repeat' first
    | (with_reducible assumption)
    | (with_reducible apply State.portDown_keeps)
    | (with_reducible apply State.portFault_keeps)
    | (with_reducible apply HNext.ans)
    | (intro _)
    | (with_reducible apply Holds.ite)

/-- What `execLossOfLight` can change. -/
theorem execLossOfLight_keeps {P : State → Prop} [KChip P] [KDies P] [KFlint P] [KFresh P] [KHosts P] [KMems P] [KOports P] [KRegs P] [KSent P]
    {port : Nat} {s : State} (hs : Holds P s) : HNext P (execLossOfLight port s) := by
  unfold execLossOfLight
  repeat' first
    | (with_reducible assumption)
    | (with_reducible apply State.modOport_keeps)
    | (with_reducible apply State.portDown_keeps)
    | (with_reducible apply State.portFault_keeps)
    | (with_reducible apply State.portOff_keeps)
    | (with_reducible apply HNext.ans)
    | (dsimp only)
    | split

/-- What `execLightPresent` can change. -/
theorem execLightPresent_keeps {P : State → Prop} [KOports P]
    {port : Nat} {s : State} (hs : Holds P s) : HNext P (execLightPresent port s) := by
  unfold execLightPresent
  repeat' first
    | (with_reducible assumption)
    | (with_reducible apply State.modOport_keeps)
    | (with_reducible apply HNext.ans)
    | (intro _)
    | (with_reducible apply Holds.ite)

/-- What `execReceiveSearchComplete` can change. -/
theorem execReceiveSearchComplete_keeps {P : State → Prop} [KChip P] [KDies P] [KFlint P] [KFresh P] [KHosts P] [KMems P] [KOchans P] [KOports P] [KRegs P] [KSent P]
    {port : Nat} {full : Bool} {codes : List (List Nat)} {s : State} (hs : Holds P s) : HNext P (execReceiveSearchComplete port full codes s) := by
  unfold execReceiveSearchComplete
  repeat' first
    | (with_reducible assumption)
    | (with_reducible apply searchDone_keeps)
    | (with_reducible apply HNext.ans)

/-- What `execTrainingBlockReceived` can change. -/
theorem execTrainingBlockReceived_keeps {P : State → Prop} [KFlint P] [KFresh P] [KHosts P] [KOports P] [KRegs P] [KSent P]
    {port ring : Nat} {block : BitVec 340} {s : State} (hs : Holds P s) : HNext P (execTrainingBlockReceived port ring block s) := by
  unfold execTrainingBlockReceived
  repeat' first
    | (with_reducible assumption)
    | (with_reducible apply trainingIn_keeps)
    | (with_reducible apply HNext.ans)

/-- What `execLinkCodewordReceived` can change. -/
theorem execLinkCodewordReceived_keeps {P : State → Prop} [KChip P] [KDies P] [KFlint P] [KFresh P] [KHosts P] [KMems P] [KOports P] [KRegs P] [KSent P]
    {port : Nat} {control : BitVec 20} {content : Rec} {s : State} (hs : Holds P s) : HNext P (execLinkCodewordReceived port control content s) := by
  unfold execLinkCodewordReceived
  repeat' first
    | (with_reducible assumption)
    | (with_reducible apply linkWordIn_keeps)
    | (with_reducible apply HNext.ans)

/-- What `execIdentityRetry` can change. -/
theorem execIdentityRetry_keeps {P : State → Prop} [KOports P] [KSent P]
    {port : Nat} {s : State} (hs : Holds P s) : HNext P (execIdentityRetry port s) := by
  unfold execIdentityRetry
  repeat' first
    | (with_reducible assumption)
    | (with_reducible apply State.modOport_keeps)
    | (with_reducible apply State.sendLink_keeps)
    | (with_reducible apply HNext.ans)
    | (intro _)
    | (with_reducible apply Holds.ite)

/-- What `execManagementCodewordReceived` can change. -/
theorem execManagementCodewordReceived_keeps {P : State → Prop} [KChip P] [KDies P] [KFlint P] [KFresh P] [KHosts P] [KMems P] [KOchans P] [KOports P] [KRegs P] [KSent P]
    {port : Nat} {control : BitVec 20} {content : Rec} {s : State} (hs : Holds P s) : HNext P (execManagementCodewordReceived port control content s) := by
  unfold execManagementCodewordReceived
  repeat' first
    | (with_reducible assumption)
    | (with_reducible apply managementIn_keeps)
    | (with_reducible apply HNext.ans)

/-- What `execDormantRequest` can change. -/
theorem execDormantRequest_keeps {P : State → Prop} [KOports P] [KSent P]
    {port : Nat} {s : State} (hs : Holds P s) : HNext P (execDormantRequest port s) := by
  unfold execDormantRequest
  repeat' first
    | (with_reducible assumption)
    | (with_reducible apply State.dormantRequest_keeps)
    | (with_reducible apply HNext.ans)

/-- What `execDormantGrant` can change. -/
theorem execDormantGrant_keeps {P : State → Prop} [KDies P] [KFlint P] [KFresh P] [KHosts P] [KMems P] [KOports P] [KRegs P] [KSent P]
    {port : Nat} {s : State} (hs : Holds P s) : HNext P (execDormantGrant port s) := by
  unfold execDormantGrant
  repeat' first
    | (with_reducible assumption)
    | (with_reducible apply State.dormantGrant_keeps)
    | (with_reducible apply HNext.ans)

/-- What `execDormantGrantTimeout` can change. -/
theorem execDormantGrantTimeout_keeps {P : State → Prop} [KChip P] [KDies P] [KFlint P] [KFresh P] [KHosts P] [KMems P] [KOports P] [KRegs P] [KSent P]
    {port : Nat} {s : State} (hs : Holds P s) : HNext P (execDormantGrantTimeout port s) := by
  unfold execDormantGrantTimeout
  repeat' first
    | (with_reducible assumption)
    | (with_reducible apply State.portOff_keeps)
    | (with_reducible apply State.settleRetain_keeps)
    | (with_reducible apply HNext.ans)
    | (intro _)
    | (with_reducible apply Holds.ite)

/-- What `execWakeRequest` can change. -/
theorem execWakeRequest_keeps {P : State → Prop} [KDies P] [KFlint P] [KFresh P] [KHosts P] [KMems P] [KOports P] [KRegs P] [KSent P]
    {port : Nat} {s : State} (hs : Holds P s) : HNext P (execWakeRequest port s) := by
  unfold execWakeRequest
  repeat' first
    | (with_reducible assumption)
    | (with_reducible apply State.wakeRequest_keeps)
    | (with_reducible apply HNext.ans)

/-- What `execReceiveOverload` can change. -/
theorem execReceiveOverload_keeps {P : State → Prop} [KChip P] [KDies P] [KFlint P] [KFresh P] [KHosts P] [KMems P] [KOports P] [KRegs P] [KSent P]
    {port : Nat} {s : State} (hs : Holds P s) : HNext P (execReceiveOverload port s) := by
  unfold execReceiveOverload
  repeat' first
    | (with_reducible assumption)
    | (with_reducible apply State.modOport_keeps)
    | (with_reducible apply State.portFault_keeps)
    | (with_reducible apply State.portOff_keeps)
    | (with_reducible apply HNext.ans)
    | (intro _)
    | (with_reducible apply Holds.ite)

/-- What `execOverloadHoldExpiry` can change. -/
theorem execOverloadHoldExpiry_keeps {P : State → Prop} [KFresh P] [KOports P] [KSent P]
    {port : Nat} {s : State} (hs : Holds P s) : HNext P (execOverloadHoldExpiry port s) := by
  unfold execOverloadHoldExpiry
  repeat' first
    | (with_reducible assumption)
    | (with_reducible apply State.modOport_keeps)
    | (with_reducible apply State.sendTraining_keeps)
    | (with_reducible apply HNext.ans)
    | (intro _)
    | (with_reducible apply Holds.ite)

/-- What `execMonitorSample` can change. -/
theorem execMonitorSample_keeps {P : State → Prop} [KChip P] [KDies P] [KFlint P] [KFresh P] [KHosts P] [KLasers P] [KMems P] [KOchans P] [KOports P] [KRegs P] [KRepair P] [KSent P]
    {opal channel : Nat} {r : MonitorReadings} {s : State} (hs : Holds P s) : HNext P (execMonitorSample opal channel r s) := by
  unfold execMonitorSample
  repeat' first
    | (with_reducible assumption)
    | (with_reducible apply monitorIn_keeps)
    | (with_reducible apply HNext.ans)

/-- What `execSuccessorStandby` can change. -/
theorem execSuccessorStandby_keeps {P : State → Prop} [KLasers P] [KRegs P]
    {opal channel : Nat} {s : State} (hs : Holds P s) : HNext P (execSuccessorStandby opal channel s) := by
  unfold execSuccessorStandby
  repeat' first
    | (with_reducible assumption)
    | (with_reducible apply State.modLaser_keeps)
    | (with_reducible apply State.setSuccessor_keeps)
    | (with_reducible apply HNext.ans)
    | (intro _)
    | (with_reducible apply Holds.ite)

/-- What `execCrossFadeComplete` can change. -/
theorem execCrossFadeComplete_keeps {P : State → Prop} [KFlint P] [KFresh P] [KHosts P] [KLasers P] [KOchans P] [KRegs P] [KRepair P] [KSent P]
    {opal channel : Nat} {s : State} (hs : Holds P s) : HNext P (execCrossFadeComplete opal channel s) := by
  unfold execCrossFadeComplete
  repeat' first
    | (with_reducible assumption)
    | (with_reducible apply State.handOver_keeps)
    | (with_reducible apply HNext.ans)
    | (intro _)
    | (with_reducible apply Holds.ite)

/-- What `execSuccessorRelease` can change. -/
theorem execSuccessorRelease_keeps {P : State → Prop} [KLasers P] [KRegs P]
    {opal channel : Nat} {s : State} (hs : Holds P s) : HNext P (execSuccessorRelease opal channel s) := by
  unfold execSuccessorRelease
  repeat' first
    | (with_reducible assumption)
    | (with_reducible apply State.modLaser_keeps)
    | (with_reducible apply State.setSuccessor_keeps)
    | (with_reducible apply State.spareBack_keeps)
    | (with_reducible apply HNext.ans)
    | (intro _)
    | (with_reducible apply Holds.ite)

/-- What `execRingLockLost` can change. -/
theorem execRingLockLost_keeps {P : State → Prop} [KFresh P] [KOchans P] [KOports P] [KRegs P] [KSent P]
    {port channel : Nat} {rx : Bool} {s : State} (hs : Holds P s) : HNext P (execRingLockLost port channel rx s) := by
  unfold execRingLockLost
  repeat' first
    | (with_reducible assumption)
    | (with_reducible apply State.modOchan_keeps)
    | (with_reducible apply State.modOport_keeps)
    | (with_reducible apply State.sendTraining_keeps)
    | (with_reducible apply State.setBit_keeps)
    | (with_reducible apply HNext.ans)
    | (intro _)
    | (with_reducible apply Holds.ite)

/-- What `execRingSearchComplete` can change. -/
theorem execRingSearchComplete_keeps {P : State → Prop} [KChip P] [KDies P] [KFlint P] [KFresh P] [KHosts P] [KMems P] [KOchans P] [KOports P] [KRegs P] [KSent P]
    {port channel : Nat} {rx : Bool} {found : Option Nat} {s : State} (hs : Holds P s) : HNext P (execRingSearchComplete port channel rx found s) := by
  unfold execRingSearchComplete
  repeat' first
    | (with_reducible assumption)
    | (with_reducible apply ringFound_keeps)
    | (with_reducible apply HNext.ans)

/-- What `execRingHop` can change. -/
theorem execRingHop_keeps {P : State → Prop} [KFlint P] [KFresh P] [KHosts P] [KOchans P] [KRegs P] [KSent P]
    {port channel : Nat} {rx : Bool} {s : State} (hs : Holds P s) : HNext P (execRingHop port channel rx s) := by
  unfold execRingHop
  repeat' first
    | (with_reducible assumption)
    | (with_reducible apply State.logEvent_keeps)
    | (with_reducible apply State.modOchan_keeps)
    | (with_reducible apply State.setBit_keeps)
    | (with_reducible refine HPair.proj (State.take_keeps ?_))
    | (with_reducible apply HNext.ans)
    | (intro _)
    | (with_reducible apply Holds.ite)

/-- What `State.edgeBit` can change. -/
theorem State.edgeBit_keeps {P : State → Prop} [KRegs P]
    {s : State} {d e b : Nat} (hs : Holds P s) : Holds P (State.edgeBit s d e b) := by
  unfold State.edgeBit
  repeat' first
    | (with_reducible assumption)
    | (with_reducible apply State.setBit_keeps)
    | (intro _)
    | (with_reducible apply Holds.ite)

/-- What `State.edgeBump` can change. -/
theorem State.edgeBump_keeps {P : State → Prop} [KRegs P]
    {s : State} {d e hi lo n : Nat} (hs : Holds P s) : Holds P (State.edgeBump s d e hi lo n) := by
  unfold State.edgeBump
  repeat' first
    | (with_reducible assumption)
    | (with_reducible apply State.bump_keeps)
    | (intro _)
    | (with_reducible apply Holds.ite)

/-- What `State.laneFault` can change. -/
theorem State.laneFault_keeps {P : State → Prop} [KFlint P] [KRegs P]
    {s : State} {d e code : Nat} {escalates : Bool} (hs : Holds P s) : Holds P (State.laneFault s d e code escalates) := by
  unfold State.laneFault
  repeat' first
    | (with_reducible assumption)
    | (with_reducible apply State.report_keeps)
    | (with_reducible apply State.setBit_keeps)
    | (with_reducible apply State.setField_keeps)
    | (intro _)
    | (with_reducible apply Holds.ite)

/-- What `State.lane` can change. -/
theorem State.lane_keeps {P : State → Prop} [KSent P]
    {s : State} {d e : Nat} {msg : String} {arg : Nat} (hs : Holds P s) : Holds P (State.lane s d e msg arg) := by
  unfold State.lane
  repeat' first
    | (with_reducible assumption)
    | (with_reducible apply State.emit_keeps)

/-- What `State.serviceLane` can change. -/
theorem State.serviceLane_keeps {P : State → Prop} [KSent P]
    {s : State} {d e : Nat} {msg : String} {arg : Nat} (hs : Holds P s) : Holds P (State.serviceLane s d e msg arg) := by
  unfold State.serviceLane
  repeat' first
    | (with_reducible assumption)
    | (with_reducible apply State.emit_keeps)

/-- What `State.failEdge` can change. -/
theorem State.failEdge_keeps {P : State → Prop} [KEdges P] [KFlint P] [KHosts P] [KRegs P] [KRepair P] [KSent P]
    {s : State} {d e : Nat} (hs : Holds P s) : Holds P (State.failEdge s d e) := by
  unfold State.failEdge
  repeat' first
    | (with_reducible assumption)
    | (with_reducible apply State.capability_keeps)
    | (with_reducible apply State.laneFault_keeps)
    | (with_reducible apply State.modEdge_keeps)
    | (with_reducible apply State.modRepair_keeps)
    | (intro _)
    | (with_reducible apply Holds.ite)

/-- What `State.widthLost` can change. -/
theorem State.widthLost_keeps {P : State → Prop} [KChip P] [KDies P] [KEdges P] [KFlint P] [KFresh P] [KHosts P] [KMems P] [KOports P] [KRegs P] [KRepair P] [KSent P]
    {s : State} {d e g : Nat} (hs : Holds P s) : Holds P (State.widthLost s d e g) := by
  unfold State.widthLost
  repeat' first
    | (with_reducible assumption)
    | (with_reducible apply State.failEdge_keeps)
    | (with_reducible apply State.laneFault_keeps)
    | (with_reducible apply State.retirePort_keeps)
    | (intro _)
    | (with_reducible apply Holds.ite)

/-- What `State.bindSegment` can change. -/
theorem State.bindSegment_keeps {P : State → Prop} [KEdges P] [KSent P]
    {s : State} {d e : Nat} {seg : Nat × Nat} (hs : Holds P s) : Holds P (State.bindSegment s d e seg) := by
  unfold State.bindSegment
  repeat' first
    | (with_reducible assumption)
    | (with_reducible apply State.modEdge_keeps)
    | (with_reducible apply State.serviceLane_keeps)
    | split

/-- What `State.takeIn` can change. -/
theorem State.takeIn_keeps {P : State → Prop} [KEdges P] [KFlint P] [KHosts P] [KRegs P] [KRepair P] [KSent P]
    {s : State} {d e q : Nat} (hs : Holds P s) : Holds P (State.takeIn s d e q) := by
  unfold State.takeIn
  repeat' first
    | (with_reducible assumption)
    | (with_reducible apply State.failEdge_keeps)
    | (with_reducible apply State.modEdge_keeps)
    | (intro _)
    | (with_reducible apply Holds.ite)
    | (dsimp only)
    | split

/-- What `State.groupFreed` can change. -/
theorem State.groupFreed_keeps {P : State → Prop} [KEdges P] [KFlint P] [KHosts P] [KRegs P] [KRepair P] [KSent P]
    {s : State} {d e : Nat} (hs : Holds P s) : Holds P (State.groupFreed s d e) := by
  unfold State.groupFreed
  repeat' first
    | (with_reducible assumption)
    | (with_reducible apply State.bindSegment_keeps)
    | (with_reducible apply State.modEdge_keeps)
    | (with_reducible apply State.takeIn_keeps)
    | (intro _)
    | (with_reducible apply Holds.ite)
    | (dsimp only)
    | split

/-- What `State.retireGroup` can change. -/
theorem State.retireGroup_keeps {P : State → Prop} [KChip P] [KDies P] [KEdges P] [KFlint P] [KFresh P] [KHosts P] [KMems P] [KOports P] [KRegs P] [KRepair P] [KSent P]
    {s : State} {d e g : Nat} (hs : Holds P s) : Holds P (State.retireGroup s d e g) := by
  unfold State.retireGroup
  repeat' first
    | (with_reducible assumption)
    | (with_reducible apply State.bindSegment_keeps)
    | (with_reducible apply State.capability_keeps)
    | (with_reducible apply State.edgeBit_keeps)
    | (with_reducible apply State.laneFault_keeps)
    | (with_reducible apply State.mapEntry_keeps)
    | (with_reducible apply State.modEdge_keeps)
    | (with_reducible apply State.summary_keeps)
    | (with_reducible apply State.widthLost_keeps)
    | split

/-- What `State.serveLane` can change. -/
theorem State.serveLane_keeps {P : State → Prop} [KEdges P] [KSent P]
    {s : State} {d e lane : Nat} {urgent : Bool} (hs : Holds P s) : Holds P (State.serveLane s d e lane urgent) := by
  unfold State.serveLane
  repeat' first
    | (with_reducible assumption)
    | (with_reducible apply State.lane_keeps)
    | (with_reducible apply State.modEdge_keeps)
    | (intro _)
    | (with_reducible apply Holds.ite)
    | split

/-- What `State.nextSwap` can change. -/
theorem State.nextSwap_keeps {P : State → Prop} [KEdges P] [KSent P]
    {s : State} {d e : Nat} (hs : Holds P s) : Holds P (State.nextSwap s d e) := by
  unfold State.nextSwap
  repeat' first
    | (with_reducible assumption)
    | (with_reducible apply State.modEdge_keeps)
    | (with_reducible apply State.serveLane_keeps)
    | (dsimp only)
    | split

/-- What `State.dealGangs` can change. -/
theorem State.dealGangs_keeps {P : State → Prop} [KEdges P]
    {s : State} {pl : Plan} (hs : Holds P s) : Holds P (State.dealGangs s pl) := by
  unfold State.dealGangs
  repeat' first
    | (with_reducible assumption)
    | (with_reducible apply State.modEdge_keeps)
    | (with_reducible apply Holds.foldl)
    | (intro _)
    | (dsimp only)
    | (apply KEdges.keep)

/-- What `State.formGangs` can change. -/
theorem State.formGangs_keeps {P : State → Prop} [KEdges P] [KFlint P] [KGangPairs P] [KHosts P] [KRegs P] [KRepair P] [KSent P]
    {s : State} {pl : Plan} (hs : Holds P s) : Holds P (State.formGangs s pl) := by
  unfold State.formGangs
  repeat' first
    | (with_reducible assumption)
    | (with_reducible apply State.dealGangs_keeps)
    | (with_reducible apply State.failEdge_keeps)
    | (with_reducible apply Holds.foldl)
    | (intro _)
    | (with_reducible apply Holds.ite)
    | (dsimp only)
    | (apply KGangPairs.keep)

/-- What `State.halfWidth` can change. -/
theorem State.halfWidth_keeps {P : State → Prop} [KChip P] [KDies P] [KEdges P] [KFlint P] [KFresh P] [KHosts P] [KMems P] [KOports P] [KRegs P] [KRepair P] [KSent P]
    {s : State} {die edge group lane : Nat} (hs : Holds P s) : Holds P (State.halfWidth s die edge group lane) := by
  unfold State.halfWidth
  repeat' first
    | (with_reducible assumption)
    | (with_reducible apply State.capability_keeps)
    | (with_reducible apply State.edgeBit_keeps)
    | (with_reducible apply State.lane_keeps)
    | (with_reducible apply State.mapEntry_keeps)
    | (with_reducible apply State.modEdge_keeps)
    | (with_reducible apply State.nextSwap_keeps)
    | (with_reducible apply State.retireGroup_keeps)
    | (with_reducible apply State.widthLost_keeps)
    | (intro _)
    | (with_reducible apply Holds.ite)

/-- What `State.swapEnded` can change. -/
theorem State.swapEnded_keeps {P : State → Prop} [KChip P] [KDies P] [KEdges P] [KFlint P] [KFresh P] [KHosts P] [KMems P] [KOports P] [KRegs P] [KRepair P] [KSent P]
    {s : State} {d e : Nat} (hs : Holds P s) : Holds P (State.swapEnded s d e) := by
  unfold State.swapEnded
  repeat' first
    | (with_reducible assumption)
    | (with_reducible apply State.halfWidth_keeps)
    | (with_reducible apply State.modEdge_keeps)
    | (with_reducible apply Holds.foldl)
    | (intro _)

/-- What `State.poisonGang` can change. -/
theorem State.poisonGang_keeps {P : State → Prop} [KOports P]
    {s : State} {d e g n : Nat} (hs : Holds P s) : Holds P (State.poisonGang s d e g n) := by
  unfold State.poisonGang
  repeat' first
    | (with_reducible assumption)
    | (with_reducible apply State.modOport_keeps)
    | (intro _)
    | (with_reducible apply Holds.ite)
    | (dsimp only)
    | split

/-- What `State.serveCrc` can change. -/
theorem State.serveCrc_keeps {P : State → Prop} [KEdges P] [KSent P]
    {s : State} {d e : Nat} {bad : List Nat} (hs : Holds P s) : Holds P (State.serveCrc s d e bad) := by
  unfold State.serveCrc
  repeat' first
    | (with_reducible assumption)
    | (with_reducible apply State.serveLane_keeps)
    | (with_reducible apply Holds.foldl)
    | (intro _)
    | (with_reducible apply Holds.ite)
    | (dsimp only)
    | split

/-- What `State.frameKept` can change. -/
theorem State.frameKept_keeps {P : State → Prop} [KEdges P] [KRegs P] [KSent P]
    {s : State} {d e g : Nat} {f : LaneFrame} (hs : Holds P s) : Holds P (State.frameKept s d e g f) := by
  unfold State.frameKept
  repeat' first
    | (with_reducible assumption)
    | (with_reducible apply State.edgeBit_keeps)
    | (with_reducible apply State.edgeBump_keeps)
    | (with_reducible apply State.lane_keeps)
    | (with_reducible apply State.modEdge_keeps)
    | (intro _)
    | (with_reducible apply Holds.ite)

/-- What `State.replayLost` can change. -/
theorem State.replayLost_keeps {P : State → Prop} [KChip P] [KContexts P] [KEdges P] [KFlint P] [KRegs P] [KRepair P]
    {s : State} {d e g : Nat} {what : ReplayLoss} (hs : Holds P s) : Holds P (State.replayLost s d e g what) := by
  unfold State.replayLost
  repeat' first
    | (with_reducible assumption)
    | (with_reducible apply State.coreFault_keeps)
    | (with_reducible apply State.laneFault_keeps)
    | (with_reducible apply State.modEdge_keeps)
    | (with_reducible apply State.streamFault_keeps)
    | (intro _)
    | (with_reducible apply Holds.ite)
    | (dsimp only)
    | split

/-- What `execSegmentBind` can change. -/
theorem execSegmentBind_keeps {P : State → Prop} [KChip P] [KEdges P] [KSent P]
    {die edge stream words : Nat} {s : State} (hs : Holds P s) : HNext P (execSegmentBind die edge stream words s) := by
  unfold execSegmentBind
  repeat' first
    | (with_reducible assumption)
    | (with_reducible apply State.bindSegment_keeps)
    | (with_reducible apply State.modStream_keeps)
    | (with_reducible apply HNext.ans)
    | (intro _)
    | (with_reducible apply Holds.ite)

/-- What `execSegmentAcknowledged` can change. -/
theorem execSegmentAcknowledged_keeps {P : State → Prop} [KEdges P] [KFlint P] [KHosts P] [KRegs P] [KRepair P] [KSent P]
    {die edge group : Nat} {s : State} (hs : Holds P s) : HNext P (execSegmentAcknowledged die edge group s) := by
  unfold execSegmentAcknowledged
  repeat' first
    | (with_reducible assumption)
    | (with_reducible apply State.groupFreed_keeps)
    | (with_reducible apply State.modEdge_keeps)
    | (with_reducible apply HNext.ans)
    | (intro _)
    | (with_reducible apply Holds.ite)

/-- What `execLaneFrameReceived` can change. -/
theorem execLaneFrameReceived_keeps {P : State → Prop} [KChip P] [KContexts P] [KEdges P] [KFlint P] [KOports P] [KRegs P] [KRepair P] [KSent P]
    {die edge group : Nat} {f : LaneFrame} {s : State} (hs : Holds P s) : HNext P (execLaneFrameReceived die edge group f s) := by
  unfold execLaneFrameReceived
  repeat' first
    | (with_reducible assumption)
    | (with_reducible apply State.edgeBump_keeps)
    | (with_reducible apply State.frameKept_keeps)
    | (with_reducible apply State.modEdge_keeps)
    | (with_reducible apply State.poisonGang_keeps)
    | (with_reducible apply State.replayLost_keeps)
    | (with_reducible apply State.serveCrc_keeps)
    | (with_reducible apply HNext.ans)
    | (intro _)
    | (with_reducible apply Holds.ite)

/-- What `execLaneMarginUpdate` can change. -/
theorem execLaneMarginUpdate_keeps {P : State → Prop} [KEdges P] [KFlint P] [KFresh P] [KHosts P] [KRegs P] [KSent P]
    {die edge lane margin crcPerSecond crcRun : Nat} {s : State} (hs : Holds P s) : HNext P (execLaneMarginUpdate die edge lane margin crcPerSecond crcRun s) := by
  unfold execLaneMarginUpdate
  repeat' first
    | (with_reducible assumption)
    | (with_reducible apply State.lane_keeps)
    | (with_reducible apply State.logEvent_keeps)
    | (with_reducible apply State.modEdge_keeps)
    | (with_reducible apply State.serveLane_keeps)
    | (with_reducible apply HNext.ans)
    | (intro _)
    | (with_reducible apply Holds.ite)
    | (dsimp only)
    | split

/-- What `execLaneSwapRequest` can change. -/
theorem execLaneSwapRequest_keeps {P : State → Prop} [KEdges P] [KSent P]
    {die edge lane spare : Nat} {s : State} (hs : Holds P s) : HNext P (execLaneSwapRequest die edge lane spare s) := by
  unfold execLaneSwapRequest
  repeat' first
    | (with_reducible assumption)
    | (with_reducible apply State.lane_keeps)
    | (with_reducible apply State.modEdge_keeps)
    | (with_reducible apply HNext.ans)
    | (intro _)
    | (with_reducible apply Holds.ite)
    | split

/-- What `execSpareCompareComplete` can change. -/
theorem execSpareCompareComplete_keeps {P : State → Prop} [KChip P] [KDies P] [KEdges P] [KFlint P] [KFresh P] [KHosts P] [KMems P] [KOports P] [KRegs P] [KRepair P] [KSent P]
    {die edge : Nat} {matched : Bool} {s : State} (hs : Holds P s) : HNext P (execSpareCompareComplete die edge matched s) := by
  unfold execSpareCompareComplete
  repeat' first
    | (with_reducible assumption)
    | (with_reducible apply State.lane_keeps)
    | (with_reducible apply State.laneFault_keeps)
    | (with_reducible apply State.mapEntry_keeps)
    | (with_reducible apply State.modEdge_keeps)
    | (with_reducible apply State.serveLane_keeps)
    | (with_reducible apply State.swapEnded_keeps)
    | (with_reducible apply HNext.ans)
    | (intro _)
    | (with_reducible apply Holds.ite)
    | (dsimp only)
    | split

/-- What `execSpareSwitch` can change. -/
theorem execSpareSwitch_keeps {P : State → Prop} [KChip P] [KDies P] [KEdges P] [KFlint P] [KFresh P] [KHosts P] [KMems P] [KOports P] [KRegs P] [KRepair P] [KSent P]
    {die edge : Nat} {s : State} (hs : Holds P s) : HNext P (execSpareSwitch die edge s) := by
  unfold execSpareSwitch
  repeat' first
    | (with_reducible assumption)
    | (with_reducible apply State.edgeBit_keeps)
    | (with_reducible apply State.edgeBump_keeps)
    | (with_reducible apply State.lane_keeps)
    | (with_reducible apply State.logEvent_keeps)
    | (with_reducible apply State.mapEntry_keeps)
    | (with_reducible apply State.modEdge_keeps)
    | (with_reducible apply State.nextSwap_keeps)
    | (with_reducible apply State.summary_keeps)
    | (with_reducible apply State.swapEnded_keeps)
    | (with_reducible apply HNext.ans)
    | (intro _)
    | (with_reducible apply Holds.ite)
    | (dsimp only)
    | split

/-- What `execHalfWidthSwitch` can change. -/
theorem execHalfWidthSwitch_keeps {P : State → Prop} [KChip P] [KDies P] [KEdges P] [KFlint P] [KFresh P] [KHosts P] [KMems P] [KOports P] [KRegs P] [KRepair P] [KSent P]
    {die edge group lane : Nat} {s : State} (hs : Holds P s) : HNext P (execHalfWidthSwitch die edge group lane s) := by
  unfold execHalfWidthSwitch
  repeat' first
    | (with_reducible assumption)
    | (with_reducible apply State.halfWidth_keeps)
    | (with_reducible apply HNext.ans)

/-- What `execGangTakeIn` can change. -/
theorem execGangTakeIn_keeps {P : State → Prop} [KEdges P] [KFlint P] [KHosts P] [KRegs P] [KRepair P] [KSent P]
    {die edge plane : Nat} {s : State} (hs : Holds P s) : HNext P (execGangTakeIn die edge plane s) := by
  unfold execGangTakeIn
  repeat' first
    | (with_reducible assumption)
    | (with_reducible apply State.takeIn_keeps)
    | (with_reducible apply HNext.ans)

end Sys2Proof.Machine
end

