-- ==== Sys2Proof/Laws/KeepsHost.lean ====
section
/-! SUPPORT. Footprints of the fault handler and the mailbox commands: for each operation the parts of the state it can change (see Keeps). -/

namespace Sys2Proof.Machine

/-- What `State.note` can change. -/
theorem State.note_keeps {P : State → Prop} [KFlint P] [KFresh P] [KHosts P] [KRegs P] [KSent P]
    {s : State} {r : Report} {action flags : Nat} (hs : Holds P s) : Holds P (State.note s r action flags) := by
  unfold State.note
  repeat' first
    | (with_reducible assumption)
    | (with_reducible apply State.logEvent_keeps)
    | (with_reducible apply State.raiseBoth_keeps)
    | (with_reducible apply State.summarise_keeps)
    | (with_reducible refine HPair.proj (State.take_keeps ?_))
    | (with_reducible refine HPair.proj (State.takeBytes_keeps ?_))

/-- What `State.reloadPlane` can change. -/
theorem State.reloadPlane_keeps {P : State → Prop} [KChip P] [KRegs P] [KRepair P]
    {s : State} {c plane e : Nat} (hs : Holds P s) : HOk P (Holds P) (State.reloadPlane s c plane e) := by
  unfold State.reloadPlane
  repeat' first
    | (with_reducible assumption)
    | (refine HOk.get (State.fillPlane_keeps ?_) (by with_reducible assumption))
    | (refine BankErr.of (HOk.getE (State.fillPlane_keeps ?_) (by with_reducible assumption)))
    | (with_reducible apply HOk.ite)
    | (with_reducible apply HOk.ans)
    | (with_reducible apply HOk.err)
    | (intro _)
    | split

/-- What `State.reloadPlanes` can change. -/
theorem State.reloadPlanes_keeps {P : State → Prop} [KChip P] [KRegs P] [KRepair P]
    {s : State} {c : Nat} {p : Pass} (hs : Holds P s) : HOk P (Holds P) (State.reloadPlanes s c p) := by
  unfold State.reloadPlanes
  repeat' first
    | (with_reducible assumption)
    | (refine HOk.get (by with_reducible assumption) rfl)
    | (with_reducible apply State.reloadPlane_keeps)
    | (with_reducible apply HOk.foldl)
    | (with_reducible apply HOk.ans)
    | (intro _)
    | split

/-- What `State.escalateReport` can change. -/
theorem State.escalateReport_keeps {P : State → Prop} [KChip P] [KContexts P] [KDevFlips P] [KDevmem P] [KDies P] [KFlint P] [KFresh P] [KHosts P] [KMems P] [KOports P] [KRegs P] [KRepair P] [KSent P]
    {s : State} {r : Report} {flags : Nat} (hs : Holds P s) : Holds P (State.escalateReport s r flags) := by
  unfold State.escalateReport
  repeat' first
    | (with_reducible assumption)
    | (with_reducible apply State.escalate_keeps)

/-- What `State.rerunFlight` can change. -/
theorem State.rerunFlight_keeps {P : State → Prop} [KChip P] [KContexts P] [KDevFlips P] [KDevmem P] [KDies P] [KFlint P] [KFresh P] [KHosts P] [KMems P] [KOports P] [KRegs P] [KRepair P] [KSent P]
    {s : State} {r : Report} {f : Flight} (hs : Holds P s) : Holds P (State.rerunFlight s r f) := by
  unfold State.rerunFlight
  repeat' first
    | (with_reducible assumption)
    | (with_reducible apply State.escalateReport_keeps)
    | (with_reducible apply State.modFlight_keeps)
    | (with_reducible apply State.putPass_keeps)
    | (refine HOk.get (State.reloadPlanes_keeps ?_) (by with_reducible assumption))
    | (refine HOk.getE (State.reloadPlanes_keeps ?_) (by with_reducible assumption))
    | (with_reducible apply State.runUnit_keeps)
    | (dsimp only)
    | split

/-- What `State.startRecovery` can change. -/
theorem State.startRecovery_keeps {P : State → Prop} [KChip P] [KContexts P] [KDevFlips P] [KDevmem P] [KDies P] [KFlint P] [KFresh P] [KHosts P] [KMems P] [KOports P] [KRegs P] [KRepair P] [KSent P]
    {s : State} (hs : Holds P s) : Holds P (State.startRecovery s) := by
  unfold State.startRecovery
  repeat' first
    | (with_reducible assumption)
    | (with_reducible apply State.rerunFlight_keeps)
    | (with_reducible apply Holds.foldl)
    | (intro _)
    | (with_reducible apply Holds.ite)
    | split

/-- What `State.gather` can change. -/
theorem State.gather_keeps {P : State → Prop} [KFlint P]
    {s : State} {r : Report} (hs : Holds P s) : Holds P (State.gather s r) := by
  unfold State.gather
  repeat' first
    | (with_reducible assumption)
    | (with_reducible apply State.modFlint_keeps)

/-- What `State.endRecovery` can change. -/
theorem State.endRecovery_keeps {P : State → Prop} [KChip P] [KContexts P] [KDevFlips P] [KDevmem P] [KDies P] [KFlint P] [KFresh P] [KHosts P] [KMems P] [KOports P] [KRegs P] [KRepair P] [KSent P]
    {s : State} {r : Report} {rest : List Report} (hs : Holds P s) : Holds P (State.endRecovery s r rest) := by
  unfold State.endRecovery
  repeat' first
    | (with_reducible assumption)
    | (with_reducible apply State.modCore_keeps)
    | (with_reducible apply State.modFlint_keeps)
    | (with_reducible apply State.startRecovery_keeps)

/-- What `State.countCoreFault` can change. -/
theorem State.countCoreFault_keeps {P : State → Prop} [KFlint P] [KHosts P] [KRegs P] [KRepair P] [KSent P]
    {s : State} {r : Report} (hs : Holds P s) : HPair P (State.countCoreFault s r) := by
  unfold State.countCoreFault
  repeat' first
    | (with_reducible assumption)
    | (with_reducible apply State.modFlint_keeps)
    | (with_reducible apply State.retireCore_keeps)
    | (with_reducible apply HPair.ite)
    | (with_reducible apply HPair.ans)
    | (intro _)
    | (with_reducible apply Holds.ite)

/-- What `State.retireNamed` can change. -/
theorem State.retireNamed_keeps {P : State → Prop} [KChip P] [KDies P] [KEdges P] [KFlint P] [KFresh P] [KHosts P] [KMems P] [KOports P] [KRegs P] [KRepair P] [KSent P]
    {s : State} {e : BitVec 128} (hs : Holds P s) : Holds P (State.retireNamed s e) := by
  unfold State.retireNamed
  repeat' first
    | (with_reducible assumption)
    | (with_reducible apply State.capability_keeps)
    | (with_reducible apply State.mapEntry_keeps)
    | (with_reducible apply State.modMem_keeps)
    | (with_reducible apply State.modRepair_keeps)
    | (with_reducible apply State.retireCore_keeps)
    | (with_reducible apply State.retireGroup_keeps)
    | (with_reducible apply State.retirePort_keeps)
    | (with_reducible apply State.summary_keeps)
    | (intro _)
    | (with_reducible apply Holds.ite)
    | (dsimp only)
    | split

/-- What `State.restoreEntry` can change. -/
theorem State.restoreEntry_keeps {P : State → Prop} [KChip P] [KDies P] [KEdges P] [KFlint P] [KFresh P] [KHosts P] [KMems P] [KOports P] [KRegs P] [KRepair P] [KSent P]
    {s : State} {i : Nat} (hs : Holds P s) : Holds P (State.restoreEntry s i) := by
  unfold State.restoreEntry
  repeat' first
    | (with_reducible assumption)
    | (with_reducible apply State.modRepair_keeps)
    | (with_reducible apply State.retireNamed_keeps)
    | (intro _)
    | (with_reducible apply Holds.ite)
    | (dsimp only)
    | split

/-- What `State.failMailboxes` can change. -/
theorem State.failMailboxes_keeps {P : State → Prop} [KFlint P] [KHosts P] [KSent P]
    {s : State} (hs : Holds P s) : Holds P (State.failMailboxes s) := by
  unfold State.failMailboxes
  repeat' first
    | (with_reducible assumption)
    | (with_reducible apply State.respond_keeps)
    | (with_reducible apply Holds.foldl)
    | (intro _)
    | (with_reducible apply Holds.ite)

/-- What `State.forget` can change. -/
theorem State.forget_keeps {P : State → Prop} [KContexts P] [KFlint P] [KMgmt P]
    {s : State} (hs : Holds P s) : Holds P (State.forget s) := by
  unfold State.forget
  repeat' first
    | (with_reducible assumption)
    | (with_reducible apply State.modFlint_keeps)
    | (dsimp only)
    | split
    | (apply keep_contexts_mgmt)

/-- What `State.watchdog` can change. -/
theorem State.watchdog_keeps {P : State → Prop} [KChip P] [KContexts P] [KDevFlips P] [KDevmem P] [KDies P] [KFlint P] [KFresh P] [KHosts P] [KMems P] [KMgmt P] [KOports P] [KRegs P] [KRepair P] [KSent P]
    {s : State} (hs : Holds P s) : Holds P (State.watchdog s) := by
  unfold State.watchdog
  repeat' first
    | (with_reducible assumption)
    | (with_reducible apply State.cutFor_keeps)
    | (with_reducible apply State.endScrub_keeps)
    | (with_reducible apply State.failMailboxes_keeps)
    | (with_reducible apply State.failStep_keeps)
    | (with_reducible apply State.forget_keeps)
    | (with_reducible apply State.halt_keeps)
    | (with_reducible apply State.logEvent_keeps)
    | (with_reducible apply State.modFlint_keeps)
    | (with_reducible apply State.stopUnits_keeps)
    | (intro _)
    | (with_reducible apply Holds.ite)

/-- What `State.loseDie` can change. -/
theorem State.loseDie_keeps {P : State → Prop} [KChip P] [KRegs P]
    {s : State} {d : Nat} (hs : Holds P s) : Holds P (State.loseDie s d) := by
  unfold State.loseDie
  repeat' first
    | (with_reducible assumption)
    | (with_reducible apply State.modChip_keeps)
    | (apply KRegs.keep)

/-- What `State.darkDie` can change. -/
theorem State.darkDie_keeps {P : State → Prop} [KChip P] [KDies P] [KEdges P] [KFlint P] [KFresh P] [KHosts P] [KMems P] [KOports P] [KRegs P] [KSent P]
    {s : State} {d : Nat} (hs : Holds P s) : Holds P (State.darkDie s d) := by
  unfold State.darkDie
  repeat' first
    | (with_reducible assumption)
    | (with_reducible apply State.modDie_keeps)
    | (with_reducible apply State.modEdge_keeps)
    | (with_reducible apply State.portOff_keeps)
    | (with_reducible apply Holds.foldl)
    | (intro _)
    | (with_reducible apply Holds.ite)
    | (dsimp only)
    | (apply KMems.keep)

/-- What `State.lightDie` can change. -/
theorem State.lightDie_keeps {P : State → Prop} [KDies P] [KFresh P] [KMems P] [KOports P] [KSent P]
    {s : State} {d : Nat} (hs : Holds P s) : Holds P (State.lightDie s d) := by
  unfold State.lightDie
  repeat' first
    | (with_reducible assumption)
    | (with_reducible apply State.modOport_keeps)
    | (with_reducible apply State.sendTraining_keeps)
    | (with_reducible apply State.setVolts_keeps)
    | (with_reducible apply State.trainDevice_keeps)
    | (with_reducible apply Holds.foldl)
    | (intro _)
    | (with_reducible apply Holds.ite)

/-- What `State.brownOut` can change. -/
theorem State.brownOut_keeps {P : State → Prop} [KChip P] [KContexts P] [KDevFlips P] [KDevmem P] [KDies P] [KEdges P] [KFlint P] [KFresh P] [KHosts P] [KMems P] [KOports P] [KRegs P] [KRepair P] [KSent P]
    {s : State} {d : Nat} (hs : Holds P s) : Holds P (State.brownOut s d) := by
  unfold State.brownOut
  repeat' first
    | (with_reducible assumption)
    | (with_reducible apply State.darkDie_keeps)
    | (with_reducible apply State.fatal_keeps)
    | (with_reducible apply State.loseDie_keeps)
    | (with_reducible apply State.modFlint_keeps)
    | (with_reducible apply State.setBit_keeps)
    | (intro _)
    | (with_reducible apply Holds.ite)

/-- What `State.floorVolts` can change. -/
theorem State.floorVolts_keeps {P : State → Prop} [KDies P]
    {s : State} {d : Nat} (hs : Holds P s) : Holds P (State.floorVolts s d) := by
  unfold State.floorVolts
  repeat' first
    | (with_reducible assumption)
    | (with_reducible apply State.modDie_keeps)
    | (intro _)
    | (with_reducible apply Holds.ite)

/-- What `State.trip` can change. -/
theorem State.trip_keeps {P : State → Prop} [KChip P] [KContexts P] [KDevFlips P] [KDevmem P] [KDies P] [KFlint P] [KFresh P] [KHosts P] [KMems P] [KOports P] [KRegs P] [KRepair P] [KSent P]
    {s : State} (hs : Holds P s) : Holds P (State.trip s) := by
  unfold State.trip
  repeat' first
    | (with_reducible assumption)
    | (with_reducible apply State.fatal_keeps)
    | (with_reducible apply State.floorVolts_keeps)
    | (with_reducible apply State.modFlint_keeps)
    | (with_reducible apply State.wakeDie_keeps)
    | (with_reducible apply Holds.foldl)
    | (intro _)
    | (with_reducible apply Holds.ite)

/-- What `State.deviceFails` can change. -/
theorem State.deviceFails_keeps {P : State → Prop} [KFlint P] [KFresh P] [KHosts P] [KMems P] [KRegs P] [KRepair P] [KSent P]
    {s : State} {d code sub : Nat} (hs : Holds P s) : Holds P (State.deviceFails s d code sub) := by
  unfold State.deviceFails
  repeat' first
    | (with_reducible assumption)
    | (with_reducible apply State.memFaultAs_keeps)
    | (with_reducible apply State.memViolation_keeps)
    | split

/-- What `State.portStrike` can change. -/
theorem State.portStrike_keeps {P : State → Prop} [KChip P] [KDies P] [KFlint P] [KFresh P] [KHosts P] [KMems P] [KOports P] [KRegs P] [KRepair P] [KSent P]
    {s : State} {p code : Nat} (hs : Holds P s) : Holds P (State.portStrike s p code) := by
  unfold State.portStrike
  repeat' first
    | (with_reducible assumption)
    | (with_reducible apply State.modOport_keeps)
    | (with_reducible apply State.portDown_keeps)
    | (with_reducible apply State.portFault_keeps)
    | (with_reducible apply State.portOff_keeps)
    | (with_reducible apply State.retirePort_keeps)
    | (intro _)
    | (with_reducible apply Holds.ite)

/-- What `State.laneStrike` can change. -/
theorem State.laneStrike_keeps {P : State → Prop} [KChip P] [KContexts P] [KDies P] [KEdges P] [KFlint P] [KFresh P] [KHosts P] [KMems P] [KOports P] [KRegs P] [KRepair P] [KSent P]
    {s : State} {r : Report} (hs : Holds P s) : Holds P (State.laneStrike s r) := by
  unfold State.laneStrike
  repeat' first
    | (with_reducible assumption)
    | (with_reducible apply State.failEdge_keeps)
    | (with_reducible apply State.laneFault_keeps)
    | (with_reducible apply State.modEdge_keeps)
    | (with_reducible apply State.replayLost_keeps)
    | (with_reducible apply State.report_keeps)
    | (with_reducible apply State.retireGroup_keeps)
    | (with_reducible apply State.retirePort_keeps)
    | (intro _)
    | (with_reducible apply Holds.ite)
    | (dsimp only)
    | split

/-- What `State.coreStrike` can change. -/
theorem State.coreStrike_keeps {P : State → Prop} [KChip P] [KFlint P] [KRegs P] [KRepair P]
    {s : State} {r : Report} (hs : Holds P s) : Holds P (State.coreStrike s r) := by
  unfold State.coreStrike
  repeat' first
    | (with_reducible assumption)
    | (with_reducible apply State.bankError_keeps)
    | (with_reducible apply State.coreFault_keeps)
    | (with_reducible apply State.modCore_keeps)
    | (with_reducible apply State.stopFlight_keeps)
    | (intro _)
    | (with_reducible apply Holds.ite)
    | (dsimp only)
    | split

/-- What `State.strike` can change. -/
theorem State.strike_keeps {P : State → Prop} [KChip P] [KContexts P] [KDies P] [KEdges P] [KFlint P] [KFresh P] [KHosts P] [KMems P] [KOports P] [KRegs P] [KRepair P] [KSent P]
    {s : State} {r : Report} (hs : Holds P s) : Holds P (State.strike s r) := by
  unfold State.strike
  repeat' first
    | (with_reducible assumption)
    | (with_reducible apply State.bankError_keeps)
    | (with_reducible apply State.coreStrike_keeps)
    | (with_reducible apply State.deviceFails_keeps)
    | (with_reducible apply State.laneStrike_keeps)
    | (with_reducible apply State.portStrike_keeps)
    | (with_reducible apply State.report_keeps)
    | (with_reducible apply State.retireEngine_keeps)
    | (with_reducible apply State.ringFault_keeps)
    | (with_reducible apply State.stopPass_keeps)
    | (with_reducible apply State.streamStrike_keeps)
    | (with_reducible apply State.updFault_keeps)
    | (intro _)
    | (with_reducible apply Holds.ite)
    | (dsimp only)
    | split

/-- What `State.integrity` can change. -/
theorem State.integrity_keeps {P : State → Prop} [KChip P] [KContexts P] [KDies P] [KEdges P] [KFlint P] [KFresh P] [KHosts P] [KMems P] [KOports P] [KRegs P] [KRepair P] [KSent P]
    {s : State} {r : Report} (hs : Holds P s) : Holds P (State.integrity s r) := by
  unfold State.integrity
  repeat' first
    | (with_reducible assumption)
    | (with_reducible apply State.putContext_keeps)
    | (with_reducible apply State.restoreEntry_keeps)
    | split

/-- What `State.strikeEvent` can change. -/
theorem State.strikeEvent_keeps {P : State → Prop} [KFlint P]
    {s : State} {r : Report} (hs : Holds P s) : Holds P (State.strikeEvent s r) := by
  unfold State.strikeEvent
  repeat' first
    | (with_reducible assumption)
    | (with_reducible apply State.modFlint_keeps)
    | (intro _)
    | (with_reducible apply Holds.ite)

/-- What `State.handle` can change. -/
theorem State.handle_keeps {P : State → Prop} [KChip P] [KContexts P] [KDevFlips P] [KDevmem P] [KDies P] [KEdges P] [KFlint P] [KFresh P] [KHosts P] [KMems P] [KMgmt P] [KOports P] [KRegs P] [KRepair P] [KSent P]
    {s : State} {r : Report} (hs : Holds P s) : Holds P (State.handle s r) := by
  unfold State.handle
  repeat' first
    | (with_reducible assumption)
    | (with_reducible apply State.brownOut_keeps)
    | (with_reducible refine HPair.proj (State.countCoreFault_keeps ?_))
    | (with_reducible apply State.escalateReport_keeps)
    | (with_reducible apply State.gather_keeps)
    | (with_reducible apply State.integrity_keeps)
    | (with_reducible apply State.modFlint_keeps)
    | (with_reducible apply State.note_keeps)
    | (with_reducible apply State.rebuildHeader_keeps)
    | (with_reducible apply State.strikeEvent_keeps)
    | (with_reducible apply State.trip_keeps)
    | (with_reducible apply State.watchdog_keeps)
    | (intro _)
    | (with_reducible apply Holds.ite)
    | split

/-- What `execFaultReport` can change. -/
theorem execFaultReport_keeps {P : State → Prop} [KChip P] [KContexts P] [KDevFlips P] [KDevmem P] [KDies P] [KEdges P] [KFlint P] [KFresh P] [KHosts P] [KMems P] [KMgmt P] [KOports P] [KRegs P] [KRepair P] [KSent P]
    {r : Report} {s : State} (hs : Holds P s) : HNext P (execFaultReport r s) := by
  unfold execFaultReport
  repeat' first
    | (with_reducible assumption)
    | (with_reducible apply State.handle_keeps)
    | (with_reducible apply State.strike_keeps)
    | (with_reducible apply HNext.ans)
    | (intro _)
    | (with_reducible apply Holds.ite)

/-- What `execGatherWindowEnd` can change. -/
theorem execGatherWindowEnd_keeps {P : State → Prop} [KChip P] [KContexts P] [KDevFlips P] [KDevmem P] [KDies P] [KFlint P] [KFresh P] [KHosts P] [KMems P] [KOports P] [KRegs P] [KRepair P] [KSent P]
    {s : State} (hs : Holds P s) : HNext P (execGatherWindowEnd s) := by
  unfold execGatherWindowEnd
  repeat' first
    | (with_reducible assumption)
    | (with_reducible apply State.modFlint_keeps)
    | (with_reducible apply State.startRecovery_keeps)
    | (with_reducible apply HNext.ans)
    | (intro _)
    | (with_reducible apply Holds.ite)
    | split

/-- What `execRecoveryComplete` can change. -/
theorem execRecoveryComplete_keeps {P : State → Prop} [KChip P] [KContexts P] [KDevFlips P] [KDevmem P] [KDies P] [KFlint P] [KFresh P] [KHosts P] [KMems P] [KOports P] [KRegs P] [KRepair P] [KSent P]
    {s : State} (hs : Holds P s) : HNext P (execRecoveryComplete s) := by
  unfold execRecoveryComplete
  repeat' first
    | (with_reducible assumption)
    | (with_reducible apply State.endRecovery_keeps)
    | (with_reducible apply HNext.ans)
    | (intro _)
    | (with_reducible apply Holds.ite)
    | split

/-- What `execFlintWatchdogExpiry` can change. -/
theorem execFlintWatchdogExpiry_keeps {P : State → Prop} [KChip P] [KContexts P] [KDevFlips P] [KDevmem P] [KDies P] [KFlint P] [KFresh P] [KHosts P] [KMems P] [KMgmt P] [KOports P] [KRegs P] [KRepair P] [KSent P]
    {s : State} (hs : Holds P s) : HNext P (execFlintWatchdogExpiry s) := by
  unfold execFlintWatchdogExpiry
  repeat' first
    | (with_reducible assumption)
    | (with_reducible apply State.watchdog_keeps)
    | (with_reducible apply HNext.ans)

/-- What `execRepairMapWrite` can change. -/
theorem execRepairMapWrite_keeps {P : State → Prop} [KFlash P] [KFlint P] [KFresh P] [KHosts P] [KRegs P] [KRepair P] [KSent P]
    {s : State} (hs : Holds P s) : HNext P (execRepairMapWrite s) := by
  unfold execRepairMapWrite
  repeat' first
    | (with_reducible assumption)
    | (with_reducible apply State.tryWriteMap_keeps)
    | (with_reducible apply HNext.ans)
    | (intro _)
    | (with_reducible apply Holds.ite)

/-- What `execStrataLogCutComplete` can change. -/
theorem execStrataLogCutComplete_keeps {P : State → Prop} [KFlash P] [KFlint P] [KFresh P] [KHosts P] [KRegs P] [KSent P]
    {s : State} (hs : Holds P s) : HNext P (execStrataLogCutComplete s) := by
  unfold execStrataLogCutComplete
  repeat' first
    | (with_reducible assumption)
    | (with_reducible apply State.cutFor_keeps)
    | (with_reducible apply State.modFlint_keeps)
    | (with_reducible apply HNext.ans)
    | (intro _)
    | (with_reducible apply Holds.ite)
    | (dsimp only)
    | split
    | (apply KFlash.keep)

/-- What `State.readNamed` can change. -/
theorem State.readNamed_keeps {P : State → Prop} [KDies P] [KFlint P] [KFresh P] [KHosts P] [KMems P] [KOports P] [KRegs P] [KSent P]
    {s : State} {n : Nat} (hs : Holds P s) : HPair P (State.readNamed s n) := by
  unfold State.readNamed
  repeat' first
    | (with_reducible assumption)
    | (with_reducible refine HPair.proj (State.readClear_keeps ?_))
    | (with_reducible apply State.wakeDie_keeps)
    | (with_reducible apply HPair.ans)
    | split

/-- What `State.readNames` can change. -/
theorem State.readNames_keeps {P : State → Prop} [KDies P] [KFlint P] [KFresh P] [KHosts P] [KMems P] [KOports P] [KRegs P] [KSent P]
    {s : State} {x1 : List Nat} (hs : Holds P s) : HPair P (State.readNames s x1) := by
  induction x1 generalizing s with
  | nil =>
    unfold State.readNames
    repeat' first
      | (with_reducible assumption)
      | (with_reducible apply HPair.ans)
  | cons _ _ ih =>
    unfold State.readNames
    repeat' first
      | (with_reducible assumption)
      | (with_reducible refine HPair.proj (ih ?_))
      | (with_reducible refine HPair.proj (State.readNamed_keeps ?_))
      | (with_reducible apply HPair.ans)

/-- What `State.writeNamed` can change. -/
theorem State.writeNamed_keeps {P : State → Prop} [KChip P] [KDies P] [KFlint P] [KFresh P] [KHosts P] [KMems P] [KOports P] [KRegs P] [KSent P]
    {s : State} {n : Nat} {v : Word64} (hs : Holds P s) : Holds P (State.writeNamed s n v) := by
  unfold State.writeNamed
  repeat' first
    | (with_reducible assumption)
    | (with_reducible apply State.clearFault_keeps)
    | (with_reducible apply State.wakeDie_keeps)
    | (with_reducible apply State.writeReg_keeps)
    | (intro _)
    | (with_reducible apply Holds.ite)
    | (dsimp only)
    | split

/-- What `State.setFabric` can change. -/
theorem State.setFabric_keeps {P : State → Prop} [KFabric P]
    {s : State} {w : Nat} (hs : Holds P s) : Holds P (State.setFabric s w) := by
  unfold State.setFabric
  repeat' first
    | (with_reducible assumption)
    | split
    | (apply KFabric.keep)

/-- What `State.relinkAll` can change. -/
theorem State.relinkAll_keeps {P : State → Prop} [KChip P] [KDies P] [KFlint P] [KFresh P] [KHosts P] [KMems P] [KOports P] [KRegs P] [KSent P]
    {s : State} (hs : Holds P s) : Holds P (State.relinkAll s) := by
  unfold State.relinkAll
  repeat' first
    | (with_reducible assumption)
    | (with_reducible apply State.relink_keeps)
    | (with_reducible apply Holds.foldl)

/-- What `State.setOwner` can change. -/
theorem State.setOwner_keeps {P : State → Prop} [KFlint P] [KHosts P] [KRegs P] [KSent P]
    {s : State} {o : Option Nat} (hs : Holds P s) : Holds P (State.setOwner s o) := by
  unfold State.setOwner
  repeat' first
    | (with_reducible assumption)
    | (with_reducible apply State.modFlint_keeps)
    | (with_reducible apply State.raiseBoth_keeps)
    | (intro _)
    | (with_reducible apply Holds.ite)

/-- What `State.loseResident` can change. -/
theorem State.loseResident_keeps {P : State → Prop} [KChip P] [KContexts P] [KResident P]
    {s : State} (hs : Holds P s) : Holds P (State.loseResident s) := by
  unfold State.loseResident
  repeat' first
    | (with_reducible assumption)
    | (with_reducible apply State.setResident_keeps)
    | (dsimp only)
    | split
    | (apply KContexts.keep)
    | (apply KChip.keep)

/-- What `State.acknowledge` can change. -/
theorem State.acknowledge_keeps {P : State → Prop} [KChip P] [KContexts P] [KFlint P] [KHosts P] [KMgmt P] [KRegs P] [KResident P] [KSent P]
    {s : State} (hs : Holds P s) : Holds P (State.acknowledge s) := by
  unfold State.acknowledge
  repeat' first
    | (with_reducible assumption)
    | (with_reducible apply State.enter_keeps)
    | (with_reducible apply State.loseResident_keeps)
    | (with_reducible apply State.modFlint_keeps)
    | (intro _)
    | (with_reducible apply Holds.ite)
    | (dsimp only)
    | (apply KMgmt.keep)

/-- What `State.setTimers` can change. -/
theorem State.setTimers_keeps {P : State → Prop} [KDies P]
    {s : State} {args : Rec} (hs : Holds P s) : Holds P (State.setTimers s args) := by
  unfold State.setTimers
  repeat' first
    | (with_reducible assumption)
    | (with_reducible apply State.modDie_keeps)
    | (with_reducible apply Holds.foldl)
    | (intro _)
    | (with_reducible apply Holds.ite)

/-- What `execQueryState` can change. -/
theorem execQueryState_keeps {P : State → Prop} [KFlint P] [KHosts P] [KSent P]
    {m : Mbx} {s : State} (hs : Holds P s) : HNext P (execQueryState m s) := by
  unfold execQueryState
  repeat' first
    | (with_reducible assumption)
    | (with_reducible apply serve_keeps)
    | (with_reducible exact anyVal.triv)
    | (with_reducible apply HFst.ans)
    | (with_reducible apply HNext.ans)
    | (intro _)

/-- What `execQueryCapability` can change. -/
theorem execQueryCapability_keeps {P : State → Prop} [KFlint P] [KHosts P] [KSent P]
    {m : Mbx} {s : State} (hs : Holds P s) : HNext P (execQueryCapability m s) := by
  unfold execQueryCapability
  repeat' first
    | (with_reducible assumption)
    | (with_reducible apply serve_keeps)
    | (with_reducible exact anyVal.triv)
    | (with_reducible apply HFst.ans)
    | (with_reducible apply HNext.ans)
    | (intro _)

/-- What `execReadRegister` can change. -/
theorem execReadRegister_keeps {P : State → Prop} [KDies P] [KFlint P] [KFresh P] [KHosts P] [KMems P] [KOports P] [KRegs P] [KSent P]
    {m : Mbx} {s : State} (hs : Holds P s) : HNext P (execReadRegister m s) := by
  unfold execReadRegister
  repeat' first
    | (with_reducible assumption)
    | (with_reducible refine HPair.proj (State.readNames_keeps ?_))
    | (with_reducible apply serve_keeps)
    | (with_reducible exact anyVal.triv)
    | (dsimp only)
    | (with_reducible apply HFst.ans)
    | (with_reducible apply HNext.ans)
    | (intro _)

/-- What `execWriteRegister` can change. -/
theorem execWriteRegister_keeps {P : State → Prop} [KChip P] [KDies P] [KFlint P] [KFresh P] [KHosts P] [KMems P] [KOports P] [KRegs P] [KSent P]
    {m : Mbx} {s : State} (hs : Holds P s) : HNext P (execWriteRegister m s) := by
  unfold execWriteRegister
  repeat' first
    | (with_reducible assumption)
    | (with_reducible apply State.writeNamed_keeps)
    | (with_reducible apply serve_keeps)
    | (with_reducible exact anyVal.triv)
    | (with_reducible apply Holds.foldl)
    | (with_reducible apply HFst.ans)
    | (with_reducible apply HNext.ans)
    | (intro _)

/-- What `execSetEpochOffset` can change. -/
theorem execSetEpochOffset_keeps {P : State → Prop} [KEpochOffset P] [KFlint P] [KHosts P] [KSent P]
    {m : Mbx} {s : State} (hs : Holds P s) : HNext P (execSetEpochOffset m s) := by
  unfold execSetEpochOffset
  repeat' first
    | (with_reducible assumption)
    | (with_reducible apply State.respond_keeps)
    | (with_reducible apply serve_keeps)
    | (with_reducible exact anyVal.triv)
    | (dsimp only)
    | (with_reducible apply HFst.ans)
    | (with_reducible apply HNext.ans)
    | (intro _)
    | (apply KEpochOffset.keep)

/-- What `execSetFabricAddress` can change. -/
theorem execSetFabricAddress_keeps {P : State → Prop} [KChip P] [KDies P] [KFabric P] [KFlint P] [KFresh P] [KHosts P] [KMems P] [KOports P] [KRegs P] [KSent P]
    {m : Mbx} {s : State} (hs : Holds P s) : HNext P (execSetFabricAddress m s) := by
  unfold execSetFabricAddress
  repeat' first
    | (with_reducible assumption)
    | (with_reducible apply State.relinkAll_keeps)
    | (with_reducible apply State.respond_keeps)
    | (with_reducible apply State.setFabric_keeps)
    | (with_reducible apply serve_keeps)
    | (with_reducible exact anyVal.triv)
    | (with_reducible apply HFst.ans)
    | (with_reducible apply HNext.ans)
    | (intro _)

/-- What `execClaimOwnership` can change. -/
theorem execClaimOwnership_keeps {P : State → Prop} [KFlint P] [KHosts P] [KRegs P] [KSent P]
    {m : Mbx} {s : State} (hs : Holds P s) : HNext P (execClaimOwnership m s) := by
  unfold execClaimOwnership
  repeat' first
    | (with_reducible assumption)
    | (with_reducible apply State.setOwner_keeps)
    | (with_reducible apply serve_keeps)
    | (with_reducible exact anyVal.triv)
    | split
    | (with_reducible apply HFst.ans)
    | (with_reducible apply HNext.ans)
    | (intro _)

/-- What `execReleaseOwnership` can change. -/
theorem execReleaseOwnership_keeps {P : State → Prop} [KFlint P] [KHosts P] [KRegs P] [KSent P]
    {m : Mbx} {s : State} (hs : Holds P s) : HNext P (execReleaseOwnership m s) := by
  unfold execReleaseOwnership
  repeat' first
    | (with_reducible assumption)
    | (with_reducible apply State.setOwner_keeps)
    | (with_reducible apply serve_keeps)
    | (with_reducible exact anyVal.triv)
    | (with_reducible apply HFst.ans)
    | (with_reducible apply HNext.ans)
    | (intro _)

/-- What `execAcknowledgeHalt` can change. -/
theorem execAcknowledgeHalt_keeps {P : State → Prop} [KChip P] [KContexts P] [KFlint P] [KHosts P] [KMgmt P] [KRegs P] [KResident P] [KSent P]
    {m : Mbx} {s : State} (hs : Holds P s) : HNext P (execAcknowledgeHalt m s) := by
  unfold execAcknowledgeHalt
  repeat' first
    | (with_reducible assumption)
    | (with_reducible apply State.acknowledge_keeps)
    | (with_reducible apply serve_keeps)
    | (with_reducible exact anyVal.triv)
    | split
    | (with_reducible apply HFst.ans)
    | (with_reducible apply HNext.ans)
    | (intro _)

/-- What `execReadStrataLog` can change. -/
theorem execReadStrataLog_keeps {P : State → Prop} [KFlint P] [KFresh P] [KHosts P] [KRegs P] [KSent P]
    {m : Mbx} {s : State} (hs : Holds P s) : HNext P (execReadStrataLog m s) := by
  unfold execReadStrataLog
  repeat' first
    | (with_reducible assumption)
    | (with_reducible apply State.soundLog_keeps)
    | (with_reducible apply serve_keeps)
    | (with_reducible exact anyVal.triv)
    | (with_reducible apply HFst.ans)
    | (with_reducible apply HNext.ans)
    | (intro _)

/-- What `execArmStream` can change. -/
theorem execArmStream_keeps {P : State → Prop} [KChip P] [KContexts P] [KDevFlips P] [KDevmem P] [KDies P] [KFlint P] [KFresh P] [KHosts P] [KMems P] [KOports P] [KRegs P] [KRepair P] [KSent P]
    {m : Mbx} {s : State} (hs : Holds P s) : HNext P (execArmStream m s) := by
  unfold execArmStream
  repeat' first
    | (with_reducible assumption)
    | (refine HOk.get (State.armFrom_keeps ?_) (by with_reducible assumption))
    | (with_reducible apply State.useResident_keeps)
    | (with_reducible apply serve_keeps)
    | (with_reducible exact anyVal.triv)
    | split
    | (with_reducible apply HFst.ans)
    | (with_reducible apply HNext.ans)
    | (intro _)

/-- What `execSetIdleTimers` can change. -/
theorem execSetIdleTimers_keeps {P : State → Prop} [KDies P] [KFlint P] [KHosts P] [KSent P]
    {m : Mbx} {s : State} (hs : Holds P s) : HNext P (execSetIdleTimers m s) := by
  unfold execSetIdleTimers
  repeat' first
    | (with_reducible assumption)
    | (with_reducible apply State.setTimers_keeps)
    | (with_reducible apply serve_keeps)
    | (with_reducible exact anyVal.triv)
    | (with_reducible apply HFst.ans)
    | (with_reducible apply HNext.ans)
    | (intro _)

/-- What `State.createContext` can change. -/
theorem State.createContext_keeps {P : State → Prop} [KContexts P] [KFlint P] [KGenerations P]
    {s : State} {args : Rec} (hs : Holds P s) : HFst P anyVal (State.createContext s args) := by
  unfold State.createContext
  repeat' first
    | (with_reducible assumption)
    | (with_reducible apply State.modFlint_keeps)
    | (with_reducible exact anyVal.triv)
    | (dsimp only)
    | split
    | (with_reducible apply HFst.ans)
    | (apply keep_generations_contexts)

/-- What `State.destroyContext` can change. -/
theorem State.destroyContext_keeps {P : State → Prop} [KChip P] [KContexts P] [KResident P]
    {s : State} {slot : Nat} (hs : Holds P s) : Holds P (State.destroyContext s slot) := by
  unfold State.destroyContext
  repeat' first
    | (with_reducible assumption)
    | (with_reducible apply State.setResident_keeps)
    | (intro _)
    | (with_reducible apply Holds.ite)
    | (dsimp only)
    | (apply KContexts.keep)
    | (apply KChip.keep)

/-- What `State.wakeWindow` can change. -/
theorem State.wakeWindow_keeps {P : State → Prop} [KDies P] [KFlint P] [KFresh P] [KHosts P] [KMems P] [KOports P] [KRegs P] [KSent P]
    {s : State} {a : Nat} (hs : Holds P s) : Holds P (State.wakeWindow s a) := by
  unfold State.wakeWindow
  repeat' first
    | (with_reducible assumption)
    | (with_reducible apply State.wakeAll_keeps)
    | (with_reducible apply State.wakeDie_keeps)
    | (intro _)
    | (with_reducible apply Holds.ite)
    | split

/-- What `State.createRegion` can change. -/
theorem State.createRegion_keeps {P : State → Prop} [KContexts P] [KDies P] [KFlint P] [KFresh P] [KHosts P] [KMems P] [KOports P] [KRegs P] [KSent P]
    {s : State} {c : Context} {args : Rec} (hs : Holds P s) : HFst P anyVal (State.createRegion s c args) := by
  unfold State.createRegion
  repeat' first
    | (with_reducible assumption)
    | (with_reducible apply State.putContext_keeps)
    | (with_reducible apply State.wakeWindow_keeps)
    | (with_reducible exact anyVal.triv)
    | (dsimp only)
    | split
    | (with_reducible apply HFst.ans)

/-- What `zeroingDone` can change. -/
theorem zeroingDone_keeps {P : State → Prop} [KContexts P] [KDevFlips P] [KDevmem P]
    {slot index : Nat} {s : State} (hs : Holds P s) : Holds P (zeroingDone slot index s) := by
  unfold zeroingDone
  repeat' first
    | (with_reducible assumption)
    | (with_reducible apply State.devZero_keeps)
    | (with_reducible apply State.putContext_keeps)
    | (intro _)
    | (with_reducible apply Holds.ite)
    | split

/-- What `State.begin` can change. -/
theorem State.begin_keeps {P : State → Prop} [KFlint P]
    {s : State} {b : Background} (hs : Holds P s) : Holds P (State.begin s b) := by
  unfold State.begin
  repeat' first
    | (with_reducible assumption)
    | (with_reducible apply State.modFlint_keeps)

/-- What `State.endBackground` can change. -/
theorem State.endBackground_keeps {P : State → Prop} [KFlint P] [KHosts P] [KSent P]
    {s : State} {b : Background} {a : Ans} (hs : Holds P s) : Holds P (State.endBackground s b a) := by
  unfold State.endBackground
  repeat' first
    | (with_reducible assumption)
    | (with_reducible apply State.modFlint_keeps)
    | (with_reducible apply State.respond_keeps)

/-- What `State.switchTo` can change. -/
theorem State.switchTo_keeps {P : State → Prop} [KDies P] [KFlint P] [KFresh P] [KHosts P] [KMems P] [KOports P] [KRegs P] [KSent P]
    {s : State} {m : Mbx} {id : Nat} (hs : Holds P s) : HFst P anyVal (State.switchTo s m id) := by
  unfold State.switchTo
  repeat' first
    | (with_reducible assumption)
    | (with_reducible apply State.begin_keeps)
    | (with_reducible apply State.stopCheckAll_keeps)
    | (with_reducible apply State.useResident_keeps)
    | (with_reducible apply State.wakeAll_keeps)
    | (with_reducible exact anyVal.triv)
    | (with_reducible apply HFst.ite)
    | (dsimp only)
    | split
    | (with_reducible apply HFst.ans)
    | (intro _)

/-- What `State.writePart` can change. -/
theorem State.writePart_keeps {P : State → Prop} [KDevFlips P] [KDevmem P]
    {s : State} {a n : Nat} {r : Rec} (hs : Holds P s) : Holds P (State.writePart s a n r) := by
  unfold State.writePart
  repeat' first
    | (with_reducible assumption)
    | (with_reducible apply State.devPut_keeps)
    | (with_reducible apply State.devZero_keeps)

/-- What `State.writeImage` can change. -/
theorem State.writeImage_keeps {P : State → Prop} [KDevFlips P] [KDevmem P]
    {s : State} {base : Nat} (hs : Holds P s) : Holds P (State.writeImage s base) := by
  unfold State.writeImage
  repeat' first
    | (with_reducible assumption)
    | (with_reducible apply State.devPut_keeps)
    | (with_reducible apply State.devZero_keeps)
    | (with_reducible apply Holds.foldl)
    | (intro _)
    | (with_reducible apply Holds.ite)

/-- What `State.readSaved` can change. -/
theorem State.readSaved_keeps {P : State → Prop} [KDevFlips P] [KDevmem P] [KDies P] [KFlint P] [KFresh P] [KHosts P] [KMems P] [KOports P] [KRegs P] [KSent P]
    {s : State} {base : Nat} {x2 : List (Nat × BitVec 144)} (hs : Holds P s) : HOk P (MemErr.has P) (State.readSaved s base x2) := by
  induction x2 generalizing s with
  | nil =>
    unfold State.readSaved
    repeat' first
      | (with_reducible assumption)
      | (with_reducible apply HOk.ans)
  | cons _ _ ih =>
    unfold State.readSaved
    repeat' first
      | (with_reducible assumption)
      | (with_reducible apply ih)
      | (refine HOk2.get (State.devRead_keeps ?_) (by with_reducible assumption))
      | (refine HOk2.getE (State.devRead_keeps ?_) (by with_reducible assumption))
      | (with_reducible apply HOk.err)
      | split

/-- What `State.readScratch` can change. -/
theorem State.readScratch_keeps {P : State → Prop} [KChip P] [KRegs P] [KRepair P]
    {s : State} (hs : Holds P s) : HPair P (State.readScratch s) := by
  unfold State.readScratch
  repeat' first
    | (with_reducible assumption)
    | (refine HOk2.get (State.scrRead_keeps ?_) (by with_reducible assumption))
    | (refine BankErr.of (HOk2.getE (State.scrRead_keeps ?_) (by with_reducible assumption)))
    | (with_reducible apply HPair.foldl)
    | (with_reducible apply HPair.ans)
    | (with_reducible refine HPair.proj (by with_reducible assumption))
    | (intro _)
    | split

/-- What `State.saveOut` can change. -/
theorem State.saveOut_keeps {P : State → Prop} [KChip P] [KContexts P] [KDevFlips P] [KDevmem P] [KFlint P] [KRegs P] [KRepair P] [KResident P]
    {s : State} {err : Bool} (hs : Holds P s) : HPair P (State.saveOut s err) := by
  unfold State.saveOut
  repeat' first
    | (with_reducible assumption)
    | (with_reducible apply State.loseResident_keeps)
    | (with_reducible apply State.putContext_keeps)
    | (with_reducible refine HPair.proj (State.readScratch_keeps ?_))
    | (with_reducible apply State.setResident_keeps)
    | (with_reducible apply State.useResident_keeps)
    | (with_reducible apply State.writeImage_keeps)
    | (with_reducible apply HPair.ans)
    | (dsimp only)
    | split
    | (apply KChip.keep)

/-- What `State.restoreIn` can change. -/
theorem State.restoreIn_keeps {P : State → Prop} [KChip P] [KContexts P] [KRegs P] [KResident P]
    {s : State} {id : Nat} (hs : Holds P s) : Holds P (State.restoreIn s id) := by
  unfold State.restoreIn
  repeat' first
    | (with_reducible assumption)
    | (with_reducible apply State.putContext_keeps)
    | (with_reducible apply State.setResident_keeps)
    | (dsimp only)
    | split
    | (apply keep_chip_regs)

/-- What `State.readIncoming` can change. -/
theorem State.readIncoming_keeps {P : State → Prop} [KDevFlips P] [KDevmem P] [KDies P] [KFlint P] [KFresh P] [KHosts P] [KMems P] [KOports P] [KRegs P] [KRepair P] [KSent P]
    {s : State} {id : Nat} (hs : Holds P s) : HPair P (State.readIncoming s id) := by
  unfold State.readIncoming
  repeat' first
    | (with_reducible assumption)
    | (with_reducible apply State.memFault_keeps)
    | (refine HOk.get (State.readSaved_keeps ?_) (by with_reducible assumption))
    | (refine MemErr.of_dead (HOk.getE (State.readSaved_keeps ?_) (by with_reducible assumption)))
    | (with_reducible apply HPair.ans)
    | split

/-- What `State.resume` can change. -/
theorem State.resume_keeps {P : State → Prop} [KChip P] [KContexts P] [KDevFlips P] [KDevmem P] [KDies P] [KEdges P] [KFlint P] [KFresh P] [KGangPairs P] [KHosts P] [KMems P] [KOports P] [KRegs P] [KRepair P] [KSent P]
    {s : State} (hs : Holds P s) : Holds P (State.resume s) := by
  unfold State.resume
  repeat' first
    | (with_reducible assumption)
    | (with_reducible apply State.doorbellArm_keeps)
    | (with_reducible apply State.enter_keeps)
    | (with_reducible apply State.fetchAgain_keeps)
    | (with_reducible apply State.formGangs_keeps)
    | (with_reducible apply State.modFlint_keeps)
    | (with_reducible apply State.stopCheckAll_keeps)
    | (with_reducible apply State.unparkAll_keeps)
    | (with_reducible apply Holds.foldl)
    | (intro _)
    | (with_reducible apply Holds.ite)
    | split

/-- What `switchDone` can change. -/
theorem switchDone_keeps {P : State → Prop} [KChip P] [KContexts P] [KDevFlips P] [KDevmem P] [KDies P] [KEdges P] [KFlint P] [KFresh P] [KGangPairs P] [KHosts P] [KMems P] [KOports P] [KRegs P] [KRepair P] [KResident P] [KSent P]
    {saveErr restoreErr : Bool} {s : State} (hs : Holds P s) : Holds P (switchDone saveErr restoreErr s) := by
  unfold switchDone
  repeat' first
    | (with_reducible assumption)
    | (with_reducible apply State.modFlint_keeps)
    | (with_reducible apply State.putContext_keeps)
    | (with_reducible refine HPair.proj (State.readIncoming_keeps ?_))
    | (with_reducible apply State.respond_keeps)
    | (with_reducible apply State.restoreIn_keeps)
    | (with_reducible apply State.resume_keeps)
    | (with_reducible refine HPair.proj (State.saveOut_keeps ?_))
    | (intro _)
    | (with_reducible apply Holds.ite)
    | (dsimp only)
    | split

/-- What `State.startScrub` can change. -/
theorem State.startScrub_keeps {P : State → Prop} [KChip P] [KContexts P] [KDies P] [KEdges P] [KFlint P] [KFresh P] [KHosts P] [KMems P] [KOports P] [KRegs P] [KResident P] [KSent P]
    {s : State} {m : Mbx} (hs : Holds P s) : Holds P (State.startScrub s m) := by
  unfold State.startScrub
  repeat' first
    | (with_reducible assumption)
    | (with_reducible apply State.begin_keeps)
    | (with_reducible apply State.destroyContext_keeps)
    | (with_reducible apply State.enter_keeps)
    | (with_reducible apply State.setResident_keeps)
    | (with_reducible apply State.stopCheckAll_keeps)
    | (with_reducible apply State.wakeAll_keeps)
    | (with_reducible apply Holds.foldl)
    | (dsimp only)
    | (apply keep_chip_mems_oports_edges)

/-- What `State.zeroMemory` can change. -/
theorem State.zeroMemory_keeps {P : State → Prop} [KDevFlips P] [KDevmem P]
    {s : State} (hs : Holds P s) : Holds P (State.zeroMemory s) := by
  unfold State.zeroMemory
  exact KDevFlips.keep _ _ (KDevmem.keep s _ (Mem.filter_wf _) hs)

/-- What `scrubDone` can change. -/
theorem scrubDone_keeps {P : State → Prop} [KDevFlips P] [KDevmem P] [KDies P] [KFlint P] [KHosts P] [KMems P] [KOports P] [KRegs P] [KSent P]
    {s : State} (hs : Holds P s) : Holds P (scrubDone s) := by
  unfold scrubDone
  repeat' first
    | (with_reducible assumption)
    | (with_reducible apply State.endBackground_keeps)
    | (with_reducible apply State.endScrub_keeps)
    | (with_reducible apply State.enter_keeps)
    | (with_reducible apply State.modFlint_keeps)
    | (with_reducible apply State.zeroMemory_keeps)
    | (intro _)
    | (with_reducible apply Holds.ite)
    | (dsimp only)
    | split

/-- What `State.openSession` can change. -/
theorem State.openSession_keeps {P : State → Prop} [KContexts P] [KFresh P]
    {s : State} {c : Context} {args : Rec} (hs : Holds P s) : HFst P anyVal (State.openSession s c args) := by
  unfold State.openSession
  repeat' first
    | (with_reducible assumption)
    | (with_reducible apply State.putContext_keeps)
    | (with_reducible refine HPair.proj (State.takeBytes_keeps ?_))
    | (with_reducible exact anyVal.triv)
    | (dsimp only)
    | (with_reducible apply HFst.ans)

/-- What `State.attest` can change. -/
theorem State.attest_keeps {P : State → Prop} [KFlint P]
    {s : State} {m : Mbx} {ctx : Nat} {args : Rec} (hs : Holds P s) : HFst P anyVal (State.attest s m ctx args) := by
  unfold State.attest
  repeat' first
    | (with_reducible assumption)
    | (with_reducible apply State.begin_keeps)
    | (with_reducible exact anyVal.triv)
    | (with_reducible apply HFst.ite)
    | (dsimp only)
    | split
    | (with_reducible apply HFst.ans)
    | (intro _)

/-- What `attestDone` can change. -/
theorem attestDone_keeps {P : State → Prop} [KFlint P] [KHosts P] [KSent P]
    {s : State} (hs : Holds P s) : Holds P (attestDone s) := by
  unfold attestDone
  repeat' first
    | (with_reducible assumption)
    | (with_reducible apply State.begin_keeps)
    | (with_reducible apply State.endBackground_keeps)
    | (with_reducible apply State.modHost_keeps)
    | (intro _)
    | (with_reducible apply Holds.ite)
    | (dsimp only)
    | split

/-- What `execCreateContext` can change. -/
theorem execCreateContext_keeps {P : State → Prop} [KContexts P] [KFlint P] [KGenerations P] [KHosts P] [KSent P]
    {m : Mbx} {s : State} (hs : Holds P s) : HNext P (execCreateContext m s) := by
  unfold execCreateContext
  refine HNext.ans (serve_keeps hs fun s req h => ?_)
  have h1 := State.createContext_keeps (args := slice req 64 16) h
  generalize State.createContext s (slice req 64 16) = x at h1
  cases x with
  | mk t a => exact ⟨h1.out, anyVal.triv⟩

/-- What `execDestroyContext` can change. -/
theorem execDestroyContext_keeps {P : State → Prop} [KChip P] [KContexts P] [KDies P] [KFlint P] [KFresh P] [KHosts P] [KMems P] [KOports P] [KRegs P] [KResident P] [KSent P]
    {m : Mbx} {s : State} (hs : Holds P s) : HNext P (execDestroyContext m s) := by
  unfold execDestroyContext
  repeat' first
    | (with_reducible assumption)
    | (with_reducible apply State.destroyContext_keeps)
    | (with_reducible apply State.enter_keeps)
    | (with_reducible apply State.wakeAll_keeps)
    | (with_reducible apply serve_keeps)
    | (with_reducible exact anyVal.triv)
    | (dsimp only)
    | split
    | (with_reducible apply HFst.ans)
    | (with_reducible apply HNext.ans)
    | (intro _)

/-- What `execSwitchContext` can change. -/
theorem execSwitchContext_keeps {P : State → Prop} [KDies P] [KFlint P] [KFresh P] [KHosts P] [KMems P] [KOports P] [KRegs P] [KSent P]
    {m : Mbx} {s : State} (hs : Holds P s) : HNext P (execSwitchContext m s) := by
  unfold execSwitchContext
  repeat' first
    | (with_reducible assumption)
    | (with_reducible apply State.switchTo_keeps)
    | (with_reducible apply serve_keeps)
    | (with_reducible apply HNext.ans)
    | (intro _)

/-- What `execSwitchContextComplete` can change. -/
theorem execSwitchContextComplete_keeps {P : State → Prop} [KChip P] [KContexts P] [KDevFlips P] [KDevmem P] [KDies P] [KEdges P] [KFlint P] [KFresh P] [KGangPairs P] [KHosts P] [KMems P] [KOports P] [KRegs P] [KRepair P] [KResident P] [KSent P]
    {saveErr restoreErr : Bool} {s : State} (hs : Holds P s) : HNext P (execSwitchContextComplete saveErr restoreErr s) := by
  unfold execSwitchContextComplete
  repeat' first
    | (with_reducible assumption)
    | (with_reducible apply switchDone_keeps)
    | (with_reducible apply HNext.ans)

/-- What `execCreateRegion` can change. -/
theorem execCreateRegion_keeps {P : State → Prop} [KContexts P] [KDies P] [KFlint P] [KFresh P] [KHosts P] [KMems P] [KOports P] [KRegs P] [KSent P]
    {m : Mbx} {s : State} (hs : Holds P s) : HNext P (execCreateRegion m s) := by
  unfold execCreateRegion
  refine HNext.ans (serve_keeps hs fun s req h => ?_)
  dsimp only
  split
  · exact HFst.ans h anyVal.triv
  · rename_i c _
    have h1 := State.createRegion_keeps (c := c) (args := slice req 64 24) h
    generalize State.createRegion s c (slice req 64 24) = x at h1
    cases x with
    | mk t a => exact ⟨h1.out, anyVal.triv⟩

/-- What `execRegionZeroingComplete` can change. -/
theorem execRegionZeroingComplete_keeps {P : State → Prop} [KContexts P] [KDevFlips P] [KDevmem P]
    {slot index : Nat} {s : State} (hs : Holds P s) : HNext P (execRegionZeroingComplete slot index s) := by
  unfold execRegionZeroingComplete
  repeat' first
    | (with_reducible assumption)
    | (with_reducible apply zeroingDone_keeps)
    | (with_reducible apply HNext.ans)

/-- What `execDestroyRegion` can change. -/
theorem execDestroyRegion_keeps {P : State → Prop} [KContexts P] [KFlint P] [KHosts P] [KSent P]
    {m : Mbx} {s : State} (hs : Holds P s) : HNext P (execDestroyRegion m s) := by
  unfold execDestroyRegion
  repeat' first
    | (with_reducible assumption)
    | (with_reducible apply State.putContext_keeps)
    | (with_reducible apply serve_keeps)
    | (with_reducible exact anyVal.triv)
    | split
    | (with_reducible apply HFst.ans)
    | (with_reducible apply HNext.ans)
    | (intro _)

/-- What `execScrub` can change. -/
theorem execScrub_keeps {P : State → Prop} [KChip P] [KContexts P] [KDies P] [KEdges P] [KFlint P] [KFresh P] [KHosts P] [KMems P] [KOports P] [KRegs P] [KResident P] [KSent P]
    {m : Mbx} {s : State} (hs : Holds P s) : HNext P (execScrub m s) := by
  unfold execScrub
  repeat' first
    | (with_reducible assumption)
    | (with_reducible apply State.startScrub_keeps)
    | (with_reducible apply serve_keeps)
    | (with_reducible exact anyVal.triv)
    | (with_reducible apply HFst.ans)
    | (with_reducible apply HNext.ans)
    | (intro _)

/-- What `execScrubComplete` can change. -/
theorem execScrubComplete_keeps {P : State → Prop} [KDevFlips P] [KDevmem P] [KDies P] [KFlint P] [KHosts P] [KMems P] [KOports P] [KRegs P] [KSent P]
    {s : State} (hs : Holds P s) : HNext P (execScrubComplete s) := by
  unfold execScrubComplete
  repeat' first
    | (with_reducible assumption)
    | (with_reducible apply scrubDone_keeps)
    | (with_reducible apply HNext.ans)

/-- What `execOpenSession` can change. -/
theorem execOpenSession_keeps {P : State → Prop} [KContexts P] [KFlint P] [KFresh P] [KHosts P] [KSent P]
    {m : Mbx} {s : State} (hs : Holds P s) : HNext P (execOpenSession m s) := by
  unfold execOpenSession
  repeat' first
    | (with_reducible assumption)
    | (with_reducible refine HFst.proj (State.openSession_keeps ?_))
    | (with_reducible apply serve_keeps)
    | (with_reducible exact anyVal.triv)
    | (dsimp only)
    | split
    | (with_reducible apply HFst.ans)
    | (with_reducible apply HNext.ans)
    | (intro _)

/-- What `execCloseSession` can change. -/
theorem execCloseSession_keeps {P : State → Prop} [KContexts P] [KFlint P] [KHosts P] [KSent P]
    {m : Mbx} {s : State} (hs : Holds P s) : HNext P (execCloseSession m s) := by
  unfold execCloseSession
  repeat' first
    | (with_reducible assumption)
    | (with_reducible apply State.putContext_keeps)
    | (with_reducible apply serve_keeps)
    | (with_reducible exact anyVal.triv)
    | split
    | (with_reducible apply HFst.ans)
    | (with_reducible apply HNext.ans)
    | (intro _)

/-- What `execAttest` can change. -/
theorem execAttest_keeps {P : State → Prop} [KFlint P] [KHosts P] [KSent P]
    {m : Mbx} {s : State} (hs : Holds P s) : HNext P (execAttest m s) := by
  unfold execAttest
  repeat' first
    | (with_reducible assumption)
    | (with_reducible apply State.attest_keeps)
    | (with_reducible apply serve_keeps)
    | (with_reducible apply HNext.ans)
    | (intro _)

/-- What `execAttestComplete` can change. -/
theorem execAttestComplete_keeps {P : State → Prop} [KFlint P] [KHosts P] [KSent P]
    {s : State} (hs : Holds P s) : HNext P (execAttestComplete s) := by
  unfold execAttestComplete
  repeat' first
    | (with_reducible assumption)
    | (with_reducible apply attestDone_keeps)
    | (with_reducible apply HNext.ans)

end Sys2Proof.Machine
end

