-- ==== Sys2Proof/Laws/KeepsPlans.lean ====
section
/-! SUPPORT. Footprints of plan loading and steps: for each operation the parts of the state it can change (see Keeps). -/

namespace Sys2Proof.Machine

/-- What `State.writeRings` can change. -/
theorem State.writeRings_keeps {P : State → Prop} [KDevFlips P] [KDevmem P] [KDies P] [KFlint P] [KFresh P] [KHosts P] [KMems P] [KOports P] [KRegs P] [KSent P]
    {s : State} {p : Plan} (hs : Holds P s) : Holds P (State.writeRings s p) := by
  unfold State.writeRings
  repeat' first
    | (with_reducible assumption)
    | (refine HOk.get (State.devWrite_keeps ?_) (by with_reducible assumption))
    | (with_reducible apply Holds.foldl)
    | (intro _)
    | split

/-- What `State.writeArgs` can change. -/
theorem State.writeArgs_keeps {P : State → Prop} [KChip P] [KRegs P] [KRepair P]
    {s : State} {p : Plan} (hs : Holds P s) : Holds P (State.writeArgs s p) := by
  unfold State.writeArgs
  repeat' first
    | (with_reducible assumption)
    | (refine HOk.get (State.scrWrite_keeps ?_) (by with_reducible assumption))
    | (refine BankErr.of (HOk.getE (State.scrWrite_keeps ?_) (by with_reducible assumption)))
    | (with_reducible apply Holds.foldl)
    | (intro _)
    | split

/-- What `State.install` can change. -/
theorem State.install_keeps {P : State → Prop} [KChip P] [KContexts P] [KDevFlips P] [KDevmem P] [KDies P] [KFlint P] [KFresh P] [KHosts P] [KMems P] [KOports P] [KRegs P] [KRepair P] [KSent P]
    {s : State} {p : Plan} (hs : Holds P s) : Holds P (State.install s p) := by
  unfold State.install
  repeat' first
    | (with_reducible assumption)
    | (with_reducible apply State.enter_keeps)
    | (with_reducible apply State.modChip_keeps)
    | (with_reducible apply State.modResident_keeps)
    | (with_reducible apply State.writeArgs_keeps)
    | (with_reducible apply State.writePart_keeps)
    | (with_reducible apply State.writeRings_keeps)
    | split

/-- What `State.askImage` can change. -/
theorem State.askImage_keeps {P : State → Prop} [KFlint P] [KSent P]
    {s : State} (hs : Holds P s) : Holds P (State.askImage s) := by
  unfold State.askImage
  repeat' first
    | (with_reducible assumption)
    | (with_reducible apply State.askHost_keeps)
    | (with_reducible apply State.begin_keeps)
    | (intro _)
    | (with_reducible apply Holds.ite)
    | (dsimp only)
    | split

/-- What `State.refuseLoad` can change. -/
theorem State.refuseLoad_keeps {P : State → Prop} [KFlint P] [KHosts P] [KSent P]
    {s : State} {b : Background} {x : Bad} (hs : Holds P s) : Holds P (State.refuseLoad s b x) := by
  unfold State.refuseLoad
  repeat' first
    | (with_reducible assumption)
    | (with_reducible apply State.endBackground_keeps)

/-- What `State.imageBytes` can change. -/
theorem State.imageBytes_keeps {P : State → Prop} [KFlint P]
    {s : State} {b : Background} {r : Rec} (hs : Holds P s) : Holds P (State.imageBytes s b r) := by
  unfold State.imageBytes
  repeat' first
    | (with_reducible assumption)
    | (with_reducible apply State.begin_keeps)

/-- What `State.imageRecord` can change. -/
theorem State.imageRecord_keeps {P : State → Prop} [KChip P] [KContexts P] [KFlint P] [KHosts P] [KRegs P] [KRepair P] [KSent P]
    {s : State} {b : Background} {cipher tag : Rec} (hs : Holds P s) : Holds P (State.imageRecord s b cipher tag) := by
  unfold State.imageRecord
  repeat' first
    | (with_reducible assumption)
    | (with_reducible apply State.closeSession_keeps)
    | (with_reducible apply State.imageBytes_keeps)
    | (with_reducible apply State.putContext_keeps)
    | (with_reducible apply State.refuseLoad_keeps)
    | (with_reducible apply State.stopSealed_keeps)
    | (dsimp only)
    | split

/-- What `State.imageCompletion` can change. -/
theorem State.imageCompletion_keeps {P : State → Prop} [KChip P] [KContexts P] [KFlint P] [KHosts P] [KRegs P] [KRepair P] [KSent P]
    {s : State} {port : Nat} {cpl : Completion} (hs : Holds P s) : Holds P (State.imageCompletion s port cpl) := by
  unfold State.imageCompletion
  repeat' first
    | (with_reducible assumption)
    | (with_reducible apply State.imageBytes_keeps)
    | (with_reducible apply State.imageRecord_keeps)
    | (with_reducible apply State.refuseLoad_keeps)
    | (intro _)
    | (with_reducible apply Holds.ite)
    | (dsimp only)
    | split

/-- What `State.loadPlan` can change. -/
theorem State.loadPlan_keeps {P : State → Prop} [KDies P] [KFlint P] [KFresh P] [KHosts P] [KMems P] [KOports P] [KRegs P] [KSent P]
    {s : State} {m : Mbx} {req : Rec} (hs : Holds P s) : HFst P anyVal (State.loadPlan s m req) := by
  unfold State.loadPlan
  repeat' first
    | (with_reducible assumption)
    | (with_reducible apply State.askImage_keeps)
    | (with_reducible apply State.begin_keeps)
    | (with_reducible apply State.useResident_keeps)
    | (with_reducible apply State.wakeAll_keeps)
    | (with_reducible exact anyVal.triv)
    | (with_reducible apply HFst.ite)
    | (dsimp only)
    | split
    | (with_reducible apply HFst.ans)
    | (intro _)

/-- What `loadDone` can change. -/
theorem loadDone_keeps {P : State → Prop} [KChip P] [KContexts P] [KDevFlips P] [KDevmem P] [KDies P] [KFlint P] [KFresh P] [KHosts P] [KMems P] [KOports P] [KRegs P] [KRepair P] [KSent P]
    {s : State} (hs : Holds P s) : Holds P (loadDone s) := by
  unfold loadDone
  repeat' first
    | (with_reducible assumption)
    | (refine HOk2.get (State.devRead_keeps ?_) (by with_reducible assumption))
    | (with_reducible apply State.endBackground_keeps)
    | (with_reducible apply State.install_keeps)
    | (with_reducible apply State.memFault_keeps)
    | (with_reducible apply State.refuseLoad_keeps)
    | (with_reducible apply State.useResident_keeps)
    | (intro _)
    | (with_reducible apply Holds.ite)
    | (dsimp only)
    | split

/-- What `execLoadPlan` can change. -/
theorem execLoadPlan_keeps {P : State → Prop} [KDies P] [KFlint P] [KFresh P] [KHosts P] [KMems P] [KOports P] [KRegs P] [KSent P]
    {m : Mbx} {s : State} (hs : Holds P s) : HNext P (execLoadPlan m s) := by
  unfold execLoadPlan
  repeat' first
    | (with_reducible assumption)
    | (with_reducible apply State.loadPlan_keeps)
    | (with_reducible apply serve_keeps)
    | (with_reducible apply HNext.ans)
    | (intro _)

/-- What `execLoadPlanComplete` can change. -/
theorem execLoadPlanComplete_keeps {P : State → Prop} [KChip P] [KContexts P] [KDevFlips P] [KDevmem P] [KDies P] [KFlint P] [KFresh P] [KHosts P] [KMems P] [KOports P] [KRegs P] [KRepair P] [KSent P]
    {s : State} (hs : Holds P s) : HNext P (execLoadPlanComplete s) := by
  unfold execLoadPlanComplete
  repeat' first
    | (with_reducible assumption)
    | (with_reducible apply loadDone_keeps)
    | (with_reducible apply HNext.ans)

/-- What `State.reference` can change. -/
theorem State.reference_keeps {P : State → Prop} [KDevFlips P] [KDevmem P] [KDies P] [KFlint P] [KFresh P] [KHosts P] [KMems P] [KOports P] [KRegs P] [KRepair P] [KSent P]
    {s : State} {r : Rec} (hs : Holds P s) : HOk2 P (ansHas P) (State.reference s r) := by
  unfold State.reference
  repeat' first
    | (with_reducible assumption)
    | (refine HOk2.get (State.devRead_keeps ?_) (by with_reducible assumption))
    | (refine MemErr.of_dead (HOk2.getE (State.devRead_keeps ?_) (by with_reducible assumption)))
    | (with_reducible apply State.memFault_keeps)
    | (with_reducible apply ansHas.mk)
    | (with_reducible apply HOk2.ite)
    | (with_reducible apply HOk2.ans)
    | (with_reducible apply HOk2.err)
    | (intro _)
    | split

/-- What `State.stage4Fails` can change. -/
theorem State.stage4Fails_keeps {P : State → Prop} [KFlint P] [KHosts P] [KMems P] [KRegs P] [KRepair P] [KSent P]
    {s : State} {index : Nat} {lost : Bool} {x3 : MemErr} (hs : Holds P s) (hf : MemErr.has P x3) : HFst P anyVal (State.stage4Fails s index lost x3) := by
  unfold State.stage4Fails
  cases x3 with
  | unmapped => exact HFst.ans (State.reportUnsound_keeps hs) anyVal.triv
  | dead d t => exact HFst.ans (State.memFault_keeps (MemErr.of_dead hf)) anyVal.triv

/-- What `State.readInputs` can change. -/
theorem State.readInputs_keeps {P : State → Prop} [KDevFlips P] [KDevmem P] [KDies P] [KFlint P] [KFresh P] [KHosts P] [KMems P] [KOports P] [KRegs P] [KSent P]
    {s : State} {x1 : List (Nat × Nat)} (hs : Holds P s) : HOk2 P (MemErr.has P) (State.readInputs s x1) := by
  induction x1 generalizing s with
  | nil =>
    unfold State.readInputs
    repeat' first
      | (with_reducible assumption)
      | (with_reducible apply HOk2.ans)
  | cons _ _ ih =>
    unfold State.readInputs
    repeat' first
      | (with_reducible assumption)
      | (refine HOk2.get (ih ?_) (by with_reducible assumption))
      | (refine HOk2.getE (ih ?_) (by with_reducible assumption))
      | (refine HOk2.get (State.devRead_keeps ?_) (by with_reducible assumption))
      | (refine HOk2.getE (State.devRead_keeps ?_) (by with_reducible assumption))
      | (with_reducible exact MemErr.has_unmapped)
      | (with_reducible apply HOk2.ite)
      | (with_reducible apply HOk2.ans)
      | (with_reducible apply HOk2.err)
      | (intro _)
      | split

/-- What `State.inputDigest` can change. -/
theorem State.inputDigest_keeps {P : State → Prop} [KDevFlips P] [KDevmem P] [KDies P] [KFlint P] [KFresh P] [KHosts P] [KMems P] [KOports P] [KRegs P] [KSent P]
    {s : State} {p : Plan} {asked : Bool} (hs : Holds P s) : HOk2 P (MemErr.has P) (State.inputDigest s p asked) := by
  unfold State.inputDigest
  repeat' first
    | (with_reducible assumption)
    | (refine HOk2.get (State.readInputs_keeps ?_) (by with_reducible assumption))
    | (refine HOk2.getE (State.readInputs_keeps ?_) (by with_reducible assumption))
    | (with_reducible apply HOk2.ite)
    | (with_reducible apply HOk2.ans)
    | (with_reducible apply HOk2.err)
    | (intro _)
    | split

/-- What `State.resetUnits` can change. -/
theorem State.resetUnits_keeps {P : State → Prop} [KChip P]
    {s : State} {p : Plan} (hs : Holds P s) : Holds P (State.resetUnits s p) := by
  unfold State.resetUnits
  repeat' first
    | (with_reducible assumption)
    | (with_reducible apply State.modChip_keeps)

/-- What `State.loadReference` can change. -/
theorem State.loadReference_keeps {P : State → Prop} [KChip P] [KContexts P]
    {s : State} {c : Context} {x2 : Option Rec} (hs : Holds P s) : Holds P (State.loadReference s c x2) := by
  unfold State.loadReference
  repeat' first
    | (with_reducible assumption)
    | (with_reducible apply State.modChip_keeps)
    | (with_reducible apply State.putContext_keeps)
    | split

/-- What `State.replayRing` can change. -/
theorem State.replayRing_keeps {P : State → Prop} [KChip P] [KContexts P] [KDevFlips P] [KDevmem P] [KDies P] [KFlint P] [KFresh P] [KHosts P] [KMems P] [KOports P] [KRegs P] [KRepair P] [KSent P]
    {s : State} {mode : Nat} {x2 : Option Rec} (hs : Holds P s) : Holds P (State.replayRing s mode x2) := by
  unfold State.replayRing
  repeat' first
    | (with_reducible assumption)
    | (with_reducible apply State.serveLog_keeps)
    | (with_reducible refine HPair.proj (State.stepRead_keeps ?_))
    | (intro _)
    | (with_reducible apply Holds.ite)
    | (dsimp only)
    | split

/-- What `State.beginStep` can change. -/
theorem State.beginStep_keeps {P : State → Prop} [KChip P] [KContexts P] [KDevFlips P] [KDevmem P] [KDies P] [KEdges P] [KFlint P] [KFresh P] [KGangPairs P] [KHosts P] [KMems P] [KOports P] [KRegs P] [KRepair P] [KSent P]
    {s : State} {m : Mbx} {c : Context} {p : Plan} {r : Rec} {ref : Option Rec} (hs : Holds P s) : HFst P anyVal (State.beginStep s m c p r ref) := by
  unfold State.beginStep
  repeat' first
    | (with_reducible assumption)
    | (refine HOk.getE (P := P) (E := MemErr.has P) (ε := MemErr) ?_ (by with_reducible assumption))
    | (with_reducible apply State.devWrite_keeps)
    | (refine HOk.get (State.devWrite_keeps ?_) (by with_reducible assumption))
    | (with_reducible apply State.enter_keeps)
    | (with_reducible apply State.formGangs_keeps)
    | (refine HOk2.get (State.inputDigest_keeps ?_) (by with_reducible assumption))
    | (refine HOk2.getE (State.inputDigest_keeps ?_) (by with_reducible assumption))
    | (with_reducible apply State.loadReference_keeps)
    | (with_reducible apply State.modChip_keeps)
    | (with_reducible apply State.modFlint_keeps)
    | (with_reducible apply State.replayRing_keeps)
    | (with_reducible apply State.report_keeps)
    | (with_reducible apply State.resetUnits_keeps)
    | (with_reducible apply State.respond_keeps)
    | (with_reducible apply State.ringStart_keeps)
    | (with_reducible apply State.stage4Fails_keeps)
    | (with_reducible apply State.stirAll_keeps)
    | (with_reducible exact anyVal.triv)
    | (with_reducible apply HOk.ans)
    | (with_reducible apply HFst.ite)
    | (dsimp only)
    | split
    | (with_reducible apply HFst.ans)
    | (intro _)
    | (refine HOk.get (E := MemErr.has P) ?_ (by with_reducible assumption))

/-- What `State.startStep` can change. -/
theorem State.startStep_keeps {P : State → Prop} [KChip P] [KContexts P] [KDevFlips P] [KDevmem P] [KDies P] [KEdges P] [KFlint P] [KFresh P] [KGangPairs P] [KHosts P] [KMems P] [KOports P] [KRegs P] [KRepair P] [KSent P]
    {s : State} {m : Mbx} {req : Rec} (hs : Holds P s) : HFst P anyVal (State.startStep s m req) := by
  unfold State.startStep
  have hb : ∀ {t m c p r ref}, Holds P t → HFst P anyVal (State.beginStep t m c p r ref) := State.beginStep_keeps
  have hr : ∀ {t r}, Holds P t → HOk2 P (ansHas P) (State.reference t r) := State.reference_keeps
  generalize State.beginStep = B at hb ⊢
  generalize State.reference = R at hr ⊢
  generalize State.stepCheck = C
  generalize State.referenceCheck = D
  repeat' first
    | (with_reducible assumption)
    | (with_reducible apply hb)
    | (with_reducible apply State.useResident_keeps)
    | (with_reducible apply State.report_keeps)
    | (dsimp only)
    | split
    | (with_reducible exact anyVal.triv)
    | (with_reducible apply HFst.ans)
    | (refine HOk2.get (hr ?_) (by with_reducible assumption))
    | (refine ansHas.of (HOk2.getE (hr ?_) (by with_reducible assumption)))

/-- What `State.finishStep` can change. -/
theorem State.finishStep_keeps {P : State → Prop} [KChip P] [KContexts P] [KDevFlips P] [KDevmem P] [KDies P] [KFlint P] [KFresh P] [KHosts P] [KMems P] [KOports P] [KRegs P] [KRepair P] [KSent P]
    {s : State} {p : Plan} {run : StepRun} (hs : Holds P s) : Holds P (State.finishStep s p run) := by
  unfold State.finishStep
  repeat' first
    | (with_reducible assumption)
    | (with_reducible apply State.closeCapture_keeps)
    | (with_reducible apply State.endStep_keeps)
    | (with_reducible apply State.enter_keeps)
    | (with_reducible apply State.modChip_keeps)
    | (with_reducible apply State.modResident_keeps)
    | (with_reducible apply State.report_keeps)
    | (with_reducible apply State.scaleUpdate_keeps)
    | (with_reducible apply State.writeInstruments_keeps)
    | (with_reducible apply Holds.foldl)
    | (intro _)
    | (with_reducible apply Holds.ite)

/-- What `stepEnds` can change. -/
theorem stepEnds_keeps {P : State → Prop} [KChip P] [KContexts P] [KDevFlips P] [KDevmem P] [KDies P] [KFlint P] [KFresh P] [KHosts P] [KMems P] [KOports P] [KRegs P] [KRepair P] [KSent P]
    {s : State} (hs : Holds P s) : Holds P (stepEnds s) := by
  unfold stepEnds
  repeat' first
    | (with_reducible assumption)
    | (with_reducible apply State.finishStep_keeps)
    | (with_reducible apply completeColl_keeps)
    | (with_reducible apply Holds.foldl)
    | (intro _)
    | (with_reducible apply Holds.ite)
    | (dsimp only)
    | split

/-- What `State.abortStep` can change. -/
theorem State.abortStep_keeps {P : State → Prop} [KChip P] [KFlint P] [KFresh P] [KHosts P] [KRegs P] [KSent P]
    {s : State} {m : Mbx} {req : Rec} (hs : Holds P s) : HFst P anyVal (State.abortStep s m req) := by
  unfold State.abortStep
  repeat' first
    | (with_reducible assumption)
    | (with_reducible apply State.logEvent_keeps)
    | (with_reducible apply State.modChip_keeps)
    | (with_reducible apply State.modFlint_keeps)
    | (with_reducible apply State.stopUnits_keeps)
    | (with_reducible apply State.useResident_keeps)
    | (with_reducible exact anyVal.triv)
    | (with_reducible apply HFst.ite)
    | (dsimp only)
    | split
    | (with_reducible apply HFst.ans)
    | (intro _)

/-- What `stopDone` can change. -/
theorem stopDone_keeps {P : State → Prop} [KChip P] [KContexts P] [KDevFlips P] [KDevmem P] [KDies P] [KFlint P] [KFresh P] [KHosts P] [KMems P] [KOports P] [KRegs P] [KRepair P] [KSent P]
    {s : State} (hs : Holds P s) : Holds P (stopDone s) := by
  unfold stopDone
  repeat' first
    | (with_reducible assumption)
    | (with_reducible apply State.closeCapture_keeps)
    | (with_reducible apply State.endStep_keeps)
    | (with_reducible apply State.enter_keeps)
    | (with_reducible apply State.modFlint_keeps)
    | (with_reducible apply State.respond_keeps)
    | (with_reducible apply State.restoreScale_keeps)
    | (dsimp only)
    | split

/-- What `execStartStep` can change. -/
theorem execStartStep_keeps {P : State → Prop} [KChip P] [KContexts P] [KDevFlips P] [KDevmem P] [KDies P] [KEdges P] [KFlint P] [KFresh P] [KGangPairs P] [KHosts P] [KMems P] [KOports P] [KRegs P] [KRepair P] [KSent P]
    {m : Mbx} {s : State} (hs : Holds P s) : HNext P (execStartStep m s) := by
  unfold execStartStep
  repeat' first
    | (with_reducible assumption)
    | (with_reducible apply State.startStep_keeps)
    | (with_reducible apply serve_keeps)
    | (with_reducible apply HNext.ans)
    | (intro _)

/-- What `execAbortStep` can change. -/
theorem execAbortStep_keeps {P : State → Prop} [KChip P] [KFlint P] [KFresh P] [KHosts P] [KRegs P] [KSent P]
    {m : Mbx} {s : State} (hs : Holds P s) : HNext P (execAbortStep m s) := by
  unfold execAbortStep
  repeat' first
    | (with_reducible assumption)
    | (with_reducible apply State.abortStep_keeps)
    | (with_reducible apply serve_keeps)
    | (with_reducible apply HNext.ans)
    | (intro _)

/-- What `execStepStopComplete` can change. -/
theorem execStepStopComplete_keeps {P : State → Prop} [KChip P] [KContexts P] [KDevFlips P] [KDevmem P] [KDies P] [KFlint P] [KFresh P] [KHosts P] [KMems P] [KOports P] [KRegs P] [KRepair P] [KSent P]
    {s : State} (hs : Holds P s) : HNext P (execStepStopComplete s) := by
  unfold execStepStopComplete
  repeat' first
    | (with_reducible assumption)
    | (with_reducible apply stopDone_keeps)
    | (with_reducible apply HNext.ans)

/-- What `execStepEndDetected` can change. -/
theorem execStepEndDetected_keeps {P : State → Prop} [KChip P] [KContexts P] [KDevFlips P] [KDevmem P] [KDies P] [KFlint P] [KFresh P] [KHosts P] [KMems P] [KOports P] [KRegs P] [KRepair P] [KSent P]
    {s : State} (hs : Holds P s) : HNext P (execStepEndDetected s) := by
  unfold execStepEndDetected
  repeat' first
    | (with_reducible assumption)
    | (with_reducible apply stepEnds_keeps)
    | (with_reducible apply HNext.ans)

end Sys2Proof.Machine
end

