-- ==== Sys2Proof/Laws/KeepsBoard.lean ====
section
/-! SUPPORT. Footprints of host ports, power, memory, the update unit, boot and management: for each operation the parts of the state it can change (see Keeps). -/

namespace Sys2Proof.Machine

/-- What `State.mailboxBell` can change. -/
theorem State.mailboxBell_keeps {P : State → Prop} [KFlint P] [KFresh P] [KHosts P] [KRegs P] [KSent P]
    {s : State} {p : Nat} {v : Word64} (hs : Holds P s) : Holds P (State.mailboxBell s p v) := by
  unfold State.mailboxBell
  repeat' first
    | (with_reducible assumption)
    | (with_reducible apply State.modFlint_keeps)
    | (with_reducible apply State.modHost_keeps)
    | (with_reducible apply State.violation_keeps)
    | (intro _)
    | (with_reducible apply Holds.ite)

/-- What `State.clearDone` can change. -/
theorem State.clearDone_keeps {P : State → Prop} [KHosts P]
    {s : State} {p : Nat} {v : Word64} (hs : Holds P s) : Holds P (State.clearDone s p v) := by
  unfold State.clearDone
  repeat' first
    | (with_reducible assumption)
    | (with_reducible apply State.modHost_keeps)

/-- What `State.writeEnable` can change. -/
theorem State.writeEnable_keeps {P : State → Prop} [KHosts P] [KRegs P] [KSent P]
    {s : State} {p : Nat} {v : Word64} (hs : Holds P s) : Holds P (State.writeEnable s p v) := by
  unfold State.writeEnable
  repeat' first
    | (with_reducible assumption)
    | (with_reducible apply State.sendVector_keeps)
    | (with_reducible apply State.writeReg_keeps)
    | (intro _)
    | (with_reducible apply Holds.ite)

/-- What `State.writeMsix` can change. -/
theorem State.writeMsix_keeps {P : State → Prop} [KHosts P] [KSent P]
    {s : State} {p off : Nat} {r : Rec} (hs : Holds P s) : Holds P (State.writeMsix s p off r) := by
  unfold State.writeMsix
  repeat' first
    | (with_reducible assumption)
    | (with_reducible apply State.modHost_keeps)
    | (with_reducible apply State.sendPending_keeps)

/-- What `State.writeMessageControl` can change. -/
theorem State.writeMessageControl_keeps {P : State → Prop} [KHosts P] [KSent P]
    {s : State} {p : Nat} {r : Rec} (hs : Holds P s) : Holds P (State.writeMessageControl s p r) := by
  unfold State.writeMessageControl
  repeat' first
    | (with_reducible assumption)
    | (with_reducible apply State.modHost_keeps)
    | (with_reducible apply State.sendPending_keeps)

/-- What `State.writeBar0` can change. -/
theorem State.writeBar0_keeps {P : State → Prop} [KChip P] [KContexts P] [KDevFlips P] [KDevmem P] [KDies P] [KFlint P] [KFresh P] [KHosts P] [KMems P] [KOports P] [KRegs P] [KRepair P] [KSent P]
    {s : State} {p off : Nat} {r : Rec} (hs : Holds P s) : Holds P (State.writeBar0 s p off r) := by
  unfold State.writeBar0
  repeat' first
    | (with_reducible assumption)
    | (with_reducible apply State.clearDone_keeps)
    | (with_reducible apply State.doorbellArm_keeps)
    | (with_reducible apply State.mailboxBell_keeps)
    | (with_reducible apply State.violation_keeps)
    | (with_reducible apply State.writeEnable_keeps)
    | (with_reducible apply State.writeMsix_keeps)
    | (with_reducible apply State.writeReg_keeps)
    | (intro _)
    | (with_reducible apply Holds.ite)
    | split

/-- What `State.writeBar2` can change. -/
theorem State.writeBar2_keeps {P : State → Prop} [KFlint P] [KFresh P] [KHosts P] [KRegs P] [KSent P]
    {s : State} {p off : Nat} {r : Rec} (hs : Holds P s) : Holds P (State.writeBar2 s p off r) := by
  unfold State.writeBar2
  repeat' first
    | (with_reducible assumption)
    | (with_reducible apply State.modHost_keeps)
    | (with_reducible apply State.violation_keeps)
    | (intro _)
    | (with_reducible apply Holds.ite)

/-- What `hostWrites` can change. -/
theorem hostWrites_keeps {P : State → Prop} [KChip P] [KContexts P] [KDevFlips P] [KDevmem P] [KDies P] [KFlint P] [KFresh P] [KHosts P] [KMems P] [KOports P] [KRegs P] [KRepair P] [KSent P]
    {w : HostWrite} {s : State} (hs : Holds P s) : Holds P (hostWrites w s) := by
  unfold hostWrites
  repeat' first
    | (with_reducible assumption)
    | (with_reducible apply State.violation_keeps)
    | (with_reducible apply State.writeBar0_keeps)
    | (with_reducible apply State.writeBar2_keeps)
    | (with_reducible apply State.writeMessageControl_keeps)
    | (intro _)
    | (with_reducible apply Holds.ite)

/-- What `State.sealedRows` can change. -/
theorem State.sealedRows_keeps {P : State → Prop} [KChip P] [KContexts P] [KFlint P] [KRegs P] [KRepair P]
    {s : State} {id : Nat} {x : Xfer} {r : Running} {cipher tag : Rec} (hs : Holds P s) : Holds P (State.sealedRows s id x r cipher tag) := by
  unfold State.sealedRows
  repeat' first
    | (with_reducible assumption)
    | (with_reducible apply State.modStream_keeps)
    | (with_reducible apply State.streamFault_keeps)
    | (dsimp only)
    | split

/-- What `State.streamCompletion` can change. -/
theorem State.streamCompletion_keeps {P : State → Prop} [KChip P] [KContexts P] [KFlint P] [KFresh P] [KHosts P] [KRegs P] [KRepair P] [KSent P]
    {s : State} {port id : Nat} {cpl : Completion} (hs : Holds P s) : Holds P (State.streamCompletion s port id cpl) := by
  unfold State.streamCompletion
  repeat' first
    | (with_reducible assumption)
    | (with_reducible apply State.modStream_keeps)
    | (with_reducible apply State.sealedRows_keeps)
    | (with_reducible apply State.streamFault_keeps)
    | (with_reducible apply State.violation_keeps)
    | (intro _)
    | (with_reducible apply Holds.ite)
    | (dsimp only)
    | split

/-- What `State.loadCompletion` can change. -/
theorem State.loadCompletion_keeps {P : State → Prop} [KChip P] [KContexts P] [KFlint P] [KFresh P] [KHosts P] [KRegs P] [KRepair P] [KSent P]
    {s : State} {port : Nat} {cpl : Completion} (hs : Holds P s) : Holds P (State.loadCompletion s port cpl) := by
  unfold State.loadCompletion
  repeat' first
    | (with_reducible assumption)
    | (with_reducible apply State.imageCompletion_keeps)
    | (with_reducible apply State.violation_keeps)
    | (intro _)
    | (with_reducible apply Holds.ite)
    | split

/-- What `completion` can change. -/
theorem completion_keeps {P : State → Prop} [KChip P] [KContexts P] [KFlint P] [KFresh P] [KHosts P] [KRegs P] [KRepair P] [KSent P]
    {port : Nat} {target : CplTarget} {cpl : Completion} {s : State} (hs : Holds P s) : Holds P (completion port target cpl s) := by
  unfold completion
  repeat' first
    | (with_reducible assumption)
    | (with_reducible apply State.loadCompletion_keeps)
    | (with_reducible apply State.streamCompletion_keeps)
    | (with_reducible apply State.violation_keeps)
    | split

/-- What `State.askAgain` can change. -/
theorem State.askAgain_keeps {P : State → Prop} [KChip P] [KFlint P]
    {s : State} {p : Nat} (hs : Holds P s) : Holds P (State.askAgain s p) := by
  unfold State.askAgain
  repeat' first
    | (with_reducible assumption)
    | (with_reducible apply State.modChip_keeps)
    | (with_reducible apply State.modFlint_keeps)

/-- What `State.loseOwner` can change. -/
theorem State.loseOwner_keeps {P : State → Prop} [KFlint P] [KHosts P] [KRegs P] [KSent P]
    {s : State} {p : Nat} (hs : Holds P s) : Holds P (State.loseOwner s p) := by
  unfold State.loseOwner
  repeat' first
    | (with_reducible assumption)
    | (with_reducible apply State.setOwner_keeps)
    | (intro _)
    | (with_reducible apply Holds.ite)

/-- What `State.resetFunction` can change. -/
theorem State.resetFunction_keeps {P : State → Prop} [KChip P] [KFlint P] [KHosts P] [KRegs P] [KSent P]
    {s : State} {p : Nat} (hs : Holds P s) : Holds P (State.resetFunction s p) := by
  unfold State.resetFunction
  repeat' first
    | (with_reducible assumption)
    | (with_reducible apply State.askAgain_keeps)
    | (with_reducible apply State.loseOwner_keeps)
    | (with_reducible apply State.modFlint_keeps)
    | (with_reducible apply State.modHost_keeps)
    | (with_reducible apply State.setReg_keeps)
    | (with_reducible apply Holds.foldl)
    | (intro _)

/-- What `State.perst` can change. -/
theorem State.perst_keeps {P : State → Prop} [KChip P] [KFlint P] [KHosts P] [KRegs P] [KSent P]
    {s : State} {p : Nat} (hs : Holds P s) : Holds P (State.perst s p) := by
  unfold State.perst
  repeat' first
    | (with_reducible assumption)
    | (with_reducible apply State.modHost_keeps)
    | (with_reducible apply State.resetFunction_keeps)

/-- What `State.hostLinkLost` can change. -/
theorem State.hostLinkLost_keeps {P : State → Prop} [KChip P] [KFlint P] [KHosts P] [KRegs P] [KSent P]
    {s : State} {p : Nat} (hs : Holds P s) : Holds P (State.hostLinkLost s p) := by
  unfold State.hostLinkLost
  repeat' first
    | (with_reducible assumption)
    | (with_reducible apply State.askAgain_keeps)
    | (with_reducible apply State.loseOwner_keeps)
    | (with_reducible apply State.modHost_keeps)

/-- What `execMailboxDoorbell` can change. -/
theorem execMailboxDoorbell_keeps {P : State → Prop} [KFlint P] [KFresh P] [KHosts P] [KRegs P] [KSent P]
    {port : Nat} {value : Word64} {s : State} (hs : Holds P s) : HNext P (execMailboxDoorbell port value s) := by
  unfold execMailboxDoorbell
  repeat' first
    | (with_reducible assumption)
    | (with_reducible apply State.mailboxBell_keeps)
    | (with_reducible apply HNext.ans)

/-- What `execMailboxDoneClear` can change. -/
theorem execMailboxDoneClear_keeps {P : State → Prop} [KHosts P]
    {port : Nat} {value : Word64} {s : State} (hs : Holds P s) : HNext P (execMailboxDoneClear port value s) := by
  unfold execMailboxDoneClear
  repeat' first
    | (with_reducible assumption)
    | (with_reducible apply State.clearDone_keeps)
    | (with_reducible apply HNext.ans)

/-- What `execInterruptEnableWrite` can change. -/
theorem execInterruptEnableWrite_keeps {P : State → Prop} [KHosts P] [KRegs P] [KSent P]
    {port : Nat} {value : Word64} {s : State} (hs : Holds P s) : HNext P (execInterruptEnableWrite port value s) := by
  unfold execInterruptEnableWrite
  repeat' first
    | (with_reducible assumption)
    | (with_reducible apply State.writeEnable_keeps)
    | (with_reducible apply HNext.ans)

/-- What `execReadClearAccess` can change. -/
theorem execReadClearAccess_keeps {P : State → Prop} [KDies P] [KFlint P] [KFresh P] [KHosts P] [KMems P] [KOports P] [KRegs P] [KSent P]
    {r : Reg} {s : State} (hs : Holds P s) : HNext P (execReadClearAccess r s) := by
  unfold execReadClearAccess
  repeat' first
    | (with_reducible assumption)
    | (with_reducible apply State.emit_keeps)
    | (with_reducible refine HPair.proj (State.readClear_keeps ?_))
    | (with_reducible apply State.wakeDie_keeps)
    | (with_reducible apply HNext.ans)
    | split

/-- What `execRegisterWrite` can change. -/
theorem execRegisterWrite_keeps {P : State → Prop} [KChip P] [KContexts P] [KDevFlips P] [KDevmem P] [KDies P] [KFlint P] [KFresh P] [KHosts P] [KMems P] [KOports P] [KRegs P] [KRepair P] [KSent P]
    {w : HostWrite} {s : State} (hs : Holds P s) : HNext P (execRegisterWrite w s) := by
  unfold execRegisterWrite
  repeat' first
    | (with_reducible assumption)
    | (with_reducible apply hostWrites_keeps)
    | (with_reducible apply HNext.ans)

/-- What `execHostCompletion` can change. -/
theorem execHostCompletion_keeps {P : State → Prop} [KChip P] [KContexts P] [KFlint P] [KFresh P] [KHosts P] [KRegs P] [KRepair P] [KSent P]
    {port : Nat} {target : CplTarget} {cpl : Completion} {s : State} (hs : Holds P s) : HNext P (execHostCompletion port target cpl s) := by
  unfold execHostCompletion
  repeat' first
    | (with_reducible assumption)
    | (with_reducible apply completion_keeps)
    | (with_reducible apply HNext.ans)

/-- What `execFunctionLevelReset` can change. -/
theorem execFunctionLevelReset_keeps {P : State → Prop} [KChip P] [KFlint P] [KHosts P] [KRegs P] [KSent P]
    {port : Nat} {s : State} (hs : Holds P s) : HNext P (execFunctionLevelReset port s) := by
  unfold execFunctionLevelReset
  repeat' first
    | (with_reducible assumption)
    | (with_reducible apply State.resetFunction_keeps)
    | (with_reducible apply HNext.ans)

/-- What `execPerstAsserted` can change. -/
theorem execPerstAsserted_keeps {P : State → Prop} [KChip P] [KFlint P] [KHosts P] [KRegs P] [KSent P]
    {port : Nat} {s : State} (hs : Holds P s) : HNext P (execPerstAsserted port s) := by
  unfold execPerstAsserted
  repeat' first
    | (with_reducible assumption)
    | (with_reducible apply State.perst_keeps)
    | (with_reducible apply HNext.ans)

/-- What `execPerstReleased` can change. -/
theorem execPerstReleased_keeps {P : State → Prop} [KHosts P]
    {port : Nat} {s : State} (hs : Holds P s) : HNext P (execPerstReleased port s) := by
  unfold execPerstReleased
  repeat' first
    | (with_reducible assumption)
    | (with_reducible apply State.modHost_keeps)
    | (with_reducible apply HNext.ans)
    | (intro _)
    | (with_reducible apply Holds.ite)

/-- What `execHostLinkDown` can change. -/
theorem execHostLinkDown_keeps {P : State → Prop} [KChip P] [KFlint P] [KHosts P] [KRegs P] [KSent P]
    {port : Nat} {s : State} (hs : Holds P s) : HNext P (execHostLinkDown port s) := by
  unfold execHostLinkDown
  repeat' first
    | (with_reducible assumption)
    | (with_reducible apply State.hostLinkLost_keeps)
    | (with_reducible apply HNext.ans)
    | (intro _)
    | (with_reducible apply Holds.ite)

/-- What `execHostLinkUp` can change. -/
theorem execHostLinkUp_keeps {P : State → Prop} [KFlint P] [KHosts P] [KSent P]
    {port : Nat} {s : State} (hs : Holds P s) : HNext P (execHostLinkUp port s) := by
  unfold execHostLinkUp
  repeat' first
    | (with_reducible assumption)
    | (with_reducible apply State.askImage_keeps)
    | (with_reducible apply State.modHost_keeps)
    | (with_reducible apply HNext.ans)
    | (intro _)
    | (with_reducible apply Holds.ite)

/-- What `execConfigurationSpaceWrite` can change. -/
theorem execConfigurationSpaceWrite_keeps {P : State → Prop} [KFlint P] [KHosts P] [KSent P]
    {port : Nat} {busMaster d3hot : Bool} {s : State} (hs : Holds P s) : HNext P (execConfigurationSpaceWrite port busMaster d3hot s) := by
  unfold execConfigurationSpaceWrite
  repeat' first
    | (with_reducible assumption)
    | (with_reducible apply State.askImage_keeps)
    | (with_reducible apply State.modHost_keeps)
    | (with_reducible apply HNext.ans)

/-- What `execLeaseExpiry` can change. -/
theorem execLeaseExpiry_keeps {P : State → Prop} [KFlint P]
    {s : State} (hs : Holds P s) : HNext P (execLeaseExpiry s) := by
  unfold execLeaseExpiry
  repeat' first
    | (with_reducible assumption)
    | (with_reducible apply State.modFlint_keeps)
    | (with_reducible apply HNext.ans)
    | (intro _)
    | (with_reducible apply Holds.ite)

/-- What `State.powerEvent` can change. -/
theorem State.powerEvent_keeps {P : State → Prop} [KFlint P] [KFresh P] [KHosts P] [KRegs P] [KSent P]
    {s : State} {code die : Nat} {detail : Rec} (hs : Holds P s) : Holds P (State.powerEvent s code die detail) := by
  unfold State.powerEvent
  repeat' first
    | (with_reducible assumption)
    | (with_reducible apply State.logEvent_keeps)

/-- What `State.lowerVolts` can change. -/
theorem State.lowerVolts_keeps {P : State → Prop} [KDies P] [KFresh P]
    {s : State} {d : Nat} (hs : Holds P s) : Holds P (State.lowerVolts s d) := by
  unfold State.lowerVolts
  repeat' first
    | (with_reducible assumption)
    | (with_reducible apply State.modDie_keeps)
    | (with_reducible refine HPair.proj (State.take_keeps ?_))

/-- What `State.raiseVolts` can change. -/
theorem State.raiseVolts_keeps {P : State → Prop} [KDies P] [KFresh P]
    {s : State} {d : Nat} (hs : Holds P s) : Holds P (State.raiseVolts s d) := by
  unfold State.raiseVolts
  repeat' first
    | (with_reducible assumption)
    | (with_reducible apply State.modDie_keeps)
    | (with_reducible refine HPair.proj (State.take_keeps ?_))

/-- What `State.throttle` can change. -/
theorem State.throttle_keeps {P : State → Prop} [KDies P] [KFlint P] [KFresh P] [KHosts P] [KRegs P] [KSent P]
    {s : State} {d : Nat} {newSensor newMem : Bool} (hs : Holds P s) : Holds P (State.throttle s d newSensor newMem) := by
  unfold State.throttle
  repeat' first
    | (with_reducible assumption)
    | (with_reducible apply State.bump_keeps)
    | (with_reducible apply State.lowerVolts_keeps)
    | (with_reducible apply State.modDie_keeps)
    | (with_reducible apply State.powerEvent_keeps)
    | (with_reducible apply State.setBit_keeps)
    | (intro _)
    | (with_reducible apply Holds.ite)

/-- What `State.sampleDie` can change. -/
theorem State.sampleDie_keeps {P : State → Prop} [KDies P] [KFresh P] [KRegs P]
    {s : State} {p : PowerSample} {d : Nat} (hs : Holds P s) : Holds P (State.sampleDie s p d) := by
  unfold State.sampleDie
  repeat' first
    | (with_reducible assumption)
    | (with_reducible apply State.liftMover_keeps)
    | (with_reducible apply State.lowerVolts_keeps)
    | (with_reducible apply State.modDie_keeps)
    | (with_reducible apply State.raiseVolts_keeps)
    | (with_reducible apply State.setBit_keeps)
    | (intro _)
    | (with_reducible apply Holds.ite)

/-- What `State.holdAdmission` can change. -/
theorem State.holdAdmission_keeps {P : State → Prop} [KDies P] [KFresh P] [KRegs P]
    {s : State} {average : Nat} (hs : Holds P s) : Holds P (State.holdAdmission s average) := by
  unfold State.holdAdmission
  repeat' first
    | (with_reducible assumption)
    | (with_reducible apply State.modDie_keeps)
    | (with_reducible apply State.setBit_keeps)
    | (with_reducible refine HPair.proj (State.take_keeps ?_))
    | (with_reducible apply Holds.foldl)
    | (intro _)
    | (with_reducible apply Holds.ite)

/-- What `sampled` can change. -/
theorem sampled_keeps {P : State → Prop} [KDies P] [KFresh P] [KInput P] [KRegs P]
    {p : PowerSample} {s : State} (hs : Holds P s) : Holds P (sampled p s) := by
  unfold sampled
  repeat' first
    | (with_reducible assumption)
    | (with_reducible apply State.holdAdmission_keeps)
    | (with_reducible apply State.sampleDie_keeps)
    | (with_reducible apply State.setBit_keeps)
    | (with_reducible apply Holds.foldl)
    | (intro _)
    | (with_reducible apply Holds.ite)
    | (apply KInput.keep)

/-- What `State.quietVolts` can change. -/
theorem State.quietVolts_keeps {P : State → Prop} [KDies P]
    {s : State} {d : Nat} (hs : Holds P s) : Holds P (State.quietVolts s d) := by
  unfold State.quietVolts
  repeat' first
    | (with_reducible assumption)
    | (with_reducible apply State.modDie_keeps)

/-- What `quietDie` can change. -/
theorem quietDie_keeps {P : State → Prop} [KDies P]
    {d : Nat} {s : State} (hs : Holds P s) : Holds P (quietDie d s) := by
  unfold quietDie
  repeat' first
    | (with_reducible assumption)
    | (with_reducible apply State.quietVolts_keeps)
    | (intro _)
    | (with_reducible apply Holds.ite)

/-- What `State.beginRetain` can change. -/
theorem State.beginRetain_keeps {P : State → Prop} [KChip P] [KDies P] [KFlint P] [KFresh P] [KHosts P] [KMems P] [KOports P] [KRegs P] [KSent P]
    {s : State} {d : Nat} (hs : Holds P s) : Holds P (State.beginRetain s d) := by
  unfold State.beginRetain
  repeat' first
    | (with_reducible assumption)
    | (with_reducible apply State.modDie_keeps)
    | (with_reducible apply State.modOport_keeps)
    | (with_reducible apply State.nextManagement_keeps)
    | (with_reducible apply State.portOff_keeps)
    | (with_reducible apply State.settleRetain_keeps)
    | (with_reducible apply Holds.foldl)
    | (intro _)
    | (with_reducible apply Holds.ite)

/-- What `retainTimer` can change. -/
theorem retainTimer_keeps {P : State → Prop} [KChip P] [KDies P] [KFlint P] [KFresh P] [KHosts P] [KMems P] [KOports P] [KRegs P] [KSent P]
    {d : Nat} {s : State} (hs : Holds P s) : Holds P (retainTimer d s) := by
  unfold retainTimer
  repeat' first
    | (with_reducible assumption)
    | (with_reducible apply State.beginRetain_keeps)
    | (with_reducible apply State.bump_keeps)
    | (with_reducible apply State.modDie_keeps)
    | (with_reducible apply State.setBit_keeps)
    | (intro _)
    | (with_reducible apply Holds.ite)

/-- What `State.lowJunction` can change. -/
theorem State.lowJunction_keeps {P : State → Prop} [KDies P] [KFlint P] [KFresh P] [KHosts P] [KRegs P] [KSent P]
    {s : State} {d : Nat} {basalt : List Int} (hs : Holds P s) : Holds P (State.lowJunction s d basalt) := by
  unfold State.lowJunction
  repeat' first
    | (with_reducible assumption)
    | (with_reducible apply State.modDie_keeps)
    | (with_reducible apply State.powerEvent_keeps)
    | (intro _)
    | (with_reducible apply Holds.ite)
    | split

/-- What `State.forcedWake` can change. -/
theorem State.forcedWake_keeps {P : State → Prop} [KDies P] [KFlint P] [KFresh P] [KHosts P] [KMems P] [KOports P] [KRegs P] [KSent P]
    {s : State} {d : Nat} (hs : Holds P s) : Holds P (State.forcedWake s d) := by
  unfold State.forcedWake
  repeat' first
    | (with_reducible assumption)
    | (with_reducible apply State.bump_keeps)
    | (with_reducible apply State.modDie_keeps)
    | (with_reducible apply State.powerEvent_keeps)
    | (with_reducible apply State.quietVolts_keeps)
    | (with_reducible apply State.wakeDie_keeps)

/-- What `tempSampled` can change. -/
theorem tempSampled_keeps {P : State → Prop} [KDies P] [KFlint P] [KFresh P] [KHosts P] [KMems P] [KOports P] [KRegs P] [KSent P]
    {d : Nat} {basalt opal : List Int} {s : State} (hs : Holds P s) : Holds P (tempSampled d basalt opal s) := by
  unfold tempSampled
  repeat' first
    | (with_reducible assumption)
    | (with_reducible apply State.forcedWake_keeps)
    | (with_reducible apply State.lowJunction_keeps)
    | (with_reducible apply State.modDie_keeps)
    | (with_reducible apply State.throttle_keeps)
    | (intro _)
    | (with_reducible apply Holds.ite)

/-- What `State.off` can change. -/
theorem State.off_keeps {P : State → Prop} [KOff P]
    {s : State} {pins : Pins} (hs : Holds P s) : Holds P (State.off s pins) := KOff.keep s pins hs

/-- What `execPowerSample` can change. -/
theorem execPowerSample_keeps {P : State → Prop} [KDies P] [KFresh P] [KInput P] [KRegs P]
    {p : PowerSample} {s : State} (hs : Holds P s) : HNext P (execPowerSample p s) := by
  unfold execPowerSample
  repeat' first
    | (with_reducible assumption)
    | (with_reducible apply sampled_keeps)
    | (with_reducible apply HNext.ans)

/-- What `execQuietTimerExpiry` can change. -/
theorem execQuietTimerExpiry_keeps {P : State → Prop} [KDies P]
    {die : Nat} {s : State} (hs : Holds P s) : HNext P (execQuietTimerExpiry die s) := by
  unfold execQuietTimerExpiry
  repeat' first
    | (with_reducible assumption)
    | (with_reducible apply quietDie_keeps)
    | (with_reducible apply HNext.ans)

/-- What `execRetainTimerExpiry` can change. -/
theorem execRetainTimerExpiry_keeps {P : State → Prop} [KChip P] [KDies P] [KFlint P] [KFresh P] [KHosts P] [KMems P] [KOports P] [KRegs P] [KSent P]
    {die : Nat} {s : State} (hs : Holds P s) : HNext P (execRetainTimerExpiry die s) := by
  unfold execRetainTimerExpiry
  repeat' first
    | (with_reducible assumption)
    | (with_reducible apply retainTimer_keeps)
    | (with_reducible apply HNext.ans)

/-- What `execRetainEntry` can change. -/
theorem execRetainEntry_keeps {P : State → Prop} [KChip P] [KDies P] [KFlint P] [KFresh P] [KHosts P] [KMems P] [KOports P] [KRegs P] [KSent P]
    {die : Nat} {s : State} (hs : Holds P s) : HNext P (execRetainEntry die s) := by
  unfold execRetainEntry
  repeat' first
    | (with_reducible assumption)
    | (with_reducible apply State.beginRetain_keeps)
    | (with_reducible apply HNext.ans)
    | (intro _)
    | (with_reducible apply Holds.ite)

/-- What `execDieWake` can change. -/
theorem execDieWake_keeps {P : State → Prop} [KDies P] [KFlint P] [KFresh P] [KHosts P] [KMems P] [KOports P] [KRegs P] [KSent P]
    {die : Nat} {s : State} (hs : Holds P s) : HNext P (execDieWake die s) := by
  unfold execDieWake
  repeat' first
    | (with_reducible assumption)
    | (with_reducible apply State.wakeDie_keeps)
    | (with_reducible apply HNext.ans)

/-- What `execBrownOut` can change. -/
theorem execBrownOut_keeps {P : State → Prop} [KChip P] [KContexts P] [KDevFlips P] [KDevmem P] [KDies P] [KEdges P] [KFlint P] [KFresh P] [KHosts P] [KMems P] [KMgmt P] [KOports P] [KRegs P] [KRepair P] [KSent P]
    {die : Nat} {s : State} (hs : Holds P s) : HNext P (execBrownOut die s) := by
  unfold execBrownOut
  repeat' first
    | (with_reducible assumption)
    | (with_reducible apply State.handle_keeps)
    | (with_reducible apply HNext.ans)
    | (intro _)
    | (with_reducible apply Holds.ite)

/-- What `execBrownOutReinitComplete` can change. -/
theorem execBrownOutReinitComplete_keeps {P : State → Prop} [KDies P] [KFlint P] [KFresh P] [KMems P] [KOports P] [KSent P]
    {die : Nat} {s : State} (hs : Holds P s) : HNext P (execBrownOutReinitComplete die s) := by
  unfold execBrownOutReinitComplete
  repeat' first
    | (with_reducible assumption)
    | (with_reducible apply State.lightDie_keeps)
    | (with_reducible apply State.modFlint_keeps)
    | (with_reducible apply HNext.ans)
    | (intro _)
    | (with_reducible apply Holds.ite)

/-- What `execTemperatureSample` can change. -/
theorem execTemperatureSample_keeps {P : State → Prop} [KDies P] [KFlint P] [KFresh P] [KHosts P] [KMems P] [KOports P] [KRegs P] [KSent P]
    {die : Nat} {basalt opal : List Int} {s : State} (hs : Holds P s) : HNext P (execTemperatureSample die basalt opal s) := by
  unfold execTemperatureSample
  repeat' first
    | (with_reducible assumption)
    | (with_reducible apply tempSampled_keeps)
    | (with_reducible apply HNext.ans)

/-- What `execThermalTrip` can change. -/
theorem execThermalTrip_keeps {P : State → Prop} [KChip P] [KContexts P] [KDevFlips P] [KDevmem P] [KDies P] [KEdges P] [KFlint P] [KFresh P] [KHosts P] [KMems P] [KMgmt P] [KOports P] [KRegs P] [KRepair P] [KSent P]
    {s : State} (hs : Holds P s) : HNext P (execThermalTrip s) := by
  unfold execThermalTrip
  repeat' first
    | (with_reducible assumption)
    | (with_reducible apply State.handle_keeps)
    | (with_reducible apply State.trip_keeps)
    | (with_reducible apply HNext.ans)
    | (intro _)
    | (with_reducible apply Holds.ite)

/-- What `execSupplyLow` can change. -/
theorem execSupplyLow_keeps {P : State → Prop} [KFlint P] [KFresh P] [KHosts P] [KRegs P] [KSent P]
    {millivolts : Nat} {s : State} (hs : Holds P s) : HNext P (execSupplyLow millivolts s) := by
  unfold execSupplyLow
  repeat' first
    | (with_reducible assumption)
    | (with_reducible apply State.powerEvent_keeps)
    | (with_reducible apply State.setBit_keeps)
    | (with_reducible apply HNext.ans)
    | (intro _)
    | (with_reducible apply Holds.ite)

/-- What `execSupplyShutdown` can change. -/
theorem execSupplyShutdown_keeps {P : State → Prop} [KOff P]
    {s : State} (hs : Holds P s) : HNext P (execSupplyShutdown s) := by
  unfold execSupplyShutdown
  repeat' first
    | (with_reducible assumption)
    | (with_reducible apply State.off_keeps)
    | (with_reducible apply HNext.ans)

/-- What `execModPwrokFall` can change. -/
theorem execModPwrokFall_keeps {P : State → Prop} [KOff P]
    {s : State} (hs : Holds P s) : HNext P (execModPwrokFall s) := by
  unfold execModPwrokFall
  repeat' first
    | (with_reducible assumption)
    | (with_reducible apply State.off_keeps)
    | (with_reducible apply HNext.ans)

/-- What `State.accessFails` can change. -/
theorem State.accessFails_keeps {P : State → Prop} [KChip P] [KContexts P] [KFlint P] [KHosts P] [KMems P] [KRegs P] [KRepair P] [KSent P]
    {s : State} {a : MemAccess} {code : Nat} (hs : Holds P s) : Holds P (State.accessFails s a code) := by
  unfold State.accessFails
  repeat' first
    | (with_reducible assumption)
    | (with_reducible apply State.memFault_keeps)
    | (with_reducible apply State.streamFault_keeps)
    | (intro _)
    | (with_reducible apply Holds.ite)
    | (dsimp only)
    | split

/-- What `State.strikeWord` can change. -/
theorem State.strikeWord_keeps {P : State → Prop} [KDevFlips P]
    {s : State} {k : Nat} {x : BitVec 144} (hs : Holds P s) : Holds P (State.strikeWord s k x) := by
  unfold State.strikeWord
  repeat' first
    | (with_reducible assumption)
    | (apply KDevFlips.keep)

/-- What `State.settleDev` can change. -/
theorem State.settleDev_keeps {P : State → Prop} [KDevFlips P] [KDevmem P] [KRegs P]
    {s : State} {d k : Nat} (hs : Holds P s) : HSome P (State.settleDev s d k) := by
  unfold State.settleDev
  cases e : settleWord s.devmem s.devFlips k with
  | none => exact HSome.none
  | some x => exact HSome.ans (State.bump_keeps (KDevFlips.keep _ _ (KDevmem.keep s _ (settleWord_wf e) hs)))

/-- What `State.putWord` can change. -/
theorem State.putWord_keeps {P : State → Prop} [KDevmem P]
    {s : State} {k : Nat} {mask : BitVec 16} {data : BitVec 128} (hs : Holds P s) : Holds P (State.putWord s k mask data) := by
  unfold State.putWord
  refine Holds.foldl (fun s i h => Holds.ite (fun _ => KDevmem.keep s _ (Mem.write_wf _ _) h) fun _ => h) _ _ hs

/-- What `State.access` can change. -/
theorem State.access_keeps {P : State → Prop} [KChip P] [KContexts P] [KDevFlips P] [KDevmem P] [KFlint P] [KHosts P] [KMems P] [KRegs P] [KRepair P] [KSent P]
    {s : State} {a : MemAccess} {k : Nat} (hs : Holds P s) : Holds P (State.access s a k) := by
  unfold State.access
  repeat' first
    | (with_reducible assumption)
    | (with_reducible apply State.accessFails_keeps)
    | (with_reducible apply State.putWord_keeps)
    | (with_reducible apply State.settleDev_keeps)
    | (refine HSome.get (State.settleDev_keeps ?_) (by with_reducible assumption))
    | (intro _)
    | (with_reducible apply Holds.ite)
    | (with_reducible apply HSome.getD)
    | split
    | (apply KDevFlips.keep)

/-- What `State.retrained` can change. -/
theorem State.retrained_keeps {P : State → Prop} [KFresh P] [KMems P] [KRegs P]
    {s : State} {d c : Nat} (hs : Holds P s) : Holds P (State.retrained s d c) := by
  unfold State.retrained
  repeat' first
    | (with_reducible assumption)
    | (with_reducible apply State.bump_keeps)
    | (with_reducible apply State.modMem_keeps)
    | (with_reducible apply State.setBit_keeps)
    | (with_reducible refine HPair.proj (State.takeWords_keeps ?_))

/-- What `State.retrainInTurn` can change. -/
theorem State.retrainInTurn_keeps {P : State → Prop} [KFresh P] [KMems P] [KRegs P]
    {s : State} {d c : Nat} (hs : Holds P s) : Holds P (State.retrainInTurn s d c) := by
  unfold State.retrainInTurn
  repeat' first
    | (with_reducible assumption)
    | (with_reducible apply State.retrained_keeps)
    | (with_reducible apply Holds.foldl)
    | (intro _)

/-- What `State.crc` can change. -/
theorem State.crc_keeps {P : State → Prop} [KChip P] [KContexts P] [KFlint P] [KFresh P] [KHosts P] [KMems P] [KRegs P] [KRepair P] [KSent P]
    {s : State} {a : MemAccess} (hs : Holds P s) : HPair P (State.crc s a) := by
  unfold State.crc
  repeat' first
    | (with_reducible assumption)
    | (with_reducible apply State.accessFails_keeps)
    | (with_reducible apply State.bump_keeps)
    | (with_reducible apply State.memViolation_keeps)
    | (with_reducible apply State.retrainInTurn_keeps)
    | (with_reducible refine HPair.proj (State.take_keeps ?_))
    | (with_reducible apply HPair.ite)
    | (with_reducible apply HPair.ans)
    | (intro _)

/-- What `State.ownReport` can change. -/
theorem State.ownReport_keeps {P : State → Prop} [KChip P] [KContexts P] [KFlint P] [KFresh P] [KHosts P] [KMems P] [KRegs P] [KRepair P] [KSent P]
    {s : State} {a : MemAccess} (hs : Holds P s) : HPair P (State.ownReport s a) := by
  unfold State.ownReport
  repeat' first
    | (with_reducible assumption)
    | (with_reducible apply State.accessFails_keeps)
    | (with_reducible apply State.memViolation_keeps)
    | (with_reducible apply HPair.ite)
    | (with_reducible apply HPair.ans)
    | (intro _)

/-- What `State.grant` can change. -/
theorem State.grant_keeps {P : State → Prop} [KChip P] [KContexts P] [KDevFlips P] [KDevmem P] [KFlint P] [KFresh P] [KHosts P] [KMems P] [KRegs P] [KRepair P] [KSent P]
    {s : State} {a : MemAccess} (hs : Holds P s) : Holds P (State.grant s a) := by
  unfold State.grant
  repeat' first
    | (with_reducible assumption)
    | (with_reducible apply State.access_keeps)
    | (refine HPair.get (State.crc_keeps ?_) (by with_reducible assumption))
    | (refine HPair.get (State.ownReport_keeps ?_) (by with_reducible assumption))
    | (with_reducible apply State.stackCommand_keeps)
    | (with_reducible apply State.strikeWord_keeps)
    | (intro _)
    | (with_reducible apply Holds.ite)
    | (dsimp only)
    | split

/-- What `granted` can change. -/
theorem granted_keeps {P : State → Prop} [KChip P] [KContexts P] [KDevFlips P] [KDevmem P] [KDies P] [KFlint P] [KFresh P] [KHosts P] [KMems P] [KOports P] [KRegs P] [KRepair P] [KSent P]
    {a : MemAccess} {s : State} (hs : Holds P s) : Holds P (granted a s) := by
  unfold granted
  repeat' first
    | (with_reducible assumption)
    | (with_reducible apply State.grant_keeps)
    | (with_reducible apply State.modMem_keeps)
    | (with_reducible apply State.stir_keeps)
    | (intro _)
    | (with_reducible apply Holds.ite)

/-- What `State.grantHeld` can change. -/
theorem State.grantHeld_keeps {P : State → Prop} [KChip P] [KContexts P] [KDevFlips P] [KDevmem P] [KFlint P] [KFresh P] [KHosts P] [KMems P] [KRegs P] [KRepair P] [KSent P]
    {s : State} {d : Nat} (hs : Holds P s) : Holds P (State.grantHeld s d) := by
  unfold State.grantHeld
  repeat' first
    | (with_reducible assumption)
    | (with_reducible apply State.grant_keeps)
    | (with_reducible apply State.modMem_keeps)
    | (with_reducible apply Holds.foldl)
    | (intro _)
    | (with_reducible apply Holds.ite)

/-- What `State.failHeld` can change. -/
theorem State.failHeld_keeps {P : State → Prop} [KChip P] [KContexts P] [KFlint P] [KMems P] [KRegs P] [KRepair P]
    {s : State} {d : Nat} (hs : Holds P s) : Holds P (State.failHeld s d) := by
  unfold State.failHeld
  repeat' first
    | (with_reducible assumption)
    | (with_reducible apply State.modMem_keeps)
    | (with_reducible apply State.streamFault_keeps)
    | (with_reducible apply Holds.foldl)
    | (intro _)
    | (with_reducible apply Holds.ite)
    | split

/-- What `refreshed` can change. -/
theorem refreshed_keeps {P : State → Prop} [KMems P] [KSent P]
    {d : Nat} {s : State} (hs : Holds P s) : Holds P (refreshed d s) := by
  unfold refreshed
  repeat' first
    | (with_reducible assumption)
    | (with_reducible apply State.modMem_keeps)
    | (with_reducible apply State.stackCommand_keeps)
    | (intro _)
    | (with_reducible apply Holds.ite)

/-- What `readoutTaken` can change. -/
theorem readoutTaken_keeps {P : State → Prop} [KDies P] [KFlint P] [KFresh P] [KHosts P] [KMems P] [KRegs P] [KSent P]
    {d : Nat} {t : Int} {s : State} (hs : Holds P s) : Holds P (readoutTaken d t s) := by
  unfold readoutTaken
  repeat' first
    | (with_reducible assumption)
    | (with_reducible apply State.memViolation_keeps)
    | (with_reducible apply State.modMem_keeps)
    | (with_reducible apply State.powerEvent_keeps)
    | (with_reducible apply State.throttle_keeps)
    | (intro _)
    | (with_reducible apply Holds.ite)

/-- What `retrain` can change. -/
theorem retrain_keeps {P : State → Prop} [KChip P] [KContexts P] [KDevFlips P] [KDevmem P] [KFlint P] [KFresh P] [KHosts P] [KMems P] [KRegs P] [KRepair P] [KSent P]
    {d c : Nat} {ok : Bool} {s : State} (hs : Holds P s) : Holds P (retrain d c ok s) := by
  unfold retrain
  repeat' first
    | (with_reducible assumption)
    | (with_reducible apply State.failHeld_keeps)
    | (with_reducible apply State.grantHeld_keeps)
    | (with_reducible apply State.memFault_keeps)
    | (with_reducible apply State.retrained_keeps)
    | (intro _)
    | (with_reducible apply Holds.ite)

/-- What `State.patrolWords` can change. -/
theorem State.patrolWords_keeps {P : State → Prop} [KDevFlips P] [KDevmem P] [KFlint P] [KHosts P] [KMems P] [KRegs P] [KRepair P] [KSent P]
    {s : State} {d : Nat} {x2 : List Nat} (hs : Holds P s) : Holds P (State.patrolWords s d x2) := by
  induction x2 generalizing s with
  | nil =>
    unfold State.patrolWords
    repeat' first
      | (with_reducible assumption)
  | cons _ _ ih =>
    unfold State.patrolWords
    repeat' first
      | (with_reducible assumption)
      | (with_reducible apply ih)
      | (with_reducible apply State.memFault_keeps)
      | (with_reducible apply State.settleDev_keeps)
      | (with_reducible apply HSome.getD)

/-- What `patrol` can change. -/
theorem patrol_keeps {P : State → Prop} [KDevFlips P] [KDevmem P] [KFlint P] [KHosts P] [KMems P] [KRegs P] [KRepair P] [KSent P]
    {d : Nat} {upset : Option (Nat × BitVec 144)} {s : State} (hs : Holds P s) : Holds P (patrol d upset s) := by
  unfold patrol
  repeat' first
    | (with_reducible assumption)
    | (with_reducible apply State.modMem_keeps)
    | (with_reducible apply State.patrolWords_keeps)
    | (with_reducible apply State.strikeWord_keeps)
    | (intro _)
    | (with_reducible apply Holds.ite)
    | split

/-- What `execMemoryAccessGrant` can change. -/
theorem execMemoryAccessGrant_keeps {P : State → Prop} [KChip P] [KContexts P] [KDevFlips P] [KDevmem P] [KDies P] [KFlint P] [KFresh P] [KHosts P] [KMems P] [KOports P] [KRegs P] [KRepair P] [KSent P]
    {a : MemAccess} {s : State} (hs : Holds P s) : HNext P (execMemoryAccessGrant a s) := by
  unfold execMemoryAccessGrant
  repeat' first
    | (with_reducible assumption)
    | (with_reducible apply granted_keeps)
    | (with_reducible apply HNext.ans)

/-- What `execRefreshDue` can change. -/
theorem execRefreshDue_keeps {P : State → Prop} [KMems P] [KSent P]
    {dev : Nat} {s : State} (hs : Holds P s) : HNext P (execRefreshDue dev s) := by
  unfold execRefreshDue
  repeat' first
    | (with_reducible assumption)
    | (with_reducible apply refreshed_keeps)
    | (with_reducible apply HNext.ans)

/-- What `execReadTimingTracking` can change. -/
theorem execReadTimingTracking_keeps {P : State → Prop} [KMems P]
    {dev x1 : Nat} {s : State} (hs : Holds P s) : HNext P (execReadTimingTracking dev x1 s) := by
  unfold execReadTimingTracking
  repeat' first
    | (with_reducible assumption)
    | (with_reducible apply State.modMem_keeps)
    | (with_reducible apply HNext.ans)
    | (intro _)
    | (with_reducible apply Holds.ite)

/-- What `execTemperatureReadout` can change. -/
theorem execTemperatureReadout_keeps {P : State → Prop} [KDies P] [KFlint P] [KFresh P] [KHosts P] [KMems P] [KRegs P] [KSent P]
    {dev : Nat} {celsius : Int} {s : State} (hs : Holds P s) : HNext P (execTemperatureReadout dev celsius s) := by
  unfold execTemperatureReadout
  repeat' first
    | (with_reducible assumption)
    | (with_reducible apply readoutTaken_keeps)
    | (with_reducible apply HNext.ans)

/-- What `execFullRetraining` can change. -/
theorem execFullRetraining_keeps {P : State → Prop} [KChip P] [KContexts P] [KDevFlips P] [KDevmem P] [KFlint P] [KFresh P] [KHosts P] [KMems P] [KRegs P] [KRepair P] [KSent P]
    {dev channel : Nat} {ok : Bool} {s : State} (hs : Holds P s) : HNext P (execFullRetraining dev channel ok s) := by
  unfold execFullRetraining
  repeat' first
    | (with_reducible assumption)
    | (with_reducible apply retrain_keeps)
    | (with_reducible apply HNext.ans)

/-- What `execPatrolRead` can change. -/
theorem execPatrolRead_keeps {P : State → Prop} [KDevFlips P] [KDevmem P] [KFlint P] [KHosts P] [KMems P] [KRegs P] [KRepair P] [KSent P]
    {dev : Nat} {upset : Option (Nat × BitVec 144)} {s : State} (hs : Holds P s) : HNext P (execPatrolRead dev upset s) := by
  unfold execPatrolRead
  repeat' first
    | (with_reducible assumption)
    | (with_reducible apply patrol_keeps)
    | (with_reducible apply HNext.ans)

/-- What `State.updRead` can change. -/
theorem State.updRead_keeps {P : State → Prop} [KDevFlips P] [KDevmem P] [KDies P] [KFlint P] [KFresh P] [KHosts P] [KMems P] [KOports P] [KRegs P] [KSent P]
    {s : State} {f va sa b : Nat} {ma : Option Nat} (hs : Holds P s) : HOk2 P (MemErr.has P) (State.updRead s f va sa b ma) := by
  unfold State.updRead
  repeat' first
    | (with_reducible assumption)
    | (with_reducible apply State.devRead_keeps)
    | (with_reducible apply HOk2.ans)
    | (with_reducible apply HOk2.bindOk2)
    | (intro _)
    | (dsimp only)
    | split

/-- What `State.updWrite` can change. -/
theorem State.updWrite_keeps {P : State → Prop} [KDevFlips P] [KDevmem P] [KDies P] [KFlint P] [KFresh P] [KHosts P] [KMems P] [KOports P] [KRegs P] [KSent P]
    {s : State} {f va sa b : Nat} {ma : Option Nat} {st : Stored} (hs : Holds P s) : HFst P (optErr P) (State.updWrite s f va sa b ma st) := by
  unfold State.updWrite
  refine HFst.foldl (fun x p h => ?_) _ _ (HFst.ans hs optErr.none)
  split
  · exact h
  · split
    · exact HFst.ans ((State.devWrite_keeps h.out).get (by assumption)) optErr.none
    · exact HFst.ans h.out (optErr.some ((State.devWrite_keeps h.out).getE (by assumption)))

/-- What `State.updInputs` can change. -/
theorem State.updInputs_keeps {P : State → Prop} [KDevFlips P] [KDevmem P] [KDies P] [KFlint P] [KFresh P] [KHosts P] [KMems P] [KOports P] [KRegs P] [KSent P]
    {s : State} {r : Rec} {b : Nat} (hs : Holds P s) : HOk2 P (MemErr.has P) (State.updInputs s r b) := by
  unfold State.updInputs
  repeat' first
    | (with_reducible assumption)
    | (with_reducible apply State.updRead_keeps)
    | (with_reducible apply HOk2.ite)
    | (with_reducible apply HOk2.ans)
    | (with_reducible apply HOk2.bindOk2)
    | (intro _)

/-- What `State.updStore` can change. -/
theorem State.updStore_keeps {P : State → Prop} [KDevFlips P] [KDevmem P] [KDies P] [KFlint P] [KFresh P] [KHosts P] [KMems P] [KOports P] [KRegs P] [KSent P]
    {s : State} {a : UpdAcc} {f va sa b : Nat} {ma : Option Nat} {out subs : Nat} {st : Stored} (hs : Holds P s) : HMid P (optUpd P) (State.updStore s a f va sa b ma out subs st) := by
  unfold State.updStore
  dsimp only
  exact HMid.ans (State.updWrite_keeps hs).out (optUpd.mapMem (State.updWrite_keeps hs).other)

/-- What `State.updWorkingCopy` can change. -/
theorem State.updWorkingCopy_keeps {P : State → Prop} [KDevFlips P] [KDevmem P] [KDies P] [KFlint P] [KFresh P] [KHosts P] [KMems P] [KOports P] [KRegs P] [KSent P]
    {s : State} {r : Rec} {index b : Nat} {a : UpdAcc} {st : Stored} (hs : Holds P s) : HMid P (optUpd P) (State.updWorkingCopy s r index b a st) := by
  unfold State.updWorkingCopy
  repeat' first
    | (with_reducible assumption)
    | (with_reducible apply State.updStore_keeps)
    | (with_reducible exact optUpd.none)
    | (with_reducible exact optUpd.scale)
    | (with_reducible apply HMid.ite)
    | (dsimp only)
    | split
    | (with_reducible apply HMid.ans)
    | (intro _)

/-- What `State.updBlock` can change. -/
theorem State.updBlock_keeps {P : State → Prop} [KDevFlips P] [KDevmem P] [KDies P] [KFlint P] [KFresh P] [KHosts P] [KMems P] [KOports P] [KRegs P] [KSent P]
    {s : State} {r x2 : Rec} {index b : Nat} {a : UpdAcc} (hs : Holds P s) : HMid P (optUpd P) (State.updBlock s r x2 index b a) := by
  unfold State.updBlock
  have hi : ∀ {t r b}, Holds P t → HOk2 P (MemErr.has P) (State.updInputs t r b) := State.updInputs_keeps
  have hw : ∀ {t a f va sa b ma out subs st}, Holds P t → HMid P (optUpd P) (State.updStore t a f va sa b ma out subs st) := State.updStore_keeps
  have hc : ∀ {t r index b a st}, Holds P t → HMid P (optUpd P) (State.updWorkingCopy t r index b a st) := State.updWorkingCopy_keeps
  generalize State.updInputs = I at hi ⊢
  generalize State.updStore = W at hw ⊢
  generalize State.updWorkingCopy = C at hc ⊢
  split
  · exact HMid.ans hs (optUpd.some ((hi hs).getE (by assumption)))
  · rename_i x t e
    have ht : Holds P t := (hi hs).get e
    generalize storeBlock = B
    extract_lets
    split
    rename_i e1
    have h1a := HMid.get (E := optUpd P) (HMid.ite (fun _ => hw ht) fun _ => HMid.ans ht optUpd.none) e1
    have h1b := HMid.getE (E := optUpd P) (HMid.ite (fun _ => hw ht) fun _ => HMid.ans ht optUpd.none) e1
    split
    · exact HMid.ans h1a h1b
    · split
      rename_i e2
      have h2a := HMid.get (E := optUpd P) (HMid.ite (fun _ => hw h1a) fun _ => HMid.ans h1a optUpd.none) e2
      have h2b := HMid.getE (E := optUpd P) (HMid.ite (fun _ => hw h1a) fun _ => HMid.ans h1a optUpd.none) e2
      split
      · exact HMid.ans h2a h2b
      · split
        rename_i e3
        have h3a := HMid.get (hw h2a) e3
        have h3b := HMid.getE (hw h2a) e3
        split
        · exact HMid.ans h3a h3b
        · exact hc h3a

/-- What `State.updDigest` can change. -/
theorem State.updDigest_keeps {P : State → Prop} [KChip P] [KDevFlips P] [KDevmem P] [KDies P] [KFlint P] [KFresh P] [KHosts P] [KMems P] [KOports P] [KRegs P] [KRepair P] [KSent P]
    {s : State} {d entry tile : Nat} {a : UpdAcc} (hs : Holds P s) : HPair P (State.updDigest s d entry tile a) := by
  unfold State.updDigest
  repeat' first
    | (with_reducible assumption)
    | (with_reducible apply State.digest_keeps)
    | (with_reducible apply Holds.foldl)
    | (with_reducible apply HPair.ans)
    | (intro _)

/-- What `State.updBlocks` can change. -/
theorem State.updBlocks_keeps {P : State → Prop} [KChip P] [KDevFlips P] [KDevmem P] [KDies P] [KFlint P] [KFresh P] [KHosts P] [KMems P] [KOports P] [KRegs P] [KRepair P] [KSent P]
    {r x1 : Rec} {d entry x4 x5 : Nat} {x6 : UpdAcc} {x7 : State} (hs : Holds P x7) : HMid P (optUpd2 P) (State.updBlocks r x1 d entry x4 x5 x6 x7) := by
  induction x4 generalizing x5 x6 x7 with
  | zero =>
    unfold State.updBlocks
    repeat' first
      | (with_reducible assumption)
      | (with_reducible refine HPair.proj (State.updDigest_keeps ?_))
      | (with_reducible exact optUpd2.none)
      | (dsimp only)
      | split
      | (with_reducible apply HMid.ans)
  | succ _ ih =>
    unfold State.updBlocks
    repeat' first
      | (with_reducible assumption)
      | (with_reducible apply ih)
      | (refine HMid.get (State.updBlock_keeps ?_) (by with_reducible assumption))
      | (refine optUpd.of (HMid.getE (State.updBlock_keeps ?_) (by with_reducible assumption)))
      | (with_reducible refine HPair.proj (State.updDigest_keeps ?_))
      | (with_reducible apply optUpd2.some)
      | (dsimp only)
      | split
      | (with_reducible apply HMid.ans)

/-- What `State.updStop` can change. -/
theorem State.updStop_keeps {P : State → Prop} [KChip P] [KFlint P] [KHosts P] [KMems P] [KRegs P] [KRepair P] [KSent P]
    {s : State} {d : Nat} {x2 : UpdErr} (hs : Holds P s) (hf : UpdErr.has P x2) : Holds P (State.updStop s d x2) := by
  unfold State.updStop
  repeat' first
    | (with_reducible assumption)
    | (exact hf)
    | (with_reducible apply State.memFault_keeps)
    | (with_reducible apply State.report_keeps)
    | (with_reducible apply State.updFault_keeps)
    | split

/-- What `updStart` can change. -/
theorem updStart_keeps {P : State → Prop} [KChip P] [KDevFlips P] [KDevmem P] [KDies P] [KFlint P] [KFresh P] [KHosts P] [KMems P] [KOports P] [KRegs P] [KRepair P] [KSent P]
    {d : Nat} {s : State} (hs : Holds P s) : Holds P (updStart d s) := by
  unfold updStart
  repeat' first
    | (with_reducible assumption)
    | (with_reducible apply State.devRead_keeps)
    | (refine HOk2.get (State.devRead_keeps ?_) (by with_reducible assumption))
    | (with_reducible apply State.modUpd_keeps)
    | (with_reducible apply State.reportUnsound_keeps)
    | (with_reducible apply State.stir_keeps)
    | (with_reducible apply State.updFault_keeps)
    | (with_reducible apply State.updStop_keeps)
    | (refine HSome.get (State.waitTokens_keeps ?_) (by with_reducible assumption))
    | (intro _)
    | (with_reducible apply Holds.ite)
    | (dsimp only)
    | split
    | (refine HOk2.getE (P := P) (E := MemErr.has P) ?_ (by with_reducible assumption))

/-- What `State.updRun` can change. -/
theorem State.updRun_keeps {P : State → Prop} [KChip P] [KDevFlips P] [KDevmem P] [KDies P] [KFlint P] [KFresh P] [KHosts P] [KMems P] [KOports P] [KRegs P] [KRepair P] [KSent P]
    {s : State} {d : Nat} {u : Update} {r : Rec} (hs : Holds P s) : Holds P (State.updRun s d u r) := by
  unfold State.updRun
  repeat' first
    | (with_reducible assumption)
    | (with_reducible apply State.devWrite_keeps)
    | (refine HOk.get (State.devWrite_keeps ?_) (by with_reducible assumption))
    | (with_reducible apply State.feed_keeps)
    | (with_reducible apply State.modUpd_keeps)
    | (with_reducible apply State.reportUnsound_keeps)
    | (with_reducible apply State.stir_keeps)
    | (refine HMid.get (State.updBlocks_keeps ?_) (by with_reducible assumption))
    | (refine optUpd2.of (HMid.getE (State.updBlocks_keeps ?_) (by with_reducible assumption)))
    | (with_reducible apply State.updFault_keeps)
    | (with_reducible apply State.updStop_keeps)
    | (with_reducible apply Holds.foldl)
    | (dsimp only)
    | split
    | (intro _)
    | (refine HOk.getE (P := P) (E := MemErr.has P) ?_ (by with_reducible assumption))

/-- What `State.updSignal` can change. -/
theorem State.updSignal_keeps {P : State → Prop} [KChip P] [KDies P] [KFlint P] [KFresh P] [KHosts P] [KMems P] [KOports P] [KRegs P] [KSent P]
    {s : State} {d : Nat} {r : Rec} {n : Nat} (hs : Holds P s) : Holds P (State.updSignal s d r n) := by
  unfold State.updSignal
  repeat' first
    | (with_reducible assumption)
    | (with_reducible apply State.modUpd_keeps)
    | (refine HSome.get (State.signalTokens_keeps ?_) (by with_reducible assumption))
    | split

/-- What `updComplete` can change. -/
theorem updComplete_keeps {P : State → Prop} [KChip P] [KDevFlips P] [KDevmem P] [KDies P] [KFlint P] [KFresh P] [KHosts P] [KMems P] [KOports P] [KRegs P] [KRepair P] [KSent P]
    {d : Nat} {s : State} (hs : Holds P s) : Holds P (updComplete d s) := by
  unfold updComplete
  repeat' first
    | (with_reducible assumption)
    | (with_reducible apply State.updRun_keeps)
    | (with_reducible apply State.updSignal_keeps)
    | (intro _)
    | (with_reducible apply Holds.ite)
    | (dsimp only)
    | split

/-- What `execUpdateEntryStart` can change. -/
theorem execUpdateEntryStart_keeps {P : State → Prop} [KChip P] [KDevFlips P] [KDevmem P] [KDies P] [KFlint P] [KFresh P] [KHosts P] [KMems P] [KOports P] [KRegs P] [KRepair P] [KSent P]
    {die : Nat} {s : State} (hs : Holds P s) : HNext P (execUpdateEntryStart die s) := by
  unfold execUpdateEntryStart
  repeat' first
    | (with_reducible assumption)
    | (with_reducible apply updStart_keeps)
    | (with_reducible apply HNext.ans)

/-- What `execUpdateEntryComplete` can change. -/
theorem execUpdateEntryComplete_keeps {P : State → Prop} [KChip P] [KDevFlips P] [KDevmem P] [KDies P] [KFlint P] [KFresh P] [KHosts P] [KMems P] [KOports P] [KRegs P] [KRepair P] [KSent P]
    {die : Nat} {s : State} (hs : Holds P s) : HNext P (execUpdateEntryComplete die s) := by
  unfold execUpdateEntryComplete
  repeat' first
    | (with_reducible assumption)
    | (with_reducible apply updComplete_keeps)
    | (with_reducible apply HNext.ans)

/-- What `State.moduleReset` can change. -/
theorem State.moduleReset_keeps {P : State → Prop} [KReset P]
    {s : State} {keepHosts : Bool} (hs : Holds P s) : Holds P (State.moduleReset s keepHosts) := KReset.keep s keepHosts hs

/-- What `State.beginBoot` can change. -/
theorem State.beginBoot_keeps {P : State → Prop} [KFlint P]
    {s : State} (hs : Holds P s) : Holds P (State.beginBoot s) := by
  unfold State.beginBoot
  repeat' first
    | (with_reducible assumption)
    | (with_reducible apply State.modFlint_keeps)
    | (intro _)
    | (with_reducible apply Holds.ite)

/-- What `State.fullReset` can change. -/
theorem State.fullReset_keeps {P : State → Prop} [KFlint P] [KHosts P] [KRegs P] [KReset P] [KSent P]
    {s : State} (hs : Holds P s) : Holds P (State.fullReset s) := by
  unfold State.fullReset
  repeat' first
    | (with_reducible assumption)
    | (with_reducible apply State.beginBoot_keeps)
    | (with_reducible apply State.enter_keeps)
    | (with_reducible apply State.loseOwner_keeps)
    | (with_reducible apply State.moduleReset_keeps)

/-- What `State.bootFail` can change. -/
theorem State.bootFail_keeps {P : State → Prop} [KFlint P] [KFresh P] [KHosts P] [KMgmt P] [KRegs P] [KSent P]
    {s : State} {step : Nat} (hs : Holds P s) : Holds P (State.bootFail s step) := by
  unfold State.bootFail
  repeat' first
    | (with_reducible assumption)
    | (with_reducible apply State.enter_keeps)
    | (with_reducible apply State.halt_keeps)
    | (with_reducible apply State.modFlint_keeps)
    | (intro _)
    | (with_reducible apply Holds.ite)
    | (dsimp only)
    | (apply KMgmt.keep)

/-- What `State.countBoot` can change. -/
theorem State.countBoot_keeps {P : State → Prop} [KFlint P] [KFresh P] [KHosts P] [KRegs P] [KSent P]
    {s : State} (hs : Holds P s) : Holds P (State.countBoot s) := by
  unfold State.countBoot
  repeat' first
    | (with_reducible assumption)
    | (with_reducible apply State.putLogHeader_keeps)
    | (with_reducible apply State.soundLog_keeps)

/-- What `State.startFirmware` can change. -/
theorem State.startFirmware_keeps {P : State → Prop} [KFlint P] [KFresh P] [KHosts P] [KMgmt P] [KRegs P] [KRunning P] [KSent P]
    {s : State} {slot : Nat} (hs : Holds P s) : Holds P (State.startFirmware s slot) := by
  unfold State.startFirmware
  repeat' first
    | (with_reducible assumption)
    | (with_reducible apply State.countBoot_keeps)
    | (with_reducible apply State.logEvent_keeps)
    | (with_reducible apply State.modFlint_keeps)
    | (intro _)
    | (with_reducible apply Holds.ite)
    | (dsimp only)
    | (apply keep_mgmt_running)

/-- What `State.bootStep` can change. -/
theorem State.bootStep_keeps {P : State → Prop} [KCfg P] [KDies P] [KFlash P] [KFlint P] [KFresh P] [KHosts P] [KMgmt P] [KRegs P] [KRepair P] [KRunning P] [KSent P]
    {s : State} (hs : Holds P s) : Holds P (State.bootStep s) := by
  unfold State.bootStep
  repeat' first
    | (with_reducible assumption)
    | (with_reducible apply State.bootFail_keeps)
    | (with_reducible apply State.logEvent_keeps)
    | (with_reducible apply State.modFlint_keeps)
    | (with_reducible refine HPair.proj (State.readCounters_keeps ?_))
    | (with_reducible apply State.setVolts_keeps)
    | (with_reducible apply State.startFirmware_keeps)
    | (with_reducible apply Holds.foldl)
    | (intro _)
    | (with_reducible apply Holds.ite)
    | (dsimp only)
    | split
    | (apply KHosts.keep)
    | (apply KFlash.keep)
    | (apply keep_flash_cfg)
    | (apply KRepair.keep)

/-- What `State.bootTo` can change. -/
theorem State.bootTo_keeps {P : State → Prop} [KCfg P] [KDies P] [KFlash P] [KFlint P] [KFresh P] [KHosts P] [KMgmt P] [KRegs P] [KRepair P] [KRunning P] [KSent P]
    {s : State} {n : Nat} (hs : Holds P s) : Holds P (State.bootTo s n) := by
  unfold State.bootTo
  repeat' first
    | (with_reducible assumption)
    | (with_reducible apply State.bootStep_keeps)
    | (with_reducible apply Holds.foldl)
    | (intro _)
    | (with_reducible apply Holds.ite)

/-- What `State.idle` can change. -/
theorem State.idle_keeps {P : State → Prop} [KCfg P] [KDies P] [KFlash P] [KFlint P] [KFresh P] [KHosts P] [KLocalTime P] [KMgmt P] [KRegs P] [KRepair P] [KRunning P] [KSent P]
    {s : State} (hs : Holds P s) : Holds P (State.idle s) := by
  unfold State.idle
  repeat' first
    | (with_reducible assumption)
    | (with_reducible apply State.bootStep_keeps)
    | (with_reducible apply State.tick_keeps)

/-- What `State.applyEntry` can change. -/
theorem State.applyEntry_keeps {P : State → Prop} [KChip P] [KDies P] [KEdges P] [KFlint P] [KFresh P] [KHosts P] [KLasers P] [KMems P] [KOchans P] [KOports P] [KRegs P] [KRepair P] [KSent P]
    {s : State} {e : BitVec 128} (hs : Holds P s) : Holds P (State.applyEntry s e) := by
  unfold State.applyEntry
  repeat' first
    | (with_reducible assumption)
    | (with_reducible apply State.modEdge_keeps)
    | (with_reducible apply State.modLaser_keeps)
    | (with_reducible apply State.modOchan_keeps)
    | (with_reducible apply State.modOport_keeps)
    | (with_reducible apply State.modRepair_keeps)
    | (with_reducible apply State.widthLost_keeps)
    | (intro _)
    | (with_reducible apply Holds.ite)
    | (dsimp only)
    | split

/-- What `State.retireDie` can change. -/
theorem State.retireDie_keeps {P : State → Prop} [KChip P] [KDies P] [KEdges P] [KFlint P] [KFresh P] [KHosts P] [KMems P] [KOports P] [KRegs P] [KRepair P] [KSent P]
    {s : State} {d : Nat} (hs : Holds P s) : Holds P (State.retireDie s d) := by
  unfold State.retireDie
  repeat' first
    | (with_reducible assumption)
    | (with_reducible apply State.capability_keeps)
    | (with_reducible apply State.failEdge_keeps)
    | (with_reducible apply State.mapEntry_keeps)
    | (with_reducible apply State.modDie_keeps)
    | (with_reducible apply State.modMem_keeps)
    | (with_reducible apply State.modOport_keeps)
    | (with_reducible apply State.retireCore_keeps)
    | (with_reducible apply State.retirePort_keeps)
    | (with_reducible apply Holds.foldl)
    | (intro _)

/-- What `State.coreSiteFails` can change. -/
theorem State.coreSiteFails_keeps {P : State → Prop} [KHosts P] [KRegs P] [KRepair P] [KSent P]
    {s : State} {c : Nat} (hs : Holds P s) : Holds P (State.coreSiteFails s c) := by
  unfold State.coreSiteFails
  repeat' first
    | (with_reducible assumption)
    | (with_reducible apply State.mapEntry_keeps)
    | (with_reducible apply State.retireCore_keeps)
    | (intro _)
    | (with_reducible apply Holds.ite)

/-- What `State.coreSiteAt` can change. -/
theorem State.coreSiteAt_keeps {P : State → Prop} [KHosts P] [KRegs P] [KRepair P] [KSent P]
    {s : State} {d site : Nat} (hs : Holds P s) : Holds P (State.coreSiteAt s d site) := by
  unfold State.coreSiteAt
  repeat' first
    | (with_reducible assumption)
    | (with_reducible apply State.coreSiteFails_keeps)
    | (with_reducible apply State.mapEntry_keeps)
    | (with_reducible apply State.modRepair_keeps)
    | (intro _)
    | (with_reducible apply Holds.ite)
    | split

/-- What `State.spareEngineFails` can change. -/
theorem State.spareEngineFails_keeps {P : State → Prop} [KHosts P] [KRegs P] [KRepair P] [KSent P]
    {s : State} {c : Nat} (hs : Holds P s) : Holds P (State.spareEngineFails s c) := by
  unfold State.spareEngineFails
  repeat' first
    | (with_reducible assumption)
    | (with_reducible apply State.mapEntry_keeps)
    | (with_reducible apply State.modRepair_keeps)
    | (with_reducible apply State.retireEngine_keeps)
    | (dsimp only)
    | split

/-- What `State.engineSiteFails` can change. -/
theorem State.engineSiteFails_keeps {P : State → Prop} [KChip P] [KFlint P] [KFresh P] [KHosts P] [KRegs P] [KRepair P] [KSent P]
    {s : State} {c e : Nat} (hs : Holds P s) : Holds P (State.engineSiteFails s c e) := by
  unfold State.engineSiteFails
  repeat' first
    | (with_reducible assumption)
    | (with_reducible apply State.askHandover_keeps)
    | (with_reducible apply State.engineHandover_keeps)
    | (with_reducible apply State.retireEngine_keeps)
    | (with_reducible apply State.spareEngineFails_keeps)
    | (intro _)
    | (with_reducible apply Holds.ite)

/-- What `State.engineSiteAt` can change. -/
theorem State.engineSiteAt_keeps {P : State → Prop} [KChip P] [KFlint P] [KFresh P] [KHosts P] [KRegs P] [KRepair P] [KSent P]
    {s : State} {c site : Nat} (hs : Holds P s) : Holds P (State.engineSiteAt s c site) := by
  unfold State.engineSiteAt
  repeat' first
    | (with_reducible assumption)
    | (with_reducible apply State.engineSiteFails_keeps)
    | (with_reducible apply State.spareEngineFails_keeps)
    | (intro _)
    | (with_reducible apply Holds.ite)

/-- What `State.lineFails` can change. -/
theorem State.lineFails_keeps {P : State → Prop} [KHosts P] [KRegs P] [KRepair P] [KSent P]
    {s : State} {c b l : Nat} (hs : Holds P s) : Holds P (State.lineFails s c b l) := by
  unfold State.lineFails
  repeat' first
    | (with_reducible assumption)
    | (with_reducible apply State.mapEntry_keeps)
    | (with_reducible apply State.modRepair_keeps)
    | (with_reducible apply State.retireCore_keeps)
    | (with_reducible apply State.summary_keeps)
    | (intro _)
    | (with_reducible apply Holds.ite)

/-- What `State.spareLineFails` can change. -/
theorem State.spareLineFails_keeps {P : State → Prop} [KHosts P] [KRegs P] [KRepair P] [KSent P]
    {s : State} {c b k : Nat} (hs : Holds P s) : Holds P (State.spareLineFails s c b k) := by
  unfold State.spareLineFails
  repeat' first
    | (with_reducible assumption)
    | (with_reducible apply State.lineFails_keeps)
    | (with_reducible apply State.mapEntry_keeps)
    | (with_reducible apply State.modRepair_keeps)
    | (intro _)
    | (with_reducible apply Holds.ite)
    | (dsimp only)
    | split

/-- What `State.dataLaneFails` can change. -/
theorem State.dataLaneFails_keeps {P : State → Prop} [KChip P] [KDies P] [KEdges P] [KFlint P] [KFresh P] [KHosts P] [KMems P] [KOports P] [KRegs P] [KRepair P] [KSent P]
    {s : State} {d e lane : Nat} (hs : Holds P s) : Holds P (State.dataLaneFails s d e lane) := by
  unfold State.dataLaneFails
  repeat' first
    | (with_reducible assumption)
    | (with_reducible apply State.halfWidth_keeps)
    | (with_reducible apply State.mapEntry_keeps)
    | (with_reducible apply State.modEdge_keeps)
    | (with_reducible apply State.summary_keeps)
    | (dsimp only)
    | split

/-- What `State.laneFails` can change. -/
theorem State.laneFails_keeps {P : State → Prop} [KChip P] [KDies P] [KEdges P] [KFlint P] [KFresh P] [KHosts P] [KMems P] [KOports P] [KRegs P] [KRepair P] [KSent P]
    {s : State} {d e lane : Nat} (hs : Holds P s) : Holds P (State.laneFails s d e lane) := by
  unfold State.laneFails
  repeat' first
    | (with_reducible assumption)
    | (with_reducible apply State.dataLaneFails_keeps)
    | (with_reducible apply State.mapEntry_keeps)
    | (with_reducible apply State.modEdge_keeps)
    | (intro _)
    | (with_reducible apply Holds.ite)
    | (dsimp only)
    | split

/-- What `State.laserFails` can change. -/
theorem State.laserFails_keeps {P : State → Prop} [KLasers P] [KRegs P] [KRepair P]
    {s : State} {o n : Nat} {spare : Bool} (hs : Holds P s) : Holds P (State.laserFails s o n spare) := by
  unfold State.laserFails
  repeat' first
    | (with_reducible assumption)
    | (with_reducible apply State.changeLaser_keeps)
    | (with_reducible apply State.mapLaser_keeps)
    | (intro _)
    | (with_reducible apply Holds.ite)

/-- What `State.selfTest` can change. -/
theorem State.selfTest_keeps {P : State → Prop} [KChip P] [KDies P] [KEdges P] [KFlint P] [KFresh P] [KHosts P] [KLasers P] [KMems P] [KOports P] [KRegs P] [KRepair P] [KSent P]
    {s : State} {x1 : SelfTestResult} (hs : Holds P s) : Holds P (State.selfTest s x1) := by
  unfold State.selfTest
  repeat' first
    | (with_reducible assumption)
    | (with_reducible apply State.coreSiteAt_keeps)
    | (with_reducible apply State.coreSiteFails_keeps)
    | (with_reducible apply State.deviceFails_keeps)
    | (with_reducible apply State.engineSiteAt_keeps)
    | (with_reducible apply State.engineSiteFails_keeps)
    | (with_reducible apply State.laneFails_keeps)
    | (with_reducible apply State.laserFails_keeps)
    | (with_reducible apply State.lineFails_keeps)
    | (with_reducible apply State.retireDie_keeps)
    | (with_reducible apply State.retirePort_keeps)
    | (with_reducible apply State.spareEngineFails_keeps)
    | (with_reducible apply State.spareLineFails_keeps)
    | (intro _)
    | (with_reducible apply Holds.ite)
    | split

/-- What `State.moveCore` can change. -/
theorem State.moveCore_keeps {P : State → Prop} [KRegs P] [KRepair P]
    {s : State} {c : Nat} (hs : Holds P s) : Holds P (State.moveCore s c) := by
  unfold State.moveCore
  repeat' first
    | (with_reducible assumption)
    | (with_reducible apply State.mapEntry_keeps)
    | (with_reducible apply State.modRepair_keeps)
    | (with_reducible apply State.summary_keeps)
    | (intro _)
    | (with_reducible apply Holds.ite)
    | (dsimp only)
    | split

/-- What `State.recheckDevices` can change. -/
theorem State.recheckDevices_keeps {P : State → Prop} [KRepair P]
    {s : State} (hs : Holds P s) : Holds P (State.recheckDevices s) := by
  unfold State.recheckDevices
  repeat' first
    | (with_reducible assumption)
    | (with_reducible apply State.mapEntry_keeps)
    | (with_reducible apply Holds.foldl)
    | (intro _)

/-- What `State.testSites` can change. -/
theorem State.testSites_keeps {P : State → Prop} [KChip P] [KDies P] [KEdges P] [KFlint P] [KFresh P] [KHosts P] [KLasers P] [KMems P] [KOchans P] [KOports P] [KRegs P] [KRepair P] [KSent P]
    {s : State} {found : List SelfTestResult} (hs : Holds P s) : Holds P (State.testSites s found) := by
  unfold State.testSites
  repeat' first
    | (with_reducible assumption)
    | (with_reducible apply State.applyEntry_keeps)
    | (with_reducible apply State.moveCore_keeps)
    | (with_reducible apply State.recheckDevices_keeps)
    | (with_reducible apply State.selfTest_keeps)
    | (with_reducible apply State.useEntries_keeps)
    | (with_reducible apply Holds.foldl)

/-- What `State.trainMemory` can change. -/
theorem State.trainMemory_keeps {P : State → Prop} [KFresh P] [KMems P] [KSent P]
    {s : State} (hs : Holds P s) : Holds P (State.trainMemory s) := by
  unfold State.trainMemory
  repeat' first
    | (with_reducible assumption)
    | (with_reducible apply State.modMem_keeps)
    | (with_reducible apply State.stackCommand_keeps)
    | (with_reducible apply State.trainDevice_keeps)
    | (with_reducible apply Holds.foldl)
    | (intro _)
    | (with_reducible apply Holds.ite)

/-- What `State.transmitSearch` can change. -/
theorem State.transmitSearch_keeps {P : State → Prop} [KChip P] [KDies P] [KFlint P] [KFresh P] [KHosts P] [KMems P] [KOchans P] [KOports P] [KRegs P] [KSent P]
    {s : State} {p : Nat} (hs : Holds P s) : Holds P (State.transmitSearch s p) := by
  unfold State.transmitSearch
  repeat' first
    | (with_reducible assumption)
    | (with_reducible apply State.modOchan_keeps)
    | (with_reducible apply State.modOport_keeps)
    | (with_reducible apply State.portFault_keeps)
    | (with_reducible apply State.portOff_keeps)
    | (with_reducible apply State.sendTraining_keeps)
    | (with_reducible refine HPair.proj (State.takeWords_keeps ?_))
    | (with_reducible apply Holds.foldl)
    | (intro _)
    | (dsimp only)
    | split

/-- What `State.lightChannel` can change. -/
theorem State.lightChannel_keeps {P : State → Prop} [KChip P] [KDies P] [KFlint P] [KFresh P] [KHosts P] [KLasers P] [KMems P] [KOports P] [KRegs P] [KRepair P] [KSent P]
    {s : State} {o n : Nat} (hs : Holds P s) : Holds P (State.lightChannel s o n) := by
  unfold State.lightChannel
  repeat' first
    | (with_reducible assumption)
    | (with_reducible apply State.changeLaser_keeps)
    | (with_reducible apply State.channelDark_keeps)
    | (with_reducible apply State.mapLaser_keeps)
    | (intro _)
    | (with_reducible apply Holds.ite)

/-- What `State.lightPorts` can change. -/
theorem State.lightPorts_keeps {P : State → Prop} [KChip P] [KDies P] [KFlint P] [KFresh P] [KHosts P] [KLasers P] [KMems P] [KOchans P] [KOports P] [KRegs P] [KRepair P] [KSent P]
    {s : State} (hs : Holds P s) : Holds P (State.lightPorts s) := by
  unfold State.lightPorts
  repeat' first
    | (with_reducible assumption)
    | (with_reducible apply State.lightChannel_keeps)
    | (with_reducible apply State.modOport_keeps)
    | (with_reducible apply State.transmitSearch_keeps)
    | (with_reducible apply Holds.foldl)
    | (intro _)
    | (with_reducible apply Holds.ite)

/-- What `State.bootEnds` can change. -/
theorem State.bootEnds_keeps {P : State → Prop} [KFlash P] [KFlint P] [KHosts P] [KRegs P] [KSent P]
    {s : State} (hs : Holds P s) : Holds P (State.bootEnds s) := by
  unfold State.bootEnds
  repeat' first
    | (with_reducible assumption)
    | (with_reducible apply State.enter_keeps)
    | (with_reducible apply State.modFlint_keeps)
    | (with_reducible apply State.respond_keeps)
    | (dsimp only)
    | split
    | (apply KFlash.keep)

/-- What `bootDone` can change. -/
theorem bootDone_keeps {P : State → Prop} [KCfg P] [KChip P] [KDies P] [KEdges P] [KFlash P] [KFlint P] [KFresh P] [KHosts P] [KLasers P] [KMems P] [KMgmt P] [KOchans P] [KOports P] [KRegs P] [KRepair P] [KRunning P] [KSent P]
    {found : List SelfTestResult} {mapOk : Bool} {s : State} (hs : Holds P s) : Holds P (bootDone found mapOk s) := by
  unfold bootDone
  repeat' first
    | (with_reducible assumption)
    | (with_reducible apply State.bootEnds_keeps)
    | (with_reducible apply State.bootFail_keeps)
    | (with_reducible apply State.bootTo_keeps)
    | (with_reducible apply State.lightPorts_keeps)
    | (with_reducible apply State.testSites_keeps)
    | (with_reducible apply State.trainMemory_keeps)
    | (with_reducible apply State.tryWriteMap_keeps)
    | (intro _)
    | (with_reducible apply Holds.ite)

/-- What `bootBreaks` can change. -/
theorem bootBreaks_keeps {P : State → Prop} [KCfg P] [KChip P] [KDies P] [KEdges P] [KFlash P] [KFlint P] [KFresh P] [KHosts P] [KMems P] [KMgmt P] [KOports P] [KRegs P] [KRepair P] [KRunning P] [KSent P]
    {step : Nat} {f : BootFault} {s : State} (hs : Holds P s) : Holds P (bootBreaks step f s) := by
  unfold bootBreaks
  repeat' first
    | (with_reducible assumption)
    | (with_reducible apply State.bootFail_keeps)
    | (with_reducible apply State.bootTo_keeps)
    | (with_reducible apply State.modHost_keeps)
    | (with_reducible apply State.retireDie_keeps)
    | (intro _)
    | (with_reducible apply Holds.ite)
    | split
    | (apply KFlash.keep)

/-- What `State.beginPartial` can change. -/
theorem State.beginPartial_keeps {P : State → Prop} [KChip P] [KDies P] [KFlint P] [KFresh P] [KHosts P] [KMems P] [KMgmt P] [KOports P] [KRegs P] [KSent P]
    {s : State} {m : Mbx} {mask : Nat} (hs : Holds P s) : Holds P (State.beginPartial s m mask) := by
  unfold State.beginPartial
  repeat' first
    | (with_reducible assumption)
    | (with_reducible apply State.begin_keeps)
    | (with_reducible apply State.portOff_keeps)
    | (with_reducible apply State.sleepMems_keeps)
    | (with_reducible apply State.stopCheckAll_keeps)
    | (with_reducible apply State.wakeAll_keeps)
    | (with_reducible apply Holds.foldl)
    | (intro _)
    | (with_reducible apply Holds.ite)
    | (dsimp only)
    | (apply KMgmt.keep)

/-- What `State.resetCmd` can change. -/
theorem State.resetCmd_keeps {P : State → Prop} [KChip P] [KDies P] [KFlint P] [KFresh P] [KHosts P] [KMems P] [KMgmt P] [KOports P] [KRegs P] [KReset P] [KSent P]
    {s : State} {m : Mbx} {args : Rec} (hs : Holds P s) : HFst P anyVal (State.resetCmd s m args) := by
  unfold State.resetCmd
  repeat' first
    | (with_reducible assumption)
    | (with_reducible apply State.beginPartial_keeps)
    | (with_reducible apply State.fullReset_keeps)
    | (with_reducible apply State.logEvent_keeps)
    | (with_reducible apply State.modFlint_keeps)
    | (with_reducible exact anyVal.triv)
    | (with_reducible apply HFst.ite)
    | (dsimp only)
    | split
    | (with_reducible apply HFst.ans)
    | (intro _)

/-- What `State.partialDie` can change. -/
theorem State.partialDie_keeps {P : State → Prop} [KChip P] [KDies P] [KEdges P] [KFlint P] [KFresh P] [KHosts P] [KLasers P] [KMems P] [KOports P] [KRegs P] [KSent P]
    {s : State} {d : Nat} (hs : Holds P s) : Holds P (State.partialDie s d) := by
  unfold State.partialDie
  refine Holds.foldl (fun s i h => Holds.ite (fun _ => h) fun _ => Holds.foldl (fun s c h => State.retrained_keeps h) _ _ h) _ _ ?_
  with_reducible apply KLasers.keep
  exact State.lightDie_keeps (State.darkDie_keeps (KRegs.keep _ _ hs))

/-- What `State.partialDies` can change. -/
theorem State.partialDies_keeps {P : State → Prop} [KChip P] [KDies P] [KEdges P] [KFlash P] [KFlint P] [KFresh P] [KHosts P] [KLasers P] [KMems P] [KOports P] [KRegs P] [KRepair P] [KSent P]
    {s : State} {dies : Nat} {found : List SelfTestResult} (hs : Holds P s) : Holds P (State.partialDies s dies found) := by
  unfold State.partialDies
  repeat' first
    | (with_reducible assumption)
    | (with_reducible apply State.moveCore_keeps)
    | (with_reducible apply State.partialDie_keeps)
    | (with_reducible apply State.selfTest_keeps)
    | (with_reducible apply State.tryWriteMap_keeps)
    | (with_reducible apply Holds.foldl)
    | (intro _)
    | (with_reducible apply Holds.ite)

/-- What `State.partialRestore` can change. -/
theorem State.partialRestore_keeps {P : State → Prop} [KChip P] [KContexts P] [KRegs P] [KResident P]
    {s : State} {id : Nat} {bad : Bool} (hs : Holds P s) : Holds P (State.partialRestore s id bad) := by
  unfold State.partialRestore
  repeat' first
    | (with_reducible assumption)
    | (with_reducible apply State.putContext_keeps)
    | (with_reducible apply State.restoreIn_keeps)
    | (intro _)
    | (with_reducible apply Holds.ite)
    | split

/-- What `partialDone` can change. -/
theorem partialDone_keeps {P : State → Prop} [KChip P] [KContexts P] [KDevFlips P] [KDevmem P] [KDies P] [KEdges P] [KFlash P] [KFlint P] [KFresh P] [KGangPairs P] [KHosts P] [KLasers P] [KMems P] [KMgmt P] [KOports P] [KRegs P] [KRepair P] [KResident P] [KSent P]
    {found : List SelfTestResult} {saveErr restoreErr : Bool} {s : State} (hs : Holds P s) : Holds P (partialDone found saveErr restoreErr s) := by
  unfold partialDone
  repeat' first
    | (with_reducible assumption)
    | (with_reducible apply State.modFlint_keeps)
    | (with_reducible apply State.partialDies_keeps)
    | (with_reducible apply State.partialRestore_keeps)
    | (with_reducible refine HPair.proj (State.readIncoming_keeps ?_))
    | (with_reducible apply State.respond_keeps)
    | (with_reducible apply State.resume_keeps)
    | (with_reducible refine HPair.proj (State.saveOut_keeps ?_))
    | (intro _)
    | (with_reducible apply Holds.ite)
    | (dsimp only)
    | split
    | (apply KMgmt.keep)

/-- What `execReset` can change. -/
theorem execReset_keeps {P : State → Prop} [KChip P] [KDies P] [KFlint P] [KFresh P] [KHosts P] [KMems P] [KMgmt P] [KOports P] [KRegs P] [KReset P] [KSent P]
    {m : Mbx} {s : State} (hs : Holds P s) : HNext P (execReset m s) := by
  unfold execReset
  repeat' first
    | (with_reducible assumption)
    | (with_reducible apply State.resetCmd_keeps)
    | (with_reducible apply serve_keeps)
    | (with_reducible apply HNext.ans)
    | (intro _)

/-- What `execPowerOn` can change. -/
theorem execPowerOn_keeps {P : State → Prop} [KFlint P] [KOff P] [KPowered P]
    {s : State} (hs : Holds P s) : HNext P (execPowerOn s) := by
  unfold execPowerOn
  repeat' first
    | (with_reducible assumption)
    | (with_reducible apply State.beginBoot_keeps)
    | (with_reducible apply State.off_keeps)
    | (with_reducible apply HNext.ans)
    | (intro _)
    | (with_reducible apply Holds.ite)
    | (dsimp only)
    | (apply KPowered.keep)

/-- What `execModReset` can change. -/
theorem execModReset_keeps {P : State → Prop} [KPins P] [KReset P]
    {s : State} (hs : Holds P s) : HNext P (execModReset s) := by
  unfold execModReset
  repeat' first
    | (with_reducible assumption)
    | (with_reducible apply State.moduleReset_keeps)
    | (with_reducible apply HNext.ans)
    | (intro _)
    | (with_reducible apply Holds.ite)
    | (dsimp only)
    | (apply KPins.keep)

/-- What `execModResetRelease` can change. -/
theorem execModResetRelease_keeps {P : State → Prop} [KFlint P] [KPins P]
    {s : State} (hs : Holds P s) : HNext P (execModResetRelease s) := by
  unfold execModResetRelease
  repeat' first
    | (with_reducible assumption)
    | (with_reducible apply State.beginBoot_keeps)
    | (with_reducible apply HNext.ans)
    | (intro _)
    | (with_reducible apply Holds.ite)
    | (dsimp only)
    | (apply KPins.keep)

/-- What `execRefclkLoss` can change. -/
theorem execRefclkLoss_keeps {P : State → Prop} [KFlint P] [KPins P] [KReset P]
    {s : State} (hs : Holds P s) : HNext P (execRefclkLoss s) := by
  unfold execRefclkLoss
  repeat' first
    | (with_reducible assumption)
    | (with_reducible apply State.modFlint_keeps)
    | (with_reducible apply State.moduleReset_keeps)
    | (with_reducible apply HNext.ans)
    | (intro _)
    | (with_reducible apply Holds.ite)
    | (dsimp only)
    | (apply KPins.keep)

/-- What `execRefclkRestored` can change. -/
theorem execRefclkRestored_keeps {P : State → Prop} [KFlint P] [KPins P]
    {s : State} (hs : Holds P s) : HNext P (execRefclkRestored s) := by
  unfold execRefclkRestored
  repeat' first
    | (with_reducible assumption)
    | (with_reducible apply State.beginBoot_keeps)
    | (with_reducible apply HNext.ans)
    | (intro _)
    | (with_reducible apply Holds.ite)
    | (dsimp only)
    | (apply KPins.keep)

/-- What `execBootReady` can change. -/
theorem execBootReady_keeps {P : State → Prop} [KCfg P] [KChip P] [KDies P] [KEdges P] [KFlash P] [KFlint P] [KFresh P] [KHosts P] [KLasers P] [KMems P] [KMgmt P] [KOchans P] [KOports P] [KRegs P] [KRepair P] [KRunning P] [KSent P]
    {selfTest : List SelfTestResult} {mapWriteOk : Bool} {s : State} (hs : Holds P s) : HNext P (execBootReady selfTest mapWriteOk s) := by
  unfold execBootReady
  repeat' first
    | (with_reducible assumption)
    | (with_reducible apply bootDone_keeps)
    | (with_reducible apply HNext.ans)

/-- What `execBootFailure` can change. -/
theorem execBootFailure_keeps {P : State → Prop} [KCfg P] [KChip P] [KDies P] [KEdges P] [KFlash P] [KFlint P] [KFresh P] [KHosts P] [KMems P] [KMgmt P] [KOports P] [KRegs P] [KRepair P] [KRunning P] [KSent P]
    {step : Nat} {f : BootFault} {s : State} (hs : Holds P s) : HNext P (execBootFailure step f s) := by
  unfold execBootFailure
  repeat' first
    | (with_reducible assumption)
    | (with_reducible apply bootBreaks_keeps)
    | (with_reducible apply HNext.ans)

/-- What `execPartialResetComplete` can change. -/
theorem execPartialResetComplete_keeps {P : State → Prop} [KChip P] [KContexts P] [KDevFlips P] [KDevmem P] [KDies P] [KEdges P] [KFlash P] [KFlint P] [KFresh P] [KGangPairs P] [KHosts P] [KLasers P] [KMems P] [KMgmt P] [KOports P] [KRegs P] [KRepair P] [KResident P] [KSent P]
    {selfTest : List SelfTestResult} {saveErr restoreErr : Bool} {s : State} (hs : Holds P s) : HNext P (execPartialResetComplete selfTest saveErr restoreErr s) := by
  unfold execPartialResetComplete
  repeat' first
    | (with_reducible assumption)
    | (with_reducible apply partialDone_keeps)
    | (with_reducible apply HNext.ans)

/-- What `State.modMgmt` can change. -/
theorem State.modMgmt_keeps {P : State → Prop} [KMgmt P]
    {s : State} {f : Mgmt → Mgmt} (hs : Holds P s) : Holds P (State.modMgmt s f) := by
  unfold State.modMgmt
  repeat' first
    | (with_reducible assumption)
    | (apply KMgmt.keep)

/-- What `State.mgmtReply` can change. -/
theorem State.mgmtReply_keeps {P : State → Prop} [KSent P]
    {s : State} {code : Nat} {data : Rec} (hs : Holds P s) : Holds P (State.mgmtReply s code data) := by
  unfold State.mgmtReply
  repeat' first
    | (with_reducible assumption)
    | (with_reducible apply State.emit_keeps)

/-- What `State.mgmtRefused` can change. -/
theorem State.mgmtRefused_keeps {P : State → Prop} [KSent P]
    {s : State} (hs : Holds P s) : Holds P (State.mgmtRefused s) := by
  unfold State.mgmtRefused
  repeat' first
    | (with_reducible assumption)
    | (with_reducible apply State.mgmtReply_keeps)

/-- What `State.manage` can change. -/
theorem State.manage_keeps {P : State → Prop} [KSent P]
    {s : State} {formOk : Bool} {least : Nat} {busy : Bool} {legal : List DevState} {body : State → State} (hs : Holds P s) (hf : ∀ s, Holds P s → Holds P (body s)) : Holds P (State.manage s formOk least busy legal body) := by
  unfold State.manage
  repeat' first
    | (with_reducible assumption)
    | (with_reducible apply hf)
    | (with_reducible apply State.mgmtRefused_keeps)
    | (with_reducible apply State.mgmtReply_keeps)
    | (intro _)
    | (with_reducible apply Holds.ite)
    | split

/-- What `State.mgmtAnswer` can change. -/
theorem State.mgmtAnswer_keeps {P : State → Prop} [KSent P]
    {s : State} {a : Ans} (hs : Holds P s) : Holds P (State.mgmtAnswer s a) := by
  unfold State.mgmtAnswer
  repeat' first
    | (with_reducible assumption)
    | (with_reducible apply State.mgmtReply_keeps)

/-- What `State.mgmtStatus` can change. -/
theorem State.mgmtStatus_keeps {P : State → Prop} [KFresh P] [KSent P]
    {s : State} (hs : Holds P s) : Holds P (State.mgmtStatus s) := by
  unfold State.mgmtStatus
  repeat' first
    | (with_reducible assumption)
    | (with_reducible apply State.mgmtReply_keeps)
    | (apply KFresh.keep)

/-- What `State.mgmtAttest` can change. -/
theorem State.mgmtAttest_keeps {P : State → Prop} [KMgmt P] [KSent P]
    {s : State} {ctx : Nat} {args : Rec} (hs : Holds P s) : Holds P (State.mgmtAttest s ctx args) := by
  unfold State.mgmtAttest
  repeat' first
    | (with_reducible assumption)
    | (with_reducible apply State.mgmtAnswer_keeps)
    | (with_reducible apply State.mgmtReply_keeps)
    | (with_reducible apply State.modMgmt_keeps)
    | (intro _)
    | (with_reducible apply Holds.ite)
    | (dsimp only)
    | split

/-- What `State.modSlot` can change. -/
theorem State.modSlot_keeps {P : State → Prop} [KFlash P]
    {s : State} {f : FwSlot → FwSlot} (hs : Holds P s) : Holds P (State.modSlot s f) := by
  unfold State.modSlot
  repeat' first
    | (with_reducible assumption)
    | (dsimp only)
    | (apply KFlash.keep)

/-- What `State.updateBegin` can change. -/
theorem State.updateBegin_keeps {P : State → Prop} [KDies P] [KFlash P] [KFlint P] [KFresh P] [KHosts P] [KMems P] [KMgmt P] [KOports P] [KRegs P] [KSent P]
    {s : State} (hs : Holds P s) : Holds P (State.updateBegin s) := by
  unfold State.updateBegin
  repeat' first
    | (with_reducible assumption)
    | (with_reducible apply State.enter_keeps)
    | (with_reducible apply State.mgmtReply_keeps)
    | (with_reducible apply State.modMgmt_keeps)
    | (with_reducible apply State.modSlot_keeps)
    | (with_reducible apply State.wakeAll_keeps)

/-- What `State.updateData` can change. -/
theorem State.updateData_keeps {P : State → Prop} [KFlash P] [KMgmt P] [KSent P]
    {s : State} {off : Nat} {chunk : Rec} (hs : Holds P s) : Holds P (State.updateData s off chunk) := by
  unfold State.updateData
  repeat' first
    | (with_reducible assumption)
    | (with_reducible apply State.mgmtReply_keeps)
    | (with_reducible apply State.modMgmt_keeps)
    | (with_reducible apply State.modSlot_keeps)

/-- What `State.updateCommit` can change. -/
theorem State.updateCommit_keeps {P : State → Prop} [KFlash P] [KMgmt P] [KSent P]
    {s : State} (hs : Holds P s) : Holds P (State.updateCommit s) := by
  unfold State.updateCommit
  repeat' first
    | (with_reducible assumption)
    | (with_reducible apply State.mgmtReply_keeps)
    | (with_reducible apply State.modMgmt_keeps)
    | (with_reducible apply State.modSlot_keeps)
    | (intro _)
    | (with_reducible apply Holds.ite)

/-- What `State.updateAbandon` can change. -/
theorem State.updateAbandon_keeps {P : State → Prop} [KFlint P] [KHosts P] [KMgmt P] [KRegs P] [KSent P]
    {s : State} (hs : Holds P s) : Holds P (State.updateAbandon s) := by
  unfold State.updateAbandon
  repeat' first
    | (with_reducible assumption)
    | (with_reducible apply State.enter_keeps)
    | (with_reducible apply State.mgmtReply_keeps)
    | (with_reducible apply State.modMgmt_keeps)

/-- What `State.updateActivate` can change. -/
theorem State.updateActivate_keeps {P : State → Prop} [KFlash P] [KFlint P] [KHosts P] [KRegs P] [KReset P] [KSent P]
    {s : State} (hs : Holds P s) : Holds P (State.updateActivate s) := by
  unfold State.updateActivate
  repeat' first
    | (with_reducible assumption)
    | (with_reducible apply State.fullReset_keeps)
    | (with_reducible apply State.mgmtRefused_keeps)
    | (with_reducible apply State.mgmtReply_keeps)
    | (intro _)
    | (with_reducible apply Holds.ite)
    | (apply KFlash.keep)

/-- What `State.writeOperator` can change. -/
theorem State.writeOperator_keeps {P : State → Prop} [KFlash P] [KSent P]
    {s : State} {r : Rec} (hs : Holds P s) : Holds P (State.writeOperator s r) := by
  unfold State.writeOperator
  repeat' first
    | (with_reducible assumption)
    | (with_reducible apply State.mgmtReply_keeps)
    | (intro _)
    | (with_reducible apply Holds.ite)
    | (dsimp only)
    | split
    | (apply KFlash.keep)

/-- What `execMgmtSessionOpen` can change. -/
theorem execMgmtSessionOpen_keeps {P : State → Prop} [KMgmt P]
    {key : Rec} {s : State} (hs : Holds P s) : HNext P (execMgmtSessionOpen key s) := by
  unfold execMgmtSessionOpen
  repeat' first
    | (with_reducible assumption)
    | (with_reducible apply State.modMgmt_keeps)
    | (with_reducible apply HNext.ans)
    | (intro _)
    | (with_reducible apply Holds.ite)
    | split

/-- What `execMgmtSessionIdleTimeout` can change. -/
theorem execMgmtSessionIdleTimeout_keeps {P : State → Prop} [KMgmt P]
    {s : State} (hs : Holds P s) : HNext P (execMgmtSessionIdleTimeout s) := by
  unfold execMgmtSessionIdleTimeout
  repeat' first
    | (with_reducible assumption)
    | (with_reducible apply State.modMgmt_keeps)
    | (with_reducible apply HNext.ans)

/-- What `execMgmtStatus` can change. -/
theorem execMgmtStatus_keeps {P : State → Prop} [KFresh P] [KSent P]
    {s : State} (hs : Holds P s) : HNext P (execMgmtStatus s) := by
  unfold execMgmtStatus
  repeat' first
    | (with_reducible assumption)
    | (with_reducible apply State.manage_keeps)
    | (with_reducible apply State.mgmtStatus_keeps)
    | (with_reducible apply HNext.ans)

/-- What `execMgmtReadLog` can change. -/
theorem execMgmtReadLog_keeps {P : State → Prop} [KFlint P] [KFresh P] [KHosts P] [KRegs P] [KSent P]
    {args : Rec} {s : State} (hs : Holds P s) : HNext P (execMgmtReadLog args s) := by
  unfold execMgmtReadLog
  repeat' first
    | (with_reducible assumption)
    | (with_reducible apply State.manage_keeps)
    | (with_reducible apply State.mgmtAnswer_keeps)
    | (with_reducible apply State.soundLog_keeps)
    | (with_reducible apply HNext.ans)
    | (intro _)

/-- What `execMgmtAttest` can change. -/
theorem execMgmtAttest_keeps {P : State → Prop} [KMgmt P] [KSent P]
    {ctx : BitVec 16} {args : Rec} {s : State} (hs : Holds P s) : HNext P (execMgmtAttest ctx args s) := by
  unfold execMgmtAttest
  repeat' first
    | (with_reducible assumption)
    | (with_reducible apply State.manage_keeps)
    | (with_reducible apply State.mgmtAttest_keeps)
    | (with_reducible apply HNext.ans)
    | (intro _)

/-- What `execUpdateBegin` can change. -/
theorem execUpdateBegin_keeps {P : State → Prop} [KDies P] [KFlash P] [KFlint P] [KFresh P] [KHosts P] [KMems P] [KMgmt P] [KOports P] [KRegs P] [KSent P]
    {s : State} (hs : Holds P s) : HNext P (execUpdateBegin s) := by
  unfold execUpdateBegin
  repeat' first
    | (with_reducible assumption)
    | (with_reducible apply State.manage_keeps)
    | (with_reducible apply State.updateBegin_keeps)
    | (with_reducible apply HNext.ans)

/-- What `execUpdateData` can change. -/
theorem execUpdateData_keeps {P : State → Prop} [KFlash P] [KMgmt P] [KSent P]
    {off : Nat} {chunk : Rec} {s : State} (hs : Holds P s) : HNext P (execUpdateData off chunk s) := by
  unfold execUpdateData
  repeat' first
    | (with_reducible assumption)
    | (with_reducible apply State.manage_keeps)
    | (with_reducible apply State.updateData_keeps)
    | (with_reducible apply HNext.ans)
    | (intro _)

/-- What `execUpdateCommit` can change. -/
theorem execUpdateCommit_keeps {P : State → Prop} [KFlash P] [KMgmt P] [KSent P]
    {s : State} (hs : Holds P s) : HNext P (execUpdateCommit s) := by
  unfold execUpdateCommit
  repeat' first
    | (with_reducible assumption)
    | (with_reducible apply State.manage_keeps)
    | (with_reducible apply State.updateCommit_keeps)
    | (with_reducible apply HNext.ans)

/-- What `execUpdateAbandon` can change. -/
theorem execUpdateAbandon_keeps {P : State → Prop} [KFlint P] [KHosts P] [KMgmt P] [KRegs P] [KSent P]
    {s : State} (hs : Holds P s) : HNext P (execUpdateAbandon s) := by
  unfold execUpdateAbandon
  repeat' first
    | (with_reducible assumption)
    | (with_reducible apply State.manage_keeps)
    | (with_reducible apply State.updateAbandon_keeps)
    | (with_reducible apply HNext.ans)

/-- What `execUpdateActivate` can change. -/
theorem execUpdateActivate_keeps {P : State → Prop} [KFlash P] [KFlint P] [KHosts P] [KRegs P] [KReset P] [KSent P]
    {s : State} (hs : Holds P s) : HNext P (execUpdateActivate s) := by
  unfold execUpdateActivate
  repeat' first
    | (with_reducible assumption)
    | (with_reducible apply State.manage_keeps)
    | (with_reducible apply State.updateActivate_keeps)
    | (with_reducible apply HNext.ans)

/-- What `execWriteOperatorRecord` can change. -/
theorem execWriteOperatorRecord_keeps {P : State → Prop} [KFlash P] [KSent P]
    {record : Rec} {s : State} (hs : Holds P s) : HNext P (execWriteOperatorRecord record s) := by
  unfold execWriteOperatorRecord
  repeat' first
    | (with_reducible assumption)
    | (with_reducible apply State.manage_keeps)
    | (with_reducible apply State.writeOperator_keeps)
    | (with_reducible apply HNext.ans)
    | (intro _)

end Sys2Proof.Machine
end

