-- ==== Sys2Proof/Laws/KeepsStep.lean ====
section
/-! SUPPORT. Footprints of every command and of a step: a predicate that survives a change of each part of the state survives every command,
which is how an invariant is kept by every step. -/

namespace Sys2Proof.Machine

/-- A predicate that survives a change of each part of the state, in the forms in which operations make them. -/
class KAll (P : State → Prop) : Prop where
  kCfg : KCfg P
  kChip : KChip P
  kContexts : KContexts P
  kDevFlips : KDevFlips P
  kDevmem : KDevmem P
  kDies : KDies P
  kEdges : KEdges P
  kEpochOffset : KEpochOffset P
  kFabric : KFabric P
  kFlash : KFlash P
  kFlint : KFlint P
  kFresh : KFresh P
  kGangPairs : KGangPairs P
  kGenerations : KGenerations P
  kHosts : KHosts P
  kInput : KInput P
  kLasers : KLasers P
  kMems : KMems P
  kMgmt : KMgmt P
  kOchans : KOchans P
  kOff : KOff P
  kOports : KOports P
  kPins : KPins P
  kPowered : KPowered P
  kRegs : KRegs P
  kRepair : KRepair P
  kReset : KReset P
  kResident : KResident P
  kRunning : KRunning P
  kSent : KSent P
  kLocalTime : KLocalTime P

/-- A command keeps what every change of a part keeps. -/
theorem exec_keeps {P : State → Prop} (k : KAll P) (i : Instr) {s : State} (hs : Holds P s) : HNext P (exec i s) := by
  have := k.kCfg
  have := k.kChip
  have := k.kContexts
  have := k.kDevFlips
  have := k.kDevmem
  have := k.kDies
  have := k.kEdges
  have := k.kEpochOffset
  have := k.kFabric
  have := k.kFlash
  have := k.kFlint
  have := k.kFresh
  have := k.kGangPairs
  have := k.kGenerations
  have := k.kHosts
  have := k.kInput
  have := k.kLasers
  have := k.kMems
  have := k.kMgmt
  have := k.kOchans
  have := k.kOff
  have := k.kOports
  have := k.kPins
  have := k.kPowered
  have := k.kRegs
  have := k.kRepair
  have := k.kReset
  have := k.kResident
  have := k.kRunning
  have := k.kSent
  cases i with
  | queryState a0 => exact (show HNext P (execQueryState a0 s) from execQueryState_keeps hs)
  | queryCapability a0 => exact (show HNext P (execQueryCapability a0 s) from execQueryCapability_keeps hs)
  | readRegister a0 => exact (show HNext P (execReadRegister a0 s) from execReadRegister_keeps hs)
  | writeRegister a0 => exact (show HNext P (execWriteRegister a0 s) from execWriteRegister_keeps hs)
  | setEpochOffset a0 => exact (show HNext P (execSetEpochOffset a0 s) from execSetEpochOffset_keeps hs)
  | setFabricAddress a0 => exact (show HNext P (execSetFabricAddress a0 s) from execSetFabricAddress_keeps hs)
  | claimOwnership a0 => exact (show HNext P (execClaimOwnership a0 s) from execClaimOwnership_keeps hs)
  | releaseOwnership a0 => exact (show HNext P (execReleaseOwnership a0 s) from execReleaseOwnership_keeps hs)
  | acknowledgeHalt a0 => exact (show HNext P (execAcknowledgeHalt a0 s) from execAcknowledgeHalt_keeps hs)
  | readStrataLog a0 => exact (show HNext P (execReadStrataLog a0 s) from execReadStrataLog_keeps hs)
  | reset a0 => exact (show HNext P (execReset a0 s) from execReset_keeps hs)
  | createContext a0 => exact (show HNext P (execCreateContext a0 s) from execCreateContext_keeps hs)
  | destroyContext a0 => exact (show HNext P (execDestroyContext a0 s) from execDestroyContext_keeps hs)
  | switchContext a0 => exact (show HNext P (execSwitchContext a0 s) from execSwitchContext_keeps hs)
  | switchContextComplete a0 a1 => exact (show HNext P (execSwitchContextComplete a0 a1 s) from execSwitchContextComplete_keeps hs)
  | createRegion a0 => exact (show HNext P (execCreateRegion a0 s) from execCreateRegion_keeps hs)
  | regionZeroingComplete a0 a1 => exact (show HNext P (execRegionZeroingComplete a0 a1 s) from execRegionZeroingComplete_keeps hs)
  | destroyRegion a0 => exact (show HNext P (execDestroyRegion a0 s) from execDestroyRegion_keeps hs)
  | loadPlan a0 => exact (show HNext P (execLoadPlan a0 s) from execLoadPlan_keeps hs)
  | loadPlanComplete => exact (show HNext P (execLoadPlanComplete s) from execLoadPlanComplete_keeps hs)
  | scrub a0 => exact (show HNext P (execScrub a0 s) from execScrub_keeps hs)
  | scrubComplete => exact (show HNext P (execScrubComplete s) from execScrubComplete_keeps hs)
  | openSession a0 => exact (show HNext P (execOpenSession a0 s) from execOpenSession_keeps hs)
  | closeSession a0 => exact (show HNext P (execCloseSession a0 s) from execCloseSession_keeps hs)
  | attest a0 => exact (show HNext P (execAttest a0 s) from execAttest_keeps hs)
  | attestComplete => exact (show HNext P (execAttestComplete s) from execAttestComplete_keeps hs)
  | startStep a0 => exact (show HNext P (execStartStep a0 s) from execStartStep_keeps hs)
  | abortStep a0 => exact (show HNext P (execAbortStep a0 s) from execAbortStep_keeps hs)
  | stepStopComplete => exact (show HNext P (execStepStopComplete s) from execStepStopComplete_keeps hs)
  | armStream a0 => exact (show HNext P (execArmStream a0 s) from execArmStream_keeps hs)
  | setIdleTimers a0 => exact (show HNext P (execSetIdleTimers a0 s) from execSetIdleTimers_keeps hs)
  | mgmtSessionOpen a0 => exact (show HNext P (execMgmtSessionOpen a0 s) from execMgmtSessionOpen_keeps hs)
  | mgmtSessionIdleTimeout => exact (show HNext P (execMgmtSessionIdleTimeout s) from execMgmtSessionIdleTimeout_keeps hs)
  | mgmtStatus => exact (show HNext P (execMgmtStatus s) from execMgmtStatus_keeps hs)
  | mgmtReadLog a0 => exact (show HNext P (execMgmtReadLog a0 s) from execMgmtReadLog_keeps hs)
  | mgmtAttest a0 a1 => exact (show HNext P (execMgmtAttest a0 a1 s) from execMgmtAttest_keeps hs)
  | updateBegin => exact (show HNext P (execUpdateBegin s) from execUpdateBegin_keeps hs)
  | updateData a0 a1 => exact (show HNext P (execUpdateData a0 a1 s) from execUpdateData_keeps hs)
  | updateCommit => exact (show HNext P (execUpdateCommit s) from execUpdateCommit_keeps hs)
  | updateAbandon => exact (show HNext P (execUpdateAbandon s) from execUpdateAbandon_keeps hs)
  | updateActivate => exact (show HNext P (execUpdateActivate s) from execUpdateActivate_keeps hs)
  | writeOperatorRecord a0 => exact (show HNext P (execWriteOperatorRecord a0 s) from execWriteOperatorRecord_keeps hs)
  | mailboxDoorbell a0 a1 => exact (show HNext P (execMailboxDoorbell a0 a1 s) from execMailboxDoorbell_keeps hs)
  | mailboxDoneClear a0 a1 => exact (show HNext P (execMailboxDoneClear a0 a1 s) from execMailboxDoneClear_keeps hs)
  | interruptEnableWrite a0 a1 => exact (show HNext P (execInterruptEnableWrite a0 a1 s) from execInterruptEnableWrite_keeps hs)
  | streamArm a0 a1 => exact (show HNext P (execStreamArm a0 a1 s) from execStreamArm_keeps hs)
  | streamRearm a0 a1 => exact (show HNext P (execStreamRearm a0 a1 s) from execStreamRearm_keeps hs)
  | streamFaultClear a0 => exact (show HNext P (execStreamFaultClear a0 s) from execStreamFaultClear_keeps hs)
  | readClearAccess a0 => exact (show HNext P (execReadClearAccess a0 s) from execReadClearAccess_keeps hs)
  | registerWrite a0 => exact (show HNext P (execRegisterWrite a0 s) from execRegisterWrite_keeps hs)
  | hostCompletion a0 a1 a2 => exact (show HNext P (execHostCompletion a0 a1 a2 s) from execHostCompletion_keeps hs)
  | functionLevelReset a0 => exact (show HNext P (execFunctionLevelReset a0 s) from execFunctionLevelReset_keeps hs)
  | perstAsserted a0 => exact (show HNext P (execPerstAsserted a0 s) from execPerstAsserted_keeps hs)
  | hostLinkDown a0 => exact (show HNext P (execHostLinkDown a0 s) from execHostLinkDown_keeps hs)
  | leaseExpiry => exact (show HNext P (execLeaseExpiry s) from execLeaseExpiry_keeps hs)
  | weightLoad a0 => exact (show HNext P (execWeightLoad a0 s) from execWeightLoad_keeps hs)
  | weightLoadComplete a0 a1 => exact (show HNext P (execWeightLoadComplete a0 a1 s) from execWeightLoadComplete_keeps hs)
  | preload a0 => exact (show HNext P (execPreload a0 s) from execPreload_keeps hs)
  | drain a0 => exact (show HNext P (execDrain a0 s) from execDrain_keeps hs)
  | streamRows a0 => exact (show HNext P (execStreamRows a0 s) from execStreamRows_keeps hs)
  | engineBeat a0 a1 a2 => exact (show HNext P (execEngineBeat a0 a1 a2 s) from execEngineBeat_keeps hs)
  | passComplete a0 a1 => exact (show HNext P (execPassComplete a0 a1 s) from execPassComplete_keeps hs)
  | vector a0 => exact (show HNext P (execVector a0 s) from execVector_keeps hs)
  | function a0 => exact (show HNext P (execFunction a0 s) from execFunction_keeps hs)
  | rowReduction a0 => exact (show HNext P (execRowReduction a0 s) from execRowReduction_keeps hs)
  | instructionComplete a0 a1 => exact (show HNext P (execInstructionComplete a0 a1 s) from execInstructionComplete_keeps hs)
  | instructionReleased a0 => exact (show HNext P (execInstructionReleased a0 s) from execInstructionReleased_keeps hs)
  | waitToken a0 => exact (show HNext P (execWaitToken a0 s) from execWaitToken_keeps hs)
  | signalToken a0 => exact (show HNext P (execSignalToken a0 s) from execSignalToken_keeps hs)
  | tokenWaitGranted a0 => exact (show HNext P (execTokenWaitGranted a0 s) from execTokenWaitGranted_keeps hs)
  | tokenSignalGranted a0 => exact (show HNext P (execTokenSignalGranted a0 s) from execTokenSignalGranted_keeps hs)
  | fillArm a0 => exact (show HNext P (execFillArm a0 s) from execFillArm_keeps hs)
  | fillJoin a0 => exact (show HNext P (execFillJoin a0 s) from execFillJoin_keeps hs)
  | fillEnd a0 => exact (show HNext P (execFillEnd a0 s) from execFillEnd_keeps hs)
  | fillTaskStart a0 => exact (show HNext P (execFillTaskStart a0 s) from execFillTaskStart_keeps hs)
  | loop a0 => exact (show HNext P (execLoop a0 s) from execLoop_keeps hs)
  | loopEnd a0 => exact (show HNext P (execLoopEnd a0 s) from execLoopEnd_keeps hs)
  | setIndex a0 => exact (show HNext P (execSetIndex a0 s) from execSetIndex_keeps hs)
  | addIndex a0 => exact (show HNext P (execAddIndex a0 s) from execAddIndex_keeps hs)
  | fence a0 => exact (show HNext P (execFence a0 s) from execFence_keeps hs)
  | stepEnd a0 => exact (show HNext P (execStepEnd a0 s) from execStepEnd_keeps hs)
  | holdLimitExpiry a0 => exact (show HNext P (execHoldLimitExpiry a0 s) from execHoldLimitExpiry_keeps hs)
  | engineWatchdogExpiry a0 a1 => exact (show HNext P (execEngineWatchdogExpiry a0 a1 s) from execEngineWatchdogExpiry_keeps hs)
  | engineHandover a0 a1 a2 a3 => exact (show HNext P (execEngineHandover a0 a1 a2 a3 s) from execEngineHandover_keeps hs)
  | lineSubstitution a0 a1 a2 => exact (show HNext P (execLineSubstitution a0 a1 a2 s) from execLineSubstitution_keeps hs)
  | descriptorFetch a0 => exact (show HNext P (execDescriptorFetch a0 s) from execDescriptorFetch_keeps hs)
  | pebbleLineFetch a0 => exact (show HNext P (execPebbleLineFetch a0 s) from execPebbleLineFetch_keeps hs)
  | transferStart a0 => exact (show HNext P (execTransferStart a0 s) from execTransferStart_keeps hs)
  | transferComplete a0 => exact (show HNext P (execTransferComplete a0 s) from execTransferComplete_keeps hs)
  | streamFault a0 a1 => exact (show HNext P (execStreamFault a0 a1 s) from execStreamFault_keeps hs)
  | lodeTileAccept a0 => exact (show HNext P (execLodeTileAccept a0 s) from execLodeTileAccept_keeps hs)
  | lodeTileForward a0 => exact (show HNext P (execLodeTileForward a0 s) from execLodeTileForward_keeps hs)
  | segmentBind a0 a1 a2 a3 => exact (show HNext P (execSegmentBind a0 a1 a2 a3 s) from execSegmentBind_keeps hs)
  | segmentAcknowledged a0 a1 a2 => exact (show HNext P (execSegmentAcknowledged a0 a1 a2 s) from execSegmentAcknowledged_keeps hs)
  | memoryAccessGrant a0 => exact (show HNext P (execMemoryAccessGrant a0 s) from execMemoryAccessGrant_keeps hs)
  | refreshDue a0 => exact (show HNext P (execRefreshDue a0 s) from execRefreshDue_keeps hs)
  | readTimingTracking a0 a1 => exact (show HNext P (execReadTimingTracking a0 a1 s) from execReadTimingTracking_keeps hs)
  | temperatureReadout a0 a1 => exact (show HNext P (execTemperatureReadout a0 a1 s) from execTemperatureReadout_keeps hs)
  | fullRetraining a0 a1 a2 => exact (show HNext P (execFullRetraining a0 a1 a2 s) from execFullRetraining_keeps hs)
  | patrolRead a0 a1 => exact (show HNext P (execPatrolRead a0 a1 s) from execPatrolRead_keeps hs)
  | stepEndDetected => exact (show HNext P (execStepEndDetected s) from execStepEndDetected_keeps hs)
  | updateEntryStart a0 => exact (show HNext P (execUpdateEntryStart a0 s) from execUpdateEntryStart_keeps hs)
  | updateEntryComplete a0 => exact (show HNext P (execUpdateEntryComplete a0 s) from execUpdateEntryComplete_keeps hs)
  | collectiveInputTransfer a0 a1 => exact (show HNext P (execCollectiveInputTransfer a0 a1 s) from execCollectiveInputTransfer_keeps hs)
  | chunkReceived a0 a1 a2 a3 => exact (show HNext P (execChunkReceived a0 a1 a2 a3 s) from execChunkReceived_keeps hs)
  | stopReceived a0 a1 => exact (show HNext P (execStopReceived a0 a1 s) from execStopReceived_keeps hs)
  | goReceived a0 a1 => exact (show HNext P (execGoReceived a0 a1 s) from execGoReceived_keeps hs)
  | acknowledgeReceived a0 a1 => exact (show HNext P (execAcknowledgeReceived a0 a1 s) from execAcknowledgeReceived_keeps hs)
  | refuseReceived a0 a1 => exact (show HNext P (execRefuseReceived a0 a1 s) from execRefuseReceived_keeps hs)
  | resumeQueryReceived a0 a1 => exact (show HNext P (execResumeQueryReceived a0 a1 s) from execResumeQueryReceived_keeps hs)
  | resumeAnswerReceived a0 a1 => exact (show HNext P (execResumeAnswerReceived a0 a1 s) from execResumeAnswerReceived_keeps hs)
  | resumeQueryTimeout a0 a1 => exact (show HNext P (execResumeQueryTimeout a0 a1 s) from execResumeQueryTimeout_keeps hs)
  | detourEnd a0 a1 => exact (show HNext P (execDetourEnd a0 a1 s) from execDetourEnd_keeps hs)
  | agreementStart a0 => exact (show HNext P (execAgreementStart a0 s) from execAgreementStart_keeps hs)
  | collectiveComplete a0 => exact (show HNext P (execCollectiveComplete a0 s) from execCollectiveComplete_keeps hs)
  | collectiveHoldLimit a0 => exact (show HNext P (execCollectiveHoldLimit a0 s) from execCollectiveHoldLimit_keeps hs)
  | flitReceived a0 a1 a2 a3 a4 => exact (show HNext P (execFlitReceived a0 a1 a2 a3 a4 s) from execFlitReceived_keeps hs)
  | nackReceived a0 a1 => exact (show HNext P (execNackReceived a0 a1 s) from execNackReceived_keeps hs)
  | nackTimeout a0 => exact (show HNext P (execNackTimeout a0 s) from execNackTimeout_keeps hs)
  | linkDownTimeExpiry a0 => exact (show HNext P (execLinkDownTimeExpiry a0 s) from execLinkDownTimeExpiry_keeps hs)
  | lossOfLight a0 => exact (show HNext P (execLossOfLight a0 s) from execLossOfLight_keeps hs)
  | lightPresent a0 => exact (show HNext P (execLightPresent a0 s) from execLightPresent_keeps hs)
  | receiveSearchComplete a0 a1 a2 => exact (show HNext P (execReceiveSearchComplete a0 a1 a2 s) from execReceiveSearchComplete_keeps hs)
  | trainingBlockReceived a0 a1 a2 => exact (show HNext P (execTrainingBlockReceived a0 a1 a2 s) from execTrainingBlockReceived_keeps hs)
  | linkCodewordReceived a0 a1 a2 => exact (show HNext P (execLinkCodewordReceived a0 a1 a2 s) from execLinkCodewordReceived_keeps hs)
  | identityRetry a0 => exact (show HNext P (execIdentityRetry a0 s) from execIdentityRetry_keeps hs)
  | managementCodewordReceived a0 a1 a2 => exact (show HNext P (execManagementCodewordReceived a0 a1 a2 s) from execManagementCodewordReceived_keeps hs)
  | dormantRequest a0 => exact (show HNext P (execDormantRequest a0 s) from execDormantRequest_keeps hs)
  | dormantGrant a0 => exact (show HNext P (execDormantGrant a0 s) from execDormantGrant_keeps hs)
  | dormantGrantTimeout a0 => exact (show HNext P (execDormantGrantTimeout a0 s) from execDormantGrantTimeout_keeps hs)
  | wakeRequest a0 => exact (show HNext P (execWakeRequest a0 s) from execWakeRequest_keeps hs)
  | receiveOverload a0 => exact (show HNext P (execReceiveOverload a0 s) from execReceiveOverload_keeps hs)
  | overloadHoldExpiry a0 => exact (show HNext P (execOverloadHoldExpiry a0 s) from execOverloadHoldExpiry_keeps hs)
  | monitorSample a0 a1 a2 => exact (show HNext P (execMonitorSample a0 a1 a2 s) from execMonitorSample_keeps hs)
  | successorStandby a0 a1 => exact (show HNext P (execSuccessorStandby a0 a1 s) from execSuccessorStandby_keeps hs)
  | crossFadeComplete a0 a1 => exact (show HNext P (execCrossFadeComplete a0 a1 s) from execCrossFadeComplete_keeps hs)
  | successorRelease a0 a1 => exact (show HNext P (execSuccessorRelease a0 a1 s) from execSuccessorRelease_keeps hs)
  | ringLockLost a0 a1 a2 => exact (show HNext P (execRingLockLost a0 a1 a2 s) from execRingLockLost_keeps hs)
  | ringSearchComplete a0 a1 a2 a3 => exact (show HNext P (execRingSearchComplete a0 a1 a2 a3 s) from execRingSearchComplete_keeps hs)
  | ringHop a0 a1 a2 => exact (show HNext P (execRingHop a0 a1 a2 s) from execRingHop_keeps hs)
  | laneFrameReceived a0 a1 a2 a3 => exact (show HNext P (execLaneFrameReceived a0 a1 a2 a3 s) from execLaneFrameReceived_keeps hs)
  | laneMarginUpdate a0 a1 a2 a3 a4 a5 => exact (show HNext P (execLaneMarginUpdate a0 a1 a2 a3 a4 a5 s) from execLaneMarginUpdate_keeps hs)
  | laneSwapRequest a0 a1 a2 a3 => exact (show HNext P (execLaneSwapRequest a0 a1 a2 a3 s) from execLaneSwapRequest_keeps hs)
  | spareCompareComplete a0 a1 a2 => exact (show HNext P (execSpareCompareComplete a0 a1 a2 s) from execSpareCompareComplete_keeps hs)
  | spareSwitch a0 a1 => exact (show HNext P (execSpareSwitch a0 a1 s) from execSpareSwitch_keeps hs)
  | halfWidthSwitch a0 a1 a2 a3 => exact (show HNext P (execHalfWidthSwitch a0 a1 a2 a3 s) from execHalfWidthSwitch_keeps hs)
  | gangTakeIn a0 a1 a2 => exact (show HNext P (execGangTakeIn a0 a1 a2 s) from execGangTakeIn_keeps hs)
  | powerSample a0 => exact (show HNext P (execPowerSample a0 s) from execPowerSample_keeps hs)
  | quietTimerExpiry a0 => exact (show HNext P (execQuietTimerExpiry a0 s) from execQuietTimerExpiry_keeps hs)
  | retainTimerExpiry a0 => exact (show HNext P (execRetainTimerExpiry a0 s) from execRetainTimerExpiry_keeps hs)
  | retainEntry a0 => exact (show HNext P (execRetainEntry a0 s) from execRetainEntry_keeps hs)
  | dieWake a0 => exact (show HNext P (execDieWake a0 s) from execDieWake_keeps hs)
  | brownOut a0 => exact (show HNext P (execBrownOut a0 s) from execBrownOut_keeps hs)
  | brownOutReinitComplete a0 => exact (show HNext P (execBrownOutReinitComplete a0 s) from execBrownOutReinitComplete_keeps hs)
  | temperatureSample a0 a1 a2 => exact (show HNext P (execTemperatureSample a0 a1 a2 s) from execTemperatureSample_keeps hs)
  | thermalTrip => exact (show HNext P (execThermalTrip s) from execThermalTrip_keeps hs)
  | supplyLow a0 => exact (show HNext P (execSupplyLow a0 s) from execSupplyLow_keeps hs)
  | supplyShutdown => exact (show HNext P (execSupplyShutdown s) from execSupplyShutdown_keeps hs)
  | powerOn => exact (show HNext P (execPowerOn s) from execPowerOn_keeps hs)
  | modPwrokFall => exact (show HNext P (execModPwrokFall s) from execModPwrokFall_keeps hs)
  | modReset => exact (show HNext P (execModReset s) from execModReset_keeps hs)
  | refclkLoss => exact (show HNext P (execRefclkLoss s) from execRefclkLoss_keeps hs)
  | bootReady a0 a1 => exact (show HNext P (execBootReady a0 a1 s) from execBootReady_keeps hs)
  | bootFailure a0 a1 => exact (show HNext P (execBootFailure a0 a1 s) from execBootFailure_keeps hs)
  | partialResetComplete a0 a1 a2 => exact (show HNext P (execPartialResetComplete a0 a1 a2 s) from execPartialResetComplete_keeps hs)
  | faultReport a0 => exact (show HNext P (execFaultReport a0 s) from execFaultReport_keeps hs)
  | gatherWindowEnd => exact (show HNext P (execGatherWindowEnd s) from execGatherWindowEnd_keeps hs)
  | recoveryComplete => exact (show HNext P (execRecoveryComplete s) from execRecoveryComplete_keeps hs)
  | flintWatchdogExpiry => exact (show HNext P (execFlintWatchdogExpiry s) from execFlintWatchdogExpiry_keeps hs)
  | repairMapWrite => exact (show HNext P (execRepairMapWrite s) from execRepairMapWrite_keeps hs)
  | modResetRelease => exact (show HNext P (execModResetRelease s) from execModResetRelease_keeps hs)
  | refclkRestored => exact (show HNext P (execRefclkRestored s) from execRefclkRestored_keeps hs)
  | perstReleased a0 => exact (show HNext P (execPerstReleased a0 s) from execPerstReleased_keeps hs)
  | hostLinkUp a0 => exact (show HNext P (execHostLinkUp a0 s) from execHostLinkUp_keeps hs)
  | configurationSpaceWrite a0 a1 a2 => exact (show HNext P (execConfigurationSpaceWrite a0 a1 a2 s) from execConfigurationSpaceWrite_keeps hs)
  | heldChunkHoldLimit a0 => exact (show HNext P (execHeldChunkHoldLimit a0 s) from execHeldChunkHoldLimit_keeps hs)
  | strataLogCutComplete => exact (show HNext P (execStrataLogCutComplete s) from execStrataLogCutComplete_keeps hs)

/-- A step keeps what every change of a part keeps, and the taking of the front command. -/
theorem step_keeps {P : State → Prop} (k : KAll P) (hq : ∀ (s : State) (q : List Instr), Holds P s → Holds P { s with pending := q })
    {s : State} (hs : Holds P s) : HNext P (step s) := by
  unfold step
  have := k.kCfg
  have := k.kDies
  have := k.kFlash
  have := k.kFlint
  have := k.kFresh
  have := k.kHosts
  have := k.kLocalTime
  have := k.kMgmt
  have := k.kRegs
  have := k.kRepair
  have := k.kRunning
  have := k.kSent
  split
  · exact HNext.ans (State.idle_keeps hs)
  · exact exec_keeps k _ (hq s _ hs)

end Sys2Proof.Machine
end

