-- ==== Sys2Proof/Laws/State.lean ====
section
/-! SUPPORT. What each update of one part of the state leaves and sets: one lemma per field per update. The updates that are one record
update come first, each lemma true by definition; then the shared operations that choose, from their footprints. -/

namespace Sys2Proof.Machine

variable (s : State)

/-! ### setReg -/

@[simp] theorem State.setReg_localTime (r : Reg) (w : Word64) : (s.setReg r w).localTime = s.localTime := rfl
@[simp] theorem State.setReg_epochOffset (r : Reg) (w : Word64) : (s.setReg r w).epochOffset = s.epochOffset := rfl
@[simp] theorem State.setReg_fabricValid (r : Reg) (w : Word64) : (s.setReg r w).fabricValid = s.fabricValid := rfl
@[simp] theorem State.setReg_fabric (r : Reg) (w : Word64) : (s.setReg r w).fabric = s.fabric := rfl
@[simp] theorem State.setReg_powered (r : Reg) (w : Word64) : (s.setReg r w).powered = s.powered := rfl
@[simp] theorem State.setReg_resident (r : Reg) (w : Word64) : (s.setReg r w).resident = s.resident := rfl
@[simp] theorem State.setReg_residentComp (r : Reg) (w : Word64) : (s.setReg r w).residentComp = s.residentComp := rfl
@[simp] theorem State.setReg_generations (r : Reg) (w : Word64) : (s.setReg r w).generations = s.generations := rfl
@[simp] theorem State.setReg_contexts (r : Reg) (w : Word64) : (s.setReg r w).contexts = s.contexts := rfl
@[simp] theorem State.setReg_chip (r : Reg) (w : Word64) : (s.setReg r w).chip = s.chip := rfl
@[simp] theorem State.setReg_flint (r : Reg) (w : Word64) : (s.setReg r w).flint = s.flint := rfl
@[simp] theorem State.setReg_hosts (r : Reg) (w : Word64) : (s.setReg r w).hosts = s.hosts := rfl
@[simp] theorem State.setReg_mgmt (r : Reg) (w : Word64) : (s.setReg r w).mgmt = s.mgmt := rfl
@[simp] theorem State.setReg_flash (r : Reg) (w : Word64) : (s.setReg r w).flash = s.flash := rfl
@[simp] theorem State.setReg_cfg (r : Reg) (w : Word64) : (s.setReg r w).cfg = s.cfg := rfl
@[simp] theorem State.setReg_running (r : Reg) (w : Word64) : (s.setReg r w).running = s.running := rfl
@[simp] theorem State.setReg_regs (r : Reg) (w : Word64) : (s.setReg r w).regs = RegTab.set s.regs r w := rfl
@[simp] theorem State.setReg_devmem (r : Reg) (w : Word64) : (s.setReg r w).devmem = s.devmem := rfl
@[simp] theorem State.setReg_devFlips (r : Reg) (w : Word64) : (s.setReg r w).devFlips = s.devFlips := rfl
@[simp] theorem State.setReg_mems (r : Reg) (w : Word64) : (s.setReg r w).mems = s.mems := rfl
@[simp] theorem State.setReg_oports (r : Reg) (w : Word64) : (s.setReg r w).oports = s.oports := rfl
@[simp] theorem State.setReg_ochans (r : Reg) (w : Word64) : (s.setReg r w).ochans = s.ochans := rfl
@[simp] theorem State.setReg_lasers (r : Reg) (w : Word64) : (s.setReg r w).lasers = s.lasers := rfl
@[simp] theorem State.setReg_edges (r : Reg) (w : Word64) : (s.setReg r w).edges = s.edges := rfl
@[simp] theorem State.setReg_gangPairs (r : Reg) (w : Word64) : (s.setReg r w).gangPairs = s.gangPairs := rfl
@[simp] theorem State.setReg_dies (r : Reg) (w : Word64) : (s.setReg r w).dies = s.dies := rfl
@[simp] theorem State.setReg_repair (r : Reg) (w : Word64) : (s.setReg r w).repair = s.repair := rfl
@[simp] theorem State.setReg_pins (r : Reg) (w : Word64) : (s.setReg r w).pins = s.pins := rfl
@[simp] theorem State.setReg_inputMv (r : Reg) (w : Word64) : (s.setReg r w).inputMv = s.inputMv := rfl
@[simp] theorem State.setReg_inputW (r : Reg) (w : Word64) : (s.setReg r w).inputW = s.inputW := rfl
@[simp] theorem State.setReg_sent (r : Reg) (w : Word64) : (s.setReg r w).sent = s.sent := rfl
@[simp] theorem State.setReg_fresh (r : Reg) (w : Word64) : (s.setReg r w).fresh = s.fresh := rfl
@[simp] theorem State.setReg_pending (r : Reg) (w : Word64) : (s.setReg r w).pending = s.pending := rfl

/-! ### setField -/

@[simp] theorem State.setField_localTime (r : Reg) (hi lo v : Nat) : (s.setField r hi lo v).localTime = s.localTime := rfl
@[simp] theorem State.setField_epochOffset (r : Reg) (hi lo v : Nat) : (s.setField r hi lo v).epochOffset = s.epochOffset := rfl
@[simp] theorem State.setField_fabricValid (r : Reg) (hi lo v : Nat) : (s.setField r hi lo v).fabricValid = s.fabricValid := rfl
@[simp] theorem State.setField_fabric (r : Reg) (hi lo v : Nat) : (s.setField r hi lo v).fabric = s.fabric := rfl
@[simp] theorem State.setField_powered (r : Reg) (hi lo v : Nat) : (s.setField r hi lo v).powered = s.powered := rfl
@[simp] theorem State.setField_resident (r : Reg) (hi lo v : Nat) : (s.setField r hi lo v).resident = s.resident := rfl
@[simp] theorem State.setField_residentComp (r : Reg) (hi lo v : Nat) : (s.setField r hi lo v).residentComp = s.residentComp := rfl
@[simp] theorem State.setField_generations (r : Reg) (hi lo v : Nat) : (s.setField r hi lo v).generations = s.generations := rfl
@[simp] theorem State.setField_contexts (r : Reg) (hi lo v : Nat) : (s.setField r hi lo v).contexts = s.contexts := rfl
@[simp] theorem State.setField_chip (r : Reg) (hi lo v : Nat) : (s.setField r hi lo v).chip = s.chip := rfl
@[simp] theorem State.setField_flint (r : Reg) (hi lo v : Nat) : (s.setField r hi lo v).flint = s.flint := rfl
@[simp] theorem State.setField_hosts (r : Reg) (hi lo v : Nat) : (s.setField r hi lo v).hosts = s.hosts := rfl
@[simp] theorem State.setField_mgmt (r : Reg) (hi lo v : Nat) : (s.setField r hi lo v).mgmt = s.mgmt := rfl
@[simp] theorem State.setField_flash (r : Reg) (hi lo v : Nat) : (s.setField r hi lo v).flash = s.flash := rfl
@[simp] theorem State.setField_cfg (r : Reg) (hi lo v : Nat) : (s.setField r hi lo v).cfg = s.cfg := rfl
@[simp] theorem State.setField_running (r : Reg) (hi lo v : Nat) : (s.setField r hi lo v).running = s.running := rfl
@[simp] theorem State.setField_devmem (r : Reg) (hi lo v : Nat) : (s.setField r hi lo v).devmem = s.devmem := rfl
@[simp] theorem State.setField_devFlips (r : Reg) (hi lo v : Nat) : (s.setField r hi lo v).devFlips = s.devFlips := rfl
@[simp] theorem State.setField_mems (r : Reg) (hi lo v : Nat) : (s.setField r hi lo v).mems = s.mems := rfl
@[simp] theorem State.setField_oports (r : Reg) (hi lo v : Nat) : (s.setField r hi lo v).oports = s.oports := rfl
@[simp] theorem State.setField_ochans (r : Reg) (hi lo v : Nat) : (s.setField r hi lo v).ochans = s.ochans := rfl
@[simp] theorem State.setField_lasers (r : Reg) (hi lo v : Nat) : (s.setField r hi lo v).lasers = s.lasers := rfl
@[simp] theorem State.setField_edges (r : Reg) (hi lo v : Nat) : (s.setField r hi lo v).edges = s.edges := rfl
@[simp] theorem State.setField_gangPairs (r : Reg) (hi lo v : Nat) : (s.setField r hi lo v).gangPairs = s.gangPairs := rfl
@[simp] theorem State.setField_dies (r : Reg) (hi lo v : Nat) : (s.setField r hi lo v).dies = s.dies := rfl
@[simp] theorem State.setField_repair (r : Reg) (hi lo v : Nat) : (s.setField r hi lo v).repair = s.repair := rfl
@[simp] theorem State.setField_pins (r : Reg) (hi lo v : Nat) : (s.setField r hi lo v).pins = s.pins := rfl
@[simp] theorem State.setField_inputMv (r : Reg) (hi lo v : Nat) : (s.setField r hi lo v).inputMv = s.inputMv := rfl
@[simp] theorem State.setField_inputW (r : Reg) (hi lo v : Nat) : (s.setField r hi lo v).inputW = s.inputW := rfl
@[simp] theorem State.setField_sent (r : Reg) (hi lo v : Nat) : (s.setField r hi lo v).sent = s.sent := rfl
@[simp] theorem State.setField_fresh (r : Reg) (hi lo v : Nat) : (s.setField r hi lo v).fresh = s.fresh := rfl
@[simp] theorem State.setField_pending (r : Reg) (hi lo v : Nat) : (s.setField r hi lo v).pending = s.pending := rfl

/-! ### bump -/

@[simp] theorem State.bump_localTime (r : Reg) (hi lo n : Nat) : (s.bump r hi lo n).localTime = s.localTime := rfl
@[simp] theorem State.bump_epochOffset (r : Reg) (hi lo n : Nat) : (s.bump r hi lo n).epochOffset = s.epochOffset := rfl
@[simp] theorem State.bump_fabricValid (r : Reg) (hi lo n : Nat) : (s.bump r hi lo n).fabricValid = s.fabricValid := rfl
@[simp] theorem State.bump_fabric (r : Reg) (hi lo n : Nat) : (s.bump r hi lo n).fabric = s.fabric := rfl
@[simp] theorem State.bump_powered (r : Reg) (hi lo n : Nat) : (s.bump r hi lo n).powered = s.powered := rfl
@[simp] theorem State.bump_resident (r : Reg) (hi lo n : Nat) : (s.bump r hi lo n).resident = s.resident := rfl
@[simp] theorem State.bump_residentComp (r : Reg) (hi lo n : Nat) : (s.bump r hi lo n).residentComp = s.residentComp := rfl
@[simp] theorem State.bump_generations (r : Reg) (hi lo n : Nat) : (s.bump r hi lo n).generations = s.generations := rfl
@[simp] theorem State.bump_contexts (r : Reg) (hi lo n : Nat) : (s.bump r hi lo n).contexts = s.contexts := rfl
@[simp] theorem State.bump_chip (r : Reg) (hi lo n : Nat) : (s.bump r hi lo n).chip = s.chip := rfl
@[simp] theorem State.bump_flint (r : Reg) (hi lo n : Nat) : (s.bump r hi lo n).flint = s.flint := rfl
@[simp] theorem State.bump_hosts (r : Reg) (hi lo n : Nat) : (s.bump r hi lo n).hosts = s.hosts := rfl
@[simp] theorem State.bump_mgmt (r : Reg) (hi lo n : Nat) : (s.bump r hi lo n).mgmt = s.mgmt := rfl
@[simp] theorem State.bump_flash (r : Reg) (hi lo n : Nat) : (s.bump r hi lo n).flash = s.flash := rfl
@[simp] theorem State.bump_cfg (r : Reg) (hi lo n : Nat) : (s.bump r hi lo n).cfg = s.cfg := rfl
@[simp] theorem State.bump_running (r : Reg) (hi lo n : Nat) : (s.bump r hi lo n).running = s.running := rfl
@[simp] theorem State.bump_devmem (r : Reg) (hi lo n : Nat) : (s.bump r hi lo n).devmem = s.devmem := rfl
@[simp] theorem State.bump_devFlips (r : Reg) (hi lo n : Nat) : (s.bump r hi lo n).devFlips = s.devFlips := rfl
@[simp] theorem State.bump_mems (r : Reg) (hi lo n : Nat) : (s.bump r hi lo n).mems = s.mems := rfl
@[simp] theorem State.bump_oports (r : Reg) (hi lo n : Nat) : (s.bump r hi lo n).oports = s.oports := rfl
@[simp] theorem State.bump_ochans (r : Reg) (hi lo n : Nat) : (s.bump r hi lo n).ochans = s.ochans := rfl
@[simp] theorem State.bump_lasers (r : Reg) (hi lo n : Nat) : (s.bump r hi lo n).lasers = s.lasers := rfl
@[simp] theorem State.bump_edges (r : Reg) (hi lo n : Nat) : (s.bump r hi lo n).edges = s.edges := rfl
@[simp] theorem State.bump_gangPairs (r : Reg) (hi lo n : Nat) : (s.bump r hi lo n).gangPairs = s.gangPairs := rfl
@[simp] theorem State.bump_dies (r : Reg) (hi lo n : Nat) : (s.bump r hi lo n).dies = s.dies := rfl
@[simp] theorem State.bump_repair (r : Reg) (hi lo n : Nat) : (s.bump r hi lo n).repair = s.repair := rfl
@[simp] theorem State.bump_pins (r : Reg) (hi lo n : Nat) : (s.bump r hi lo n).pins = s.pins := rfl
@[simp] theorem State.bump_inputMv (r : Reg) (hi lo n : Nat) : (s.bump r hi lo n).inputMv = s.inputMv := rfl
@[simp] theorem State.bump_inputW (r : Reg) (hi lo n : Nat) : (s.bump r hi lo n).inputW = s.inputW := rfl
@[simp] theorem State.bump_sent (r : Reg) (hi lo n : Nat) : (s.bump r hi lo n).sent = s.sent := rfl
@[simp] theorem State.bump_fresh (r : Reg) (hi lo n : Nat) : (s.bump r hi lo n).fresh = s.fresh := rfl
@[simp] theorem State.bump_pending (r : Reg) (hi lo n : Nat) : (s.bump r hi lo n).pending = s.pending := rfl

/-! ### setBit -/

@[simp] theorem State.setBit_localTime (r : Reg) (n : Nat) : (s.setBit r n).localTime = s.localTime := rfl
@[simp] theorem State.setBit_epochOffset (r : Reg) (n : Nat) : (s.setBit r n).epochOffset = s.epochOffset := rfl
@[simp] theorem State.setBit_fabricValid (r : Reg) (n : Nat) : (s.setBit r n).fabricValid = s.fabricValid := rfl
@[simp] theorem State.setBit_fabric (r : Reg) (n : Nat) : (s.setBit r n).fabric = s.fabric := rfl
@[simp] theorem State.setBit_powered (r : Reg) (n : Nat) : (s.setBit r n).powered = s.powered := rfl
@[simp] theorem State.setBit_resident (r : Reg) (n : Nat) : (s.setBit r n).resident = s.resident := rfl
@[simp] theorem State.setBit_residentComp (r : Reg) (n : Nat) : (s.setBit r n).residentComp = s.residentComp := rfl
@[simp] theorem State.setBit_generations (r : Reg) (n : Nat) : (s.setBit r n).generations = s.generations := rfl
@[simp] theorem State.setBit_contexts (r : Reg) (n : Nat) : (s.setBit r n).contexts = s.contexts := rfl
@[simp] theorem State.setBit_chip (r : Reg) (n : Nat) : (s.setBit r n).chip = s.chip := rfl
@[simp] theorem State.setBit_flint (r : Reg) (n : Nat) : (s.setBit r n).flint = s.flint := rfl
@[simp] theorem State.setBit_hosts (r : Reg) (n : Nat) : (s.setBit r n).hosts = s.hosts := rfl
@[simp] theorem State.setBit_mgmt (r : Reg) (n : Nat) : (s.setBit r n).mgmt = s.mgmt := rfl
@[simp] theorem State.setBit_flash (r : Reg) (n : Nat) : (s.setBit r n).flash = s.flash := rfl
@[simp] theorem State.setBit_cfg (r : Reg) (n : Nat) : (s.setBit r n).cfg = s.cfg := rfl
@[simp] theorem State.setBit_running (r : Reg) (n : Nat) : (s.setBit r n).running = s.running := rfl
@[simp] theorem State.setBit_devmem (r : Reg) (n : Nat) : (s.setBit r n).devmem = s.devmem := rfl
@[simp] theorem State.setBit_devFlips (r : Reg) (n : Nat) : (s.setBit r n).devFlips = s.devFlips := rfl
@[simp] theorem State.setBit_mems (r : Reg) (n : Nat) : (s.setBit r n).mems = s.mems := rfl
@[simp] theorem State.setBit_oports (r : Reg) (n : Nat) : (s.setBit r n).oports = s.oports := rfl
@[simp] theorem State.setBit_ochans (r : Reg) (n : Nat) : (s.setBit r n).ochans = s.ochans := rfl
@[simp] theorem State.setBit_lasers (r : Reg) (n : Nat) : (s.setBit r n).lasers = s.lasers := rfl
@[simp] theorem State.setBit_edges (r : Reg) (n : Nat) : (s.setBit r n).edges = s.edges := rfl
@[simp] theorem State.setBit_gangPairs (r : Reg) (n : Nat) : (s.setBit r n).gangPairs = s.gangPairs := rfl
@[simp] theorem State.setBit_dies (r : Reg) (n : Nat) : (s.setBit r n).dies = s.dies := rfl
@[simp] theorem State.setBit_repair (r : Reg) (n : Nat) : (s.setBit r n).repair = s.repair := rfl
@[simp] theorem State.setBit_pins (r : Reg) (n : Nat) : (s.setBit r n).pins = s.pins := rfl
@[simp] theorem State.setBit_inputMv (r : Reg) (n : Nat) : (s.setBit r n).inputMv = s.inputMv := rfl
@[simp] theorem State.setBit_inputW (r : Reg) (n : Nat) : (s.setBit r n).inputW = s.inputW := rfl
@[simp] theorem State.setBit_sent (r : Reg) (n : Nat) : (s.setBit r n).sent = s.sent := rfl
@[simp] theorem State.setBit_fresh (r : Reg) (n : Nat) : (s.setBit r n).fresh = s.fresh := rfl
@[simp] theorem State.setBit_pending (r : Reg) (n : Nat) : (s.setBit r n).pending = s.pending := rfl

/-! ### putContext -/

@[simp] theorem State.putContext_localTime (c : Context) : (s.putContext c).localTime = s.localTime := rfl
@[simp] theorem State.putContext_epochOffset (c : Context) : (s.putContext c).epochOffset = s.epochOffset := rfl
@[simp] theorem State.putContext_fabricValid (c : Context) : (s.putContext c).fabricValid = s.fabricValid := rfl
@[simp] theorem State.putContext_fabric (c : Context) : (s.putContext c).fabric = s.fabric := rfl
@[simp] theorem State.putContext_powered (c : Context) : (s.putContext c).powered = s.powered := rfl
@[simp] theorem State.putContext_resident (c : Context) : (s.putContext c).resident = s.resident := rfl
@[simp] theorem State.putContext_residentComp (c : Context) : (s.putContext c).residentComp = s.residentComp := rfl
@[simp] theorem State.putContext_generations (c : Context) : (s.putContext c).generations = s.generations := rfl
@[simp] theorem State.putContext_contexts (c : Context) : (s.putContext c).contexts = Tab.set s.contexts (c.id.toNat / 4096) c := rfl
@[simp] theorem State.putContext_chip (c : Context) : (s.putContext c).chip = s.chip := rfl
@[simp] theorem State.putContext_flint (c : Context) : (s.putContext c).flint = s.flint := rfl
@[simp] theorem State.putContext_hosts (c : Context) : (s.putContext c).hosts = s.hosts := rfl
@[simp] theorem State.putContext_mgmt (c : Context) : (s.putContext c).mgmt = s.mgmt := rfl
@[simp] theorem State.putContext_flash (c : Context) : (s.putContext c).flash = s.flash := rfl
@[simp] theorem State.putContext_cfg (c : Context) : (s.putContext c).cfg = s.cfg := rfl
@[simp] theorem State.putContext_running (c : Context) : (s.putContext c).running = s.running := rfl
@[simp] theorem State.putContext_regs (c : Context) : (s.putContext c).regs = s.regs := rfl
@[simp] theorem State.putContext_devmem (c : Context) : (s.putContext c).devmem = s.devmem := rfl
@[simp] theorem State.putContext_devFlips (c : Context) : (s.putContext c).devFlips = s.devFlips := rfl
@[simp] theorem State.putContext_mems (c : Context) : (s.putContext c).mems = s.mems := rfl
@[simp] theorem State.putContext_oports (c : Context) : (s.putContext c).oports = s.oports := rfl
@[simp] theorem State.putContext_ochans (c : Context) : (s.putContext c).ochans = s.ochans := rfl
@[simp] theorem State.putContext_lasers (c : Context) : (s.putContext c).lasers = s.lasers := rfl
@[simp] theorem State.putContext_edges (c : Context) : (s.putContext c).edges = s.edges := rfl
@[simp] theorem State.putContext_gangPairs (c : Context) : (s.putContext c).gangPairs = s.gangPairs := rfl
@[simp] theorem State.putContext_dies (c : Context) : (s.putContext c).dies = s.dies := rfl
@[simp] theorem State.putContext_repair (c : Context) : (s.putContext c).repair = s.repair := rfl
@[simp] theorem State.putContext_pins (c : Context) : (s.putContext c).pins = s.pins := rfl
@[simp] theorem State.putContext_inputMv (c : Context) : (s.putContext c).inputMv = s.inputMv := rfl
@[simp] theorem State.putContext_inputW (c : Context) : (s.putContext c).inputW = s.inputW := rfl
@[simp] theorem State.putContext_sent (c : Context) : (s.putContext c).sent = s.sent := rfl
@[simp] theorem State.putContext_fresh (c : Context) : (s.putContext c).fresh = s.fresh := rfl
@[simp] theorem State.putContext_pending (c : Context) : (s.putContext c).pending = s.pending := rfl

/-! ### setResident -/

@[simp] theorem State.setResident_localTime (id : BitVec 16) : (s.setResident id).localTime = s.localTime := rfl
@[simp] theorem State.setResident_epochOffset (id : BitVec 16) : (s.setResident id).epochOffset = s.epochOffset := rfl
@[simp] theorem State.setResident_fabricValid (id : BitVec 16) : (s.setResident id).fabricValid = s.fabricValid := rfl
@[simp] theorem State.setResident_fabric (id : BitVec 16) : (s.setResident id).fabric = s.fabric := rfl
@[simp] theorem State.setResident_powered (id : BitVec 16) : (s.setResident id).powered = s.powered := rfl
@[simp] theorem State.setResident_resident (id : BitVec 16) : (s.setResident id).resident = id := rfl
@[simp] theorem State.setResident_residentComp (id : BitVec 16) : (s.setResident id).residentComp = ~~~id := rfl
@[simp] theorem State.setResident_generations (id : BitVec 16) : (s.setResident id).generations = s.generations := rfl
@[simp] theorem State.setResident_contexts (id : BitVec 16) : (s.setResident id).contexts = s.contexts := rfl
@[simp] theorem State.setResident_chip (id : BitVec 16) : (s.setResident id).chip = s.chip := rfl
@[simp] theorem State.setResident_flint (id : BitVec 16) : (s.setResident id).flint = s.flint := rfl
@[simp] theorem State.setResident_hosts (id : BitVec 16) : (s.setResident id).hosts = s.hosts := rfl
@[simp] theorem State.setResident_mgmt (id : BitVec 16) : (s.setResident id).mgmt = s.mgmt := rfl
@[simp] theorem State.setResident_flash (id : BitVec 16) : (s.setResident id).flash = s.flash := rfl
@[simp] theorem State.setResident_cfg (id : BitVec 16) : (s.setResident id).cfg = s.cfg := rfl
@[simp] theorem State.setResident_running (id : BitVec 16) : (s.setResident id).running = s.running := rfl
@[simp] theorem State.setResident_regs (id : BitVec 16) : (s.setResident id).regs = s.regs := rfl
@[simp] theorem State.setResident_devmem (id : BitVec 16) : (s.setResident id).devmem = s.devmem := rfl
@[simp] theorem State.setResident_devFlips (id : BitVec 16) : (s.setResident id).devFlips = s.devFlips := rfl
@[simp] theorem State.setResident_mems (id : BitVec 16) : (s.setResident id).mems = s.mems := rfl
@[simp] theorem State.setResident_oports (id : BitVec 16) : (s.setResident id).oports = s.oports := rfl
@[simp] theorem State.setResident_ochans (id : BitVec 16) : (s.setResident id).ochans = s.ochans := rfl
@[simp] theorem State.setResident_lasers (id : BitVec 16) : (s.setResident id).lasers = s.lasers := rfl
@[simp] theorem State.setResident_edges (id : BitVec 16) : (s.setResident id).edges = s.edges := rfl
@[simp] theorem State.setResident_gangPairs (id : BitVec 16) : (s.setResident id).gangPairs = s.gangPairs := rfl
@[simp] theorem State.setResident_dies (id : BitVec 16) : (s.setResident id).dies = s.dies := rfl
@[simp] theorem State.setResident_repair (id : BitVec 16) : (s.setResident id).repair = s.repair := rfl
@[simp] theorem State.setResident_pins (id : BitVec 16) : (s.setResident id).pins = s.pins := rfl
@[simp] theorem State.setResident_inputMv (id : BitVec 16) : (s.setResident id).inputMv = s.inputMv := rfl
@[simp] theorem State.setResident_inputW (id : BitVec 16) : (s.setResident id).inputW = s.inputW := rfl
@[simp] theorem State.setResident_sent (id : BitVec 16) : (s.setResident id).sent = s.sent := rfl
@[simp] theorem State.setResident_fresh (id : BitVec 16) : (s.setResident id).fresh = s.fresh := rfl
@[simp] theorem State.setResident_pending (id : BitVec 16) : (s.setResident id).pending = s.pending := rfl

/-! ### modChip -/

@[simp] theorem State.modChip_localTime (f : Chip → Chip) : (s.modChip f).localTime = s.localTime := rfl
@[simp] theorem State.modChip_epochOffset (f : Chip → Chip) : (s.modChip f).epochOffset = s.epochOffset := rfl
@[simp] theorem State.modChip_fabricValid (f : Chip → Chip) : (s.modChip f).fabricValid = s.fabricValid := rfl
@[simp] theorem State.modChip_fabric (f : Chip → Chip) : (s.modChip f).fabric = s.fabric := rfl
@[simp] theorem State.modChip_powered (f : Chip → Chip) : (s.modChip f).powered = s.powered := rfl
@[simp] theorem State.modChip_resident (f : Chip → Chip) : (s.modChip f).resident = s.resident := rfl
@[simp] theorem State.modChip_residentComp (f : Chip → Chip) : (s.modChip f).residentComp = s.residentComp := rfl
@[simp] theorem State.modChip_generations (f : Chip → Chip) : (s.modChip f).generations = s.generations := rfl
@[simp] theorem State.modChip_contexts (f : Chip → Chip) : (s.modChip f).contexts = s.contexts := rfl
@[simp] theorem State.modChip_chip (f : Chip → Chip) : (s.modChip f).chip = f s.chip := rfl
@[simp] theorem State.modChip_flint (f : Chip → Chip) : (s.modChip f).flint = s.flint := rfl
@[simp] theorem State.modChip_hosts (f : Chip → Chip) : (s.modChip f).hosts = s.hosts := rfl
@[simp] theorem State.modChip_mgmt (f : Chip → Chip) : (s.modChip f).mgmt = s.mgmt := rfl
@[simp] theorem State.modChip_flash (f : Chip → Chip) : (s.modChip f).flash = s.flash := rfl
@[simp] theorem State.modChip_cfg (f : Chip → Chip) : (s.modChip f).cfg = s.cfg := rfl
@[simp] theorem State.modChip_running (f : Chip → Chip) : (s.modChip f).running = s.running := rfl
@[simp] theorem State.modChip_regs (f : Chip → Chip) : (s.modChip f).regs = s.regs := rfl
@[simp] theorem State.modChip_devmem (f : Chip → Chip) : (s.modChip f).devmem = s.devmem := rfl
@[simp] theorem State.modChip_devFlips (f : Chip → Chip) : (s.modChip f).devFlips = s.devFlips := rfl
@[simp] theorem State.modChip_mems (f : Chip → Chip) : (s.modChip f).mems = s.mems := rfl
@[simp] theorem State.modChip_oports (f : Chip → Chip) : (s.modChip f).oports = s.oports := rfl
@[simp] theorem State.modChip_ochans (f : Chip → Chip) : (s.modChip f).ochans = s.ochans := rfl
@[simp] theorem State.modChip_lasers (f : Chip → Chip) : (s.modChip f).lasers = s.lasers := rfl
@[simp] theorem State.modChip_edges (f : Chip → Chip) : (s.modChip f).edges = s.edges := rfl
@[simp] theorem State.modChip_gangPairs (f : Chip → Chip) : (s.modChip f).gangPairs = s.gangPairs := rfl
@[simp] theorem State.modChip_dies (f : Chip → Chip) : (s.modChip f).dies = s.dies := rfl
@[simp] theorem State.modChip_repair (f : Chip → Chip) : (s.modChip f).repair = s.repair := rfl
@[simp] theorem State.modChip_pins (f : Chip → Chip) : (s.modChip f).pins = s.pins := rfl
@[simp] theorem State.modChip_inputMv (f : Chip → Chip) : (s.modChip f).inputMv = s.inputMv := rfl
@[simp] theorem State.modChip_inputW (f : Chip → Chip) : (s.modChip f).inputW = s.inputW := rfl
@[simp] theorem State.modChip_sent (f : Chip → Chip) : (s.modChip f).sent = s.sent := rfl
@[simp] theorem State.modChip_fresh (f : Chip → Chip) : (s.modChip f).fresh = s.fresh := rfl
@[simp] theorem State.modChip_pending (f : Chip → Chip) : (s.modChip f).pending = s.pending := rfl

/-! ### modCore -/

@[simp] theorem State.modCore_localTime (c : Nat) (f : Core → Core) : (s.modCore c f).localTime = s.localTime := rfl
@[simp] theorem State.modCore_epochOffset (c : Nat) (f : Core → Core) : (s.modCore c f).epochOffset = s.epochOffset := rfl
@[simp] theorem State.modCore_fabricValid (c : Nat) (f : Core → Core) : (s.modCore c f).fabricValid = s.fabricValid := rfl
@[simp] theorem State.modCore_fabric (c : Nat) (f : Core → Core) : (s.modCore c f).fabric = s.fabric := rfl
@[simp] theorem State.modCore_powered (c : Nat) (f : Core → Core) : (s.modCore c f).powered = s.powered := rfl
@[simp] theorem State.modCore_resident (c : Nat) (f : Core → Core) : (s.modCore c f).resident = s.resident := rfl
@[simp] theorem State.modCore_residentComp (c : Nat) (f : Core → Core) : (s.modCore c f).residentComp = s.residentComp := rfl
@[simp] theorem State.modCore_generations (c : Nat) (f : Core → Core) : (s.modCore c f).generations = s.generations := rfl
@[simp] theorem State.modCore_contexts (c : Nat) (f : Core → Core) : (s.modCore c f).contexts = s.contexts := rfl
@[simp] theorem State.modCore_flint (c : Nat) (f : Core → Core) : (s.modCore c f).flint = s.flint := rfl
@[simp] theorem State.modCore_hosts (c : Nat) (f : Core → Core) : (s.modCore c f).hosts = s.hosts := rfl
@[simp] theorem State.modCore_mgmt (c : Nat) (f : Core → Core) : (s.modCore c f).mgmt = s.mgmt := rfl
@[simp] theorem State.modCore_flash (c : Nat) (f : Core → Core) : (s.modCore c f).flash = s.flash := rfl
@[simp] theorem State.modCore_cfg (c : Nat) (f : Core → Core) : (s.modCore c f).cfg = s.cfg := rfl
@[simp] theorem State.modCore_running (c : Nat) (f : Core → Core) : (s.modCore c f).running = s.running := rfl
@[simp] theorem State.modCore_regs (c : Nat) (f : Core → Core) : (s.modCore c f).regs = s.regs := rfl
@[simp] theorem State.modCore_devmem (c : Nat) (f : Core → Core) : (s.modCore c f).devmem = s.devmem := rfl
@[simp] theorem State.modCore_devFlips (c : Nat) (f : Core → Core) : (s.modCore c f).devFlips = s.devFlips := rfl
@[simp] theorem State.modCore_mems (c : Nat) (f : Core → Core) : (s.modCore c f).mems = s.mems := rfl
@[simp] theorem State.modCore_oports (c : Nat) (f : Core → Core) : (s.modCore c f).oports = s.oports := rfl
@[simp] theorem State.modCore_ochans (c : Nat) (f : Core → Core) : (s.modCore c f).ochans = s.ochans := rfl
@[simp] theorem State.modCore_lasers (c : Nat) (f : Core → Core) : (s.modCore c f).lasers = s.lasers := rfl
@[simp] theorem State.modCore_edges (c : Nat) (f : Core → Core) : (s.modCore c f).edges = s.edges := rfl
@[simp] theorem State.modCore_gangPairs (c : Nat) (f : Core → Core) : (s.modCore c f).gangPairs = s.gangPairs := rfl
@[simp] theorem State.modCore_dies (c : Nat) (f : Core → Core) : (s.modCore c f).dies = s.dies := rfl
@[simp] theorem State.modCore_repair (c : Nat) (f : Core → Core) : (s.modCore c f).repair = s.repair := rfl
@[simp] theorem State.modCore_pins (c : Nat) (f : Core → Core) : (s.modCore c f).pins = s.pins := rfl
@[simp] theorem State.modCore_inputMv (c : Nat) (f : Core → Core) : (s.modCore c f).inputMv = s.inputMv := rfl
@[simp] theorem State.modCore_inputW (c : Nat) (f : Core → Core) : (s.modCore c f).inputW = s.inputW := rfl
@[simp] theorem State.modCore_sent (c : Nat) (f : Core → Core) : (s.modCore c f).sent = s.sent := rfl
@[simp] theorem State.modCore_fresh (c : Nat) (f : Core → Core) : (s.modCore c f).fresh = s.fresh := rfl
@[simp] theorem State.modCore_pending (c : Nat) (f : Core → Core) : (s.modCore c f).pending = s.pending := rfl

/-! ### modStream -/

@[simp] theorem State.modStream_localTime (i : Nat) (f : Stream → Stream) : (s.modStream i f).localTime = s.localTime := rfl
@[simp] theorem State.modStream_epochOffset (i : Nat) (f : Stream → Stream) : (s.modStream i f).epochOffset = s.epochOffset := rfl
@[simp] theorem State.modStream_fabricValid (i : Nat) (f : Stream → Stream) : (s.modStream i f).fabricValid = s.fabricValid := rfl
@[simp] theorem State.modStream_fabric (i : Nat) (f : Stream → Stream) : (s.modStream i f).fabric = s.fabric := rfl
@[simp] theorem State.modStream_powered (i : Nat) (f : Stream → Stream) : (s.modStream i f).powered = s.powered := rfl
@[simp] theorem State.modStream_resident (i : Nat) (f : Stream → Stream) : (s.modStream i f).resident = s.resident := rfl
@[simp] theorem State.modStream_residentComp (i : Nat) (f : Stream → Stream) : (s.modStream i f).residentComp = s.residentComp := rfl
@[simp] theorem State.modStream_generations (i : Nat) (f : Stream → Stream) : (s.modStream i f).generations = s.generations := rfl
@[simp] theorem State.modStream_contexts (i : Nat) (f : Stream → Stream) : (s.modStream i f).contexts = s.contexts := rfl
@[simp] theorem State.modStream_flint (i : Nat) (f : Stream → Stream) : (s.modStream i f).flint = s.flint := rfl
@[simp] theorem State.modStream_hosts (i : Nat) (f : Stream → Stream) : (s.modStream i f).hosts = s.hosts := rfl
@[simp] theorem State.modStream_mgmt (i : Nat) (f : Stream → Stream) : (s.modStream i f).mgmt = s.mgmt := rfl
@[simp] theorem State.modStream_flash (i : Nat) (f : Stream → Stream) : (s.modStream i f).flash = s.flash := rfl
@[simp] theorem State.modStream_cfg (i : Nat) (f : Stream → Stream) : (s.modStream i f).cfg = s.cfg := rfl
@[simp] theorem State.modStream_running (i : Nat) (f : Stream → Stream) : (s.modStream i f).running = s.running := rfl
@[simp] theorem State.modStream_regs (i : Nat) (f : Stream → Stream) : (s.modStream i f).regs = s.regs := rfl
@[simp] theorem State.modStream_devmem (i : Nat) (f : Stream → Stream) : (s.modStream i f).devmem = s.devmem := rfl
@[simp] theorem State.modStream_devFlips (i : Nat) (f : Stream → Stream) : (s.modStream i f).devFlips = s.devFlips := rfl
@[simp] theorem State.modStream_mems (i : Nat) (f : Stream → Stream) : (s.modStream i f).mems = s.mems := rfl
@[simp] theorem State.modStream_oports (i : Nat) (f : Stream → Stream) : (s.modStream i f).oports = s.oports := rfl
@[simp] theorem State.modStream_ochans (i : Nat) (f : Stream → Stream) : (s.modStream i f).ochans = s.ochans := rfl
@[simp] theorem State.modStream_lasers (i : Nat) (f : Stream → Stream) : (s.modStream i f).lasers = s.lasers := rfl
@[simp] theorem State.modStream_edges (i : Nat) (f : Stream → Stream) : (s.modStream i f).edges = s.edges := rfl
@[simp] theorem State.modStream_gangPairs (i : Nat) (f : Stream → Stream) : (s.modStream i f).gangPairs = s.gangPairs := rfl
@[simp] theorem State.modStream_dies (i : Nat) (f : Stream → Stream) : (s.modStream i f).dies = s.dies := rfl
@[simp] theorem State.modStream_repair (i : Nat) (f : Stream → Stream) : (s.modStream i f).repair = s.repair := rfl
@[simp] theorem State.modStream_pins (i : Nat) (f : Stream → Stream) : (s.modStream i f).pins = s.pins := rfl
@[simp] theorem State.modStream_inputMv (i : Nat) (f : Stream → Stream) : (s.modStream i f).inputMv = s.inputMv := rfl
@[simp] theorem State.modStream_inputW (i : Nat) (f : Stream → Stream) : (s.modStream i f).inputW = s.inputW := rfl
@[simp] theorem State.modStream_sent (i : Nat) (f : Stream → Stream) : (s.modStream i f).sent = s.sent := rfl
@[simp] theorem State.modStream_fresh (i : Nat) (f : Stream → Stream) : (s.modStream i f).fresh = s.fresh := rfl
@[simp] theorem State.modStream_pending (i : Nat) (f : Stream → Stream) : (s.modStream i f).pending = s.pending := rfl

/-! ### modFlint -/

@[simp] theorem State.modFlint_localTime (f : Flint → Flint) : (s.modFlint f).localTime = s.localTime := rfl
@[simp] theorem State.modFlint_epochOffset (f : Flint → Flint) : (s.modFlint f).epochOffset = s.epochOffset := rfl
@[simp] theorem State.modFlint_fabricValid (f : Flint → Flint) : (s.modFlint f).fabricValid = s.fabricValid := rfl
@[simp] theorem State.modFlint_fabric (f : Flint → Flint) : (s.modFlint f).fabric = s.fabric := rfl
@[simp] theorem State.modFlint_powered (f : Flint → Flint) : (s.modFlint f).powered = s.powered := rfl
@[simp] theorem State.modFlint_resident (f : Flint → Flint) : (s.modFlint f).resident = s.resident := rfl
@[simp] theorem State.modFlint_residentComp (f : Flint → Flint) : (s.modFlint f).residentComp = s.residentComp := rfl
@[simp] theorem State.modFlint_generations (f : Flint → Flint) : (s.modFlint f).generations = s.generations := rfl
@[simp] theorem State.modFlint_contexts (f : Flint → Flint) : (s.modFlint f).contexts = s.contexts := rfl
@[simp] theorem State.modFlint_chip (f : Flint → Flint) : (s.modFlint f).chip = s.chip := rfl
@[simp] theorem State.modFlint_flint (f : Flint → Flint) : (s.modFlint f).flint = f s.flint := rfl
@[simp] theorem State.modFlint_hosts (f : Flint → Flint) : (s.modFlint f).hosts = s.hosts := rfl
@[simp] theorem State.modFlint_mgmt (f : Flint → Flint) : (s.modFlint f).mgmt = s.mgmt := rfl
@[simp] theorem State.modFlint_flash (f : Flint → Flint) : (s.modFlint f).flash = s.flash := rfl
@[simp] theorem State.modFlint_cfg (f : Flint → Flint) : (s.modFlint f).cfg = s.cfg := rfl
@[simp] theorem State.modFlint_running (f : Flint → Flint) : (s.modFlint f).running = s.running := rfl
@[simp] theorem State.modFlint_regs (f : Flint → Flint) : (s.modFlint f).regs = s.regs := rfl
@[simp] theorem State.modFlint_devmem (f : Flint → Flint) : (s.modFlint f).devmem = s.devmem := rfl
@[simp] theorem State.modFlint_devFlips (f : Flint → Flint) : (s.modFlint f).devFlips = s.devFlips := rfl
@[simp] theorem State.modFlint_mems (f : Flint → Flint) : (s.modFlint f).mems = s.mems := rfl
@[simp] theorem State.modFlint_oports (f : Flint → Flint) : (s.modFlint f).oports = s.oports := rfl
@[simp] theorem State.modFlint_ochans (f : Flint → Flint) : (s.modFlint f).ochans = s.ochans := rfl
@[simp] theorem State.modFlint_lasers (f : Flint → Flint) : (s.modFlint f).lasers = s.lasers := rfl
@[simp] theorem State.modFlint_edges (f : Flint → Flint) : (s.modFlint f).edges = s.edges := rfl
@[simp] theorem State.modFlint_gangPairs (f : Flint → Flint) : (s.modFlint f).gangPairs = s.gangPairs := rfl
@[simp] theorem State.modFlint_dies (f : Flint → Flint) : (s.modFlint f).dies = s.dies := rfl
@[simp] theorem State.modFlint_repair (f : Flint → Flint) : (s.modFlint f).repair = s.repair := rfl
@[simp] theorem State.modFlint_pins (f : Flint → Flint) : (s.modFlint f).pins = s.pins := rfl
@[simp] theorem State.modFlint_inputMv (f : Flint → Flint) : (s.modFlint f).inputMv = s.inputMv := rfl
@[simp] theorem State.modFlint_inputW (f : Flint → Flint) : (s.modFlint f).inputW = s.inputW := rfl
@[simp] theorem State.modFlint_sent (f : Flint → Flint) : (s.modFlint f).sent = s.sent := rfl
@[simp] theorem State.modFlint_fresh (f : Flint → Flint) : (s.modFlint f).fresh = s.fresh := rfl
@[simp] theorem State.modFlint_pending (f : Flint → Flint) : (s.modFlint f).pending = s.pending := rfl

/-! ### modHost -/

@[simp] theorem State.modHost_localTime (p : Nat) (f : HostPort → HostPort) : (s.modHost p f).localTime = s.localTime := rfl
@[simp] theorem State.modHost_epochOffset (p : Nat) (f : HostPort → HostPort) : (s.modHost p f).epochOffset = s.epochOffset := rfl
@[simp] theorem State.modHost_fabricValid (p : Nat) (f : HostPort → HostPort) : (s.modHost p f).fabricValid = s.fabricValid := rfl
@[simp] theorem State.modHost_fabric (p : Nat) (f : HostPort → HostPort) : (s.modHost p f).fabric = s.fabric := rfl
@[simp] theorem State.modHost_powered (p : Nat) (f : HostPort → HostPort) : (s.modHost p f).powered = s.powered := rfl
@[simp] theorem State.modHost_resident (p : Nat) (f : HostPort → HostPort) : (s.modHost p f).resident = s.resident := rfl
@[simp] theorem State.modHost_residentComp (p : Nat) (f : HostPort → HostPort) : (s.modHost p f).residentComp = s.residentComp := rfl
@[simp] theorem State.modHost_generations (p : Nat) (f : HostPort → HostPort) : (s.modHost p f).generations = s.generations := rfl
@[simp] theorem State.modHost_contexts (p : Nat) (f : HostPort → HostPort) : (s.modHost p f).contexts = s.contexts := rfl
@[simp] theorem State.modHost_chip (p : Nat) (f : HostPort → HostPort) : (s.modHost p f).chip = s.chip := rfl
@[simp] theorem State.modHost_flint (p : Nat) (f : HostPort → HostPort) : (s.modHost p f).flint = s.flint := rfl
@[simp] theorem State.modHost_mgmt (p : Nat) (f : HostPort → HostPort) : (s.modHost p f).mgmt = s.mgmt := rfl
@[simp] theorem State.modHost_flash (p : Nat) (f : HostPort → HostPort) : (s.modHost p f).flash = s.flash := rfl
@[simp] theorem State.modHost_cfg (p : Nat) (f : HostPort → HostPort) : (s.modHost p f).cfg = s.cfg := rfl
@[simp] theorem State.modHost_running (p : Nat) (f : HostPort → HostPort) : (s.modHost p f).running = s.running := rfl
@[simp] theorem State.modHost_regs (p : Nat) (f : HostPort → HostPort) : (s.modHost p f).regs = s.regs := rfl
@[simp] theorem State.modHost_devmem (p : Nat) (f : HostPort → HostPort) : (s.modHost p f).devmem = s.devmem := rfl
@[simp] theorem State.modHost_devFlips (p : Nat) (f : HostPort → HostPort) : (s.modHost p f).devFlips = s.devFlips := rfl
@[simp] theorem State.modHost_mems (p : Nat) (f : HostPort → HostPort) : (s.modHost p f).mems = s.mems := rfl
@[simp] theorem State.modHost_oports (p : Nat) (f : HostPort → HostPort) : (s.modHost p f).oports = s.oports := rfl
@[simp] theorem State.modHost_ochans (p : Nat) (f : HostPort → HostPort) : (s.modHost p f).ochans = s.ochans := rfl
@[simp] theorem State.modHost_lasers (p : Nat) (f : HostPort → HostPort) : (s.modHost p f).lasers = s.lasers := rfl
@[simp] theorem State.modHost_edges (p : Nat) (f : HostPort → HostPort) : (s.modHost p f).edges = s.edges := rfl
@[simp] theorem State.modHost_gangPairs (p : Nat) (f : HostPort → HostPort) : (s.modHost p f).gangPairs = s.gangPairs := rfl
@[simp] theorem State.modHost_dies (p : Nat) (f : HostPort → HostPort) : (s.modHost p f).dies = s.dies := rfl
@[simp] theorem State.modHost_repair (p : Nat) (f : HostPort → HostPort) : (s.modHost p f).repair = s.repair := rfl
@[simp] theorem State.modHost_pins (p : Nat) (f : HostPort → HostPort) : (s.modHost p f).pins = s.pins := rfl
@[simp] theorem State.modHost_inputMv (p : Nat) (f : HostPort → HostPort) : (s.modHost p f).inputMv = s.inputMv := rfl
@[simp] theorem State.modHost_inputW (p : Nat) (f : HostPort → HostPort) : (s.modHost p f).inputW = s.inputW := rfl
@[simp] theorem State.modHost_sent (p : Nat) (f : HostPort → HostPort) : (s.modHost p f).sent = s.sent := rfl
@[simp] theorem State.modHost_fresh (p : Nat) (f : HostPort → HostPort) : (s.modHost p f).fresh = s.fresh := rfl
@[simp] theorem State.modHost_pending (p : Nat) (f : HostPort → HostPort) : (s.modHost p f).pending = s.pending := rfl

/-! ### modMem -/

@[simp] theorem State.modMem_localTime (d : Nat) (f : MemDev → MemDev) : (s.modMem d f).localTime = s.localTime := rfl
@[simp] theorem State.modMem_epochOffset (d : Nat) (f : MemDev → MemDev) : (s.modMem d f).epochOffset = s.epochOffset := rfl
@[simp] theorem State.modMem_fabricValid (d : Nat) (f : MemDev → MemDev) : (s.modMem d f).fabricValid = s.fabricValid := rfl
@[simp] theorem State.modMem_fabric (d : Nat) (f : MemDev → MemDev) : (s.modMem d f).fabric = s.fabric := rfl
@[simp] theorem State.modMem_powered (d : Nat) (f : MemDev → MemDev) : (s.modMem d f).powered = s.powered := rfl
@[simp] theorem State.modMem_resident (d : Nat) (f : MemDev → MemDev) : (s.modMem d f).resident = s.resident := rfl
@[simp] theorem State.modMem_residentComp (d : Nat) (f : MemDev → MemDev) : (s.modMem d f).residentComp = s.residentComp := rfl
@[simp] theorem State.modMem_generations (d : Nat) (f : MemDev → MemDev) : (s.modMem d f).generations = s.generations := rfl
@[simp] theorem State.modMem_contexts (d : Nat) (f : MemDev → MemDev) : (s.modMem d f).contexts = s.contexts := rfl
@[simp] theorem State.modMem_chip (d : Nat) (f : MemDev → MemDev) : (s.modMem d f).chip = s.chip := rfl
@[simp] theorem State.modMem_flint (d : Nat) (f : MemDev → MemDev) : (s.modMem d f).flint = s.flint := rfl
@[simp] theorem State.modMem_hosts (d : Nat) (f : MemDev → MemDev) : (s.modMem d f).hosts = s.hosts := rfl
@[simp] theorem State.modMem_mgmt (d : Nat) (f : MemDev → MemDev) : (s.modMem d f).mgmt = s.mgmt := rfl
@[simp] theorem State.modMem_flash (d : Nat) (f : MemDev → MemDev) : (s.modMem d f).flash = s.flash := rfl
@[simp] theorem State.modMem_cfg (d : Nat) (f : MemDev → MemDev) : (s.modMem d f).cfg = s.cfg := rfl
@[simp] theorem State.modMem_running (d : Nat) (f : MemDev → MemDev) : (s.modMem d f).running = s.running := rfl
@[simp] theorem State.modMem_regs (d : Nat) (f : MemDev → MemDev) : (s.modMem d f).regs = s.regs := rfl
@[simp] theorem State.modMem_devmem (d : Nat) (f : MemDev → MemDev) : (s.modMem d f).devmem = s.devmem := rfl
@[simp] theorem State.modMem_devFlips (d : Nat) (f : MemDev → MemDev) : (s.modMem d f).devFlips = s.devFlips := rfl
@[simp] theorem State.modMem_oports (d : Nat) (f : MemDev → MemDev) : (s.modMem d f).oports = s.oports := rfl
@[simp] theorem State.modMem_ochans (d : Nat) (f : MemDev → MemDev) : (s.modMem d f).ochans = s.ochans := rfl
@[simp] theorem State.modMem_lasers (d : Nat) (f : MemDev → MemDev) : (s.modMem d f).lasers = s.lasers := rfl
@[simp] theorem State.modMem_edges (d : Nat) (f : MemDev → MemDev) : (s.modMem d f).edges = s.edges := rfl
@[simp] theorem State.modMem_gangPairs (d : Nat) (f : MemDev → MemDev) : (s.modMem d f).gangPairs = s.gangPairs := rfl
@[simp] theorem State.modMem_dies (d : Nat) (f : MemDev → MemDev) : (s.modMem d f).dies = s.dies := rfl
@[simp] theorem State.modMem_repair (d : Nat) (f : MemDev → MemDev) : (s.modMem d f).repair = s.repair := rfl
@[simp] theorem State.modMem_pins (d : Nat) (f : MemDev → MemDev) : (s.modMem d f).pins = s.pins := rfl
@[simp] theorem State.modMem_inputMv (d : Nat) (f : MemDev → MemDev) : (s.modMem d f).inputMv = s.inputMv := rfl
@[simp] theorem State.modMem_inputW (d : Nat) (f : MemDev → MemDev) : (s.modMem d f).inputW = s.inputW := rfl
@[simp] theorem State.modMem_sent (d : Nat) (f : MemDev → MemDev) : (s.modMem d f).sent = s.sent := rfl
@[simp] theorem State.modMem_fresh (d : Nat) (f : MemDev → MemDev) : (s.modMem d f).fresh = s.fresh := rfl
@[simp] theorem State.modMem_pending (d : Nat) (f : MemDev → MemDev) : (s.modMem d f).pending = s.pending := rfl

/-! ### modOport -/

@[simp] theorem State.modOport_localTime (p : Nat) (f : OPort → OPort) : (s.modOport p f).localTime = s.localTime := rfl
@[simp] theorem State.modOport_epochOffset (p : Nat) (f : OPort → OPort) : (s.modOport p f).epochOffset = s.epochOffset := rfl
@[simp] theorem State.modOport_fabricValid (p : Nat) (f : OPort → OPort) : (s.modOport p f).fabricValid = s.fabricValid := rfl
@[simp] theorem State.modOport_fabric (p : Nat) (f : OPort → OPort) : (s.modOport p f).fabric = s.fabric := rfl
@[simp] theorem State.modOport_powered (p : Nat) (f : OPort → OPort) : (s.modOport p f).powered = s.powered := rfl
@[simp] theorem State.modOport_resident (p : Nat) (f : OPort → OPort) : (s.modOport p f).resident = s.resident := rfl
@[simp] theorem State.modOport_residentComp (p : Nat) (f : OPort → OPort) : (s.modOport p f).residentComp = s.residentComp := rfl
@[simp] theorem State.modOport_generations (p : Nat) (f : OPort → OPort) : (s.modOport p f).generations = s.generations := rfl
@[simp] theorem State.modOport_contexts (p : Nat) (f : OPort → OPort) : (s.modOport p f).contexts = s.contexts := rfl
@[simp] theorem State.modOport_chip (p : Nat) (f : OPort → OPort) : (s.modOport p f).chip = s.chip := rfl
@[simp] theorem State.modOport_flint (p : Nat) (f : OPort → OPort) : (s.modOport p f).flint = s.flint := rfl
@[simp] theorem State.modOport_hosts (p : Nat) (f : OPort → OPort) : (s.modOport p f).hosts = s.hosts := rfl
@[simp] theorem State.modOport_mgmt (p : Nat) (f : OPort → OPort) : (s.modOport p f).mgmt = s.mgmt := rfl
@[simp] theorem State.modOport_flash (p : Nat) (f : OPort → OPort) : (s.modOport p f).flash = s.flash := rfl
@[simp] theorem State.modOport_cfg (p : Nat) (f : OPort → OPort) : (s.modOport p f).cfg = s.cfg := rfl
@[simp] theorem State.modOport_running (p : Nat) (f : OPort → OPort) : (s.modOport p f).running = s.running := rfl
@[simp] theorem State.modOport_regs (p : Nat) (f : OPort → OPort) : (s.modOport p f).regs = s.regs := rfl
@[simp] theorem State.modOport_devmem (p : Nat) (f : OPort → OPort) : (s.modOport p f).devmem = s.devmem := rfl
@[simp] theorem State.modOport_devFlips (p : Nat) (f : OPort → OPort) : (s.modOport p f).devFlips = s.devFlips := rfl
@[simp] theorem State.modOport_mems (p : Nat) (f : OPort → OPort) : (s.modOport p f).mems = s.mems := rfl
@[simp] theorem State.modOport_ochans (p : Nat) (f : OPort → OPort) : (s.modOport p f).ochans = s.ochans := rfl
@[simp] theorem State.modOport_lasers (p : Nat) (f : OPort → OPort) : (s.modOport p f).lasers = s.lasers := rfl
@[simp] theorem State.modOport_edges (p : Nat) (f : OPort → OPort) : (s.modOport p f).edges = s.edges := rfl
@[simp] theorem State.modOport_gangPairs (p : Nat) (f : OPort → OPort) : (s.modOport p f).gangPairs = s.gangPairs := rfl
@[simp] theorem State.modOport_dies (p : Nat) (f : OPort → OPort) : (s.modOport p f).dies = s.dies := rfl
@[simp] theorem State.modOport_repair (p : Nat) (f : OPort → OPort) : (s.modOport p f).repair = s.repair := rfl
@[simp] theorem State.modOport_pins (p : Nat) (f : OPort → OPort) : (s.modOport p f).pins = s.pins := rfl
@[simp] theorem State.modOport_inputMv (p : Nat) (f : OPort → OPort) : (s.modOport p f).inputMv = s.inputMv := rfl
@[simp] theorem State.modOport_inputW (p : Nat) (f : OPort → OPort) : (s.modOport p f).inputW = s.inputW := rfl
@[simp] theorem State.modOport_sent (p : Nat) (f : OPort → OPort) : (s.modOport p f).sent = s.sent := rfl
@[simp] theorem State.modOport_fresh (p : Nat) (f : OPort → OPort) : (s.modOport p f).fresh = s.fresh := rfl
@[simp] theorem State.modOport_pending (p : Nat) (f : OPort → OPort) : (s.modOport p f).pending = s.pending := rfl

/-! ### modOchan -/

@[simp] theorem State.modOchan_localTime (p n : Nat) (f : OChan → OChan) : (s.modOchan p n f).localTime = s.localTime := rfl
@[simp] theorem State.modOchan_epochOffset (p n : Nat) (f : OChan → OChan) : (s.modOchan p n f).epochOffset = s.epochOffset := rfl
@[simp] theorem State.modOchan_fabricValid (p n : Nat) (f : OChan → OChan) : (s.modOchan p n f).fabricValid = s.fabricValid := rfl
@[simp] theorem State.modOchan_fabric (p n : Nat) (f : OChan → OChan) : (s.modOchan p n f).fabric = s.fabric := rfl
@[simp] theorem State.modOchan_powered (p n : Nat) (f : OChan → OChan) : (s.modOchan p n f).powered = s.powered := rfl
@[simp] theorem State.modOchan_resident (p n : Nat) (f : OChan → OChan) : (s.modOchan p n f).resident = s.resident := rfl
@[simp] theorem State.modOchan_residentComp (p n : Nat) (f : OChan → OChan) : (s.modOchan p n f).residentComp = s.residentComp := rfl
@[simp] theorem State.modOchan_generations (p n : Nat) (f : OChan → OChan) : (s.modOchan p n f).generations = s.generations := rfl
@[simp] theorem State.modOchan_contexts (p n : Nat) (f : OChan → OChan) : (s.modOchan p n f).contexts = s.contexts := rfl
@[simp] theorem State.modOchan_chip (p n : Nat) (f : OChan → OChan) : (s.modOchan p n f).chip = s.chip := rfl
@[simp] theorem State.modOchan_flint (p n : Nat) (f : OChan → OChan) : (s.modOchan p n f).flint = s.flint := rfl
@[simp] theorem State.modOchan_hosts (p n : Nat) (f : OChan → OChan) : (s.modOchan p n f).hosts = s.hosts := rfl
@[simp] theorem State.modOchan_mgmt (p n : Nat) (f : OChan → OChan) : (s.modOchan p n f).mgmt = s.mgmt := rfl
@[simp] theorem State.modOchan_flash (p n : Nat) (f : OChan → OChan) : (s.modOchan p n f).flash = s.flash := rfl
@[simp] theorem State.modOchan_cfg (p n : Nat) (f : OChan → OChan) : (s.modOchan p n f).cfg = s.cfg := rfl
@[simp] theorem State.modOchan_running (p n : Nat) (f : OChan → OChan) : (s.modOchan p n f).running = s.running := rfl
@[simp] theorem State.modOchan_regs (p n : Nat) (f : OChan → OChan) : (s.modOchan p n f).regs = s.regs := rfl
@[simp] theorem State.modOchan_devmem (p n : Nat) (f : OChan → OChan) : (s.modOchan p n f).devmem = s.devmem := rfl
@[simp] theorem State.modOchan_devFlips (p n : Nat) (f : OChan → OChan) : (s.modOchan p n f).devFlips = s.devFlips := rfl
@[simp] theorem State.modOchan_mems (p n : Nat) (f : OChan → OChan) : (s.modOchan p n f).mems = s.mems := rfl
@[simp] theorem State.modOchan_oports (p n : Nat) (f : OChan → OChan) : (s.modOchan p n f).oports = s.oports := rfl
@[simp] theorem State.modOchan_lasers (p n : Nat) (f : OChan → OChan) : (s.modOchan p n f).lasers = s.lasers := rfl
@[simp] theorem State.modOchan_edges (p n : Nat) (f : OChan → OChan) : (s.modOchan p n f).edges = s.edges := rfl
@[simp] theorem State.modOchan_gangPairs (p n : Nat) (f : OChan → OChan) : (s.modOchan p n f).gangPairs = s.gangPairs := rfl
@[simp] theorem State.modOchan_dies (p n : Nat) (f : OChan → OChan) : (s.modOchan p n f).dies = s.dies := rfl
@[simp] theorem State.modOchan_repair (p n : Nat) (f : OChan → OChan) : (s.modOchan p n f).repair = s.repair := rfl
@[simp] theorem State.modOchan_pins (p n : Nat) (f : OChan → OChan) : (s.modOchan p n f).pins = s.pins := rfl
@[simp] theorem State.modOchan_inputMv (p n : Nat) (f : OChan → OChan) : (s.modOchan p n f).inputMv = s.inputMv := rfl
@[simp] theorem State.modOchan_inputW (p n : Nat) (f : OChan → OChan) : (s.modOchan p n f).inputW = s.inputW := rfl
@[simp] theorem State.modOchan_sent (p n : Nat) (f : OChan → OChan) : (s.modOchan p n f).sent = s.sent := rfl
@[simp] theorem State.modOchan_fresh (p n : Nat) (f : OChan → OChan) : (s.modOchan p n f).fresh = s.fresh := rfl
@[simp] theorem State.modOchan_pending (p n : Nat) (f : OChan → OChan) : (s.modOchan p n f).pending = s.pending := rfl

/-! ### modLaser -/

@[simp] theorem State.modLaser_localTime (o n : Nat) (f : Laser → Laser) : (s.modLaser o n f).localTime = s.localTime := rfl
@[simp] theorem State.modLaser_epochOffset (o n : Nat) (f : Laser → Laser) : (s.modLaser o n f).epochOffset = s.epochOffset := rfl
@[simp] theorem State.modLaser_fabricValid (o n : Nat) (f : Laser → Laser) : (s.modLaser o n f).fabricValid = s.fabricValid := rfl
@[simp] theorem State.modLaser_fabric (o n : Nat) (f : Laser → Laser) : (s.modLaser o n f).fabric = s.fabric := rfl
@[simp] theorem State.modLaser_powered (o n : Nat) (f : Laser → Laser) : (s.modLaser o n f).powered = s.powered := rfl
@[simp] theorem State.modLaser_resident (o n : Nat) (f : Laser → Laser) : (s.modLaser o n f).resident = s.resident := rfl
@[simp] theorem State.modLaser_residentComp (o n : Nat) (f : Laser → Laser) : (s.modLaser o n f).residentComp = s.residentComp := rfl
@[simp] theorem State.modLaser_generations (o n : Nat) (f : Laser → Laser) : (s.modLaser o n f).generations = s.generations := rfl
@[simp] theorem State.modLaser_contexts (o n : Nat) (f : Laser → Laser) : (s.modLaser o n f).contexts = s.contexts := rfl
@[simp] theorem State.modLaser_chip (o n : Nat) (f : Laser → Laser) : (s.modLaser o n f).chip = s.chip := rfl
@[simp] theorem State.modLaser_flint (o n : Nat) (f : Laser → Laser) : (s.modLaser o n f).flint = s.flint := rfl
@[simp] theorem State.modLaser_hosts (o n : Nat) (f : Laser → Laser) : (s.modLaser o n f).hosts = s.hosts := rfl
@[simp] theorem State.modLaser_mgmt (o n : Nat) (f : Laser → Laser) : (s.modLaser o n f).mgmt = s.mgmt := rfl
@[simp] theorem State.modLaser_flash (o n : Nat) (f : Laser → Laser) : (s.modLaser o n f).flash = s.flash := rfl
@[simp] theorem State.modLaser_cfg (o n : Nat) (f : Laser → Laser) : (s.modLaser o n f).cfg = s.cfg := rfl
@[simp] theorem State.modLaser_running (o n : Nat) (f : Laser → Laser) : (s.modLaser o n f).running = s.running := rfl
@[simp] theorem State.modLaser_regs (o n : Nat) (f : Laser → Laser) : (s.modLaser o n f).regs = s.regs := rfl
@[simp] theorem State.modLaser_devmem (o n : Nat) (f : Laser → Laser) : (s.modLaser o n f).devmem = s.devmem := rfl
@[simp] theorem State.modLaser_devFlips (o n : Nat) (f : Laser → Laser) : (s.modLaser o n f).devFlips = s.devFlips := rfl
@[simp] theorem State.modLaser_mems (o n : Nat) (f : Laser → Laser) : (s.modLaser o n f).mems = s.mems := rfl
@[simp] theorem State.modLaser_oports (o n : Nat) (f : Laser → Laser) : (s.modLaser o n f).oports = s.oports := rfl
@[simp] theorem State.modLaser_ochans (o n : Nat) (f : Laser → Laser) : (s.modLaser o n f).ochans = s.ochans := rfl
@[simp] theorem State.modLaser_edges (o n : Nat) (f : Laser → Laser) : (s.modLaser o n f).edges = s.edges := rfl
@[simp] theorem State.modLaser_gangPairs (o n : Nat) (f : Laser → Laser) : (s.modLaser o n f).gangPairs = s.gangPairs := rfl
@[simp] theorem State.modLaser_dies (o n : Nat) (f : Laser → Laser) : (s.modLaser o n f).dies = s.dies := rfl
@[simp] theorem State.modLaser_repair (o n : Nat) (f : Laser → Laser) : (s.modLaser o n f).repair = s.repair := rfl
@[simp] theorem State.modLaser_pins (o n : Nat) (f : Laser → Laser) : (s.modLaser o n f).pins = s.pins := rfl
@[simp] theorem State.modLaser_inputMv (o n : Nat) (f : Laser → Laser) : (s.modLaser o n f).inputMv = s.inputMv := rfl
@[simp] theorem State.modLaser_inputW (o n : Nat) (f : Laser → Laser) : (s.modLaser o n f).inputW = s.inputW := rfl
@[simp] theorem State.modLaser_sent (o n : Nat) (f : Laser → Laser) : (s.modLaser o n f).sent = s.sent := rfl
@[simp] theorem State.modLaser_fresh (o n : Nat) (f : Laser → Laser) : (s.modLaser o n f).fresh = s.fresh := rfl
@[simp] theorem State.modLaser_pending (o n : Nat) (f : Laser → Laser) : (s.modLaser o n f).pending = s.pending := rfl

/-! ### modEdge -/

@[simp] theorem State.modEdge_localTime (d e : Nat) (f : Edge → Edge) : (s.modEdge d e f).localTime = s.localTime := rfl
@[simp] theorem State.modEdge_epochOffset (d e : Nat) (f : Edge → Edge) : (s.modEdge d e f).epochOffset = s.epochOffset := rfl
@[simp] theorem State.modEdge_fabricValid (d e : Nat) (f : Edge → Edge) : (s.modEdge d e f).fabricValid = s.fabricValid := rfl
@[simp] theorem State.modEdge_fabric (d e : Nat) (f : Edge → Edge) : (s.modEdge d e f).fabric = s.fabric := rfl
@[simp] theorem State.modEdge_powered (d e : Nat) (f : Edge → Edge) : (s.modEdge d e f).powered = s.powered := rfl
@[simp] theorem State.modEdge_resident (d e : Nat) (f : Edge → Edge) : (s.modEdge d e f).resident = s.resident := rfl
@[simp] theorem State.modEdge_residentComp (d e : Nat) (f : Edge → Edge) : (s.modEdge d e f).residentComp = s.residentComp := rfl
@[simp] theorem State.modEdge_generations (d e : Nat) (f : Edge → Edge) : (s.modEdge d e f).generations = s.generations := rfl
@[simp] theorem State.modEdge_contexts (d e : Nat) (f : Edge → Edge) : (s.modEdge d e f).contexts = s.contexts := rfl
@[simp] theorem State.modEdge_chip (d e : Nat) (f : Edge → Edge) : (s.modEdge d e f).chip = s.chip := rfl
@[simp] theorem State.modEdge_flint (d e : Nat) (f : Edge → Edge) : (s.modEdge d e f).flint = s.flint := rfl
@[simp] theorem State.modEdge_hosts (d e : Nat) (f : Edge → Edge) : (s.modEdge d e f).hosts = s.hosts := rfl
@[simp] theorem State.modEdge_mgmt (d e : Nat) (f : Edge → Edge) : (s.modEdge d e f).mgmt = s.mgmt := rfl
@[simp] theorem State.modEdge_flash (d e : Nat) (f : Edge → Edge) : (s.modEdge d e f).flash = s.flash := rfl
@[simp] theorem State.modEdge_cfg (d e : Nat) (f : Edge → Edge) : (s.modEdge d e f).cfg = s.cfg := rfl
@[simp] theorem State.modEdge_running (d e : Nat) (f : Edge → Edge) : (s.modEdge d e f).running = s.running := rfl
@[simp] theorem State.modEdge_regs (d e : Nat) (f : Edge → Edge) : (s.modEdge d e f).regs = s.regs := rfl
@[simp] theorem State.modEdge_devmem (d e : Nat) (f : Edge → Edge) : (s.modEdge d e f).devmem = s.devmem := rfl
@[simp] theorem State.modEdge_devFlips (d e : Nat) (f : Edge → Edge) : (s.modEdge d e f).devFlips = s.devFlips := rfl
@[simp] theorem State.modEdge_mems (d e : Nat) (f : Edge → Edge) : (s.modEdge d e f).mems = s.mems := rfl
@[simp] theorem State.modEdge_oports (d e : Nat) (f : Edge → Edge) : (s.modEdge d e f).oports = s.oports := rfl
@[simp] theorem State.modEdge_ochans (d e : Nat) (f : Edge → Edge) : (s.modEdge d e f).ochans = s.ochans := rfl
@[simp] theorem State.modEdge_lasers (d e : Nat) (f : Edge → Edge) : (s.modEdge d e f).lasers = s.lasers := rfl
@[simp] theorem State.modEdge_gangPairs (d e : Nat) (f : Edge → Edge) : (s.modEdge d e f).gangPairs = s.gangPairs := rfl
@[simp] theorem State.modEdge_dies (d e : Nat) (f : Edge → Edge) : (s.modEdge d e f).dies = s.dies := rfl
@[simp] theorem State.modEdge_repair (d e : Nat) (f : Edge → Edge) : (s.modEdge d e f).repair = s.repair := rfl
@[simp] theorem State.modEdge_pins (d e : Nat) (f : Edge → Edge) : (s.modEdge d e f).pins = s.pins := rfl
@[simp] theorem State.modEdge_inputMv (d e : Nat) (f : Edge → Edge) : (s.modEdge d e f).inputMv = s.inputMv := rfl
@[simp] theorem State.modEdge_inputW (d e : Nat) (f : Edge → Edge) : (s.modEdge d e f).inputW = s.inputW := rfl
@[simp] theorem State.modEdge_sent (d e : Nat) (f : Edge → Edge) : (s.modEdge d e f).sent = s.sent := rfl
@[simp] theorem State.modEdge_fresh (d e : Nat) (f : Edge → Edge) : (s.modEdge d e f).fresh = s.fresh := rfl
@[simp] theorem State.modEdge_pending (d e : Nat) (f : Edge → Edge) : (s.modEdge d e f).pending = s.pending := rfl

/-! ### modDie -/

@[simp] theorem State.modDie_localTime (d : Nat) (f : Die → Die) : (s.modDie d f).localTime = s.localTime := rfl
@[simp] theorem State.modDie_epochOffset (d : Nat) (f : Die → Die) : (s.modDie d f).epochOffset = s.epochOffset := rfl
@[simp] theorem State.modDie_fabricValid (d : Nat) (f : Die → Die) : (s.modDie d f).fabricValid = s.fabricValid := rfl
@[simp] theorem State.modDie_fabric (d : Nat) (f : Die → Die) : (s.modDie d f).fabric = s.fabric := rfl
@[simp] theorem State.modDie_powered (d : Nat) (f : Die → Die) : (s.modDie d f).powered = s.powered := rfl
@[simp] theorem State.modDie_resident (d : Nat) (f : Die → Die) : (s.modDie d f).resident = s.resident := rfl
@[simp] theorem State.modDie_residentComp (d : Nat) (f : Die → Die) : (s.modDie d f).residentComp = s.residentComp := rfl
@[simp] theorem State.modDie_generations (d : Nat) (f : Die → Die) : (s.modDie d f).generations = s.generations := rfl
@[simp] theorem State.modDie_contexts (d : Nat) (f : Die → Die) : (s.modDie d f).contexts = s.contexts := rfl
@[simp] theorem State.modDie_chip (d : Nat) (f : Die → Die) : (s.modDie d f).chip = s.chip := rfl
@[simp] theorem State.modDie_flint (d : Nat) (f : Die → Die) : (s.modDie d f).flint = s.flint := rfl
@[simp] theorem State.modDie_hosts (d : Nat) (f : Die → Die) : (s.modDie d f).hosts = s.hosts := rfl
@[simp] theorem State.modDie_mgmt (d : Nat) (f : Die → Die) : (s.modDie d f).mgmt = s.mgmt := rfl
@[simp] theorem State.modDie_flash (d : Nat) (f : Die → Die) : (s.modDie d f).flash = s.flash := rfl
@[simp] theorem State.modDie_cfg (d : Nat) (f : Die → Die) : (s.modDie d f).cfg = s.cfg := rfl
@[simp] theorem State.modDie_running (d : Nat) (f : Die → Die) : (s.modDie d f).running = s.running := rfl
@[simp] theorem State.modDie_regs (d : Nat) (f : Die → Die) : (s.modDie d f).regs = s.regs := rfl
@[simp] theorem State.modDie_devmem (d : Nat) (f : Die → Die) : (s.modDie d f).devmem = s.devmem := rfl
@[simp] theorem State.modDie_devFlips (d : Nat) (f : Die → Die) : (s.modDie d f).devFlips = s.devFlips := rfl
@[simp] theorem State.modDie_mems (d : Nat) (f : Die → Die) : (s.modDie d f).mems = s.mems := rfl
@[simp] theorem State.modDie_oports (d : Nat) (f : Die → Die) : (s.modDie d f).oports = s.oports := rfl
@[simp] theorem State.modDie_ochans (d : Nat) (f : Die → Die) : (s.modDie d f).ochans = s.ochans := rfl
@[simp] theorem State.modDie_lasers (d : Nat) (f : Die → Die) : (s.modDie d f).lasers = s.lasers := rfl
@[simp] theorem State.modDie_edges (d : Nat) (f : Die → Die) : (s.modDie d f).edges = s.edges := rfl
@[simp] theorem State.modDie_gangPairs (d : Nat) (f : Die → Die) : (s.modDie d f).gangPairs = s.gangPairs := rfl
@[simp] theorem State.modDie_repair (d : Nat) (f : Die → Die) : (s.modDie d f).repair = s.repair := rfl
@[simp] theorem State.modDie_pins (d : Nat) (f : Die → Die) : (s.modDie d f).pins = s.pins := rfl
@[simp] theorem State.modDie_inputMv (d : Nat) (f : Die → Die) : (s.modDie d f).inputMv = s.inputMv := rfl
@[simp] theorem State.modDie_inputW (d : Nat) (f : Die → Die) : (s.modDie d f).inputW = s.inputW := rfl
@[simp] theorem State.modDie_sent (d : Nat) (f : Die → Die) : (s.modDie d f).sent = s.sent := rfl
@[simp] theorem State.modDie_fresh (d : Nat) (f : Die → Die) : (s.modDie d f).fresh = s.fresh := rfl
@[simp] theorem State.modDie_pending (d : Nat) (f : Die → Die) : (s.modDie d f).pending = s.pending := rfl

/-! ### modRepair -/

@[simp] theorem State.modRepair_localTime (f : Repair → Repair) : (s.modRepair f).localTime = s.localTime := rfl
@[simp] theorem State.modRepair_epochOffset (f : Repair → Repair) : (s.modRepair f).epochOffset = s.epochOffset := rfl
@[simp] theorem State.modRepair_fabricValid (f : Repair → Repair) : (s.modRepair f).fabricValid = s.fabricValid := rfl
@[simp] theorem State.modRepair_fabric (f : Repair → Repair) : (s.modRepair f).fabric = s.fabric := rfl
@[simp] theorem State.modRepair_powered (f : Repair → Repair) : (s.modRepair f).powered = s.powered := rfl
@[simp] theorem State.modRepair_resident (f : Repair → Repair) : (s.modRepair f).resident = s.resident := rfl
@[simp] theorem State.modRepair_residentComp (f : Repair → Repair) : (s.modRepair f).residentComp = s.residentComp := rfl
@[simp] theorem State.modRepair_generations (f : Repair → Repair) : (s.modRepair f).generations = s.generations := rfl
@[simp] theorem State.modRepair_contexts (f : Repair → Repair) : (s.modRepair f).contexts = s.contexts := rfl
@[simp] theorem State.modRepair_chip (f : Repair → Repair) : (s.modRepair f).chip = s.chip := rfl
@[simp] theorem State.modRepair_flint (f : Repair → Repair) : (s.modRepair f).flint = s.flint := rfl
@[simp] theorem State.modRepair_hosts (f : Repair → Repair) : (s.modRepair f).hosts = s.hosts := rfl
@[simp] theorem State.modRepair_mgmt (f : Repair → Repair) : (s.modRepair f).mgmt = s.mgmt := rfl
@[simp] theorem State.modRepair_flash (f : Repair → Repair) : (s.modRepair f).flash = s.flash := rfl
@[simp] theorem State.modRepair_cfg (f : Repair → Repair) : (s.modRepair f).cfg = s.cfg := rfl
@[simp] theorem State.modRepair_running (f : Repair → Repair) : (s.modRepair f).running = s.running := rfl
@[simp] theorem State.modRepair_regs (f : Repair → Repair) : (s.modRepair f).regs = s.regs := rfl
@[simp] theorem State.modRepair_devmem (f : Repair → Repair) : (s.modRepair f).devmem = s.devmem := rfl
@[simp] theorem State.modRepair_devFlips (f : Repair → Repair) : (s.modRepair f).devFlips = s.devFlips := rfl
@[simp] theorem State.modRepair_mems (f : Repair → Repair) : (s.modRepair f).mems = s.mems := rfl
@[simp] theorem State.modRepair_oports (f : Repair → Repair) : (s.modRepair f).oports = s.oports := rfl
@[simp] theorem State.modRepair_ochans (f : Repair → Repair) : (s.modRepair f).ochans = s.ochans := rfl
@[simp] theorem State.modRepair_lasers (f : Repair → Repair) : (s.modRepair f).lasers = s.lasers := rfl
@[simp] theorem State.modRepair_edges (f : Repair → Repair) : (s.modRepair f).edges = s.edges := rfl
@[simp] theorem State.modRepair_gangPairs (f : Repair → Repair) : (s.modRepair f).gangPairs = s.gangPairs := rfl
@[simp] theorem State.modRepair_dies (f : Repair → Repair) : (s.modRepair f).dies = s.dies := rfl
@[simp] theorem State.modRepair_repair (f : Repair → Repair) : (s.modRepair f).repair = f s.repair := rfl
@[simp] theorem State.modRepair_pins (f : Repair → Repair) : (s.modRepair f).pins = s.pins := rfl
@[simp] theorem State.modRepair_inputMv (f : Repair → Repair) : (s.modRepair f).inputMv = s.inputMv := rfl
@[simp] theorem State.modRepair_inputW (f : Repair → Repair) : (s.modRepair f).inputW = s.inputW := rfl
@[simp] theorem State.modRepair_sent (f : Repair → Repair) : (s.modRepair f).sent = s.sent := rfl
@[simp] theorem State.modRepair_fresh (f : Repair → Repair) : (s.modRepair f).fresh = s.fresh := rfl
@[simp] theorem State.modRepair_pending (f : Repair → Repair) : (s.modRepair f).pending = s.pending := rfl

/-! ### emit -/

@[simp] theorem State.emit_localTime (o : Out) : (s.emit o).localTime = s.localTime := rfl
@[simp] theorem State.emit_epochOffset (o : Out) : (s.emit o).epochOffset = s.epochOffset := rfl
@[simp] theorem State.emit_fabricValid (o : Out) : (s.emit o).fabricValid = s.fabricValid := rfl
@[simp] theorem State.emit_fabric (o : Out) : (s.emit o).fabric = s.fabric := rfl
@[simp] theorem State.emit_powered (o : Out) : (s.emit o).powered = s.powered := rfl
@[simp] theorem State.emit_resident (o : Out) : (s.emit o).resident = s.resident := rfl
@[simp] theorem State.emit_residentComp (o : Out) : (s.emit o).residentComp = s.residentComp := rfl
@[simp] theorem State.emit_generations (o : Out) : (s.emit o).generations = s.generations := rfl
@[simp] theorem State.emit_contexts (o : Out) : (s.emit o).contexts = s.contexts := rfl
@[simp] theorem State.emit_chip (o : Out) : (s.emit o).chip = s.chip := rfl
@[simp] theorem State.emit_flint (o : Out) : (s.emit o).flint = s.flint := rfl
@[simp] theorem State.emit_hosts (o : Out) : (s.emit o).hosts = s.hosts := rfl
@[simp] theorem State.emit_mgmt (o : Out) : (s.emit o).mgmt = s.mgmt := rfl
@[simp] theorem State.emit_flash (o : Out) : (s.emit o).flash = s.flash := rfl
@[simp] theorem State.emit_cfg (o : Out) : (s.emit o).cfg = s.cfg := rfl
@[simp] theorem State.emit_running (o : Out) : (s.emit o).running = s.running := rfl
@[simp] theorem State.emit_regs (o : Out) : (s.emit o).regs = s.regs := rfl
@[simp] theorem State.emit_devmem (o : Out) : (s.emit o).devmem = s.devmem := rfl
@[simp] theorem State.emit_devFlips (o : Out) : (s.emit o).devFlips = s.devFlips := rfl
@[simp] theorem State.emit_mems (o : Out) : (s.emit o).mems = s.mems := rfl
@[simp] theorem State.emit_oports (o : Out) : (s.emit o).oports = s.oports := rfl
@[simp] theorem State.emit_ochans (o : Out) : (s.emit o).ochans = s.ochans := rfl
@[simp] theorem State.emit_lasers (o : Out) : (s.emit o).lasers = s.lasers := rfl
@[simp] theorem State.emit_edges (o : Out) : (s.emit o).edges = s.edges := rfl
@[simp] theorem State.emit_gangPairs (o : Out) : (s.emit o).gangPairs = s.gangPairs := rfl
@[simp] theorem State.emit_dies (o : Out) : (s.emit o).dies = s.dies := rfl
@[simp] theorem State.emit_repair (o : Out) : (s.emit o).repair = s.repair := rfl
@[simp] theorem State.emit_pins (o : Out) : (s.emit o).pins = s.pins := rfl
@[simp] theorem State.emit_inputMv (o : Out) : (s.emit o).inputMv = s.inputMv := rfl
@[simp] theorem State.emit_inputW (o : Out) : (s.emit o).inputW = s.inputW := rfl
@[simp] theorem State.emit_sent (o : Out) : (s.emit o).sent = s.sent ++ [o] := rfl
@[simp] theorem State.emit_fresh (o : Out) : (s.emit o).fresh = s.fresh := rfl
@[simp] theorem State.emit_pending (o : Out) : (s.emit o).pending = s.pending := rfl

/-! ### dequeue -/

@[simp] theorem State.dequeue_localTime : (s.dequeue).localTime = s.localTime := rfl
@[simp] theorem State.dequeue_epochOffset : (s.dequeue).epochOffset = s.epochOffset := rfl
@[simp] theorem State.dequeue_fabricValid : (s.dequeue).fabricValid = s.fabricValid := rfl
@[simp] theorem State.dequeue_fabric : (s.dequeue).fabric = s.fabric := rfl
@[simp] theorem State.dequeue_powered : (s.dequeue).powered = s.powered := rfl
@[simp] theorem State.dequeue_resident : (s.dequeue).resident = s.resident := rfl
@[simp] theorem State.dequeue_residentComp : (s.dequeue).residentComp = s.residentComp := rfl
@[simp] theorem State.dequeue_generations : (s.dequeue).generations = s.generations := rfl
@[simp] theorem State.dequeue_contexts : (s.dequeue).contexts = s.contexts := rfl
@[simp] theorem State.dequeue_chip : (s.dequeue).chip = s.chip := rfl
@[simp] theorem State.dequeue_flint : (s.dequeue).flint = { s.flint with queue := s.flint.queue.drop 1 } := rfl
@[simp] theorem State.dequeue_hosts : (s.dequeue).hosts = s.hosts := rfl
@[simp] theorem State.dequeue_mgmt : (s.dequeue).mgmt = s.mgmt := rfl
@[simp] theorem State.dequeue_flash : (s.dequeue).flash = s.flash := rfl
@[simp] theorem State.dequeue_cfg : (s.dequeue).cfg = s.cfg := rfl
@[simp] theorem State.dequeue_running : (s.dequeue).running = s.running := rfl
@[simp] theorem State.dequeue_regs : (s.dequeue).regs = s.regs := rfl
@[simp] theorem State.dequeue_devmem : (s.dequeue).devmem = s.devmem := rfl
@[simp] theorem State.dequeue_devFlips : (s.dequeue).devFlips = s.devFlips := rfl
@[simp] theorem State.dequeue_mems : (s.dequeue).mems = s.mems := rfl
@[simp] theorem State.dequeue_oports : (s.dequeue).oports = s.oports := rfl
@[simp] theorem State.dequeue_ochans : (s.dequeue).ochans = s.ochans := rfl
@[simp] theorem State.dequeue_lasers : (s.dequeue).lasers = s.lasers := rfl
@[simp] theorem State.dequeue_edges : (s.dequeue).edges = s.edges := rfl
@[simp] theorem State.dequeue_gangPairs : (s.dequeue).gangPairs = s.gangPairs := rfl
@[simp] theorem State.dequeue_dies : (s.dequeue).dies = s.dies := rfl
@[simp] theorem State.dequeue_repair : (s.dequeue).repair = s.repair := rfl
@[simp] theorem State.dequeue_pins : (s.dequeue).pins = s.pins := rfl
@[simp] theorem State.dequeue_inputMv : (s.dequeue).inputMv = s.inputMv := rfl
@[simp] theorem State.dequeue_inputW : (s.dequeue).inputW = s.inputW := rfl
@[simp] theorem State.dequeue_sent : (s.dequeue).sent = s.sent := rfl
@[simp] theorem State.dequeue_fresh : (s.dequeue).fresh = s.fresh := rfl
@[simp] theorem State.dequeue_pending : (s.dequeue).pending = s.pending := rfl

/-! ### report -/

@[simp] theorem State.report_localTime (k u b c : Nat) : (s.report k u b c).localTime = s.localTime := rfl
@[simp] theorem State.report_epochOffset (k u b c : Nat) : (s.report k u b c).epochOffset = s.epochOffset := rfl
@[simp] theorem State.report_fabricValid (k u b c : Nat) : (s.report k u b c).fabricValid = s.fabricValid := rfl
@[simp] theorem State.report_fabric (k u b c : Nat) : (s.report k u b c).fabric = s.fabric := rfl
@[simp] theorem State.report_powered (k u b c : Nat) : (s.report k u b c).powered = s.powered := rfl
@[simp] theorem State.report_resident (k u b c : Nat) : (s.report k u b c).resident = s.resident := rfl
@[simp] theorem State.report_residentComp (k u b c : Nat) : (s.report k u b c).residentComp = s.residentComp := rfl
@[simp] theorem State.report_generations (k u b c : Nat) : (s.report k u b c).generations = s.generations := rfl
@[simp] theorem State.report_contexts (k u b c : Nat) : (s.report k u b c).contexts = s.contexts := rfl
@[simp] theorem State.report_chip (k u b c : Nat) : (s.report k u b c).chip = s.chip := rfl
@[simp] theorem State.report_flint (k u b c : Nat) : (s.report k u b c).flint = { s.flint with reports := s.flint.reports ++ [{ kind := k, unit := u, sub := b, code := c }] } := rfl
@[simp] theorem State.report_hosts (k u b c : Nat) : (s.report k u b c).hosts = s.hosts := rfl
@[simp] theorem State.report_mgmt (k u b c : Nat) : (s.report k u b c).mgmt = s.mgmt := rfl
@[simp] theorem State.report_flash (k u b c : Nat) : (s.report k u b c).flash = s.flash := rfl
@[simp] theorem State.report_cfg (k u b c : Nat) : (s.report k u b c).cfg = s.cfg := rfl
@[simp] theorem State.report_running (k u b c : Nat) : (s.report k u b c).running = s.running := rfl
@[simp] theorem State.report_regs (k u b c : Nat) : (s.report k u b c).regs = s.regs := rfl
@[simp] theorem State.report_devmem (k u b c : Nat) : (s.report k u b c).devmem = s.devmem := rfl
@[simp] theorem State.report_devFlips (k u b c : Nat) : (s.report k u b c).devFlips = s.devFlips := rfl
@[simp] theorem State.report_mems (k u b c : Nat) : (s.report k u b c).mems = s.mems := rfl
@[simp] theorem State.report_oports (k u b c : Nat) : (s.report k u b c).oports = s.oports := rfl
@[simp] theorem State.report_ochans (k u b c : Nat) : (s.report k u b c).ochans = s.ochans := rfl
@[simp] theorem State.report_lasers (k u b c : Nat) : (s.report k u b c).lasers = s.lasers := rfl
@[simp] theorem State.report_edges (k u b c : Nat) : (s.report k u b c).edges = s.edges := rfl
@[simp] theorem State.report_gangPairs (k u b c : Nat) : (s.report k u b c).gangPairs = s.gangPairs := rfl
@[simp] theorem State.report_dies (k u b c : Nat) : (s.report k u b c).dies = s.dies := rfl
@[simp] theorem State.report_repair (k u b c : Nat) : (s.report k u b c).repair = s.repair := rfl
@[simp] theorem State.report_pins (k u b c : Nat) : (s.report k u b c).pins = s.pins := rfl
@[simp] theorem State.report_inputMv (k u b c : Nat) : (s.report k u b c).inputMv = s.inputMv := rfl
@[simp] theorem State.report_inputW (k u b c : Nat) : (s.report k u b c).inputW = s.inputW := rfl
@[simp] theorem State.report_sent (k u b c : Nat) : (s.report k u b c).sent = s.sent := rfl
@[simp] theorem State.report_fresh (k u b c : Nat) : (s.report k u b c).fresh = s.fresh := rfl
@[simp] theorem State.report_pending (k u b c : Nat) : (s.report k u b c).pending = s.pending := rfl

/-! ### putLogHeader -/

@[simp] theorem State.putLogHeader_localTime (h : BitVec 128) : (s.putLogHeader h).localTime = s.localTime := rfl
@[simp] theorem State.putLogHeader_epochOffset (h : BitVec 128) : (s.putLogHeader h).epochOffset = s.epochOffset := rfl
@[simp] theorem State.putLogHeader_fabricValid (h : BitVec 128) : (s.putLogHeader h).fabricValid = s.fabricValid := rfl
@[simp] theorem State.putLogHeader_fabric (h : BitVec 128) : (s.putLogHeader h).fabric = s.fabric := rfl
@[simp] theorem State.putLogHeader_powered (h : BitVec 128) : (s.putLogHeader h).powered = s.powered := rfl
@[simp] theorem State.putLogHeader_resident (h : BitVec 128) : (s.putLogHeader h).resident = s.resident := rfl
@[simp] theorem State.putLogHeader_residentComp (h : BitVec 128) : (s.putLogHeader h).residentComp = s.residentComp := rfl
@[simp] theorem State.putLogHeader_generations (h : BitVec 128) : (s.putLogHeader h).generations = s.generations := rfl
@[simp] theorem State.putLogHeader_contexts (h : BitVec 128) : (s.putLogHeader h).contexts = s.contexts := rfl
@[simp] theorem State.putLogHeader_chip (h : BitVec 128) : (s.putLogHeader h).chip = s.chip := rfl
@[simp] theorem State.putLogHeader_flint (h : BitVec 128) : (s.putLogHeader h).flint = { s.flint with logHeader := h, logHeaderComp := ~~~h } := rfl
@[simp] theorem State.putLogHeader_hosts (h : BitVec 128) : (s.putLogHeader h).hosts = s.hosts := rfl
@[simp] theorem State.putLogHeader_mgmt (h : BitVec 128) : (s.putLogHeader h).mgmt = s.mgmt := rfl
@[simp] theorem State.putLogHeader_flash (h : BitVec 128) : (s.putLogHeader h).flash = s.flash := rfl
@[simp] theorem State.putLogHeader_cfg (h : BitVec 128) : (s.putLogHeader h).cfg = s.cfg := rfl
@[simp] theorem State.putLogHeader_running (h : BitVec 128) : (s.putLogHeader h).running = s.running := rfl
@[simp] theorem State.putLogHeader_regs (h : BitVec 128) : (s.putLogHeader h).regs = s.regs := rfl
@[simp] theorem State.putLogHeader_devmem (h : BitVec 128) : (s.putLogHeader h).devmem = s.devmem := rfl
@[simp] theorem State.putLogHeader_devFlips (h : BitVec 128) : (s.putLogHeader h).devFlips = s.devFlips := rfl
@[simp] theorem State.putLogHeader_mems (h : BitVec 128) : (s.putLogHeader h).mems = s.mems := rfl
@[simp] theorem State.putLogHeader_oports (h : BitVec 128) : (s.putLogHeader h).oports = s.oports := rfl
@[simp] theorem State.putLogHeader_ochans (h : BitVec 128) : (s.putLogHeader h).ochans = s.ochans := rfl
@[simp] theorem State.putLogHeader_lasers (h : BitVec 128) : (s.putLogHeader h).lasers = s.lasers := rfl
@[simp] theorem State.putLogHeader_edges (h : BitVec 128) : (s.putLogHeader h).edges = s.edges := rfl
@[simp] theorem State.putLogHeader_gangPairs (h : BitVec 128) : (s.putLogHeader h).gangPairs = s.gangPairs := rfl
@[simp] theorem State.putLogHeader_dies (h : BitVec 128) : (s.putLogHeader h).dies = s.dies := rfl
@[simp] theorem State.putLogHeader_repair (h : BitVec 128) : (s.putLogHeader h).repair = s.repair := rfl
@[simp] theorem State.putLogHeader_pins (h : BitVec 128) : (s.putLogHeader h).pins = s.pins := rfl
@[simp] theorem State.putLogHeader_inputMv (h : BitVec 128) : (s.putLogHeader h).inputMv = s.inputMv := rfl
@[simp] theorem State.putLogHeader_inputW (h : BitVec 128) : (s.putLogHeader h).inputW = s.inputW := rfl
@[simp] theorem State.putLogHeader_sent (h : BitVec 128) : (s.putLogHeader h).sent = s.sent := rfl
@[simp] theorem State.putLogHeader_fresh (h : BitVec 128) : (s.putLogHeader h).fresh = s.fresh := rfl
@[simp] theorem State.putLogHeader_pending (h : BitVec 128) : (s.putLogHeader h).pending = s.pending := rfl

/-! ### tick -/

@[simp] theorem State.tick_epochOffset : (s.tick).epochOffset = s.epochOffset :=
  @State.tick_keeps (fun t => t.epochOffset = s.epochOffset) ⟨fun _ _ h => h⟩ s rfl
@[simp] theorem State.tick_fabricValid : (s.tick).fabricValid = s.fabricValid :=
  @State.tick_keeps (fun t => t.fabricValid = s.fabricValid) ⟨fun _ _ h => h⟩ s rfl
@[simp] theorem State.tick_fabric : (s.tick).fabric = s.fabric :=
  @State.tick_keeps (fun t => t.fabric = s.fabric) ⟨fun _ _ h => h⟩ s rfl
@[simp] theorem State.tick_powered : (s.tick).powered = s.powered :=
  @State.tick_keeps (fun t => t.powered = s.powered) ⟨fun _ _ h => h⟩ s rfl
@[simp] theorem State.tick_resident : (s.tick).resident = s.resident :=
  @State.tick_keeps (fun t => t.resident = s.resident) ⟨fun _ _ h => h⟩ s rfl
@[simp] theorem State.tick_residentComp : (s.tick).residentComp = s.residentComp :=
  @State.tick_keeps (fun t => t.residentComp = s.residentComp) ⟨fun _ _ h => h⟩ s rfl
@[simp] theorem State.tick_generations : (s.tick).generations = s.generations :=
  @State.tick_keeps (fun t => t.generations = s.generations) ⟨fun _ _ h => h⟩ s rfl
@[simp] theorem State.tick_contexts : (s.tick).contexts = s.contexts :=
  @State.tick_keeps (fun t => t.contexts = s.contexts) ⟨fun _ _ h => h⟩ s rfl
@[simp] theorem State.tick_chip : (s.tick).chip = s.chip :=
  @State.tick_keeps (fun t => t.chip = s.chip) ⟨fun _ _ h => h⟩ s rfl
@[simp] theorem State.tick_flint : (s.tick).flint = s.flint :=
  @State.tick_keeps (fun t => t.flint = s.flint) ⟨fun _ _ h => h⟩ s rfl
@[simp] theorem State.tick_hosts : (s.tick).hosts = s.hosts :=
  @State.tick_keeps (fun t => t.hosts = s.hosts) ⟨fun _ _ h => h⟩ s rfl
@[simp] theorem State.tick_mgmt : (s.tick).mgmt = s.mgmt :=
  @State.tick_keeps (fun t => t.mgmt = s.mgmt) ⟨fun _ _ h => h⟩ s rfl
@[simp] theorem State.tick_flash : (s.tick).flash = s.flash :=
  @State.tick_keeps (fun t => t.flash = s.flash) ⟨fun _ _ h => h⟩ s rfl
@[simp] theorem State.tick_cfg : (s.tick).cfg = s.cfg :=
  @State.tick_keeps (fun t => t.cfg = s.cfg) ⟨fun _ _ h => h⟩ s rfl
@[simp] theorem State.tick_running : (s.tick).running = s.running :=
  @State.tick_keeps (fun t => t.running = s.running) ⟨fun _ _ h => h⟩ s rfl
@[simp] theorem State.tick_regs : (s.tick).regs = s.regs :=
  @State.tick_keeps (fun t => t.regs = s.regs) ⟨fun _ _ h => h⟩ s rfl
@[simp] theorem State.tick_devmem : (s.tick).devmem = s.devmem :=
  @State.tick_keeps (fun t => t.devmem = s.devmem) ⟨fun _ _ h => h⟩ s rfl
@[simp] theorem State.tick_devFlips : (s.tick).devFlips = s.devFlips :=
  @State.tick_keeps (fun t => t.devFlips = s.devFlips) ⟨fun _ _ h => h⟩ s rfl
@[simp] theorem State.tick_mems : (s.tick).mems = s.mems :=
  @State.tick_keeps (fun t => t.mems = s.mems) ⟨fun _ _ h => h⟩ s rfl
@[simp] theorem State.tick_oports : (s.tick).oports = s.oports :=
  @State.tick_keeps (fun t => t.oports = s.oports) ⟨fun _ _ h => h⟩ s rfl
@[simp] theorem State.tick_ochans : (s.tick).ochans = s.ochans :=
  @State.tick_keeps (fun t => t.ochans = s.ochans) ⟨fun _ _ h => h⟩ s rfl
@[simp] theorem State.tick_lasers : (s.tick).lasers = s.lasers :=
  @State.tick_keeps (fun t => t.lasers = s.lasers) ⟨fun _ _ h => h⟩ s rfl
@[simp] theorem State.tick_edges : (s.tick).edges = s.edges :=
  @State.tick_keeps (fun t => t.edges = s.edges) ⟨fun _ _ h => h⟩ s rfl
@[simp] theorem State.tick_gangPairs : (s.tick).gangPairs = s.gangPairs :=
  @State.tick_keeps (fun t => t.gangPairs = s.gangPairs) ⟨fun _ _ h => h⟩ s rfl
@[simp] theorem State.tick_dies : (s.tick).dies = s.dies :=
  @State.tick_keeps (fun t => t.dies = s.dies) ⟨fun _ _ h => h⟩ s rfl
@[simp] theorem State.tick_repair : (s.tick).repair = s.repair :=
  @State.tick_keeps (fun t => t.repair = s.repair) ⟨fun _ _ h => h⟩ s rfl
@[simp] theorem State.tick_pins : (s.tick).pins = s.pins :=
  @State.tick_keeps (fun t => t.pins = s.pins) ⟨fun _ _ h => h⟩ s rfl
@[simp] theorem State.tick_inputMv : (s.tick).inputMv = s.inputMv :=
  @State.tick_keeps (fun t => t.inputMv = s.inputMv) ⟨fun _ _ h => h⟩ s rfl
@[simp] theorem State.tick_inputW : (s.tick).inputW = s.inputW :=
  @State.tick_keeps (fun t => t.inputW = s.inputW) ⟨fun _ _ h => h⟩ s rfl
@[simp] theorem State.tick_sent : (s.tick).sent = s.sent :=
  @State.tick_keeps (fun t => t.sent = s.sent) ⟨fun _ _ h => h⟩ s rfl
@[simp] theorem State.tick_fresh : (s.tick).fresh = s.fresh :=
  @State.tick_keeps (fun t => t.fresh = s.fresh) ⟨fun _ _ h => h⟩ s rfl
@[simp] theorem State.tick_pending : (s.tick).pending = s.pending :=
  @State.tick_keeps (fun t => t.pending = s.pending) ⟨fun _ _ h => h⟩ s rfl

/-! ### putEvent -/

@[simp] theorem State.putEvent_localTime (a : Nat) (b : Nat) (c : Nat) (d : Nat) (e : Nat) (f : Rec) : (s.putEvent a b c d e f).localTime = s.localTime :=
  @State.putEvent_keeps (fun t => t.localTime = s.localTime) ⟨fun _ _ h => h⟩ s a b c d e f rfl
@[simp] theorem State.putEvent_epochOffset (a : Nat) (b : Nat) (c : Nat) (d : Nat) (e : Nat) (f : Rec) : (s.putEvent a b c d e f).epochOffset = s.epochOffset :=
  @State.putEvent_keeps (fun t => t.epochOffset = s.epochOffset) ⟨fun _ _ h => h⟩ s a b c d e f rfl
@[simp] theorem State.putEvent_fabricValid (a : Nat) (b : Nat) (c : Nat) (d : Nat) (e : Nat) (f : Rec) : (s.putEvent a b c d e f).fabricValid = s.fabricValid :=
  @State.putEvent_keeps (fun t => t.fabricValid = s.fabricValid) ⟨fun _ _ h => h⟩ s a b c d e f rfl
@[simp] theorem State.putEvent_fabric (a : Nat) (b : Nat) (c : Nat) (d : Nat) (e : Nat) (f : Rec) : (s.putEvent a b c d e f).fabric = s.fabric :=
  @State.putEvent_keeps (fun t => t.fabric = s.fabric) ⟨fun _ _ h => h⟩ s a b c d e f rfl
@[simp] theorem State.putEvent_powered (a : Nat) (b : Nat) (c : Nat) (d : Nat) (e : Nat) (f : Rec) : (s.putEvent a b c d e f).powered = s.powered :=
  @State.putEvent_keeps (fun t => t.powered = s.powered) ⟨fun _ _ h => h⟩ s a b c d e f rfl
@[simp] theorem State.putEvent_resident (a : Nat) (b : Nat) (c : Nat) (d : Nat) (e : Nat) (f : Rec) : (s.putEvent a b c d e f).resident = s.resident :=
  @State.putEvent_keeps (fun t => t.resident = s.resident) ⟨fun _ _ h => h⟩ s a b c d e f rfl
@[simp] theorem State.putEvent_residentComp (a : Nat) (b : Nat) (c : Nat) (d : Nat) (e : Nat) (f : Rec) : (s.putEvent a b c d e f).residentComp = s.residentComp :=
  @State.putEvent_keeps (fun t => t.residentComp = s.residentComp) ⟨fun _ _ h => h⟩ s a b c d e f rfl
@[simp] theorem State.putEvent_generations (a : Nat) (b : Nat) (c : Nat) (d : Nat) (e : Nat) (f : Rec) : (s.putEvent a b c d e f).generations = s.generations :=
  @State.putEvent_keeps (fun t => t.generations = s.generations) ⟨fun _ _ h => h⟩ s a b c d e f rfl
@[simp] theorem State.putEvent_contexts (a : Nat) (b : Nat) (c : Nat) (d : Nat) (e : Nat) (f : Rec) : (s.putEvent a b c d e f).contexts = s.contexts :=
  @State.putEvent_keeps (fun t => t.contexts = s.contexts) ⟨fun _ _ h => h⟩ s a b c d e f rfl
@[simp] theorem State.putEvent_chip (a : Nat) (b : Nat) (c : Nat) (d : Nat) (e : Nat) (f : Rec) : (s.putEvent a b c d e f).chip = s.chip :=
  @State.putEvent_keeps (fun t => t.chip = s.chip) ⟨fun _ _ h => h⟩ s a b c d e f rfl
@[simp] theorem State.putEvent_hosts (a : Nat) (b : Nat) (c : Nat) (d : Nat) (e : Nat) (f : Rec) : (s.putEvent a b c d e f).hosts = s.hosts :=
  @State.putEvent_keeps (fun t => t.hosts = s.hosts) ⟨fun _ _ h => h⟩ s a b c d e f rfl
@[simp] theorem State.putEvent_mgmt (a : Nat) (b : Nat) (c : Nat) (d : Nat) (e : Nat) (f : Rec) : (s.putEvent a b c d e f).mgmt = s.mgmt :=
  @State.putEvent_keeps (fun t => t.mgmt = s.mgmt) ⟨fun _ _ h => h⟩ s a b c d e f rfl
@[simp] theorem State.putEvent_flash (a : Nat) (b : Nat) (c : Nat) (d : Nat) (e : Nat) (f : Rec) : (s.putEvent a b c d e f).flash = s.flash :=
  @State.putEvent_keeps (fun t => t.flash = s.flash) ⟨fun _ _ h => h⟩ s a b c d e f rfl
@[simp] theorem State.putEvent_cfg (a : Nat) (b : Nat) (c : Nat) (d : Nat) (e : Nat) (f : Rec) : (s.putEvent a b c d e f).cfg = s.cfg :=
  @State.putEvent_keeps (fun t => t.cfg = s.cfg) ⟨fun _ _ h => h⟩ s a b c d e f rfl
@[simp] theorem State.putEvent_running (a : Nat) (b : Nat) (c : Nat) (d : Nat) (e : Nat) (f : Rec) : (s.putEvent a b c d e f).running = s.running :=
  @State.putEvent_keeps (fun t => t.running = s.running) ⟨fun _ _ h => h⟩ s a b c d e f rfl
@[simp] theorem State.putEvent_regs (a : Nat) (b : Nat) (c : Nat) (d : Nat) (e : Nat) (f : Rec) : (s.putEvent a b c d e f).regs = s.regs :=
  @State.putEvent_keeps (fun t => t.regs = s.regs) ⟨fun _ _ h => h⟩ s a b c d e f rfl
@[simp] theorem State.putEvent_devmem (a : Nat) (b : Nat) (c : Nat) (d : Nat) (e : Nat) (f : Rec) : (s.putEvent a b c d e f).devmem = s.devmem :=
  @State.putEvent_keeps (fun t => t.devmem = s.devmem) ⟨fun _ _ h => h⟩ s a b c d e f rfl
@[simp] theorem State.putEvent_devFlips (a : Nat) (b : Nat) (c : Nat) (d : Nat) (e : Nat) (f : Rec) : (s.putEvent a b c d e f).devFlips = s.devFlips :=
  @State.putEvent_keeps (fun t => t.devFlips = s.devFlips) ⟨fun _ _ h => h⟩ s a b c d e f rfl
@[simp] theorem State.putEvent_mems (a : Nat) (b : Nat) (c : Nat) (d : Nat) (e : Nat) (f : Rec) : (s.putEvent a b c d e f).mems = s.mems :=
  @State.putEvent_keeps (fun t => t.mems = s.mems) ⟨fun _ _ h => h⟩ s a b c d e f rfl
@[simp] theorem State.putEvent_oports (a : Nat) (b : Nat) (c : Nat) (d : Nat) (e : Nat) (f : Rec) : (s.putEvent a b c d e f).oports = s.oports :=
  @State.putEvent_keeps (fun t => t.oports = s.oports) ⟨fun _ _ h => h⟩ s a b c d e f rfl
@[simp] theorem State.putEvent_ochans (a : Nat) (b : Nat) (c : Nat) (d : Nat) (e : Nat) (f : Rec) : (s.putEvent a b c d e f).ochans = s.ochans :=
  @State.putEvent_keeps (fun t => t.ochans = s.ochans) ⟨fun _ _ h => h⟩ s a b c d e f rfl
@[simp] theorem State.putEvent_lasers (a : Nat) (b : Nat) (c : Nat) (d : Nat) (e : Nat) (f : Rec) : (s.putEvent a b c d e f).lasers = s.lasers :=
  @State.putEvent_keeps (fun t => t.lasers = s.lasers) ⟨fun _ _ h => h⟩ s a b c d e f rfl
@[simp] theorem State.putEvent_edges (a : Nat) (b : Nat) (c : Nat) (d : Nat) (e : Nat) (f : Rec) : (s.putEvent a b c d e f).edges = s.edges :=
  @State.putEvent_keeps (fun t => t.edges = s.edges) ⟨fun _ _ h => h⟩ s a b c d e f rfl
@[simp] theorem State.putEvent_gangPairs (a : Nat) (b : Nat) (c : Nat) (d : Nat) (e : Nat) (f : Rec) : (s.putEvent a b c d e f).gangPairs = s.gangPairs :=
  @State.putEvent_keeps (fun t => t.gangPairs = s.gangPairs) ⟨fun _ _ h => h⟩ s a b c d e f rfl
@[simp] theorem State.putEvent_dies (a : Nat) (b : Nat) (c : Nat) (d : Nat) (e : Nat) (f : Rec) : (s.putEvent a b c d e f).dies = s.dies :=
  @State.putEvent_keeps (fun t => t.dies = s.dies) ⟨fun _ _ h => h⟩ s a b c d e f rfl
@[simp] theorem State.putEvent_repair (a : Nat) (b : Nat) (c : Nat) (d : Nat) (e : Nat) (f : Rec) : (s.putEvent a b c d e f).repair = s.repair :=
  @State.putEvent_keeps (fun t => t.repair = s.repair) ⟨fun _ _ h => h⟩ s a b c d e f rfl
@[simp] theorem State.putEvent_pins (a : Nat) (b : Nat) (c : Nat) (d : Nat) (e : Nat) (f : Rec) : (s.putEvent a b c d e f).pins = s.pins :=
  @State.putEvent_keeps (fun t => t.pins = s.pins) ⟨fun _ _ h => h⟩ s a b c d e f rfl
@[simp] theorem State.putEvent_inputMv (a : Nat) (b : Nat) (c : Nat) (d : Nat) (e : Nat) (f : Rec) : (s.putEvent a b c d e f).inputMv = s.inputMv :=
  @State.putEvent_keeps (fun t => t.inputMv = s.inputMv) ⟨fun _ _ h => h⟩ s a b c d e f rfl
@[simp] theorem State.putEvent_inputW (a : Nat) (b : Nat) (c : Nat) (d : Nat) (e : Nat) (f : Rec) : (s.putEvent a b c d e f).inputW = s.inputW :=
  @State.putEvent_keeps (fun t => t.inputW = s.inputW) ⟨fun _ _ h => h⟩ s a b c d e f rfl
@[simp] theorem State.putEvent_sent (a : Nat) (b : Nat) (c : Nat) (d : Nat) (e : Nat) (f : Rec) : (s.putEvent a b c d e f).sent = s.sent :=
  @State.putEvent_keeps (fun t => t.sent = s.sent) ⟨fun _ _ h => h⟩ s a b c d e f rfl
@[simp] theorem State.putEvent_fresh (a : Nat) (b : Nat) (c : Nat) (d : Nat) (e : Nat) (f : Rec) : (s.putEvent a b c d e f).fresh = s.fresh :=
  @State.putEvent_keeps (fun t => t.fresh = s.fresh) ⟨fun _ _ h => h⟩ s a b c d e f rfl
@[simp] theorem State.putEvent_pending (a : Nat) (b : Nat) (c : Nat) (d : Nat) (e : Nat) (f : Rec) : (s.putEvent a b c d e f).pending = s.pending :=
  @State.putEvent_keeps (fun t => t.pending = s.pending) ⟨fun _ _ h => h⟩ s a b c d e f rfl

/-! ### rebuildHeader -/

@[simp] theorem State.rebuildHeader_localTime : (s.rebuildHeader).localTime = s.localTime :=
  @State.rebuildHeader_keeps (fun t => t.localTime = s.localTime) ⟨fun _ _ h => h⟩ ⟨fun _ _ h => h⟩ s rfl
@[simp] theorem State.rebuildHeader_epochOffset : (s.rebuildHeader).epochOffset = s.epochOffset :=
  @State.rebuildHeader_keeps (fun t => t.epochOffset = s.epochOffset) ⟨fun _ _ h => h⟩ ⟨fun _ _ h => h⟩ s rfl
@[simp] theorem State.rebuildHeader_fabricValid : (s.rebuildHeader).fabricValid = s.fabricValid :=
  @State.rebuildHeader_keeps (fun t => t.fabricValid = s.fabricValid) ⟨fun _ _ h => h⟩ ⟨fun _ _ h => h⟩ s rfl
@[simp] theorem State.rebuildHeader_fabric : (s.rebuildHeader).fabric = s.fabric :=
  @State.rebuildHeader_keeps (fun t => t.fabric = s.fabric) ⟨fun _ _ h => h⟩ ⟨fun _ _ h => h⟩ s rfl
@[simp] theorem State.rebuildHeader_powered : (s.rebuildHeader).powered = s.powered :=
  @State.rebuildHeader_keeps (fun t => t.powered = s.powered) ⟨fun _ _ h => h⟩ ⟨fun _ _ h => h⟩ s rfl
@[simp] theorem State.rebuildHeader_resident : (s.rebuildHeader).resident = s.resident :=
  @State.rebuildHeader_keeps (fun t => t.resident = s.resident) ⟨fun _ _ h => h⟩ ⟨fun _ _ h => h⟩ s rfl
@[simp] theorem State.rebuildHeader_residentComp : (s.rebuildHeader).residentComp = s.residentComp :=
  @State.rebuildHeader_keeps (fun t => t.residentComp = s.residentComp) ⟨fun _ _ h => h⟩ ⟨fun _ _ h => h⟩ s rfl
@[simp] theorem State.rebuildHeader_generations : (s.rebuildHeader).generations = s.generations :=
  @State.rebuildHeader_keeps (fun t => t.generations = s.generations) ⟨fun _ _ h => h⟩ ⟨fun _ _ h => h⟩ s rfl
@[simp] theorem State.rebuildHeader_contexts : (s.rebuildHeader).contexts = s.contexts :=
  @State.rebuildHeader_keeps (fun t => t.contexts = s.contexts) ⟨fun _ _ h => h⟩ ⟨fun _ _ h => h⟩ s rfl
@[simp] theorem State.rebuildHeader_chip : (s.rebuildHeader).chip = s.chip :=
  @State.rebuildHeader_keeps (fun t => t.chip = s.chip) ⟨fun _ _ h => h⟩ ⟨fun _ _ h => h⟩ s rfl
@[simp] theorem State.rebuildHeader_hosts : (s.rebuildHeader).hosts = s.hosts :=
  @State.rebuildHeader_keeps (fun t => t.hosts = s.hosts) ⟨fun _ _ h => h⟩ ⟨fun _ _ h => h⟩ s rfl
@[simp] theorem State.rebuildHeader_mgmt : (s.rebuildHeader).mgmt = s.mgmt :=
  @State.rebuildHeader_keeps (fun t => t.mgmt = s.mgmt) ⟨fun _ _ h => h⟩ ⟨fun _ _ h => h⟩ s rfl
@[simp] theorem State.rebuildHeader_flash : (s.rebuildHeader).flash = s.flash :=
  @State.rebuildHeader_keeps (fun t => t.flash = s.flash) ⟨fun _ _ h => h⟩ ⟨fun _ _ h => h⟩ s rfl
@[simp] theorem State.rebuildHeader_cfg : (s.rebuildHeader).cfg = s.cfg :=
  @State.rebuildHeader_keeps (fun t => t.cfg = s.cfg) ⟨fun _ _ h => h⟩ ⟨fun _ _ h => h⟩ s rfl
@[simp] theorem State.rebuildHeader_running : (s.rebuildHeader).running = s.running :=
  @State.rebuildHeader_keeps (fun t => t.running = s.running) ⟨fun _ _ h => h⟩ ⟨fun _ _ h => h⟩ s rfl
@[simp] theorem State.rebuildHeader_regs : (s.rebuildHeader).regs = s.regs :=
  @State.rebuildHeader_keeps (fun t => t.regs = s.regs) ⟨fun _ _ h => h⟩ ⟨fun _ _ h => h⟩ s rfl
@[simp] theorem State.rebuildHeader_devmem : (s.rebuildHeader).devmem = s.devmem :=
  @State.rebuildHeader_keeps (fun t => t.devmem = s.devmem) ⟨fun _ _ h => h⟩ ⟨fun _ _ h => h⟩ s rfl
@[simp] theorem State.rebuildHeader_devFlips : (s.rebuildHeader).devFlips = s.devFlips :=
  @State.rebuildHeader_keeps (fun t => t.devFlips = s.devFlips) ⟨fun _ _ h => h⟩ ⟨fun _ _ h => h⟩ s rfl
@[simp] theorem State.rebuildHeader_mems : (s.rebuildHeader).mems = s.mems :=
  @State.rebuildHeader_keeps (fun t => t.mems = s.mems) ⟨fun _ _ h => h⟩ ⟨fun _ _ h => h⟩ s rfl
@[simp] theorem State.rebuildHeader_oports : (s.rebuildHeader).oports = s.oports :=
  @State.rebuildHeader_keeps (fun t => t.oports = s.oports) ⟨fun _ _ h => h⟩ ⟨fun _ _ h => h⟩ s rfl
@[simp] theorem State.rebuildHeader_ochans : (s.rebuildHeader).ochans = s.ochans :=
  @State.rebuildHeader_keeps (fun t => t.ochans = s.ochans) ⟨fun _ _ h => h⟩ ⟨fun _ _ h => h⟩ s rfl
@[simp] theorem State.rebuildHeader_lasers : (s.rebuildHeader).lasers = s.lasers :=
  @State.rebuildHeader_keeps (fun t => t.lasers = s.lasers) ⟨fun _ _ h => h⟩ ⟨fun _ _ h => h⟩ s rfl
@[simp] theorem State.rebuildHeader_edges : (s.rebuildHeader).edges = s.edges :=
  @State.rebuildHeader_keeps (fun t => t.edges = s.edges) ⟨fun _ _ h => h⟩ ⟨fun _ _ h => h⟩ s rfl
@[simp] theorem State.rebuildHeader_gangPairs : (s.rebuildHeader).gangPairs = s.gangPairs :=
  @State.rebuildHeader_keeps (fun t => t.gangPairs = s.gangPairs) ⟨fun _ _ h => h⟩ ⟨fun _ _ h => h⟩ s rfl
@[simp] theorem State.rebuildHeader_dies : (s.rebuildHeader).dies = s.dies :=
  @State.rebuildHeader_keeps (fun t => t.dies = s.dies) ⟨fun _ _ h => h⟩ ⟨fun _ _ h => h⟩ s rfl
@[simp] theorem State.rebuildHeader_repair : (s.rebuildHeader).repair = s.repair :=
  @State.rebuildHeader_keeps (fun t => t.repair = s.repair) ⟨fun _ _ h => h⟩ ⟨fun _ _ h => h⟩ s rfl
@[simp] theorem State.rebuildHeader_pins : (s.rebuildHeader).pins = s.pins :=
  @State.rebuildHeader_keeps (fun t => t.pins = s.pins) ⟨fun _ _ h => h⟩ ⟨fun _ _ h => h⟩ s rfl
@[simp] theorem State.rebuildHeader_inputMv : (s.rebuildHeader).inputMv = s.inputMv :=
  @State.rebuildHeader_keeps (fun t => t.inputMv = s.inputMv) ⟨fun _ _ h => h⟩ ⟨fun _ _ h => h⟩ s rfl
@[simp] theorem State.rebuildHeader_inputW : (s.rebuildHeader).inputW = s.inputW :=
  @State.rebuildHeader_keeps (fun t => t.inputW = s.inputW) ⟨fun _ _ h => h⟩ ⟨fun _ _ h => h⟩ s rfl
@[simp] theorem State.rebuildHeader_sent : (s.rebuildHeader).sent = s.sent :=
  @State.rebuildHeader_keeps (fun t => t.sent = s.sent) ⟨fun _ _ h => h⟩ ⟨fun _ _ h => h⟩ s rfl
@[simp] theorem State.rebuildHeader_pending : (s.rebuildHeader).pending = s.pending :=
  @State.rebuildHeader_keeps (fun t => t.pending = s.pending) ⟨fun _ _ h => h⟩ ⟨fun _ _ h => h⟩ s rfl

/-! ### sendVector -/

@[simp] theorem State.sendVector_localTime (a : Nat) (b : Nat) : (s.sendVector a b).localTime = s.localTime :=
  @State.sendVector_keeps (fun t => t.localTime = s.localTime) ⟨fun _ _ h => h⟩ ⟨fun _ _ h => h⟩ s a b rfl
@[simp] theorem State.sendVector_epochOffset (a : Nat) (b : Nat) : (s.sendVector a b).epochOffset = s.epochOffset :=
  @State.sendVector_keeps (fun t => t.epochOffset = s.epochOffset) ⟨fun _ _ h => h⟩ ⟨fun _ _ h => h⟩ s a b rfl
@[simp] theorem State.sendVector_fabricValid (a : Nat) (b : Nat) : (s.sendVector a b).fabricValid = s.fabricValid :=
  @State.sendVector_keeps (fun t => t.fabricValid = s.fabricValid) ⟨fun _ _ h => h⟩ ⟨fun _ _ h => h⟩ s a b rfl
@[simp] theorem State.sendVector_fabric (a : Nat) (b : Nat) : (s.sendVector a b).fabric = s.fabric :=
  @State.sendVector_keeps (fun t => t.fabric = s.fabric) ⟨fun _ _ h => h⟩ ⟨fun _ _ h => h⟩ s a b rfl
@[simp] theorem State.sendVector_powered (a : Nat) (b : Nat) : (s.sendVector a b).powered = s.powered :=
  @State.sendVector_keeps (fun t => t.powered = s.powered) ⟨fun _ _ h => h⟩ ⟨fun _ _ h => h⟩ s a b rfl
@[simp] theorem State.sendVector_resident (a : Nat) (b : Nat) : (s.sendVector a b).resident = s.resident :=
  @State.sendVector_keeps (fun t => t.resident = s.resident) ⟨fun _ _ h => h⟩ ⟨fun _ _ h => h⟩ s a b rfl
@[simp] theorem State.sendVector_residentComp (a : Nat) (b : Nat) : (s.sendVector a b).residentComp = s.residentComp :=
  @State.sendVector_keeps (fun t => t.residentComp = s.residentComp) ⟨fun _ _ h => h⟩ ⟨fun _ _ h => h⟩ s a b rfl
@[simp] theorem State.sendVector_generations (a : Nat) (b : Nat) : (s.sendVector a b).generations = s.generations :=
  @State.sendVector_keeps (fun t => t.generations = s.generations) ⟨fun _ _ h => h⟩ ⟨fun _ _ h => h⟩ s a b rfl
@[simp] theorem State.sendVector_contexts (a : Nat) (b : Nat) : (s.sendVector a b).contexts = s.contexts :=
  @State.sendVector_keeps (fun t => t.contexts = s.contexts) ⟨fun _ _ h => h⟩ ⟨fun _ _ h => h⟩ s a b rfl
@[simp] theorem State.sendVector_chip (a : Nat) (b : Nat) : (s.sendVector a b).chip = s.chip :=
  @State.sendVector_keeps (fun t => t.chip = s.chip) ⟨fun _ _ h => h⟩ ⟨fun _ _ h => h⟩ s a b rfl
@[simp] theorem State.sendVector_flint (a : Nat) (b : Nat) : (s.sendVector a b).flint = s.flint :=
  @State.sendVector_keeps (fun t => t.flint = s.flint) ⟨fun _ _ h => h⟩ ⟨fun _ _ h => h⟩ s a b rfl
@[simp] theorem State.sendVector_mgmt (a : Nat) (b : Nat) : (s.sendVector a b).mgmt = s.mgmt :=
  @State.sendVector_keeps (fun t => t.mgmt = s.mgmt) ⟨fun _ _ h => h⟩ ⟨fun _ _ h => h⟩ s a b rfl
@[simp] theorem State.sendVector_flash (a : Nat) (b : Nat) : (s.sendVector a b).flash = s.flash :=
  @State.sendVector_keeps (fun t => t.flash = s.flash) ⟨fun _ _ h => h⟩ ⟨fun _ _ h => h⟩ s a b rfl
@[simp] theorem State.sendVector_cfg (a : Nat) (b : Nat) : (s.sendVector a b).cfg = s.cfg :=
  @State.sendVector_keeps (fun t => t.cfg = s.cfg) ⟨fun _ _ h => h⟩ ⟨fun _ _ h => h⟩ s a b rfl
@[simp] theorem State.sendVector_running (a : Nat) (b : Nat) : (s.sendVector a b).running = s.running :=
  @State.sendVector_keeps (fun t => t.running = s.running) ⟨fun _ _ h => h⟩ ⟨fun _ _ h => h⟩ s a b rfl
@[simp] theorem State.sendVector_regs (a : Nat) (b : Nat) : (s.sendVector a b).regs = s.regs :=
  @State.sendVector_keeps (fun t => t.regs = s.regs) ⟨fun _ _ h => h⟩ ⟨fun _ _ h => h⟩ s a b rfl
@[simp] theorem State.sendVector_devmem (a : Nat) (b : Nat) : (s.sendVector a b).devmem = s.devmem :=
  @State.sendVector_keeps (fun t => t.devmem = s.devmem) ⟨fun _ _ h => h⟩ ⟨fun _ _ h => h⟩ s a b rfl
@[simp] theorem State.sendVector_devFlips (a : Nat) (b : Nat) : (s.sendVector a b).devFlips = s.devFlips :=
  @State.sendVector_keeps (fun t => t.devFlips = s.devFlips) ⟨fun _ _ h => h⟩ ⟨fun _ _ h => h⟩ s a b rfl
@[simp] theorem State.sendVector_mems (a : Nat) (b : Nat) : (s.sendVector a b).mems = s.mems :=
  @State.sendVector_keeps (fun t => t.mems = s.mems) ⟨fun _ _ h => h⟩ ⟨fun _ _ h => h⟩ s a b rfl
@[simp] theorem State.sendVector_oports (a : Nat) (b : Nat) : (s.sendVector a b).oports = s.oports :=
  @State.sendVector_keeps (fun t => t.oports = s.oports) ⟨fun _ _ h => h⟩ ⟨fun _ _ h => h⟩ s a b rfl
@[simp] theorem State.sendVector_ochans (a : Nat) (b : Nat) : (s.sendVector a b).ochans = s.ochans :=
  @State.sendVector_keeps (fun t => t.ochans = s.ochans) ⟨fun _ _ h => h⟩ ⟨fun _ _ h => h⟩ s a b rfl
@[simp] theorem State.sendVector_lasers (a : Nat) (b : Nat) : (s.sendVector a b).lasers = s.lasers :=
  @State.sendVector_keeps (fun t => t.lasers = s.lasers) ⟨fun _ _ h => h⟩ ⟨fun _ _ h => h⟩ s a b rfl
@[simp] theorem State.sendVector_edges (a : Nat) (b : Nat) : (s.sendVector a b).edges = s.edges :=
  @State.sendVector_keeps (fun t => t.edges = s.edges) ⟨fun _ _ h => h⟩ ⟨fun _ _ h => h⟩ s a b rfl
@[simp] theorem State.sendVector_gangPairs (a : Nat) (b : Nat) : (s.sendVector a b).gangPairs = s.gangPairs :=
  @State.sendVector_keeps (fun t => t.gangPairs = s.gangPairs) ⟨fun _ _ h => h⟩ ⟨fun _ _ h => h⟩ s a b rfl
@[simp] theorem State.sendVector_dies (a : Nat) (b : Nat) : (s.sendVector a b).dies = s.dies :=
  @State.sendVector_keeps (fun t => t.dies = s.dies) ⟨fun _ _ h => h⟩ ⟨fun _ _ h => h⟩ s a b rfl
@[simp] theorem State.sendVector_repair (a : Nat) (b : Nat) : (s.sendVector a b).repair = s.repair :=
  @State.sendVector_keeps (fun t => t.repair = s.repair) ⟨fun _ _ h => h⟩ ⟨fun _ _ h => h⟩ s a b rfl
@[simp] theorem State.sendVector_pins (a : Nat) (b : Nat) : (s.sendVector a b).pins = s.pins :=
  @State.sendVector_keeps (fun t => t.pins = s.pins) ⟨fun _ _ h => h⟩ ⟨fun _ _ h => h⟩ s a b rfl
@[simp] theorem State.sendVector_inputMv (a : Nat) (b : Nat) : (s.sendVector a b).inputMv = s.inputMv :=
  @State.sendVector_keeps (fun t => t.inputMv = s.inputMv) ⟨fun _ _ h => h⟩ ⟨fun _ _ h => h⟩ s a b rfl
@[simp] theorem State.sendVector_inputW (a : Nat) (b : Nat) : (s.sendVector a b).inputW = s.inputW :=
  @State.sendVector_keeps (fun t => t.inputW = s.inputW) ⟨fun _ _ h => h⟩ ⟨fun _ _ h => h⟩ s a b rfl
@[simp] theorem State.sendVector_fresh (a : Nat) (b : Nat) : (s.sendVector a b).fresh = s.fresh :=
  @State.sendVector_keeps (fun t => t.fresh = s.fresh) ⟨fun _ _ h => h⟩ ⟨fun _ _ h => h⟩ s a b rfl
@[simp] theorem State.sendVector_pending (a : Nat) (b : Nat) : (s.sendVector a b).pending = s.pending :=
  @State.sendVector_keeps (fun t => t.pending = s.pending) ⟨fun _ _ h => h⟩ ⟨fun _ _ h => h⟩ s a b rfl

/-! ### raiseOn -/

@[simp] theorem State.raiseOn_localTime (a : Nat) (b : Nat) : (s.raiseOn a b).localTime = s.localTime :=
  @State.raiseOn_keeps (fun t => t.localTime = s.localTime) ⟨fun _ _ h => h⟩ ⟨fun _ _ h => h⟩ ⟨fun _ _ h => h⟩ s a b rfl
@[simp] theorem State.raiseOn_epochOffset (a : Nat) (b : Nat) : (s.raiseOn a b).epochOffset = s.epochOffset :=
  @State.raiseOn_keeps (fun t => t.epochOffset = s.epochOffset) ⟨fun _ _ h => h⟩ ⟨fun _ _ h => h⟩ ⟨fun _ _ h => h⟩ s a b rfl
@[simp] theorem State.raiseOn_fabricValid (a : Nat) (b : Nat) : (s.raiseOn a b).fabricValid = s.fabricValid :=
  @State.raiseOn_keeps (fun t => t.fabricValid = s.fabricValid) ⟨fun _ _ h => h⟩ ⟨fun _ _ h => h⟩ ⟨fun _ _ h => h⟩ s a b rfl
@[simp] theorem State.raiseOn_fabric (a : Nat) (b : Nat) : (s.raiseOn a b).fabric = s.fabric :=
  @State.raiseOn_keeps (fun t => t.fabric = s.fabric) ⟨fun _ _ h => h⟩ ⟨fun _ _ h => h⟩ ⟨fun _ _ h => h⟩ s a b rfl
@[simp] theorem State.raiseOn_powered (a : Nat) (b : Nat) : (s.raiseOn a b).powered = s.powered :=
  @State.raiseOn_keeps (fun t => t.powered = s.powered) ⟨fun _ _ h => h⟩ ⟨fun _ _ h => h⟩ ⟨fun _ _ h => h⟩ s a b rfl
@[simp] theorem State.raiseOn_resident (a : Nat) (b : Nat) : (s.raiseOn a b).resident = s.resident :=
  @State.raiseOn_keeps (fun t => t.resident = s.resident) ⟨fun _ _ h => h⟩ ⟨fun _ _ h => h⟩ ⟨fun _ _ h => h⟩ s a b rfl
@[simp] theorem State.raiseOn_residentComp (a : Nat) (b : Nat) : (s.raiseOn a b).residentComp = s.residentComp :=
  @State.raiseOn_keeps (fun t => t.residentComp = s.residentComp) ⟨fun _ _ h => h⟩ ⟨fun _ _ h => h⟩ ⟨fun _ _ h => h⟩ s a b rfl
@[simp] theorem State.raiseOn_generations (a : Nat) (b : Nat) : (s.raiseOn a b).generations = s.generations :=
  @State.raiseOn_keeps (fun t => t.generations = s.generations) ⟨fun _ _ h => h⟩ ⟨fun _ _ h => h⟩ ⟨fun _ _ h => h⟩ s a b rfl
@[simp] theorem State.raiseOn_contexts (a : Nat) (b : Nat) : (s.raiseOn a b).contexts = s.contexts :=
  @State.raiseOn_keeps (fun t => t.contexts = s.contexts) ⟨fun _ _ h => h⟩ ⟨fun _ _ h => h⟩ ⟨fun _ _ h => h⟩ s a b rfl
@[simp] theorem State.raiseOn_chip (a : Nat) (b : Nat) : (s.raiseOn a b).chip = s.chip :=
  @State.raiseOn_keeps (fun t => t.chip = s.chip) ⟨fun _ _ h => h⟩ ⟨fun _ _ h => h⟩ ⟨fun _ _ h => h⟩ s a b rfl
@[simp] theorem State.raiseOn_flint (a : Nat) (b : Nat) : (s.raiseOn a b).flint = s.flint :=
  @State.raiseOn_keeps (fun t => t.flint = s.flint) ⟨fun _ _ h => h⟩ ⟨fun _ _ h => h⟩ ⟨fun _ _ h => h⟩ s a b rfl
@[simp] theorem State.raiseOn_mgmt (a : Nat) (b : Nat) : (s.raiseOn a b).mgmt = s.mgmt :=
  @State.raiseOn_keeps (fun t => t.mgmt = s.mgmt) ⟨fun _ _ h => h⟩ ⟨fun _ _ h => h⟩ ⟨fun _ _ h => h⟩ s a b rfl
@[simp] theorem State.raiseOn_flash (a : Nat) (b : Nat) : (s.raiseOn a b).flash = s.flash :=
  @State.raiseOn_keeps (fun t => t.flash = s.flash) ⟨fun _ _ h => h⟩ ⟨fun _ _ h => h⟩ ⟨fun _ _ h => h⟩ s a b rfl
@[simp] theorem State.raiseOn_cfg (a : Nat) (b : Nat) : (s.raiseOn a b).cfg = s.cfg :=
  @State.raiseOn_keeps (fun t => t.cfg = s.cfg) ⟨fun _ _ h => h⟩ ⟨fun _ _ h => h⟩ ⟨fun _ _ h => h⟩ s a b rfl
@[simp] theorem State.raiseOn_running (a : Nat) (b : Nat) : (s.raiseOn a b).running = s.running :=
  @State.raiseOn_keeps (fun t => t.running = s.running) ⟨fun _ _ h => h⟩ ⟨fun _ _ h => h⟩ ⟨fun _ _ h => h⟩ s a b rfl
@[simp] theorem State.raiseOn_devmem (a : Nat) (b : Nat) : (s.raiseOn a b).devmem = s.devmem :=
  @State.raiseOn_keeps (fun t => t.devmem = s.devmem) ⟨fun _ _ h => h⟩ ⟨fun _ _ h => h⟩ ⟨fun _ _ h => h⟩ s a b rfl
@[simp] theorem State.raiseOn_devFlips (a : Nat) (b : Nat) : (s.raiseOn a b).devFlips = s.devFlips :=
  @State.raiseOn_keeps (fun t => t.devFlips = s.devFlips) ⟨fun _ _ h => h⟩ ⟨fun _ _ h => h⟩ ⟨fun _ _ h => h⟩ s a b rfl
@[simp] theorem State.raiseOn_mems (a : Nat) (b : Nat) : (s.raiseOn a b).mems = s.mems :=
  @State.raiseOn_keeps (fun t => t.mems = s.mems) ⟨fun _ _ h => h⟩ ⟨fun _ _ h => h⟩ ⟨fun _ _ h => h⟩ s a b rfl
@[simp] theorem State.raiseOn_oports (a : Nat) (b : Nat) : (s.raiseOn a b).oports = s.oports :=
  @State.raiseOn_keeps (fun t => t.oports = s.oports) ⟨fun _ _ h => h⟩ ⟨fun _ _ h => h⟩ ⟨fun _ _ h => h⟩ s a b rfl
@[simp] theorem State.raiseOn_ochans (a : Nat) (b : Nat) : (s.raiseOn a b).ochans = s.ochans :=
  @State.raiseOn_keeps (fun t => t.ochans = s.ochans) ⟨fun _ _ h => h⟩ ⟨fun _ _ h => h⟩ ⟨fun _ _ h => h⟩ s a b rfl
@[simp] theorem State.raiseOn_lasers (a : Nat) (b : Nat) : (s.raiseOn a b).lasers = s.lasers :=
  @State.raiseOn_keeps (fun t => t.lasers = s.lasers) ⟨fun _ _ h => h⟩ ⟨fun _ _ h => h⟩ ⟨fun _ _ h => h⟩ s a b rfl
@[simp] theorem State.raiseOn_edges (a : Nat) (b : Nat) : (s.raiseOn a b).edges = s.edges :=
  @State.raiseOn_keeps (fun t => t.edges = s.edges) ⟨fun _ _ h => h⟩ ⟨fun _ _ h => h⟩ ⟨fun _ _ h => h⟩ s a b rfl
@[simp] theorem State.raiseOn_gangPairs (a : Nat) (b : Nat) : (s.raiseOn a b).gangPairs = s.gangPairs :=
  @State.raiseOn_keeps (fun t => t.gangPairs = s.gangPairs) ⟨fun _ _ h => h⟩ ⟨fun _ _ h => h⟩ ⟨fun _ _ h => h⟩ s a b rfl
@[simp] theorem State.raiseOn_dies (a : Nat) (b : Nat) : (s.raiseOn a b).dies = s.dies :=
  @State.raiseOn_keeps (fun t => t.dies = s.dies) ⟨fun _ _ h => h⟩ ⟨fun _ _ h => h⟩ ⟨fun _ _ h => h⟩ s a b rfl
@[simp] theorem State.raiseOn_repair (a : Nat) (b : Nat) : (s.raiseOn a b).repair = s.repair :=
  @State.raiseOn_keeps (fun t => t.repair = s.repair) ⟨fun _ _ h => h⟩ ⟨fun _ _ h => h⟩ ⟨fun _ _ h => h⟩ s a b rfl
@[simp] theorem State.raiseOn_pins (a : Nat) (b : Nat) : (s.raiseOn a b).pins = s.pins :=
  @State.raiseOn_keeps (fun t => t.pins = s.pins) ⟨fun _ _ h => h⟩ ⟨fun _ _ h => h⟩ ⟨fun _ _ h => h⟩ s a b rfl
@[simp] theorem State.raiseOn_inputMv (a : Nat) (b : Nat) : (s.raiseOn a b).inputMv = s.inputMv :=
  @State.raiseOn_keeps (fun t => t.inputMv = s.inputMv) ⟨fun _ _ h => h⟩ ⟨fun _ _ h => h⟩ ⟨fun _ _ h => h⟩ s a b rfl
@[simp] theorem State.raiseOn_inputW (a : Nat) (b : Nat) : (s.raiseOn a b).inputW = s.inputW :=
  @State.raiseOn_keeps (fun t => t.inputW = s.inputW) ⟨fun _ _ h => h⟩ ⟨fun _ _ h => h⟩ ⟨fun _ _ h => h⟩ s a b rfl
@[simp] theorem State.raiseOn_fresh (a : Nat) (b : Nat) : (s.raiseOn a b).fresh = s.fresh :=
  @State.raiseOn_keeps (fun t => t.fresh = s.fresh) ⟨fun _ _ h => h⟩ ⟨fun _ _ h => h⟩ ⟨fun _ _ h => h⟩ s a b rfl
@[simp] theorem State.raiseOn_pending (a : Nat) (b : Nat) : (s.raiseOn a b).pending = s.pending :=
  @State.raiseOn_keeps (fun t => t.pending = s.pending) ⟨fun _ _ h => h⟩ ⟨fun _ _ h => h⟩ ⟨fun _ _ h => h⟩ s a b rfl

/-! ### raiseBoth -/

@[simp] theorem State.raiseBoth_localTime (a : Nat) : (s.raiseBoth a).localTime = s.localTime :=
  @State.raiseBoth_keeps (fun t => t.localTime = s.localTime) ⟨fun _ _ h => h⟩ ⟨fun _ _ h => h⟩ ⟨fun _ _ h => h⟩ s a rfl
@[simp] theorem State.raiseBoth_epochOffset (a : Nat) : (s.raiseBoth a).epochOffset = s.epochOffset :=
  @State.raiseBoth_keeps (fun t => t.epochOffset = s.epochOffset) ⟨fun _ _ h => h⟩ ⟨fun _ _ h => h⟩ ⟨fun _ _ h => h⟩ s a rfl
@[simp] theorem State.raiseBoth_fabricValid (a : Nat) : (s.raiseBoth a).fabricValid = s.fabricValid :=
  @State.raiseBoth_keeps (fun t => t.fabricValid = s.fabricValid) ⟨fun _ _ h => h⟩ ⟨fun _ _ h => h⟩ ⟨fun _ _ h => h⟩ s a rfl
@[simp] theorem State.raiseBoth_fabric (a : Nat) : (s.raiseBoth a).fabric = s.fabric :=
  @State.raiseBoth_keeps (fun t => t.fabric = s.fabric) ⟨fun _ _ h => h⟩ ⟨fun _ _ h => h⟩ ⟨fun _ _ h => h⟩ s a rfl
@[simp] theorem State.raiseBoth_powered (a : Nat) : (s.raiseBoth a).powered = s.powered :=
  @State.raiseBoth_keeps (fun t => t.powered = s.powered) ⟨fun _ _ h => h⟩ ⟨fun _ _ h => h⟩ ⟨fun _ _ h => h⟩ s a rfl
@[simp] theorem State.raiseBoth_resident (a : Nat) : (s.raiseBoth a).resident = s.resident :=
  @State.raiseBoth_keeps (fun t => t.resident = s.resident) ⟨fun _ _ h => h⟩ ⟨fun _ _ h => h⟩ ⟨fun _ _ h => h⟩ s a rfl
@[simp] theorem State.raiseBoth_residentComp (a : Nat) : (s.raiseBoth a).residentComp = s.residentComp :=
  @State.raiseBoth_keeps (fun t => t.residentComp = s.residentComp) ⟨fun _ _ h => h⟩ ⟨fun _ _ h => h⟩ ⟨fun _ _ h => h⟩ s a rfl
@[simp] theorem State.raiseBoth_generations (a : Nat) : (s.raiseBoth a).generations = s.generations :=
  @State.raiseBoth_keeps (fun t => t.generations = s.generations) ⟨fun _ _ h => h⟩ ⟨fun _ _ h => h⟩ ⟨fun _ _ h => h⟩ s a rfl
@[simp] theorem State.raiseBoth_contexts (a : Nat) : (s.raiseBoth a).contexts = s.contexts :=
  @State.raiseBoth_keeps (fun t => t.contexts = s.contexts) ⟨fun _ _ h => h⟩ ⟨fun _ _ h => h⟩ ⟨fun _ _ h => h⟩ s a rfl
@[simp] theorem State.raiseBoth_chip (a : Nat) : (s.raiseBoth a).chip = s.chip :=
  @State.raiseBoth_keeps (fun t => t.chip = s.chip) ⟨fun _ _ h => h⟩ ⟨fun _ _ h => h⟩ ⟨fun _ _ h => h⟩ s a rfl
@[simp] theorem State.raiseBoth_flint (a : Nat) : (s.raiseBoth a).flint = s.flint :=
  @State.raiseBoth_keeps (fun t => t.flint = s.flint) ⟨fun _ _ h => h⟩ ⟨fun _ _ h => h⟩ ⟨fun _ _ h => h⟩ s a rfl
@[simp] theorem State.raiseBoth_mgmt (a : Nat) : (s.raiseBoth a).mgmt = s.mgmt :=
  @State.raiseBoth_keeps (fun t => t.mgmt = s.mgmt) ⟨fun _ _ h => h⟩ ⟨fun _ _ h => h⟩ ⟨fun _ _ h => h⟩ s a rfl
@[simp] theorem State.raiseBoth_flash (a : Nat) : (s.raiseBoth a).flash = s.flash :=
  @State.raiseBoth_keeps (fun t => t.flash = s.flash) ⟨fun _ _ h => h⟩ ⟨fun _ _ h => h⟩ ⟨fun _ _ h => h⟩ s a rfl
@[simp] theorem State.raiseBoth_cfg (a : Nat) : (s.raiseBoth a).cfg = s.cfg :=
  @State.raiseBoth_keeps (fun t => t.cfg = s.cfg) ⟨fun _ _ h => h⟩ ⟨fun _ _ h => h⟩ ⟨fun _ _ h => h⟩ s a rfl
@[simp] theorem State.raiseBoth_running (a : Nat) : (s.raiseBoth a).running = s.running :=
  @State.raiseBoth_keeps (fun t => t.running = s.running) ⟨fun _ _ h => h⟩ ⟨fun _ _ h => h⟩ ⟨fun _ _ h => h⟩ s a rfl
@[simp] theorem State.raiseBoth_devmem (a : Nat) : (s.raiseBoth a).devmem = s.devmem :=
  @State.raiseBoth_keeps (fun t => t.devmem = s.devmem) ⟨fun _ _ h => h⟩ ⟨fun _ _ h => h⟩ ⟨fun _ _ h => h⟩ s a rfl
@[simp] theorem State.raiseBoth_devFlips (a : Nat) : (s.raiseBoth a).devFlips = s.devFlips :=
  @State.raiseBoth_keeps (fun t => t.devFlips = s.devFlips) ⟨fun _ _ h => h⟩ ⟨fun _ _ h => h⟩ ⟨fun _ _ h => h⟩ s a rfl
@[simp] theorem State.raiseBoth_mems (a : Nat) : (s.raiseBoth a).mems = s.mems :=
  @State.raiseBoth_keeps (fun t => t.mems = s.mems) ⟨fun _ _ h => h⟩ ⟨fun _ _ h => h⟩ ⟨fun _ _ h => h⟩ s a rfl
@[simp] theorem State.raiseBoth_oports (a : Nat) : (s.raiseBoth a).oports = s.oports :=
  @State.raiseBoth_keeps (fun t => t.oports = s.oports) ⟨fun _ _ h => h⟩ ⟨fun _ _ h => h⟩ ⟨fun _ _ h => h⟩ s a rfl
@[simp] theorem State.raiseBoth_ochans (a : Nat) : (s.raiseBoth a).ochans = s.ochans :=
  @State.raiseBoth_keeps (fun t => t.ochans = s.ochans) ⟨fun _ _ h => h⟩ ⟨fun _ _ h => h⟩ ⟨fun _ _ h => h⟩ s a rfl
@[simp] theorem State.raiseBoth_lasers (a : Nat) : (s.raiseBoth a).lasers = s.lasers :=
  @State.raiseBoth_keeps (fun t => t.lasers = s.lasers) ⟨fun _ _ h => h⟩ ⟨fun _ _ h => h⟩ ⟨fun _ _ h => h⟩ s a rfl
@[simp] theorem State.raiseBoth_edges (a : Nat) : (s.raiseBoth a).edges = s.edges :=
  @State.raiseBoth_keeps (fun t => t.edges = s.edges) ⟨fun _ _ h => h⟩ ⟨fun _ _ h => h⟩ ⟨fun _ _ h => h⟩ s a rfl
@[simp] theorem State.raiseBoth_gangPairs (a : Nat) : (s.raiseBoth a).gangPairs = s.gangPairs :=
  @State.raiseBoth_keeps (fun t => t.gangPairs = s.gangPairs) ⟨fun _ _ h => h⟩ ⟨fun _ _ h => h⟩ ⟨fun _ _ h => h⟩ s a rfl
@[simp] theorem State.raiseBoth_dies (a : Nat) : (s.raiseBoth a).dies = s.dies :=
  @State.raiseBoth_keeps (fun t => t.dies = s.dies) ⟨fun _ _ h => h⟩ ⟨fun _ _ h => h⟩ ⟨fun _ _ h => h⟩ s a rfl
@[simp] theorem State.raiseBoth_repair (a : Nat) : (s.raiseBoth a).repair = s.repair :=
  @State.raiseBoth_keeps (fun t => t.repair = s.repair) ⟨fun _ _ h => h⟩ ⟨fun _ _ h => h⟩ ⟨fun _ _ h => h⟩ s a rfl
@[simp] theorem State.raiseBoth_pins (a : Nat) : (s.raiseBoth a).pins = s.pins :=
  @State.raiseBoth_keeps (fun t => t.pins = s.pins) ⟨fun _ _ h => h⟩ ⟨fun _ _ h => h⟩ ⟨fun _ _ h => h⟩ s a rfl
@[simp] theorem State.raiseBoth_inputMv (a : Nat) : (s.raiseBoth a).inputMv = s.inputMv :=
  @State.raiseBoth_keeps (fun t => t.inputMv = s.inputMv) ⟨fun _ _ h => h⟩ ⟨fun _ _ h => h⟩ ⟨fun _ _ h => h⟩ s a rfl
@[simp] theorem State.raiseBoth_inputW (a : Nat) : (s.raiseBoth a).inputW = s.inputW :=
  @State.raiseBoth_keeps (fun t => t.inputW = s.inputW) ⟨fun _ _ h => h⟩ ⟨fun _ _ h => h⟩ ⟨fun _ _ h => h⟩ s a rfl
@[simp] theorem State.raiseBoth_fresh (a : Nat) : (s.raiseBoth a).fresh = s.fresh :=
  @State.raiseBoth_keeps (fun t => t.fresh = s.fresh) ⟨fun _ _ h => h⟩ ⟨fun _ _ h => h⟩ ⟨fun _ _ h => h⟩ s a rfl
@[simp] theorem State.raiseBoth_pending (a : Nat) : (s.raiseBoth a).pending = s.pending :=
  @State.raiseBoth_keeps (fun t => t.pending = s.pending) ⟨fun _ _ h => h⟩ ⟨fun _ _ h => h⟩ ⟨fun _ _ h => h⟩ s a rfl

/-! ### logEvent -/

@[simp] theorem State.logEvent_localTime (a : Nat) (b : Nat) (c : Nat) (d : Nat) (e : Nat) (f : Rec) : (s.logEvent a b c d e f).localTime = s.localTime :=
  @State.logEvent_keeps (fun t => t.localTime = s.localTime) ⟨fun _ _ h => h⟩ ⟨fun _ _ h => h⟩ ⟨fun _ _ h => h⟩ ⟨fun _ _ h => h⟩ ⟨fun _ _ h => h⟩ s a b c d e f rfl
@[simp] theorem State.logEvent_epochOffset (a : Nat) (b : Nat) (c : Nat) (d : Nat) (e : Nat) (f : Rec) : (s.logEvent a b c d e f).epochOffset = s.epochOffset :=
  @State.logEvent_keeps (fun t => t.epochOffset = s.epochOffset) ⟨fun _ _ h => h⟩ ⟨fun _ _ h => h⟩ ⟨fun _ _ h => h⟩ ⟨fun _ _ h => h⟩ ⟨fun _ _ h => h⟩ s a b c d e f rfl
@[simp] theorem State.logEvent_fabricValid (a : Nat) (b : Nat) (c : Nat) (d : Nat) (e : Nat) (f : Rec) : (s.logEvent a b c d e f).fabricValid = s.fabricValid :=
  @State.logEvent_keeps (fun t => t.fabricValid = s.fabricValid) ⟨fun _ _ h => h⟩ ⟨fun _ _ h => h⟩ ⟨fun _ _ h => h⟩ ⟨fun _ _ h => h⟩ ⟨fun _ _ h => h⟩ s a b c d e f rfl
@[simp] theorem State.logEvent_fabric (a : Nat) (b : Nat) (c : Nat) (d : Nat) (e : Nat) (f : Rec) : (s.logEvent a b c d e f).fabric = s.fabric :=
  @State.logEvent_keeps (fun t => t.fabric = s.fabric) ⟨fun _ _ h => h⟩ ⟨fun _ _ h => h⟩ ⟨fun _ _ h => h⟩ ⟨fun _ _ h => h⟩ ⟨fun _ _ h => h⟩ s a b c d e f rfl
@[simp] theorem State.logEvent_powered (a : Nat) (b : Nat) (c : Nat) (d : Nat) (e : Nat) (f : Rec) : (s.logEvent a b c d e f).powered = s.powered :=
  @State.logEvent_keeps (fun t => t.powered = s.powered) ⟨fun _ _ h => h⟩ ⟨fun _ _ h => h⟩ ⟨fun _ _ h => h⟩ ⟨fun _ _ h => h⟩ ⟨fun _ _ h => h⟩ s a b c d e f rfl
@[simp] theorem State.logEvent_resident (a : Nat) (b : Nat) (c : Nat) (d : Nat) (e : Nat) (f : Rec) : (s.logEvent a b c d e f).resident = s.resident :=
  @State.logEvent_keeps (fun t => t.resident = s.resident) ⟨fun _ _ h => h⟩ ⟨fun _ _ h => h⟩ ⟨fun _ _ h => h⟩ ⟨fun _ _ h => h⟩ ⟨fun _ _ h => h⟩ s a b c d e f rfl
@[simp] theorem State.logEvent_residentComp (a : Nat) (b : Nat) (c : Nat) (d : Nat) (e : Nat) (f : Rec) : (s.logEvent a b c d e f).residentComp = s.residentComp :=
  @State.logEvent_keeps (fun t => t.residentComp = s.residentComp) ⟨fun _ _ h => h⟩ ⟨fun _ _ h => h⟩ ⟨fun _ _ h => h⟩ ⟨fun _ _ h => h⟩ ⟨fun _ _ h => h⟩ s a b c d e f rfl
@[simp] theorem State.logEvent_generations (a : Nat) (b : Nat) (c : Nat) (d : Nat) (e : Nat) (f : Rec) : (s.logEvent a b c d e f).generations = s.generations :=
  @State.logEvent_keeps (fun t => t.generations = s.generations) ⟨fun _ _ h => h⟩ ⟨fun _ _ h => h⟩ ⟨fun _ _ h => h⟩ ⟨fun _ _ h => h⟩ ⟨fun _ _ h => h⟩ s a b c d e f rfl
@[simp] theorem State.logEvent_contexts (a : Nat) (b : Nat) (c : Nat) (d : Nat) (e : Nat) (f : Rec) : (s.logEvent a b c d e f).contexts = s.contexts :=
  @State.logEvent_keeps (fun t => t.contexts = s.contexts) ⟨fun _ _ h => h⟩ ⟨fun _ _ h => h⟩ ⟨fun _ _ h => h⟩ ⟨fun _ _ h => h⟩ ⟨fun _ _ h => h⟩ s a b c d e f rfl
@[simp] theorem State.logEvent_chip (a : Nat) (b : Nat) (c : Nat) (d : Nat) (e : Nat) (f : Rec) : (s.logEvent a b c d e f).chip = s.chip :=
  @State.logEvent_keeps (fun t => t.chip = s.chip) ⟨fun _ _ h => h⟩ ⟨fun _ _ h => h⟩ ⟨fun _ _ h => h⟩ ⟨fun _ _ h => h⟩ ⟨fun _ _ h => h⟩ s a b c d e f rfl
@[simp] theorem State.logEvent_mgmt (a : Nat) (b : Nat) (c : Nat) (d : Nat) (e : Nat) (f : Rec) : (s.logEvent a b c d e f).mgmt = s.mgmt :=
  @State.logEvent_keeps (fun t => t.mgmt = s.mgmt) ⟨fun _ _ h => h⟩ ⟨fun _ _ h => h⟩ ⟨fun _ _ h => h⟩ ⟨fun _ _ h => h⟩ ⟨fun _ _ h => h⟩ s a b c d e f rfl
@[simp] theorem State.logEvent_flash (a : Nat) (b : Nat) (c : Nat) (d : Nat) (e : Nat) (f : Rec) : (s.logEvent a b c d e f).flash = s.flash :=
  @State.logEvent_keeps (fun t => t.flash = s.flash) ⟨fun _ _ h => h⟩ ⟨fun _ _ h => h⟩ ⟨fun _ _ h => h⟩ ⟨fun _ _ h => h⟩ ⟨fun _ _ h => h⟩ s a b c d e f rfl
@[simp] theorem State.logEvent_cfg (a : Nat) (b : Nat) (c : Nat) (d : Nat) (e : Nat) (f : Rec) : (s.logEvent a b c d e f).cfg = s.cfg :=
  @State.logEvent_keeps (fun t => t.cfg = s.cfg) ⟨fun _ _ h => h⟩ ⟨fun _ _ h => h⟩ ⟨fun _ _ h => h⟩ ⟨fun _ _ h => h⟩ ⟨fun _ _ h => h⟩ s a b c d e f rfl
@[simp] theorem State.logEvent_running (a : Nat) (b : Nat) (c : Nat) (d : Nat) (e : Nat) (f : Rec) : (s.logEvent a b c d e f).running = s.running :=
  @State.logEvent_keeps (fun t => t.running = s.running) ⟨fun _ _ h => h⟩ ⟨fun _ _ h => h⟩ ⟨fun _ _ h => h⟩ ⟨fun _ _ h => h⟩ ⟨fun _ _ h => h⟩ s a b c d e f rfl
@[simp] theorem State.logEvent_devmem (a : Nat) (b : Nat) (c : Nat) (d : Nat) (e : Nat) (f : Rec) : (s.logEvent a b c d e f).devmem = s.devmem :=
  @State.logEvent_keeps (fun t => t.devmem = s.devmem) ⟨fun _ _ h => h⟩ ⟨fun _ _ h => h⟩ ⟨fun _ _ h => h⟩ ⟨fun _ _ h => h⟩ ⟨fun _ _ h => h⟩ s a b c d e f rfl
@[simp] theorem State.logEvent_devFlips (a : Nat) (b : Nat) (c : Nat) (d : Nat) (e : Nat) (f : Rec) : (s.logEvent a b c d e f).devFlips = s.devFlips :=
  @State.logEvent_keeps (fun t => t.devFlips = s.devFlips) ⟨fun _ _ h => h⟩ ⟨fun _ _ h => h⟩ ⟨fun _ _ h => h⟩ ⟨fun _ _ h => h⟩ ⟨fun _ _ h => h⟩ s a b c d e f rfl
@[simp] theorem State.logEvent_mems (a : Nat) (b : Nat) (c : Nat) (d : Nat) (e : Nat) (f : Rec) : (s.logEvent a b c d e f).mems = s.mems :=
  @State.logEvent_keeps (fun t => t.mems = s.mems) ⟨fun _ _ h => h⟩ ⟨fun _ _ h => h⟩ ⟨fun _ _ h => h⟩ ⟨fun _ _ h => h⟩ ⟨fun _ _ h => h⟩ s a b c d e f rfl
@[simp] theorem State.logEvent_oports (a : Nat) (b : Nat) (c : Nat) (d : Nat) (e : Nat) (f : Rec) : (s.logEvent a b c d e f).oports = s.oports :=
  @State.logEvent_keeps (fun t => t.oports = s.oports) ⟨fun _ _ h => h⟩ ⟨fun _ _ h => h⟩ ⟨fun _ _ h => h⟩ ⟨fun _ _ h => h⟩ ⟨fun _ _ h => h⟩ s a b c d e f rfl
@[simp] theorem State.logEvent_ochans (a : Nat) (b : Nat) (c : Nat) (d : Nat) (e : Nat) (f : Rec) : (s.logEvent a b c d e f).ochans = s.ochans :=
  @State.logEvent_keeps (fun t => t.ochans = s.ochans) ⟨fun _ _ h => h⟩ ⟨fun _ _ h => h⟩ ⟨fun _ _ h => h⟩ ⟨fun _ _ h => h⟩ ⟨fun _ _ h => h⟩ s a b c d e f rfl
@[simp] theorem State.logEvent_lasers (a : Nat) (b : Nat) (c : Nat) (d : Nat) (e : Nat) (f : Rec) : (s.logEvent a b c d e f).lasers = s.lasers :=
  @State.logEvent_keeps (fun t => t.lasers = s.lasers) ⟨fun _ _ h => h⟩ ⟨fun _ _ h => h⟩ ⟨fun _ _ h => h⟩ ⟨fun _ _ h => h⟩ ⟨fun _ _ h => h⟩ s a b c d e f rfl
@[simp] theorem State.logEvent_edges (a : Nat) (b : Nat) (c : Nat) (d : Nat) (e : Nat) (f : Rec) : (s.logEvent a b c d e f).edges = s.edges :=
  @State.logEvent_keeps (fun t => t.edges = s.edges) ⟨fun _ _ h => h⟩ ⟨fun _ _ h => h⟩ ⟨fun _ _ h => h⟩ ⟨fun _ _ h => h⟩ ⟨fun _ _ h => h⟩ s a b c d e f rfl
@[simp] theorem State.logEvent_gangPairs (a : Nat) (b : Nat) (c : Nat) (d : Nat) (e : Nat) (f : Rec) : (s.logEvent a b c d e f).gangPairs = s.gangPairs :=
  @State.logEvent_keeps (fun t => t.gangPairs = s.gangPairs) ⟨fun _ _ h => h⟩ ⟨fun _ _ h => h⟩ ⟨fun _ _ h => h⟩ ⟨fun _ _ h => h⟩ ⟨fun _ _ h => h⟩ s a b c d e f rfl
@[simp] theorem State.logEvent_dies (a : Nat) (b : Nat) (c : Nat) (d : Nat) (e : Nat) (f : Rec) : (s.logEvent a b c d e f).dies = s.dies :=
  @State.logEvent_keeps (fun t => t.dies = s.dies) ⟨fun _ _ h => h⟩ ⟨fun _ _ h => h⟩ ⟨fun _ _ h => h⟩ ⟨fun _ _ h => h⟩ ⟨fun _ _ h => h⟩ s a b c d e f rfl
@[simp] theorem State.logEvent_repair (a : Nat) (b : Nat) (c : Nat) (d : Nat) (e : Nat) (f : Rec) : (s.logEvent a b c d e f).repair = s.repair :=
  @State.logEvent_keeps (fun t => t.repair = s.repair) ⟨fun _ _ h => h⟩ ⟨fun _ _ h => h⟩ ⟨fun _ _ h => h⟩ ⟨fun _ _ h => h⟩ ⟨fun _ _ h => h⟩ s a b c d e f rfl
@[simp] theorem State.logEvent_pins (a : Nat) (b : Nat) (c : Nat) (d : Nat) (e : Nat) (f : Rec) : (s.logEvent a b c d e f).pins = s.pins :=
  @State.logEvent_keeps (fun t => t.pins = s.pins) ⟨fun _ _ h => h⟩ ⟨fun _ _ h => h⟩ ⟨fun _ _ h => h⟩ ⟨fun _ _ h => h⟩ ⟨fun _ _ h => h⟩ s a b c d e f rfl
@[simp] theorem State.logEvent_inputMv (a : Nat) (b : Nat) (c : Nat) (d : Nat) (e : Nat) (f : Rec) : (s.logEvent a b c d e f).inputMv = s.inputMv :=
  @State.logEvent_keeps (fun t => t.inputMv = s.inputMv) ⟨fun _ _ h => h⟩ ⟨fun _ _ h => h⟩ ⟨fun _ _ h => h⟩ ⟨fun _ _ h => h⟩ ⟨fun _ _ h => h⟩ s a b c d e f rfl
@[simp] theorem State.logEvent_inputW (a : Nat) (b : Nat) (c : Nat) (d : Nat) (e : Nat) (f : Rec) : (s.logEvent a b c d e f).inputW = s.inputW :=
  @State.logEvent_keeps (fun t => t.inputW = s.inputW) ⟨fun _ _ h => h⟩ ⟨fun _ _ h => h⟩ ⟨fun _ _ h => h⟩ ⟨fun _ _ h => h⟩ ⟨fun _ _ h => h⟩ s a b c d e f rfl
@[simp] theorem State.logEvent_pending (a : Nat) (b : Nat) (c : Nat) (d : Nat) (e : Nat) (f : Rec) : (s.logEvent a b c d e f).pending = s.pending :=
  @State.logEvent_keeps (fun t => t.pending = s.pending) ⟨fun _ _ h => h⟩ ⟨fun _ _ h => h⟩ ⟨fun _ _ h => h⟩ ⟨fun _ _ h => h⟩ ⟨fun _ _ h => h⟩ s a b c d e f rfl

/-! ### enter -/

@[simp] theorem State.enter_localTime (a : DevState) : (s.enter a).localTime = s.localTime :=
  @State.enter_keeps (fun t => t.localTime = s.localTime) ⟨fun _ _ h => h⟩ ⟨fun _ _ h => h⟩ ⟨fun _ _ h => h⟩ ⟨fun _ _ h => h⟩ s a rfl
@[simp] theorem State.enter_epochOffset (a : DevState) : (s.enter a).epochOffset = s.epochOffset :=
  @State.enter_keeps (fun t => t.epochOffset = s.epochOffset) ⟨fun _ _ h => h⟩ ⟨fun _ _ h => h⟩ ⟨fun _ _ h => h⟩ ⟨fun _ _ h => h⟩ s a rfl
@[simp] theorem State.enter_fabricValid (a : DevState) : (s.enter a).fabricValid = s.fabricValid :=
  @State.enter_keeps (fun t => t.fabricValid = s.fabricValid) ⟨fun _ _ h => h⟩ ⟨fun _ _ h => h⟩ ⟨fun _ _ h => h⟩ ⟨fun _ _ h => h⟩ s a rfl
@[simp] theorem State.enter_fabric (a : DevState) : (s.enter a).fabric = s.fabric :=
  @State.enter_keeps (fun t => t.fabric = s.fabric) ⟨fun _ _ h => h⟩ ⟨fun _ _ h => h⟩ ⟨fun _ _ h => h⟩ ⟨fun _ _ h => h⟩ s a rfl
@[simp] theorem State.enter_powered (a : DevState) : (s.enter a).powered = s.powered :=
  @State.enter_keeps (fun t => t.powered = s.powered) ⟨fun _ _ h => h⟩ ⟨fun _ _ h => h⟩ ⟨fun _ _ h => h⟩ ⟨fun _ _ h => h⟩ s a rfl
@[simp] theorem State.enter_resident (a : DevState) : (s.enter a).resident = s.resident :=
  @State.enter_keeps (fun t => t.resident = s.resident) ⟨fun _ _ h => h⟩ ⟨fun _ _ h => h⟩ ⟨fun _ _ h => h⟩ ⟨fun _ _ h => h⟩ s a rfl
@[simp] theorem State.enter_residentComp (a : DevState) : (s.enter a).residentComp = s.residentComp :=
  @State.enter_keeps (fun t => t.residentComp = s.residentComp) ⟨fun _ _ h => h⟩ ⟨fun _ _ h => h⟩ ⟨fun _ _ h => h⟩ ⟨fun _ _ h => h⟩ s a rfl
@[simp] theorem State.enter_generations (a : DevState) : (s.enter a).generations = s.generations :=
  @State.enter_keeps (fun t => t.generations = s.generations) ⟨fun _ _ h => h⟩ ⟨fun _ _ h => h⟩ ⟨fun _ _ h => h⟩ ⟨fun _ _ h => h⟩ s a rfl
@[simp] theorem State.enter_contexts (a : DevState) : (s.enter a).contexts = s.contexts :=
  @State.enter_keeps (fun t => t.contexts = s.contexts) ⟨fun _ _ h => h⟩ ⟨fun _ _ h => h⟩ ⟨fun _ _ h => h⟩ ⟨fun _ _ h => h⟩ s a rfl
@[simp] theorem State.enter_chip (a : DevState) : (s.enter a).chip = s.chip :=
  @State.enter_keeps (fun t => t.chip = s.chip) ⟨fun _ _ h => h⟩ ⟨fun _ _ h => h⟩ ⟨fun _ _ h => h⟩ ⟨fun _ _ h => h⟩ s a rfl
@[simp] theorem State.enter_mgmt (a : DevState) : (s.enter a).mgmt = s.mgmt :=
  @State.enter_keeps (fun t => t.mgmt = s.mgmt) ⟨fun _ _ h => h⟩ ⟨fun _ _ h => h⟩ ⟨fun _ _ h => h⟩ ⟨fun _ _ h => h⟩ s a rfl
@[simp] theorem State.enter_flash (a : DevState) : (s.enter a).flash = s.flash :=
  @State.enter_keeps (fun t => t.flash = s.flash) ⟨fun _ _ h => h⟩ ⟨fun _ _ h => h⟩ ⟨fun _ _ h => h⟩ ⟨fun _ _ h => h⟩ s a rfl
@[simp] theorem State.enter_cfg (a : DevState) : (s.enter a).cfg = s.cfg :=
  @State.enter_keeps (fun t => t.cfg = s.cfg) ⟨fun _ _ h => h⟩ ⟨fun _ _ h => h⟩ ⟨fun _ _ h => h⟩ ⟨fun _ _ h => h⟩ s a rfl
@[simp] theorem State.enter_running (a : DevState) : (s.enter a).running = s.running :=
  @State.enter_keeps (fun t => t.running = s.running) ⟨fun _ _ h => h⟩ ⟨fun _ _ h => h⟩ ⟨fun _ _ h => h⟩ ⟨fun _ _ h => h⟩ s a rfl
@[simp] theorem State.enter_devmem (a : DevState) : (s.enter a).devmem = s.devmem :=
  @State.enter_keeps (fun t => t.devmem = s.devmem) ⟨fun _ _ h => h⟩ ⟨fun _ _ h => h⟩ ⟨fun _ _ h => h⟩ ⟨fun _ _ h => h⟩ s a rfl
@[simp] theorem State.enter_devFlips (a : DevState) : (s.enter a).devFlips = s.devFlips :=
  @State.enter_keeps (fun t => t.devFlips = s.devFlips) ⟨fun _ _ h => h⟩ ⟨fun _ _ h => h⟩ ⟨fun _ _ h => h⟩ ⟨fun _ _ h => h⟩ s a rfl
@[simp] theorem State.enter_mems (a : DevState) : (s.enter a).mems = s.mems :=
  @State.enter_keeps (fun t => t.mems = s.mems) ⟨fun _ _ h => h⟩ ⟨fun _ _ h => h⟩ ⟨fun _ _ h => h⟩ ⟨fun _ _ h => h⟩ s a rfl
@[simp] theorem State.enter_oports (a : DevState) : (s.enter a).oports = s.oports :=
  @State.enter_keeps (fun t => t.oports = s.oports) ⟨fun _ _ h => h⟩ ⟨fun _ _ h => h⟩ ⟨fun _ _ h => h⟩ ⟨fun _ _ h => h⟩ s a rfl
@[simp] theorem State.enter_ochans (a : DevState) : (s.enter a).ochans = s.ochans :=
  @State.enter_keeps (fun t => t.ochans = s.ochans) ⟨fun _ _ h => h⟩ ⟨fun _ _ h => h⟩ ⟨fun _ _ h => h⟩ ⟨fun _ _ h => h⟩ s a rfl
@[simp] theorem State.enter_lasers (a : DevState) : (s.enter a).lasers = s.lasers :=
  @State.enter_keeps (fun t => t.lasers = s.lasers) ⟨fun _ _ h => h⟩ ⟨fun _ _ h => h⟩ ⟨fun _ _ h => h⟩ ⟨fun _ _ h => h⟩ s a rfl
@[simp] theorem State.enter_edges (a : DevState) : (s.enter a).edges = s.edges :=
  @State.enter_keeps (fun t => t.edges = s.edges) ⟨fun _ _ h => h⟩ ⟨fun _ _ h => h⟩ ⟨fun _ _ h => h⟩ ⟨fun _ _ h => h⟩ s a rfl
@[simp] theorem State.enter_gangPairs (a : DevState) : (s.enter a).gangPairs = s.gangPairs :=
  @State.enter_keeps (fun t => t.gangPairs = s.gangPairs) ⟨fun _ _ h => h⟩ ⟨fun _ _ h => h⟩ ⟨fun _ _ h => h⟩ ⟨fun _ _ h => h⟩ s a rfl
@[simp] theorem State.enter_dies (a : DevState) : (s.enter a).dies = s.dies :=
  @State.enter_keeps (fun t => t.dies = s.dies) ⟨fun _ _ h => h⟩ ⟨fun _ _ h => h⟩ ⟨fun _ _ h => h⟩ ⟨fun _ _ h => h⟩ s a rfl
@[simp] theorem State.enter_repair (a : DevState) : (s.enter a).repair = s.repair :=
  @State.enter_keeps (fun t => t.repair = s.repair) ⟨fun _ _ h => h⟩ ⟨fun _ _ h => h⟩ ⟨fun _ _ h => h⟩ ⟨fun _ _ h => h⟩ s a rfl
@[simp] theorem State.enter_pins (a : DevState) : (s.enter a).pins = s.pins :=
  @State.enter_keeps (fun t => t.pins = s.pins) ⟨fun _ _ h => h⟩ ⟨fun _ _ h => h⟩ ⟨fun _ _ h => h⟩ ⟨fun _ _ h => h⟩ s a rfl
@[simp] theorem State.enter_inputMv (a : DevState) : (s.enter a).inputMv = s.inputMv :=
  @State.enter_keeps (fun t => t.inputMv = s.inputMv) ⟨fun _ _ h => h⟩ ⟨fun _ _ h => h⟩ ⟨fun _ _ h => h⟩ ⟨fun _ _ h => h⟩ s a rfl
@[simp] theorem State.enter_inputW (a : DevState) : (s.enter a).inputW = s.inputW :=
  @State.enter_keeps (fun t => t.inputW = s.inputW) ⟨fun _ _ h => h⟩ ⟨fun _ _ h => h⟩ ⟨fun _ _ h => h⟩ ⟨fun _ _ h => h⟩ s a rfl
@[simp] theorem State.enter_fresh (a : DevState) : (s.enter a).fresh = s.fresh :=
  @State.enter_keeps (fun t => t.fresh = s.fresh) ⟨fun _ _ h => h⟩ ⟨fun _ _ h => h⟩ ⟨fun _ _ h => h⟩ ⟨fun _ _ h => h⟩ s a rfl
@[simp] theorem State.enter_pending (a : DevState) : (s.enter a).pending = s.pending :=
  @State.enter_keeps (fun t => t.pending = s.pending) ⟨fun _ _ h => h⟩ ⟨fun _ _ h => h⟩ ⟨fun _ _ h => h⟩ ⟨fun _ _ h => h⟩ s a rfl

/-! ### violation -/

@[simp] theorem State.violation_localTime (a : Nat) (b : Nat) : (s.violation a b).localTime = s.localTime :=
  @State.violation_keeps (fun t => t.localTime = s.localTime) ⟨fun _ _ h => h⟩ ⟨fun _ _ h => h⟩ ⟨fun _ _ h => h⟩ ⟨fun _ _ h => h⟩ ⟨fun _ _ h => h⟩ s a b rfl
@[simp] theorem State.violation_epochOffset (a : Nat) (b : Nat) : (s.violation a b).epochOffset = s.epochOffset :=
  @State.violation_keeps (fun t => t.epochOffset = s.epochOffset) ⟨fun _ _ h => h⟩ ⟨fun _ _ h => h⟩ ⟨fun _ _ h => h⟩ ⟨fun _ _ h => h⟩ ⟨fun _ _ h => h⟩ s a b rfl
@[simp] theorem State.violation_fabricValid (a : Nat) (b : Nat) : (s.violation a b).fabricValid = s.fabricValid :=
  @State.violation_keeps (fun t => t.fabricValid = s.fabricValid) ⟨fun _ _ h => h⟩ ⟨fun _ _ h => h⟩ ⟨fun _ _ h => h⟩ ⟨fun _ _ h => h⟩ ⟨fun _ _ h => h⟩ s a b rfl
@[simp] theorem State.violation_fabric (a : Nat) (b : Nat) : (s.violation a b).fabric = s.fabric :=
  @State.violation_keeps (fun t => t.fabric = s.fabric) ⟨fun _ _ h => h⟩ ⟨fun _ _ h => h⟩ ⟨fun _ _ h => h⟩ ⟨fun _ _ h => h⟩ ⟨fun _ _ h => h⟩ s a b rfl
@[simp] theorem State.violation_powered (a : Nat) (b : Nat) : (s.violation a b).powered = s.powered :=
  @State.violation_keeps (fun t => t.powered = s.powered) ⟨fun _ _ h => h⟩ ⟨fun _ _ h => h⟩ ⟨fun _ _ h => h⟩ ⟨fun _ _ h => h⟩ ⟨fun _ _ h => h⟩ s a b rfl
@[simp] theorem State.violation_resident (a : Nat) (b : Nat) : (s.violation a b).resident = s.resident :=
  @State.violation_keeps (fun t => t.resident = s.resident) ⟨fun _ _ h => h⟩ ⟨fun _ _ h => h⟩ ⟨fun _ _ h => h⟩ ⟨fun _ _ h => h⟩ ⟨fun _ _ h => h⟩ s a b rfl
@[simp] theorem State.violation_residentComp (a : Nat) (b : Nat) : (s.violation a b).residentComp = s.residentComp :=
  @State.violation_keeps (fun t => t.residentComp = s.residentComp) ⟨fun _ _ h => h⟩ ⟨fun _ _ h => h⟩ ⟨fun _ _ h => h⟩ ⟨fun _ _ h => h⟩ ⟨fun _ _ h => h⟩ s a b rfl
@[simp] theorem State.violation_generations (a : Nat) (b : Nat) : (s.violation a b).generations = s.generations :=
  @State.violation_keeps (fun t => t.generations = s.generations) ⟨fun _ _ h => h⟩ ⟨fun _ _ h => h⟩ ⟨fun _ _ h => h⟩ ⟨fun _ _ h => h⟩ ⟨fun _ _ h => h⟩ s a b rfl
@[simp] theorem State.violation_contexts (a : Nat) (b : Nat) : (s.violation a b).contexts = s.contexts :=
  @State.violation_keeps (fun t => t.contexts = s.contexts) ⟨fun _ _ h => h⟩ ⟨fun _ _ h => h⟩ ⟨fun _ _ h => h⟩ ⟨fun _ _ h => h⟩ ⟨fun _ _ h => h⟩ s a b rfl
@[simp] theorem State.violation_chip (a : Nat) (b : Nat) : (s.violation a b).chip = s.chip :=
  @State.violation_keeps (fun t => t.chip = s.chip) ⟨fun _ _ h => h⟩ ⟨fun _ _ h => h⟩ ⟨fun _ _ h => h⟩ ⟨fun _ _ h => h⟩ ⟨fun _ _ h => h⟩ s a b rfl
@[simp] theorem State.violation_mgmt (a : Nat) (b : Nat) : (s.violation a b).mgmt = s.mgmt :=
  @State.violation_keeps (fun t => t.mgmt = s.mgmt) ⟨fun _ _ h => h⟩ ⟨fun _ _ h => h⟩ ⟨fun _ _ h => h⟩ ⟨fun _ _ h => h⟩ ⟨fun _ _ h => h⟩ s a b rfl
@[simp] theorem State.violation_flash (a : Nat) (b : Nat) : (s.violation a b).flash = s.flash :=
  @State.violation_keeps (fun t => t.flash = s.flash) ⟨fun _ _ h => h⟩ ⟨fun _ _ h => h⟩ ⟨fun _ _ h => h⟩ ⟨fun _ _ h => h⟩ ⟨fun _ _ h => h⟩ s a b rfl
@[simp] theorem State.violation_cfg (a : Nat) (b : Nat) : (s.violation a b).cfg = s.cfg :=
  @State.violation_keeps (fun t => t.cfg = s.cfg) ⟨fun _ _ h => h⟩ ⟨fun _ _ h => h⟩ ⟨fun _ _ h => h⟩ ⟨fun _ _ h => h⟩ ⟨fun _ _ h => h⟩ s a b rfl
@[simp] theorem State.violation_running (a : Nat) (b : Nat) : (s.violation a b).running = s.running :=
  @State.violation_keeps (fun t => t.running = s.running) ⟨fun _ _ h => h⟩ ⟨fun _ _ h => h⟩ ⟨fun _ _ h => h⟩ ⟨fun _ _ h => h⟩ ⟨fun _ _ h => h⟩ s a b rfl
@[simp] theorem State.violation_devmem (a : Nat) (b : Nat) : (s.violation a b).devmem = s.devmem :=
  @State.violation_keeps (fun t => t.devmem = s.devmem) ⟨fun _ _ h => h⟩ ⟨fun _ _ h => h⟩ ⟨fun _ _ h => h⟩ ⟨fun _ _ h => h⟩ ⟨fun _ _ h => h⟩ s a b rfl
@[simp] theorem State.violation_devFlips (a : Nat) (b : Nat) : (s.violation a b).devFlips = s.devFlips :=
  @State.violation_keeps (fun t => t.devFlips = s.devFlips) ⟨fun _ _ h => h⟩ ⟨fun _ _ h => h⟩ ⟨fun _ _ h => h⟩ ⟨fun _ _ h => h⟩ ⟨fun _ _ h => h⟩ s a b rfl
@[simp] theorem State.violation_mems (a : Nat) (b : Nat) : (s.violation a b).mems = s.mems :=
  @State.violation_keeps (fun t => t.mems = s.mems) ⟨fun _ _ h => h⟩ ⟨fun _ _ h => h⟩ ⟨fun _ _ h => h⟩ ⟨fun _ _ h => h⟩ ⟨fun _ _ h => h⟩ s a b rfl
@[simp] theorem State.violation_oports (a : Nat) (b : Nat) : (s.violation a b).oports = s.oports :=
  @State.violation_keeps (fun t => t.oports = s.oports) ⟨fun _ _ h => h⟩ ⟨fun _ _ h => h⟩ ⟨fun _ _ h => h⟩ ⟨fun _ _ h => h⟩ ⟨fun _ _ h => h⟩ s a b rfl
@[simp] theorem State.violation_ochans (a : Nat) (b : Nat) : (s.violation a b).ochans = s.ochans :=
  @State.violation_keeps (fun t => t.ochans = s.ochans) ⟨fun _ _ h => h⟩ ⟨fun _ _ h => h⟩ ⟨fun _ _ h => h⟩ ⟨fun _ _ h => h⟩ ⟨fun _ _ h => h⟩ s a b rfl
@[simp] theorem State.violation_lasers (a : Nat) (b : Nat) : (s.violation a b).lasers = s.lasers :=
  @State.violation_keeps (fun t => t.lasers = s.lasers) ⟨fun _ _ h => h⟩ ⟨fun _ _ h => h⟩ ⟨fun _ _ h => h⟩ ⟨fun _ _ h => h⟩ ⟨fun _ _ h => h⟩ s a b rfl
@[simp] theorem State.violation_edges (a : Nat) (b : Nat) : (s.violation a b).edges = s.edges :=
  @State.violation_keeps (fun t => t.edges = s.edges) ⟨fun _ _ h => h⟩ ⟨fun _ _ h => h⟩ ⟨fun _ _ h => h⟩ ⟨fun _ _ h => h⟩ ⟨fun _ _ h => h⟩ s a b rfl
@[simp] theorem State.violation_gangPairs (a : Nat) (b : Nat) : (s.violation a b).gangPairs = s.gangPairs :=
  @State.violation_keeps (fun t => t.gangPairs = s.gangPairs) ⟨fun _ _ h => h⟩ ⟨fun _ _ h => h⟩ ⟨fun _ _ h => h⟩ ⟨fun _ _ h => h⟩ ⟨fun _ _ h => h⟩ s a b rfl
@[simp] theorem State.violation_dies (a : Nat) (b : Nat) : (s.violation a b).dies = s.dies :=
  @State.violation_keeps (fun t => t.dies = s.dies) ⟨fun _ _ h => h⟩ ⟨fun _ _ h => h⟩ ⟨fun _ _ h => h⟩ ⟨fun _ _ h => h⟩ ⟨fun _ _ h => h⟩ s a b rfl
@[simp] theorem State.violation_repair (a : Nat) (b : Nat) : (s.violation a b).repair = s.repair :=
  @State.violation_keeps (fun t => t.repair = s.repair) ⟨fun _ _ h => h⟩ ⟨fun _ _ h => h⟩ ⟨fun _ _ h => h⟩ ⟨fun _ _ h => h⟩ ⟨fun _ _ h => h⟩ s a b rfl
@[simp] theorem State.violation_pins (a : Nat) (b : Nat) : (s.violation a b).pins = s.pins :=
  @State.violation_keeps (fun t => t.pins = s.pins) ⟨fun _ _ h => h⟩ ⟨fun _ _ h => h⟩ ⟨fun _ _ h => h⟩ ⟨fun _ _ h => h⟩ ⟨fun _ _ h => h⟩ s a b rfl
@[simp] theorem State.violation_inputMv (a : Nat) (b : Nat) : (s.violation a b).inputMv = s.inputMv :=
  @State.violation_keeps (fun t => t.inputMv = s.inputMv) ⟨fun _ _ h => h⟩ ⟨fun _ _ h => h⟩ ⟨fun _ _ h => h⟩ ⟨fun _ _ h => h⟩ ⟨fun _ _ h => h⟩ s a b rfl
@[simp] theorem State.violation_inputW (a : Nat) (b : Nat) : (s.violation a b).inputW = s.inputW :=
  @State.violation_keeps (fun t => t.inputW = s.inputW) ⟨fun _ _ h => h⟩ ⟨fun _ _ h => h⟩ ⟨fun _ _ h => h⟩ ⟨fun _ _ h => h⟩ ⟨fun _ _ h => h⟩ s a b rfl
@[simp] theorem State.violation_pending (a : Nat) (b : Nat) : (s.violation a b).pending = s.pending :=
  @State.violation_keeps (fun t => t.pending = s.pending) ⟨fun _ _ h => h⟩ ⟨fun _ _ h => h⟩ ⟨fun _ _ h => h⟩ ⟨fun _ _ h => h⟩ ⟨fun _ _ h => h⟩ s a b rfl

/-! ### cut -/

@[simp] theorem State.cut_localTime : (s.cut).localTime = s.localTime :=
  @State.cut_keeps (fun t => t.localTime = s.localTime) ⟨fun _ _ h => h⟩ ⟨fun _ _ h => h⟩ ⟨fun _ _ h => h⟩ ⟨fun _ _ h => h⟩ ⟨fun _ _ h => h⟩ s rfl
@[simp] theorem State.cut_epochOffset : (s.cut).epochOffset = s.epochOffset :=
  @State.cut_keeps (fun t => t.epochOffset = s.epochOffset) ⟨fun _ _ h => h⟩ ⟨fun _ _ h => h⟩ ⟨fun _ _ h => h⟩ ⟨fun _ _ h => h⟩ ⟨fun _ _ h => h⟩ s rfl
@[simp] theorem State.cut_fabricValid : (s.cut).fabricValid = s.fabricValid :=
  @State.cut_keeps (fun t => t.fabricValid = s.fabricValid) ⟨fun _ _ h => h⟩ ⟨fun _ _ h => h⟩ ⟨fun _ _ h => h⟩ ⟨fun _ _ h => h⟩ ⟨fun _ _ h => h⟩ s rfl
@[simp] theorem State.cut_fabric : (s.cut).fabric = s.fabric :=
  @State.cut_keeps (fun t => t.fabric = s.fabric) ⟨fun _ _ h => h⟩ ⟨fun _ _ h => h⟩ ⟨fun _ _ h => h⟩ ⟨fun _ _ h => h⟩ ⟨fun _ _ h => h⟩ s rfl
@[simp] theorem State.cut_powered : (s.cut).powered = s.powered :=
  @State.cut_keeps (fun t => t.powered = s.powered) ⟨fun _ _ h => h⟩ ⟨fun _ _ h => h⟩ ⟨fun _ _ h => h⟩ ⟨fun _ _ h => h⟩ ⟨fun _ _ h => h⟩ s rfl
@[simp] theorem State.cut_resident : (s.cut).resident = s.resident :=
  @State.cut_keeps (fun t => t.resident = s.resident) ⟨fun _ _ h => h⟩ ⟨fun _ _ h => h⟩ ⟨fun _ _ h => h⟩ ⟨fun _ _ h => h⟩ ⟨fun _ _ h => h⟩ s rfl
@[simp] theorem State.cut_residentComp : (s.cut).residentComp = s.residentComp :=
  @State.cut_keeps (fun t => t.residentComp = s.residentComp) ⟨fun _ _ h => h⟩ ⟨fun _ _ h => h⟩ ⟨fun _ _ h => h⟩ ⟨fun _ _ h => h⟩ ⟨fun _ _ h => h⟩ s rfl
@[simp] theorem State.cut_generations : (s.cut).generations = s.generations :=
  @State.cut_keeps (fun t => t.generations = s.generations) ⟨fun _ _ h => h⟩ ⟨fun _ _ h => h⟩ ⟨fun _ _ h => h⟩ ⟨fun _ _ h => h⟩ ⟨fun _ _ h => h⟩ s rfl
@[simp] theorem State.cut_contexts : (s.cut).contexts = s.contexts :=
  @State.cut_keeps (fun t => t.contexts = s.contexts) ⟨fun _ _ h => h⟩ ⟨fun _ _ h => h⟩ ⟨fun _ _ h => h⟩ ⟨fun _ _ h => h⟩ ⟨fun _ _ h => h⟩ s rfl
@[simp] theorem State.cut_chip : (s.cut).chip = s.chip :=
  @State.cut_keeps (fun t => t.chip = s.chip) ⟨fun _ _ h => h⟩ ⟨fun _ _ h => h⟩ ⟨fun _ _ h => h⟩ ⟨fun _ _ h => h⟩ ⟨fun _ _ h => h⟩ s rfl
@[simp] theorem State.cut_mgmt : (s.cut).mgmt = s.mgmt :=
  @State.cut_keeps (fun t => t.mgmt = s.mgmt) ⟨fun _ _ h => h⟩ ⟨fun _ _ h => h⟩ ⟨fun _ _ h => h⟩ ⟨fun _ _ h => h⟩ ⟨fun _ _ h => h⟩ s rfl
@[simp] theorem State.cut_flash : (s.cut).flash = s.flash :=
  @State.cut_keeps (fun t => t.flash = s.flash) ⟨fun _ _ h => h⟩ ⟨fun _ _ h => h⟩ ⟨fun _ _ h => h⟩ ⟨fun _ _ h => h⟩ ⟨fun _ _ h => h⟩ s rfl
@[simp] theorem State.cut_cfg : (s.cut).cfg = s.cfg :=
  @State.cut_keeps (fun t => t.cfg = s.cfg) ⟨fun _ _ h => h⟩ ⟨fun _ _ h => h⟩ ⟨fun _ _ h => h⟩ ⟨fun _ _ h => h⟩ ⟨fun _ _ h => h⟩ s rfl
@[simp] theorem State.cut_running : (s.cut).running = s.running :=
  @State.cut_keeps (fun t => t.running = s.running) ⟨fun _ _ h => h⟩ ⟨fun _ _ h => h⟩ ⟨fun _ _ h => h⟩ ⟨fun _ _ h => h⟩ ⟨fun _ _ h => h⟩ s rfl
@[simp] theorem State.cut_devmem : (s.cut).devmem = s.devmem :=
  @State.cut_keeps (fun t => t.devmem = s.devmem) ⟨fun _ _ h => h⟩ ⟨fun _ _ h => h⟩ ⟨fun _ _ h => h⟩ ⟨fun _ _ h => h⟩ ⟨fun _ _ h => h⟩ s rfl
@[simp] theorem State.cut_devFlips : (s.cut).devFlips = s.devFlips :=
  @State.cut_keeps (fun t => t.devFlips = s.devFlips) ⟨fun _ _ h => h⟩ ⟨fun _ _ h => h⟩ ⟨fun _ _ h => h⟩ ⟨fun _ _ h => h⟩ ⟨fun _ _ h => h⟩ s rfl
@[simp] theorem State.cut_mems : (s.cut).mems = s.mems :=
  @State.cut_keeps (fun t => t.mems = s.mems) ⟨fun _ _ h => h⟩ ⟨fun _ _ h => h⟩ ⟨fun _ _ h => h⟩ ⟨fun _ _ h => h⟩ ⟨fun _ _ h => h⟩ s rfl
@[simp] theorem State.cut_oports : (s.cut).oports = s.oports :=
  @State.cut_keeps (fun t => t.oports = s.oports) ⟨fun _ _ h => h⟩ ⟨fun _ _ h => h⟩ ⟨fun _ _ h => h⟩ ⟨fun _ _ h => h⟩ ⟨fun _ _ h => h⟩ s rfl
@[simp] theorem State.cut_ochans : (s.cut).ochans = s.ochans :=
  @State.cut_keeps (fun t => t.ochans = s.ochans) ⟨fun _ _ h => h⟩ ⟨fun _ _ h => h⟩ ⟨fun _ _ h => h⟩ ⟨fun _ _ h => h⟩ ⟨fun _ _ h => h⟩ s rfl
@[simp] theorem State.cut_lasers : (s.cut).lasers = s.lasers :=
  @State.cut_keeps (fun t => t.lasers = s.lasers) ⟨fun _ _ h => h⟩ ⟨fun _ _ h => h⟩ ⟨fun _ _ h => h⟩ ⟨fun _ _ h => h⟩ ⟨fun _ _ h => h⟩ s rfl
@[simp] theorem State.cut_edges : (s.cut).edges = s.edges :=
  @State.cut_keeps (fun t => t.edges = s.edges) ⟨fun _ _ h => h⟩ ⟨fun _ _ h => h⟩ ⟨fun _ _ h => h⟩ ⟨fun _ _ h => h⟩ ⟨fun _ _ h => h⟩ s rfl
@[simp] theorem State.cut_gangPairs : (s.cut).gangPairs = s.gangPairs :=
  @State.cut_keeps (fun t => t.gangPairs = s.gangPairs) ⟨fun _ _ h => h⟩ ⟨fun _ _ h => h⟩ ⟨fun _ _ h => h⟩ ⟨fun _ _ h => h⟩ ⟨fun _ _ h => h⟩ s rfl
@[simp] theorem State.cut_dies : (s.cut).dies = s.dies :=
  @State.cut_keeps (fun t => t.dies = s.dies) ⟨fun _ _ h => h⟩ ⟨fun _ _ h => h⟩ ⟨fun _ _ h => h⟩ ⟨fun _ _ h => h⟩ ⟨fun _ _ h => h⟩ s rfl
@[simp] theorem State.cut_repair : (s.cut).repair = s.repair :=
  @State.cut_keeps (fun t => t.repair = s.repair) ⟨fun _ _ h => h⟩ ⟨fun _ _ h => h⟩ ⟨fun _ _ h => h⟩ ⟨fun _ _ h => h⟩ ⟨fun _ _ h => h⟩ s rfl
@[simp] theorem State.cut_pins : (s.cut).pins = s.pins :=
  @State.cut_keeps (fun t => t.pins = s.pins) ⟨fun _ _ h => h⟩ ⟨fun _ _ h => h⟩ ⟨fun _ _ h => h⟩ ⟨fun _ _ h => h⟩ ⟨fun _ _ h => h⟩ s rfl
@[simp] theorem State.cut_inputMv : (s.cut).inputMv = s.inputMv :=
  @State.cut_keeps (fun t => t.inputMv = s.inputMv) ⟨fun _ _ h => h⟩ ⟨fun _ _ h => h⟩ ⟨fun _ _ h => h⟩ ⟨fun _ _ h => h⟩ ⟨fun _ _ h => h⟩ s rfl
@[simp] theorem State.cut_inputW : (s.cut).inputW = s.inputW :=
  @State.cut_keeps (fun t => t.inputW = s.inputW) ⟨fun _ _ h => h⟩ ⟨fun _ _ h => h⟩ ⟨fun _ _ h => h⟩ ⟨fun _ _ h => h⟩ ⟨fun _ _ h => h⟩ s rfl
@[simp] theorem State.cut_pending : (s.cut).pending = s.pending :=
  @State.cut_keeps (fun t => t.pending = s.pending) ⟨fun _ _ h => h⟩ ⟨fun _ _ h => h⟩ ⟨fun _ _ h => h⟩ ⟨fun _ _ h => h⟩ ⟨fun _ _ h => h⟩ s rfl

/-! ### halt -/

@[simp] theorem State.halt_localTime (a : Nat) : (s.halt a).localTime = s.localTime :=
  @State.halt_keeps (fun t => t.localTime = s.localTime) ⟨fun _ _ h => h⟩ ⟨fun _ _ h => h⟩ ⟨fun _ _ h => h⟩ ⟨fun _ _ h => h⟩ ⟨fun _ _ h => h⟩ s a rfl
@[simp] theorem State.halt_epochOffset (a : Nat) : (s.halt a).epochOffset = s.epochOffset :=
  @State.halt_keeps (fun t => t.epochOffset = s.epochOffset) ⟨fun _ _ h => h⟩ ⟨fun _ _ h => h⟩ ⟨fun _ _ h => h⟩ ⟨fun _ _ h => h⟩ ⟨fun _ _ h => h⟩ s a rfl
@[simp] theorem State.halt_fabricValid (a : Nat) : (s.halt a).fabricValid = s.fabricValid :=
  @State.halt_keeps (fun t => t.fabricValid = s.fabricValid) ⟨fun _ _ h => h⟩ ⟨fun _ _ h => h⟩ ⟨fun _ _ h => h⟩ ⟨fun _ _ h => h⟩ ⟨fun _ _ h => h⟩ s a rfl
@[simp] theorem State.halt_fabric (a : Nat) : (s.halt a).fabric = s.fabric :=
  @State.halt_keeps (fun t => t.fabric = s.fabric) ⟨fun _ _ h => h⟩ ⟨fun _ _ h => h⟩ ⟨fun _ _ h => h⟩ ⟨fun _ _ h => h⟩ ⟨fun _ _ h => h⟩ s a rfl
@[simp] theorem State.halt_powered (a : Nat) : (s.halt a).powered = s.powered :=
  @State.halt_keeps (fun t => t.powered = s.powered) ⟨fun _ _ h => h⟩ ⟨fun _ _ h => h⟩ ⟨fun _ _ h => h⟩ ⟨fun _ _ h => h⟩ ⟨fun _ _ h => h⟩ s a rfl
@[simp] theorem State.halt_resident (a : Nat) : (s.halt a).resident = s.resident :=
  @State.halt_keeps (fun t => t.resident = s.resident) ⟨fun _ _ h => h⟩ ⟨fun _ _ h => h⟩ ⟨fun _ _ h => h⟩ ⟨fun _ _ h => h⟩ ⟨fun _ _ h => h⟩ s a rfl
@[simp] theorem State.halt_residentComp (a : Nat) : (s.halt a).residentComp = s.residentComp :=
  @State.halt_keeps (fun t => t.residentComp = s.residentComp) ⟨fun _ _ h => h⟩ ⟨fun _ _ h => h⟩ ⟨fun _ _ h => h⟩ ⟨fun _ _ h => h⟩ ⟨fun _ _ h => h⟩ s a rfl
@[simp] theorem State.halt_generations (a : Nat) : (s.halt a).generations = s.generations :=
  @State.halt_keeps (fun t => t.generations = s.generations) ⟨fun _ _ h => h⟩ ⟨fun _ _ h => h⟩ ⟨fun _ _ h => h⟩ ⟨fun _ _ h => h⟩ ⟨fun _ _ h => h⟩ s a rfl
@[simp] theorem State.halt_contexts (a : Nat) : (s.halt a).contexts = s.contexts :=
  @State.halt_keeps (fun t => t.contexts = s.contexts) ⟨fun _ _ h => h⟩ ⟨fun _ _ h => h⟩ ⟨fun _ _ h => h⟩ ⟨fun _ _ h => h⟩ ⟨fun _ _ h => h⟩ s a rfl
@[simp] theorem State.halt_chip (a : Nat) : (s.halt a).chip = s.chip :=
  @State.halt_keeps (fun t => t.chip = s.chip) ⟨fun _ _ h => h⟩ ⟨fun _ _ h => h⟩ ⟨fun _ _ h => h⟩ ⟨fun _ _ h => h⟩ ⟨fun _ _ h => h⟩ s a rfl
@[simp] theorem State.halt_mgmt (a : Nat) : (s.halt a).mgmt = s.mgmt :=
  @State.halt_keeps (fun t => t.mgmt = s.mgmt) ⟨fun _ _ h => h⟩ ⟨fun _ _ h => h⟩ ⟨fun _ _ h => h⟩ ⟨fun _ _ h => h⟩ ⟨fun _ _ h => h⟩ s a rfl
@[simp] theorem State.halt_flash (a : Nat) : (s.halt a).flash = s.flash :=
  @State.halt_keeps (fun t => t.flash = s.flash) ⟨fun _ _ h => h⟩ ⟨fun _ _ h => h⟩ ⟨fun _ _ h => h⟩ ⟨fun _ _ h => h⟩ ⟨fun _ _ h => h⟩ s a rfl
@[simp] theorem State.halt_cfg (a : Nat) : (s.halt a).cfg = s.cfg :=
  @State.halt_keeps (fun t => t.cfg = s.cfg) ⟨fun _ _ h => h⟩ ⟨fun _ _ h => h⟩ ⟨fun _ _ h => h⟩ ⟨fun _ _ h => h⟩ ⟨fun _ _ h => h⟩ s a rfl
@[simp] theorem State.halt_running (a : Nat) : (s.halt a).running = s.running :=
  @State.halt_keeps (fun t => t.running = s.running) ⟨fun _ _ h => h⟩ ⟨fun _ _ h => h⟩ ⟨fun _ _ h => h⟩ ⟨fun _ _ h => h⟩ ⟨fun _ _ h => h⟩ s a rfl
@[simp] theorem State.halt_devmem (a : Nat) : (s.halt a).devmem = s.devmem :=
  @State.halt_keeps (fun t => t.devmem = s.devmem) ⟨fun _ _ h => h⟩ ⟨fun _ _ h => h⟩ ⟨fun _ _ h => h⟩ ⟨fun _ _ h => h⟩ ⟨fun _ _ h => h⟩ s a rfl
@[simp] theorem State.halt_devFlips (a : Nat) : (s.halt a).devFlips = s.devFlips :=
  @State.halt_keeps (fun t => t.devFlips = s.devFlips) ⟨fun _ _ h => h⟩ ⟨fun _ _ h => h⟩ ⟨fun _ _ h => h⟩ ⟨fun _ _ h => h⟩ ⟨fun _ _ h => h⟩ s a rfl
@[simp] theorem State.halt_mems (a : Nat) : (s.halt a).mems = s.mems :=
  @State.halt_keeps (fun t => t.mems = s.mems) ⟨fun _ _ h => h⟩ ⟨fun _ _ h => h⟩ ⟨fun _ _ h => h⟩ ⟨fun _ _ h => h⟩ ⟨fun _ _ h => h⟩ s a rfl
@[simp] theorem State.halt_oports (a : Nat) : (s.halt a).oports = s.oports :=
  @State.halt_keeps (fun t => t.oports = s.oports) ⟨fun _ _ h => h⟩ ⟨fun _ _ h => h⟩ ⟨fun _ _ h => h⟩ ⟨fun _ _ h => h⟩ ⟨fun _ _ h => h⟩ s a rfl
@[simp] theorem State.halt_ochans (a : Nat) : (s.halt a).ochans = s.ochans :=
  @State.halt_keeps (fun t => t.ochans = s.ochans) ⟨fun _ _ h => h⟩ ⟨fun _ _ h => h⟩ ⟨fun _ _ h => h⟩ ⟨fun _ _ h => h⟩ ⟨fun _ _ h => h⟩ s a rfl
@[simp] theorem State.halt_lasers (a : Nat) : (s.halt a).lasers = s.lasers :=
  @State.halt_keeps (fun t => t.lasers = s.lasers) ⟨fun _ _ h => h⟩ ⟨fun _ _ h => h⟩ ⟨fun _ _ h => h⟩ ⟨fun _ _ h => h⟩ ⟨fun _ _ h => h⟩ s a rfl
@[simp] theorem State.halt_edges (a : Nat) : (s.halt a).edges = s.edges :=
  @State.halt_keeps (fun t => t.edges = s.edges) ⟨fun _ _ h => h⟩ ⟨fun _ _ h => h⟩ ⟨fun _ _ h => h⟩ ⟨fun _ _ h => h⟩ ⟨fun _ _ h => h⟩ s a rfl
@[simp] theorem State.halt_gangPairs (a : Nat) : (s.halt a).gangPairs = s.gangPairs :=
  @State.halt_keeps (fun t => t.gangPairs = s.gangPairs) ⟨fun _ _ h => h⟩ ⟨fun _ _ h => h⟩ ⟨fun _ _ h => h⟩ ⟨fun _ _ h => h⟩ ⟨fun _ _ h => h⟩ s a rfl
@[simp] theorem State.halt_dies (a : Nat) : (s.halt a).dies = s.dies :=
  @State.halt_keeps (fun t => t.dies = s.dies) ⟨fun _ _ h => h⟩ ⟨fun _ _ h => h⟩ ⟨fun _ _ h => h⟩ ⟨fun _ _ h => h⟩ ⟨fun _ _ h => h⟩ s a rfl
@[simp] theorem State.halt_repair (a : Nat) : (s.halt a).repair = s.repair :=
  @State.halt_keeps (fun t => t.repair = s.repair) ⟨fun _ _ h => h⟩ ⟨fun _ _ h => h⟩ ⟨fun _ _ h => h⟩ ⟨fun _ _ h => h⟩ ⟨fun _ _ h => h⟩ s a rfl
@[simp] theorem State.halt_pins (a : Nat) : (s.halt a).pins = s.pins :=
  @State.halt_keeps (fun t => t.pins = s.pins) ⟨fun _ _ h => h⟩ ⟨fun _ _ h => h⟩ ⟨fun _ _ h => h⟩ ⟨fun _ _ h => h⟩ ⟨fun _ _ h => h⟩ s a rfl
@[simp] theorem State.halt_inputMv (a : Nat) : (s.halt a).inputMv = s.inputMv :=
  @State.halt_keeps (fun t => t.inputMv = s.inputMv) ⟨fun _ _ h => h⟩ ⟨fun _ _ h => h⟩ ⟨fun _ _ h => h⟩ ⟨fun _ _ h => h⟩ ⟨fun _ _ h => h⟩ s a rfl
@[simp] theorem State.halt_inputW (a : Nat) : (s.halt a).inputW = s.inputW :=
  @State.halt_keeps (fun t => t.inputW = s.inputW) ⟨fun _ _ h => h⟩ ⟨fun _ _ h => h⟩ ⟨fun _ _ h => h⟩ ⟨fun _ _ h => h⟩ ⟨fun _ _ h => h⟩ s a rfl
@[simp] theorem State.halt_pending (a : Nat) : (s.halt a).pending = s.pending :=
  @State.halt_keeps (fun t => t.pending = s.pending) ⟨fun _ _ h => h⟩ ⟨fun _ _ h => h⟩ ⟨fun _ _ h => h⟩ ⟨fun _ _ h => h⟩ ⟨fun _ _ h => h⟩ s a rfl

/-! ### renew -/

@[simp] theorem State.renew_localTime (a : Nat) (b : Ans) : (s.renew a b).localTime = s.localTime :=
  @State.renew_keeps (fun t => t.localTime = s.localTime) ⟨fun _ _ h => h⟩ s a b rfl
@[simp] theorem State.renew_epochOffset (a : Nat) (b : Ans) : (s.renew a b).epochOffset = s.epochOffset :=
  @State.renew_keeps (fun t => t.epochOffset = s.epochOffset) ⟨fun _ _ h => h⟩ s a b rfl
@[simp] theorem State.renew_fabricValid (a : Nat) (b : Ans) : (s.renew a b).fabricValid = s.fabricValid :=
  @State.renew_keeps (fun t => t.fabricValid = s.fabricValid) ⟨fun _ _ h => h⟩ s a b rfl
@[simp] theorem State.renew_fabric (a : Nat) (b : Ans) : (s.renew a b).fabric = s.fabric :=
  @State.renew_keeps (fun t => t.fabric = s.fabric) ⟨fun _ _ h => h⟩ s a b rfl
@[simp] theorem State.renew_powered (a : Nat) (b : Ans) : (s.renew a b).powered = s.powered :=
  @State.renew_keeps (fun t => t.powered = s.powered) ⟨fun _ _ h => h⟩ s a b rfl
@[simp] theorem State.renew_resident (a : Nat) (b : Ans) : (s.renew a b).resident = s.resident :=
  @State.renew_keeps (fun t => t.resident = s.resident) ⟨fun _ _ h => h⟩ s a b rfl
@[simp] theorem State.renew_residentComp (a : Nat) (b : Ans) : (s.renew a b).residentComp = s.residentComp :=
  @State.renew_keeps (fun t => t.residentComp = s.residentComp) ⟨fun _ _ h => h⟩ s a b rfl
@[simp] theorem State.renew_generations (a : Nat) (b : Ans) : (s.renew a b).generations = s.generations :=
  @State.renew_keeps (fun t => t.generations = s.generations) ⟨fun _ _ h => h⟩ s a b rfl
@[simp] theorem State.renew_contexts (a : Nat) (b : Ans) : (s.renew a b).contexts = s.contexts :=
  @State.renew_keeps (fun t => t.contexts = s.contexts) ⟨fun _ _ h => h⟩ s a b rfl
@[simp] theorem State.renew_chip (a : Nat) (b : Ans) : (s.renew a b).chip = s.chip :=
  @State.renew_keeps (fun t => t.chip = s.chip) ⟨fun _ _ h => h⟩ s a b rfl
@[simp] theorem State.renew_hosts (a : Nat) (b : Ans) : (s.renew a b).hosts = s.hosts :=
  @State.renew_keeps (fun t => t.hosts = s.hosts) ⟨fun _ _ h => h⟩ s a b rfl
@[simp] theorem State.renew_mgmt (a : Nat) (b : Ans) : (s.renew a b).mgmt = s.mgmt :=
  @State.renew_keeps (fun t => t.mgmt = s.mgmt) ⟨fun _ _ h => h⟩ s a b rfl
@[simp] theorem State.renew_flash (a : Nat) (b : Ans) : (s.renew a b).flash = s.flash :=
  @State.renew_keeps (fun t => t.flash = s.flash) ⟨fun _ _ h => h⟩ s a b rfl
@[simp] theorem State.renew_cfg (a : Nat) (b : Ans) : (s.renew a b).cfg = s.cfg :=
  @State.renew_keeps (fun t => t.cfg = s.cfg) ⟨fun _ _ h => h⟩ s a b rfl
@[simp] theorem State.renew_running (a : Nat) (b : Ans) : (s.renew a b).running = s.running :=
  @State.renew_keeps (fun t => t.running = s.running) ⟨fun _ _ h => h⟩ s a b rfl
@[simp] theorem State.renew_regs (a : Nat) (b : Ans) : (s.renew a b).regs = s.regs :=
  @State.renew_keeps (fun t => t.regs = s.regs) ⟨fun _ _ h => h⟩ s a b rfl
@[simp] theorem State.renew_devmem (a : Nat) (b : Ans) : (s.renew a b).devmem = s.devmem :=
  @State.renew_keeps (fun t => t.devmem = s.devmem) ⟨fun _ _ h => h⟩ s a b rfl
@[simp] theorem State.renew_devFlips (a : Nat) (b : Ans) : (s.renew a b).devFlips = s.devFlips :=
  @State.renew_keeps (fun t => t.devFlips = s.devFlips) ⟨fun _ _ h => h⟩ s a b rfl
@[simp] theorem State.renew_mems (a : Nat) (b : Ans) : (s.renew a b).mems = s.mems :=
  @State.renew_keeps (fun t => t.mems = s.mems) ⟨fun _ _ h => h⟩ s a b rfl
@[simp] theorem State.renew_oports (a : Nat) (b : Ans) : (s.renew a b).oports = s.oports :=
  @State.renew_keeps (fun t => t.oports = s.oports) ⟨fun _ _ h => h⟩ s a b rfl
@[simp] theorem State.renew_ochans (a : Nat) (b : Ans) : (s.renew a b).ochans = s.ochans :=
  @State.renew_keeps (fun t => t.ochans = s.ochans) ⟨fun _ _ h => h⟩ s a b rfl
@[simp] theorem State.renew_lasers (a : Nat) (b : Ans) : (s.renew a b).lasers = s.lasers :=
  @State.renew_keeps (fun t => t.lasers = s.lasers) ⟨fun _ _ h => h⟩ s a b rfl
@[simp] theorem State.renew_edges (a : Nat) (b : Ans) : (s.renew a b).edges = s.edges :=
  @State.renew_keeps (fun t => t.edges = s.edges) ⟨fun _ _ h => h⟩ s a b rfl
@[simp] theorem State.renew_gangPairs (a : Nat) (b : Ans) : (s.renew a b).gangPairs = s.gangPairs :=
  @State.renew_keeps (fun t => t.gangPairs = s.gangPairs) ⟨fun _ _ h => h⟩ s a b rfl
@[simp] theorem State.renew_dies (a : Nat) (b : Ans) : (s.renew a b).dies = s.dies :=
  @State.renew_keeps (fun t => t.dies = s.dies) ⟨fun _ _ h => h⟩ s a b rfl
@[simp] theorem State.renew_repair (a : Nat) (b : Ans) : (s.renew a b).repair = s.repair :=
  @State.renew_keeps (fun t => t.repair = s.repair) ⟨fun _ _ h => h⟩ s a b rfl
@[simp] theorem State.renew_pins (a : Nat) (b : Ans) : (s.renew a b).pins = s.pins :=
  @State.renew_keeps (fun t => t.pins = s.pins) ⟨fun _ _ h => h⟩ s a b rfl
@[simp] theorem State.renew_inputMv (a : Nat) (b : Ans) : (s.renew a b).inputMv = s.inputMv :=
  @State.renew_keeps (fun t => t.inputMv = s.inputMv) ⟨fun _ _ h => h⟩ s a b rfl
@[simp] theorem State.renew_inputW (a : Nat) (b : Ans) : (s.renew a b).inputW = s.inputW :=
  @State.renew_keeps (fun t => t.inputW = s.inputW) ⟨fun _ _ h => h⟩ s a b rfl
@[simp] theorem State.renew_sent (a : Nat) (b : Ans) : (s.renew a b).sent = s.sent :=
  @State.renew_keeps (fun t => t.sent = s.sent) ⟨fun _ _ h => h⟩ s a b rfl
@[simp] theorem State.renew_fresh (a : Nat) (b : Ans) : (s.renew a b).fresh = s.fresh :=
  @State.renew_keeps (fun t => t.fresh = s.fresh) ⟨fun _ _ h => h⟩ s a b rfl
@[simp] theorem State.renew_pending (a : Nat) (b : Ans) : (s.renew a b).pending = s.pending :=
  @State.renew_keeps (fun t => t.pending = s.pending) ⟨fun _ _ h => h⟩ s a b rfl

/-! ### respond -/

@[simp] theorem State.respond_localTime (a : Mbx) (b : Ans) (c : Bool) : (s.respond a b c).localTime = s.localTime :=
  @State.respond_keeps (fun t => t.localTime = s.localTime) ⟨fun _ _ h => h⟩ ⟨fun _ _ h => h⟩ ⟨fun _ _ h => h⟩ s a b c rfl
@[simp] theorem State.respond_epochOffset (a : Mbx) (b : Ans) (c : Bool) : (s.respond a b c).epochOffset = s.epochOffset :=
  @State.respond_keeps (fun t => t.epochOffset = s.epochOffset) ⟨fun _ _ h => h⟩ ⟨fun _ _ h => h⟩ ⟨fun _ _ h => h⟩ s a b c rfl
@[simp] theorem State.respond_fabricValid (a : Mbx) (b : Ans) (c : Bool) : (s.respond a b c).fabricValid = s.fabricValid :=
  @State.respond_keeps (fun t => t.fabricValid = s.fabricValid) ⟨fun _ _ h => h⟩ ⟨fun _ _ h => h⟩ ⟨fun _ _ h => h⟩ s a b c rfl
@[simp] theorem State.respond_fabric (a : Mbx) (b : Ans) (c : Bool) : (s.respond a b c).fabric = s.fabric :=
  @State.respond_keeps (fun t => t.fabric = s.fabric) ⟨fun _ _ h => h⟩ ⟨fun _ _ h => h⟩ ⟨fun _ _ h => h⟩ s a b c rfl
@[simp] theorem State.respond_powered (a : Mbx) (b : Ans) (c : Bool) : (s.respond a b c).powered = s.powered :=
  @State.respond_keeps (fun t => t.powered = s.powered) ⟨fun _ _ h => h⟩ ⟨fun _ _ h => h⟩ ⟨fun _ _ h => h⟩ s a b c rfl
@[simp] theorem State.respond_resident (a : Mbx) (b : Ans) (c : Bool) : (s.respond a b c).resident = s.resident :=
  @State.respond_keeps (fun t => t.resident = s.resident) ⟨fun _ _ h => h⟩ ⟨fun _ _ h => h⟩ ⟨fun _ _ h => h⟩ s a b c rfl
@[simp] theorem State.respond_residentComp (a : Mbx) (b : Ans) (c : Bool) : (s.respond a b c).residentComp = s.residentComp :=
  @State.respond_keeps (fun t => t.residentComp = s.residentComp) ⟨fun _ _ h => h⟩ ⟨fun _ _ h => h⟩ ⟨fun _ _ h => h⟩ s a b c rfl
@[simp] theorem State.respond_generations (a : Mbx) (b : Ans) (c : Bool) : (s.respond a b c).generations = s.generations :=
  @State.respond_keeps (fun t => t.generations = s.generations) ⟨fun _ _ h => h⟩ ⟨fun _ _ h => h⟩ ⟨fun _ _ h => h⟩ s a b c rfl
@[simp] theorem State.respond_contexts (a : Mbx) (b : Ans) (c : Bool) : (s.respond a b c).contexts = s.contexts :=
  @State.respond_keeps (fun t => t.contexts = s.contexts) ⟨fun _ _ h => h⟩ ⟨fun _ _ h => h⟩ ⟨fun _ _ h => h⟩ s a b c rfl
@[simp] theorem State.respond_chip (a : Mbx) (b : Ans) (c : Bool) : (s.respond a b c).chip = s.chip :=
  @State.respond_keeps (fun t => t.chip = s.chip) ⟨fun _ _ h => h⟩ ⟨fun _ _ h => h⟩ ⟨fun _ _ h => h⟩ s a b c rfl
@[simp] theorem State.respond_mgmt (a : Mbx) (b : Ans) (c : Bool) : (s.respond a b c).mgmt = s.mgmt :=
  @State.respond_keeps (fun t => t.mgmt = s.mgmt) ⟨fun _ _ h => h⟩ ⟨fun _ _ h => h⟩ ⟨fun _ _ h => h⟩ s a b c rfl
@[simp] theorem State.respond_flash (a : Mbx) (b : Ans) (c : Bool) : (s.respond a b c).flash = s.flash :=
  @State.respond_keeps (fun t => t.flash = s.flash) ⟨fun _ _ h => h⟩ ⟨fun _ _ h => h⟩ ⟨fun _ _ h => h⟩ s a b c rfl
@[simp] theorem State.respond_cfg (a : Mbx) (b : Ans) (c : Bool) : (s.respond a b c).cfg = s.cfg :=
  @State.respond_keeps (fun t => t.cfg = s.cfg) ⟨fun _ _ h => h⟩ ⟨fun _ _ h => h⟩ ⟨fun _ _ h => h⟩ s a b c rfl
@[simp] theorem State.respond_running (a : Mbx) (b : Ans) (c : Bool) : (s.respond a b c).running = s.running :=
  @State.respond_keeps (fun t => t.running = s.running) ⟨fun _ _ h => h⟩ ⟨fun _ _ h => h⟩ ⟨fun _ _ h => h⟩ s a b c rfl
@[simp] theorem State.respond_regs (a : Mbx) (b : Ans) (c : Bool) : (s.respond a b c).regs = s.regs :=
  @State.respond_keeps (fun t => t.regs = s.regs) ⟨fun _ _ h => h⟩ ⟨fun _ _ h => h⟩ ⟨fun _ _ h => h⟩ s a b c rfl
@[simp] theorem State.respond_devmem (a : Mbx) (b : Ans) (c : Bool) : (s.respond a b c).devmem = s.devmem :=
  @State.respond_keeps (fun t => t.devmem = s.devmem) ⟨fun _ _ h => h⟩ ⟨fun _ _ h => h⟩ ⟨fun _ _ h => h⟩ s a b c rfl
@[simp] theorem State.respond_devFlips (a : Mbx) (b : Ans) (c : Bool) : (s.respond a b c).devFlips = s.devFlips :=
  @State.respond_keeps (fun t => t.devFlips = s.devFlips) ⟨fun _ _ h => h⟩ ⟨fun _ _ h => h⟩ ⟨fun _ _ h => h⟩ s a b c rfl
@[simp] theorem State.respond_mems (a : Mbx) (b : Ans) (c : Bool) : (s.respond a b c).mems = s.mems :=
  @State.respond_keeps (fun t => t.mems = s.mems) ⟨fun _ _ h => h⟩ ⟨fun _ _ h => h⟩ ⟨fun _ _ h => h⟩ s a b c rfl
@[simp] theorem State.respond_oports (a : Mbx) (b : Ans) (c : Bool) : (s.respond a b c).oports = s.oports :=
  @State.respond_keeps (fun t => t.oports = s.oports) ⟨fun _ _ h => h⟩ ⟨fun _ _ h => h⟩ ⟨fun _ _ h => h⟩ s a b c rfl
@[simp] theorem State.respond_ochans (a : Mbx) (b : Ans) (c : Bool) : (s.respond a b c).ochans = s.ochans :=
  @State.respond_keeps (fun t => t.ochans = s.ochans) ⟨fun _ _ h => h⟩ ⟨fun _ _ h => h⟩ ⟨fun _ _ h => h⟩ s a b c rfl
@[simp] theorem State.respond_lasers (a : Mbx) (b : Ans) (c : Bool) : (s.respond a b c).lasers = s.lasers :=
  @State.respond_keeps (fun t => t.lasers = s.lasers) ⟨fun _ _ h => h⟩ ⟨fun _ _ h => h⟩ ⟨fun _ _ h => h⟩ s a b c rfl
@[simp] theorem State.respond_edges (a : Mbx) (b : Ans) (c : Bool) : (s.respond a b c).edges = s.edges :=
  @State.respond_keeps (fun t => t.edges = s.edges) ⟨fun _ _ h => h⟩ ⟨fun _ _ h => h⟩ ⟨fun _ _ h => h⟩ s a b c rfl
@[simp] theorem State.respond_gangPairs (a : Mbx) (b : Ans) (c : Bool) : (s.respond a b c).gangPairs = s.gangPairs :=
  @State.respond_keeps (fun t => t.gangPairs = s.gangPairs) ⟨fun _ _ h => h⟩ ⟨fun _ _ h => h⟩ ⟨fun _ _ h => h⟩ s a b c rfl
@[simp] theorem State.respond_dies (a : Mbx) (b : Ans) (c : Bool) : (s.respond a b c).dies = s.dies :=
  @State.respond_keeps (fun t => t.dies = s.dies) ⟨fun _ _ h => h⟩ ⟨fun _ _ h => h⟩ ⟨fun _ _ h => h⟩ s a b c rfl
@[simp] theorem State.respond_repair (a : Mbx) (b : Ans) (c : Bool) : (s.respond a b c).repair = s.repair :=
  @State.respond_keeps (fun t => t.repair = s.repair) ⟨fun _ _ h => h⟩ ⟨fun _ _ h => h⟩ ⟨fun _ _ h => h⟩ s a b c rfl
@[simp] theorem State.respond_pins (a : Mbx) (b : Ans) (c : Bool) : (s.respond a b c).pins = s.pins :=
  @State.respond_keeps (fun t => t.pins = s.pins) ⟨fun _ _ h => h⟩ ⟨fun _ _ h => h⟩ ⟨fun _ _ h => h⟩ s a b c rfl
@[simp] theorem State.respond_inputMv (a : Mbx) (b : Ans) (c : Bool) : (s.respond a b c).inputMv = s.inputMv :=
  @State.respond_keeps (fun t => t.inputMv = s.inputMv) ⟨fun _ _ h => h⟩ ⟨fun _ _ h => h⟩ ⟨fun _ _ h => h⟩ s a b c rfl
@[simp] theorem State.respond_inputW (a : Mbx) (b : Ans) (c : Bool) : (s.respond a b c).inputW = s.inputW :=
  @State.respond_keeps (fun t => t.inputW = s.inputW) ⟨fun _ _ h => h⟩ ⟨fun _ _ h => h⟩ ⟨fun _ _ h => h⟩ s a b c rfl
@[simp] theorem State.respond_fresh (a : Mbx) (b : Ans) (c : Bool) : (s.respond a b c).fresh = s.fresh :=
  @State.respond_keeps (fun t => t.fresh = s.fresh) ⟨fun _ _ h => h⟩ ⟨fun _ _ h => h⟩ ⟨fun _ _ h => h⟩ s a b c rfl
@[simp] theorem State.respond_pending (a : Mbx) (b : Ans) (c : Bool) : (s.respond a b c).pending = s.pending :=
  @State.respond_keeps (fun t => t.pending = s.pending) ⟨fun _ _ h => h⟩ ⟨fun _ _ h => h⟩ ⟨fun _ _ h => h⟩ s a b c rfl

end Sys2Proof.Machine
end

