-- ==== Sys2Proof/Laws/Tables.lean ====
section
/-! SUPPORT. Reading back what was written: sparse tables, register words, and the named parts of the state. -/

namespace Sys2Proof.Machine

/-! ## Sparse tables -/

@[simp] theorem Tab.find?_set_same {α : Type} (i : Nat) (v : α) : ∀ t : Tbl α, Tab.find? (Tab.set t i v) i = some v
  | [] => by simp [Tab.set, Tab.find?]
  | (k, x) :: t => by
    unfold Tab.set
    split
    · simp [Tab.find?]
    · split
      · simp [Tab.find?]
      · next h _ => simp [Tab.find?, h, Tab.find?_set_same i v t]

theorem Tab.find?_set_other {α : Type} {i j : Nat} (v : α) (h : j ≠ i) : ∀ t : Tbl α, Tab.find? (Tab.set t i v) j = Tab.find? t j
  | [] => by simp [Tab.set, Tab.find?, Ne.symm h]
  | (k, x) :: t => by
    unfold Tab.set
    split
    · next e => subst e; simp [Tab.find?, Ne.symm h]
    · split
      · simp [Tab.find?, Ne.symm h]
      · simp [Tab.find?, Tab.find?_set_other v h t]

@[simp] theorem Tab.get_set_same {α : Type} (d : α) (i : Nat) (v : α) (t : Tbl α) : Tab.get d (Tab.set t i v) i = v := by
  simp [Tab.get]

theorem Tab.get_set_other {α : Type} (d : α) {i j : Nat} (v : α) (h : j ≠ i) (t : Tbl α) : Tab.get d (Tab.set t i v) j = Tab.get d t j := by
  simp [Tab.get, Tab.find?_set_other v h]

@[simp] theorem Tab.get_upd_same {α : Type} (d : α) (i : Nat) (f : α → α) (t : Tbl α) : Tab.get d (Tab.upd d t i f) i = f (Tab.get d t i) := by
  simp [Tab.upd]

theorem Tab.get_upd_other {α : Type} (d : α) {i j : Nat} (f : α → α) (h : j ≠ i) (t : Tbl α) :
    Tab.get d (Tab.upd d t i f) j = Tab.get d t j := by
  simp [Tab.upd, Tab.get_set_other d _ h]

/-- Two index pairs with second numbers below 256 share a key only when they are equal. -/
theorem pairKey_ne {a b c d : Nat} (hb : b < 256) (hd : d < 256) (h : (a, b) ≠ (c, d)) : pairKey a b ≠ pairKey c d := by
  unfold pairKey
  intro e
  apply h
  have : a = c := by omega
  subst this
  simp; omega

/-! ## Register words -/

theorem RegTab.get_filter_same (r : Reg) : ∀ t : List (Reg × Word64), RegTab.get (t.filter fun e => e.1 ≠ r) r = 0
  | [] => rfl
  | (k, v) :: t => by
    by_cases h : k = r
    · simpa [h] using RegTab.get_filter_same r t
    · simpa [h, RegTab.get] using RegTab.get_filter_same r t

theorem RegTab.get_filter_other {r q : Reg} (h : q ≠ r) : ∀ t : List (Reg × Word64), RegTab.get (t.filter fun e => e.1 ≠ r) q = RegTab.get t q
  | [] => rfl
  | (k, v) :: t => by
    by_cases hk : k = r
    · subst hk; simpa [RegTab.get, Ne.symm h] using RegTab.get_filter_other h t
    · have := RegTab.get_filter_other h t
      simp [hk, RegTab.get] at this ⊢
      rw [this]

@[simp] theorem RegTab.get_set_same (t : List (Reg × Word64)) (r : Reg) (w : Word64) : RegTab.get (RegTab.set t r w) r = w := by
  unfold RegTab.set
  split
  · next h => subst h; exact RegTab.get_filter_same r t
  · simp [RegTab.get]

theorem RegTab.get_set_other (t : List (Reg × Word64)) {r q : Reg} (w : Word64) (h : q ≠ r) : RegTab.get (RegTab.set t r w) q = RegTab.get t q := by
  unfold RegTab.set
  split
  · exact RegTab.get_filter_other h t
  · rw [RegTab.get, if_neg (Ne.symm h)]
    exact RegTab.get_filter_other h t

/-! ## The named parts -/

variable (s : State)

@[simp] theorem State.reg_setReg_same (r : Reg) (w : Word64) : (s.setReg r w).reg r = w := RegTab.get_set_same _ _ _
theorem State.reg_setReg_other {r q : Reg} (w : Word64) (h : q ≠ r) : (s.setReg r w).reg q = s.reg q := RegTab.get_set_other _ _ h
@[simp] theorem State.reg_setField_same (r : Reg) (hi lo v : Nat) : (s.setField r hi lo v).reg r = withField (s.reg r) hi lo v :=
  State.reg_setReg_same _ _ _
theorem State.reg_setField_other {r q : Reg} (hi lo v : Nat) (h : q ≠ r) : (s.setField r hi lo v).reg q = s.reg q := State.reg_setReg_other _ _ h
@[simp] theorem State.reg_bump_same (r : Reg) (hi lo n : Nat) : (s.bump r hi lo n).reg r = bumpField (s.reg r) hi lo n :=
  State.reg_setReg_same _ _ _
theorem State.reg_bump_other {r q : Reg} (hi lo n : Nat) (h : q ≠ r) : (s.bump r hi lo n).reg q = s.reg q := State.reg_setReg_other _ _ h
@[simp] theorem State.reg_setBit_same (r : Reg) (n : Nat) : (s.setBit r n).reg r = withField (s.reg r) n n 1 := State.reg_setReg_same _ _ _
theorem State.reg_setBit_other {r q : Reg} (n : Nat) (h : q ≠ r) : (s.setBit r n).reg q = s.reg q := State.reg_setReg_other _ _ h

/-- A register is read from the register words alone. -/
theorem State.reg_congr {s t : State} (h : t.regs = s.regs) (r : Reg) : t.reg r = s.reg r := by unfold State.reg; rw [h]

@[simp] theorem State.core_modCore_same (c : Nat) (f : Core → Core) : (s.modCore c f).core c = f (s.core c) := Tab.get_upd_same _ _ _ _
theorem State.core_modCore_other {c j : Nat} (f : Core → Core) (h : j ≠ c) : (s.modCore c f).core j = s.core j := Tab.get_upd_other _ _ h _
theorem State.core_congr {s t : State} (h : t.chip.cores = s.chip.cores) (c : Nat) : t.core c = s.core c := by unfold State.core; rw [h]

@[simp] theorem State.stream_modStream_same (i : Nat) (f : Stream → Stream) : (s.modStream i f).stream i = f (s.stream i) := Tab.get_upd_same _ _ _ _
theorem State.stream_modStream_other {i j : Nat} (f : Stream → Stream) (h : j ≠ i) : (s.modStream i f).stream j = s.stream j := Tab.get_upd_other _ _ h _
theorem State.stream_congr {s t : State} (h : t.chip.streams = s.chip.streams) (i : Nat) : t.stream i = s.stream i := by unfold State.stream; rw [h]

@[simp] theorem State.host_modHost_same (p : Nat) (f : HostPort → HostPort) : (s.modHost p f).host p = f (s.host p) := Tab.get_upd_same _ _ _ _
theorem State.host_modHost_other {p j : Nat} (f : HostPort → HostPort) (h : j ≠ p) : (s.modHost p f).host j = s.host j := Tab.get_upd_other _ _ h _
theorem State.host_congr {s t : State} (h : t.hosts = s.hosts) (p : Nat) : t.host p = s.host p := by unfold State.host; rw [h]

@[simp] theorem State.mem_modMem_same (d : Nat) (f : MemDev → MemDev) : (s.modMem d f).mem d = f (s.mem d) := Tab.get_upd_same _ _ _ _
theorem State.mem_modMem_other {d j : Nat} (f : MemDev → MemDev) (h : j ≠ d) : (s.modMem d f).mem j = s.mem j := Tab.get_upd_other _ _ h _
theorem State.mem_congr {s t : State} (h : t.mems = s.mems) (d : Nat) : t.mem d = s.mem d := by unfold State.mem; rw [h]

@[simp] theorem State.oport_modOport_same (p : Nat) (f : OPort → OPort) : (s.modOport p f).oport p = f (s.oport p) := Tab.get_upd_same _ _ _ _
theorem State.oport_modOport_other {p j : Nat} (f : OPort → OPort) (h : j ≠ p) : (s.modOport p f).oport j = s.oport j := Tab.get_upd_other _ _ h _
theorem State.oport_congr {s t : State} (h : t.oports = s.oports) (p : Nat) : t.oport p = s.oport p := by unfold State.oport; rw [h]

@[simp] theorem State.die_modDie_same (d : Nat) (f : Die → Die) : (s.modDie d f).die d = f (s.die d) := Tab.get_upd_same _ _ _ _
theorem State.die_modDie_other {d j : Nat} (f : Die → Die) (h : j ≠ d) : (s.modDie d f).die j = s.die j := Tab.get_upd_other _ _ h _
theorem State.die_congr {s t : State} (h : t.dies = s.dies) (d : Nat) : t.die d = s.die d := by unfold State.die; rw [h]

@[simp] theorem State.ochan_modOchan_same (a b : Nat) (f : OChan → OChan) : (s.modOchan a b f).ochan a b = f (s.ochan a b) := Tab.get_upd_same _ _ _ _
theorem State.ochan_modOchan_other {a b c d : Nat} (f : OChan → OChan) (hb : b < 256) (hd : d < 256) (h : (c, d) ≠ (a, b)) :
    (s.modOchan a b f).ochan c d = s.ochan c d := Tab.get_upd_other _ _ (pairKey_ne hd hb h) _
theorem State.ochan_congr {s t : State} (h : t.ochans = s.ochans) (a b : Nat) : t.ochan a b = s.ochan a b := by unfold State.ochan; rw [h]

@[simp] theorem State.laser_modLaser_same (a b : Nat) (f : Laser → Laser) : (s.modLaser a b f).laser a b = f (s.laser a b) := Tab.get_upd_same _ _ _ _
theorem State.laser_modLaser_other {a b c d : Nat} (f : Laser → Laser) (hb : b < 256) (hd : d < 256) (h : (c, d) ≠ (a, b)) :
    (s.modLaser a b f).laser c d = s.laser c d := Tab.get_upd_other _ _ (pairKey_ne hd hb h) _
theorem State.laser_congr {s t : State} (h : t.lasers = s.lasers) (a b : Nat) : t.laser a b = s.laser a b := by unfold State.laser; rw [h]

@[simp] theorem State.edge_modEdge_same (a b : Nat) (f : Edge → Edge) : (s.modEdge a b f).edge a b = f (s.edge a b) := Tab.get_upd_same _ _ _ _
theorem State.edge_modEdge_other {a b c d : Nat} (f : Edge → Edge) (hb : b < 256) (hd : d < 256) (h : (c, d) ≠ (a, b)) :
    (s.modEdge a b f).edge c d = s.edge c d := Tab.get_upd_other _ _ (pairKey_ne hd hb h) _
theorem State.edge_congr {s t : State} (h : t.edges = s.edges) (a b : Nat) : t.edge a b = s.edge a b := by unfold State.edge; rw [h]

end Sys2Proof.Machine
end

