-- ==== Sys2Proof/Laws/Mailbox.lean ====
section
/-! SUPPORT. What answering a mailbox does: the reply a host reads, and what serving an accepted command comes to. -/

namespace Sys2Proof.Machine

/-! ## The reply -/

/-- Byte i of what was read from a memory. -/
theorem Mem.readN_getD (m : Mem) (a n i : Nat) (h : i < n) : (m.readN a n).getD i 0 = m.read (a + i) := by
  simp [Mem.readN, List.getD, h]

/-- A vector's message changes a host port in its pending bits only. -/
theorem State.host_sendVector (s : State) (p v q : Nat) : ∃ b, (s.sendVector p v).host q = { s.host q with pba := b } := by
  unfold State.sendVector
  split
  · by_cases h : q = p
    · subst h; exact ⟨_, State.host_modHost_same _ _ _⟩
    · exact ⟨_, State.host_modHost_other _ _ h⟩
  · exact ⟨(s.host q).pba, rfl⟩

/-- The host port of an answered mailbox, but for its pending bits: the response page written whole, the submitted bit clear, the
done bit set (R357). -/
theorem State.host_respond (s : State) (m : Mbx) (a : Ans) : ∃ b, (s.respond m a false).host m.port =
    { s.host m.port with
      pages := ((s.host m.port).pages.zero (0x2000 * m.box + 0x1000) (0x2000 * m.box + 0x1000 + 0x1000)).writeN (0x2000 * m.box + 0x1000)
        (responseHeader (s.renew m.port a) (s.requestOf m) a ++ a.data),
      submitted := (s.host m.port).submitted &&& ~~~(1#32 <<< m.box), done := (s.host m.port).done ||| 1#32 <<< m.box, pba := b } := by
  unfold State.respond State.requestOf
  simp only [Bool.false_eq_true, if_false]
  have hh : (s.renew m.port a).host m.port = s.host m.port := State.host_congr (State.renew_hosts s _ _) _
  rw [hh]
  generalize responseHeader (s.renew m.port a) ((s.host m.port).request m.box) a ++ a.data = r
  obtain ⟨b, hb⟩ := State.host_sendVector ((s.renew m.port a).modHost m.port fun h =>
    { h with
      pages := (h.pages.zero (0x2000 * m.box + 0x1000) (0x2000 * m.box + 0x1000 + 0x1000)).writeN (0x2000 * m.box + 0x1000) r,
      submitted := h.submitted &&& ~~~(1#32 <<< m.box), done := h.done ||| 1#32 <<< m.box }) m.port m.box m.port
  rw [State.host_modHost_same, hh] at hb
  exact ⟨b, hb⟩

/-- A header is 64 bytes. -/
theorem responseHeader_length (s : State) (req : Rec) (a : Ans) : (responseHeader s req a).length = 64 := by
  simp [responseHeader, slice_length, toLe_length, zeros]

/-- The response page after an answer: the header, the data, zero bytes to its end. -/
theorem State.replyOf_respond (s : State) (m : Mbx) (a : Ans) (i : Nat) (hi : i < 0x1000) :
    ((s.respond m a false).replyOf m).getD i 0 = (responseHeader (s.renew m.port a) (s.requestOf m) a ++ a.data).getD i 0 := by
  obtain ⟨b, hb⟩ := State.host_respond s m a
  unfold State.replyOf
  rw [hb, Mem.readN_getD _ _ _ _ hi]
  dsimp only
  generalize responseHeader (s.renew m.port a) (s.requestOf m) a ++ a.data = r
  by_cases h : i < r.length
  · rw [Mem.read_writeN _ _ _ _ h]
  · rw [Mem.read_writeN_other _ _ _ _ (by omega), Mem.read_zero, if_pos (by omega), List.getD, List.getElem?_eq_none (by omega)]; rfl

/-- The first bytes of a response page. -/
theorem State.slice_replyOf_respond (s : State) (m : Mbx) (a : Ans) (o n : Nat) (h : o + n ≤ 0x1000) :
    slice ((s.respond m a false).replyOf m) o n = slice (responseHeader (s.renew m.port a) (s.requestOf m) a ++ a.data) o n := by
  unfold slice
  apply List.map_congr_left
  intro i hi
  exact State.replyOf_respond s m a _ (by have := List.mem_range.mp hi; omega)

theorem slice_append_left (x y : Rec) (o n : Nat) (h : o + n ≤ x.length) : slice (x ++ y) o n = slice x o n := by
  unfold slice
  apply List.map_congr_left
  intro i hi
  have := List.mem_range.mp hi
  simp [List.getD, List.getElem?_append_left (show o + i < x.length by omega)]

theorem slice_append_right (x y : Rec) (n : Nat) : slice (x ++ y) x.length n = slice y 0 n := by
  unfold slice
  apply List.map_congr_left
  intro i _
  simp [List.getD, List.getElem?_append_right]

theorem slice_all (x : Rec) : slice x 0 x.length = x := by
  apply List.ext_getElem
  · simp [slice]
  · intro i h _
    simp [slice_getElem, List.getD]
    rw [List.getElem?_eq_getElem (by simpa [slice] using h)]; rfl

theorem le_append_left (x y : Rec) (o n : Nat) (h : o + n ≤ x.length) : le (x ++ y) o n = le x o n := by
  unfold le; rw [slice_append_left x y o n h]

theorem le_append_right (x y : Rec) (o n : Nat) : le (x ++ y) (x.length + o) n = le y o n := by
  unfold le slice
  congr 1
  apply List.map_congr_left
  intro i _
  simp [List.getD, Nat.add_assoc, List.getElem?_append_right]

theorem le_toLe (n v : Nat) (y : Rec) : le (toLe n v ++ y) 0 n = v % 256 ^ n := by
  have h := toLe_length n v
  rw [le_append_left _ _ _ _ (by omega)]
  unfold le
  rw [show slice (toLe n v) 0 n = toLe n v by simpa [h] using slice_all (toLe n v), ofLe_toLe]

theorem le_after {x : Rec} {k : Nat} (h : x.length = k) (y : Rec) (o n : Nat) : le (x ++ y) (k + o) n = le y o n := by
  subst h; exact le_append_right x y o n

theorem le_byte (b : Byte) (y : Rec) : le (b :: y) 0 1 = b.toNat := by simp [le, slice, ofLe, List.range_succ]

/-- The high byte of the check field stands at byte 15. -/
theorem le_toLe_high (v : Nat) (y : Rec) : le (toLe 4 v ++ y) 3 1 = v / 16777216 % 256 := by
  rw [le_append_left _ _ _ _ (by simp [toLe_length])]
  simp [toLe, le, slice, ofLe, List.range_succ, Nat.div_div_eq_div_mul]

/-- The low two bytes of a four-byte field. -/
theorem le_toLe_low (v : Nat) (y : Rec) : le (toLe 4 v ++ y) 0 2 = v % 65536 := by
  rw [show toLe 4 v = toLe 2 v ++ toLe 2 (v / 256 / 256) from rfl, List.append_assoc]
  exact le_toLe ..

theorem responseHeader_fields (s : State) (req : Rec) (a : Ans) (hc : a.code < 256) (hk : a.check < 256) (hl : a.data.length < 65536) :
    le (responseHeader s req a) 2 1 = a.code ∧ le (responseHeader s req a) 8 2 = a.data.length ∧
      le (responseHeader s req a) 12 2 = a.index % 65536 ∧ le (responseHeader s req a) 15 1 = a.check := by
  unfold responseHeader
  simp only [List.append_assoc]
  have h2 : (slice req 0 2).length = 2 := slice_length _ _ _
  have h4 : (slice req 4 4).length = 4 := slice_length _ _ _
  have ht := toLe_length 2 a.data.length
  refine ⟨?_, ?_, ?_, ?_⟩
  · exact (le_after h2 _ 0 1).trans ((le_byte _ _).trans ((BitVec.toNat_ofNat _ _).trans (Nat.mod_eq_of_lt hc)))
  · exact (le_after h2 _ (2 + (4 + 0)) 2).trans ((le_after rfl _ (4 + 0) 2).trans ((le_after h4 _ 0 2).trans ((le_toLe 2 _ _).trans
      (Nat.mod_eq_of_lt hl))))
  · refine (le_after h2 _ (2 + (4 + (2 + (2 + 0)))) 2).trans ((le_after rfl _ (4 + (2 + (2 + 0))) 2).trans ((le_after h4 _ (2 + (2 + 0)) 2).trans
      ((le_after ht _ (2 + 0) 2).trans ((le_after rfl _ 0 2).trans ((le_toLe_low _ _).trans ?_)))))
    omega
  · refine (le_after h2 _ (2 + (4 + (2 + (2 + 3)))) 1).trans ((le_after rfl _ (4 + (2 + (2 + 3))) 1).trans ((le_after h4 _ (2 + (2 + 3)) 1).trans
      ((le_after ht _ (2 + 3) 1).trans ((le_after rfl _ 3 1).trans ((le_toLe_high _ _).trans ?_)))))
    omega

/-- A field of the header of an answer as a host reads it. -/
theorem State.le_replyOf_respond (s : State) (m : Mbx) (a : Ans) (o n : Nat) (h : o + n ≤ 64) :
    le ((s.respond m a false).replyOf m) o n = le (responseHeader (s.renew m.port a) (s.requestOf m) a) o n := by
  have hlen := responseHeader_length (s.renew m.port a) (s.requestOf m) a
  unfold le
  rw [State.slice_replyOf_respond _ _ _ _ _ (by omega), slice_append_left _ _ _ _ (by omega)]

/-- The mailbox bits of an answered mailbox. -/
theorem State.bits_respond (s : State) (m : Mbx) (a : Ans) (hb : m.box < 32) :
    ((s.respond m a false).host m.port).done.getLsbD m.box = true ∧ ((s.respond m a false).host m.port).submitted.getLsbD m.box = false := by
  obtain ⟨b, hh⟩ := State.host_respond s m a
  rw [hh]
  simp [hb]

/-- An answer is what a host reads (R357, Table 11.8). -/
theorem State.respond_replied (s : State) (m : Mbx) (a : Ans) (hm : m.wf = true) (hc : a.code < 256) (hk : a.check < 256)
    (hl : a.data.length ≤ 4032) : Replied (s.respond m a false) m a := by
  have hb : m.box < 32 := by
    unfold Mbx.wf at hm
    simp at hm
    exact hm.2
  have hf := responseHeader_fields (s.renew m.port a) (s.requestOf m) a hc hk (by omega)
  have hbits := State.bits_respond s m a hb
  refine ⟨hbits.1, hbits.2, ?_, ?_, ?_, ?_, ?_⟩
  · rw [State.le_replyOf_respond _ _ _ _ _ (by omega), hf.1]
  · rw [State.le_replyOf_respond _ _ _ _ _ (by omega), hf.2.1]
  · rw [State.le_replyOf_respond _ _ _ _ _ (by omega), hf.2.2.1]
  · rw [State.le_replyOf_respond _ _ _ _ _ (by omega), hf.2.2.2]
  · rw [State.slice_replyOf_respond _ _ _ _ _ (by omega)]
    have h64 := responseHeader_length (s.renew m.port a) (s.requestOf m) a
    have := slice_append_right (responseHeader (s.renew m.port a) (s.requestOf m) a) a.data a.data.length
    rw [h64] at this
    rw [this, slice_all]

/-! ## Serving -/

/-- Serving an accepted command whose own effect answers at once. -/
theorem serve_answers {s t : State} {m : Mbx} {row : CmdRow} {form : Rec → Nat → Option Ans} {body : State → Rec → State × Option Ans}
    {a : Ans} (h : Accepted s m row form) (hl : listedCodes.contains row.code = true) (e : body s.dequeue (s.requestOf m) = (t, some a)) :
    serve s m row form body = t.respond m a false := by
  unfold serve
  have hc := h.code
  have hk := h.checks
  unfold State.requestOf at hc hk e
  rw [if_pos ⟨h.first, h.taking⟩]
  dsimp only
  rw [hc, hl, hk, e]
  simp

/-- Serving an accepted command that answers later, or has answered. -/
theorem serve_defers {s t : State} {m : Mbx} {row : CmdRow} {form : Rec → Nat → Option Ans} {body : State → Rec → State × Option Ans}
    (h : Accepted s m row form) (hl : listedCodes.contains row.code = true) (e : body s.dequeue (s.requestOf m) = (t, none)) :
    serve s m row form body = t := by
  unfold serve
  have hc := h.code
  have hk := h.checks
  unfold State.requestOf at hc hk e
  rw [if_pos ⟨h.first, h.taking⟩]
  dsimp only
  rw [hc, hl, hk, e]
  simp

end Sys2Proof.Machine
end

