-- ==== Sys2Proof/Laws/PerInstr.lean ====
section
/-! SUPPORT. Per command: the queue of waiting commands is among no command's parts. -/

namespace Sys2Proof.Laws.Touches

open Sys2Proof.Machine

/-- A command may not touch the queue. -/
def Statement (i : Instr) : Prop := Part.pending ∉ touches i

/-- The parts of a command given, its statement is decided. -/
theorem decided (i : Instr) (h : decide (Part.pending ∉ touches i) = true) : Statement i := of_decide_eq_true (p := Part.pending ∉ touches i) h

theorem queryState (m : Mbx) : Statement (.queryState m) := decided _ rfl
theorem queryCapability (m : Mbx) : Statement (.queryCapability m) := decided _ rfl
theorem readRegister (m : Mbx) : Statement (.readRegister m) := decided _ rfl
theorem writeRegister (m : Mbx) : Statement (.writeRegister m) := decided _ rfl
theorem setEpochOffset (m : Mbx) : Statement (.setEpochOffset m) := decided _ rfl
theorem setFabricAddress (m : Mbx) : Statement (.setFabricAddress m) := decided _ rfl
theorem claimOwnership (m : Mbx) : Statement (.claimOwnership m) := decided _ rfl
theorem releaseOwnership (m : Mbx) : Statement (.releaseOwnership m) := decided _ rfl
theorem acknowledgeHalt (m : Mbx) : Statement (.acknowledgeHalt m) := decided _ rfl
theorem readStrataLog (m : Mbx) : Statement (.readStrataLog m) := decided _ rfl
theorem reset (m : Mbx) : Statement (.reset m) := decided _ rfl
theorem createContext (m : Mbx) : Statement (.createContext m) := decided _ rfl
theorem destroyContext (m : Mbx) : Statement (.destroyContext m) := decided _ rfl
theorem switchContext (m : Mbx) : Statement (.switchContext m) := decided _ rfl
theorem switchContextComplete (saveErr restoreErr : Bool) : Statement (.switchContextComplete saveErr restoreErr) := decided _ rfl
theorem createRegion (m : Mbx) : Statement (.createRegion m) := decided _ rfl
theorem regionZeroingComplete (slot index : Nat) : Statement (.regionZeroingComplete slot index) := decided _ rfl
theorem destroyRegion (m : Mbx) : Statement (.destroyRegion m) := decided _ rfl
theorem loadPlan (m : Mbx) : Statement (.loadPlan m) := decided _ rfl
theorem loadPlanComplete : Statement .loadPlanComplete := decided _ rfl
theorem scrub (m : Mbx) : Statement (.scrub m) := decided _ rfl
theorem scrubComplete : Statement .scrubComplete := decided _ rfl
theorem openSession (m : Mbx) : Statement (.openSession m) := decided _ rfl
theorem closeSession (m : Mbx) : Statement (.closeSession m) := decided _ rfl
theorem attest (m : Mbx) : Statement (.attest m) := decided _ rfl
theorem attestComplete : Statement .attestComplete := decided _ rfl
theorem startStep (m : Mbx) : Statement (.startStep m) := decided _ rfl
theorem abortStep (m : Mbx) : Statement (.abortStep m) := decided _ rfl
theorem stepStopComplete : Statement .stepStopComplete := decided _ rfl
theorem armStream (m : Mbx) : Statement (.armStream m) := decided _ rfl
theorem setIdleTimers (m : Mbx) : Statement (.setIdleTimers m) := decided _ rfl
theorem mgmtSessionOpen (key : Rec) : Statement (.mgmtSessionOpen key) := decided _ rfl
theorem mgmtSessionIdleTimeout : Statement .mgmtSessionIdleTimeout := decided _ rfl
theorem mgmtStatus : Statement .mgmtStatus := decided _ rfl
theorem mgmtReadLog (args : Rec) : Statement (.mgmtReadLog args) := decided _ rfl
theorem mgmtAttest (ctx : BitVec 16) (args : Rec) : Statement (.mgmtAttest ctx args) := decided _ rfl
theorem updateBegin : Statement .updateBegin := decided _ rfl
theorem updateData (off : Nat) (chunk : Rec) : Statement (.updateData off chunk) := decided _ rfl
theorem updateCommit : Statement .updateCommit := decided _ rfl
theorem updateAbandon : Statement .updateAbandon := decided _ rfl
theorem updateActivate : Statement .updateActivate := decided _ rfl
theorem writeOperatorRecord (record : Rec) : Statement (.writeOperatorRecord record) := decided _ rfl
theorem mailboxDoorbell (port : Nat) (value : Word64) : Statement (.mailboxDoorbell port value) := decided _ rfl
theorem mailboxDoneClear (port : Nat) (value : Word64) : Statement (.mailboxDoneClear port value) := decided _ rfl
theorem interruptEnableWrite (port : Nat) (value : Word64) : Statement (.interruptEnableWrite port value) := decided _ rfl
theorem streamArm (src : ArmSource) (w : Word64) : Statement (.streamArm src w) := decided _ rfl
theorem streamRearm (src : ArmSource) (w : Word64) : Statement (.streamRearm src w) := decided _ rfl
theorem streamFaultClear (stream : Nat) : Statement (.streamFaultClear stream) := decided _ rfl
theorem readClearAccess (r : Reg) : Statement (.readClearAccess r) := decided _ rfl
theorem registerWrite (w : HostWrite) : Statement (.registerWrite w) := decided _ rfl
theorem hostCompletion (port : Nat) (target : CplTarget) (cpl : Completion) : Statement (.hostCompletion port target cpl) := decided _ rfl
theorem functionLevelReset (port : Nat) : Statement (.functionLevelReset port) := decided _ rfl
theorem perstAsserted (port : Nat) : Statement (.perstAsserted port) := decided _ rfl
theorem hostLinkDown (port : Nat) : Statement (.hostLinkDown port) := decided _ rfl
theorem leaseExpiry : Statement .leaseExpiry := decided _ rfl
theorem weightLoad (core : Nat) : Statement (.weightLoad core) := decided _ rfl
theorem weightLoadComplete (core id : Nat) : Statement (.weightLoadComplete core id) := decided _ rfl
theorem preload (core : Nat) : Statement (.preload core) := decided _ rfl
theorem drain (core : Nat) : Statement (.drain core) := decided _ rfl
theorem streamRows (core : Nat) : Statement (.streamRows core) := decided _ rfl
theorem engineBeat (core id : Nat) (upset : Upset) : Statement (.engineBeat core id upset) := decided _ rfl
theorem passComplete (core id : Nat) : Statement (.passComplete core id) := decided _ rfl
theorem vector (core : Nat) : Statement (.vector core) := decided _ rfl
theorem function (core : Nat) : Statement (.function core) := decided _ rfl
theorem rowReduction (core : Nat) : Statement (.rowReduction core) := decided _ rfl
theorem instructionComplete (core id : Nat) : Statement (.instructionComplete core id) := decided _ rfl
theorem instructionReleased (core : Nat) : Statement (.instructionReleased core) := decided _ rfl
theorem waitToken (core : Nat) : Statement (.waitToken core) := decided _ rfl
theorem signalToken (core : Nat) : Statement (.signalToken core) := decided _ rfl
theorem tokenWaitGranted (core : Nat) : Statement (.tokenWaitGranted core) := decided _ rfl
theorem tokenSignalGranted (core : Nat) : Statement (.tokenSignalGranted core) := decided _ rfl
theorem fillArm (core : Nat) : Statement (.fillArm core) := decided _ rfl
theorem fillJoin (core : Nat) : Statement (.fillJoin core) := decided _ rfl
theorem fillEnd (core : Nat) : Statement (.fillEnd core) := decided _ rfl
theorem fillTaskStart (core : Nat) : Statement (.fillTaskStart core) := decided _ rfl
theorem loop (core : Nat) : Statement (.loop core) := decided _ rfl
theorem loopEnd (core : Nat) : Statement (.loopEnd core) := decided _ rfl
theorem setIndex (core : Nat) : Statement (.setIndex core) := decided _ rfl
theorem addIndex (core : Nat) : Statement (.addIndex core) := decided _ rfl
theorem fence (core : Nat) : Statement (.fence core) := decided _ rfl
theorem stepEnd (core : Nat) : Statement (.stepEnd core) := decided _ rfl
theorem holdLimitExpiry (core : Nat) : Statement (.holdLimitExpiry core) := decided _ rfl
theorem engineWatchdogExpiry (core engine : Nat) : Statement (.engineWatchdogExpiry core engine) := decided _ rfl
theorem engineHandover (core engine : Nat) (plane0 plane1 : CopiedPlane) : Statement (.engineHandover core engine plane0 plane1) := decided _ rfl
theorem lineSubstitution (core bank line : Nat) : Statement (.lineSubstitution core bank line) := decided _ rfl
theorem descriptorFetch (stream : Nat) : Statement (.descriptorFetch stream) := decided _ rfl
theorem pebbleLineFetch (stream : Nat) : Statement (.pebbleLineFetch stream) := decided _ rfl
theorem transferStart (stream : Nat) : Statement (.transferStart stream) := decided _ rfl
theorem transferComplete (stream : Nat) : Statement (.transferComplete stream) := decided _ rfl
theorem streamFault (stream code : Nat) : Statement (.streamFault stream code) := decided _ rfl
theorem lodeTileAccept (stream : Nat) : Statement (.lodeTileAccept stream) := decided _ rfl
theorem lodeTileForward (stream : Nat) : Statement (.lodeTileForward stream) := decided _ rfl
theorem segmentBind (die edge stream words : Nat) : Statement (.segmentBind die edge stream words) := decided _ rfl
theorem segmentAcknowledged (die edge group : Nat) : Statement (.segmentAcknowledged die edge group) := decided _ rfl
theorem memoryAccessGrant (a : MemAccess) : Statement (.memoryAccessGrant a) := decided _ rfl
theorem refreshDue (dev : Nat) : Statement (.refreshDue dev) := decided _ rfl
theorem readTimingTracking (dev channel : Nat) : Statement (.readTimingTracking dev channel) := decided _ rfl
theorem temperatureReadout (dev : Nat) (celsius : Int) : Statement (.temperatureReadout dev celsius) := decided _ rfl
theorem fullRetraining (dev channel : Nat) (ok : Bool) : Statement (.fullRetraining dev channel ok) := decided _ rfl
theorem patrolRead (dev : Nat) (upset : Option (Nat × BitVec 144)) : Statement (.patrolRead dev upset) := decided _ rfl
theorem stepEndDetected : Statement .stepEndDetected := decided _ rfl
theorem updateEntryStart (die : Nat) : Statement (.updateEntryStart die) := decided _ rfl
theorem updateEntryComplete (die : Nat) : Statement (.updateEntryComplete die) := decided _ rfl
theorem collectiveInputTransfer (seq block : Nat) : Statement (.collectiveInputTransfer seq block) := decided _ rfl
theorem chunkReceived (port : Nat) (header payload : Rec) (bad : Bool) : Statement (.chunkReceived port header payload bad) := decided _ rfl
theorem stopReceived (port cls : Nat) : Statement (.stopReceived port cls) := decided _ rfl
theorem goReceived (port cls : Nat) : Statement (.goReceived port cls) := decided _ rfl
theorem acknowledgeReceived (port : Nat) (msg : Rec) : Statement (.acknowledgeReceived port msg) := decided _ rfl
theorem refuseReceived (port : Nat) (msg : Rec) : Statement (.refuseReceived port msg) := decided _ rfl
theorem resumeQueryReceived (port : Nat) (msg : Rec) : Statement (.resumeQueryReceived port msg) := decided _ rfl
theorem resumeAnswerReceived (port : Nat) (msg : Rec) : Statement (.resumeAnswerReceived port msg) := decided _ rfl
theorem resumeQueryTimeout (plane peer : Nat) : Statement (.resumeQueryTimeout plane peer) := decided _ rfl
theorem detourEnd (plane peer : Nat) : Statement (.detourEnd plane peer) := decided _ rfl
theorem agreementStart (seq : Nat) : Statement (.agreementStart seq) := decided _ rfl
theorem collectiveComplete (seq : Nat) : Statement (.collectiveComplete seq) := decided _ rfl
theorem collectiveHoldLimit (seq : Nat) : Statement (.collectiveHoldLimit seq) := decided _ rfl
theorem flitReceived (port : Nat) (control : BitVec 20) (flit : Rec) (corrected : Nat) (uncorrectable : Bool) : Statement (.flitReceived port control flit corrected uncorrectable) := decided _ rfl
theorem nackReceived (port : Nat) (ack : Word32) : Statement (.nackReceived port ack) := decided _ rfl
theorem nackTimeout (port : Nat) : Statement (.nackTimeout port) := decided _ rfl
theorem linkDownTimeExpiry (port : Nat) : Statement (.linkDownTimeExpiry port) := decided _ rfl
theorem lossOfLight (port : Nat) : Statement (.lossOfLight port) := decided _ rfl
theorem lightPresent (port : Nat) : Statement (.lightPresent port) := decided _ rfl
theorem receiveSearchComplete (port : Nat) (full : Bool) (codes : List (List Nat)) : Statement (.receiveSearchComplete port full codes) := decided _ rfl
theorem trainingBlockReceived (port ring : Nat) (block : BitVec 340) : Statement (.trainingBlockReceived port ring block) := decided _ rfl
theorem linkCodewordReceived (port : Nat) (control : BitVec 20) (content : Rec) : Statement (.linkCodewordReceived port control content) := decided _ rfl
theorem identityRetry (port : Nat) : Statement (.identityRetry port) := decided _ rfl
theorem managementCodewordReceived (port : Nat) (control : BitVec 20) (content : Rec) : Statement (.managementCodewordReceived port control content) := decided _ rfl
theorem dormantRequest (port : Nat) : Statement (.dormantRequest port) := decided _ rfl
theorem dormantGrant (port : Nat) : Statement (.dormantGrant port) := decided _ rfl
theorem dormantGrantTimeout (port : Nat) : Statement (.dormantGrantTimeout port) := decided _ rfl
theorem wakeRequest (port : Nat) : Statement (.wakeRequest port) := decided _ rfl
theorem receiveOverload (port : Nat) : Statement (.receiveOverload port) := decided _ rfl
theorem overloadHoldExpiry (port : Nat) : Statement (.overloadHoldExpiry port) := decided _ rfl
theorem monitorSample (opal channel : Nat) (r : MonitorReadings) : Statement (.monitorSample opal channel r) := decided _ rfl
theorem successorStandby (opal channel : Nat) : Statement (.successorStandby opal channel) := decided _ rfl
theorem crossFadeComplete (opal channel : Nat) : Statement (.crossFadeComplete opal channel) := decided _ rfl
theorem successorRelease (opal channel : Nat) : Statement (.successorRelease opal channel) := decided _ rfl
theorem ringLockLost (port channel : Nat) (rx : Bool) : Statement (.ringLockLost port channel rx) := decided _ rfl
theorem ringSearchComplete (port channel : Nat) (rx : Bool) (found : Option Nat) : Statement (.ringSearchComplete port channel rx found) := decided _ rfl
theorem ringHop (port channel : Nat) (rx : Bool) : Statement (.ringHop port channel rx) := decided _ rfl
theorem laneFrameReceived (die edge group : Nat) (f : LaneFrame) : Statement (.laneFrameReceived die edge group f) := decided _ rfl
theorem laneMarginUpdate (die edge lane margin crcPerSecond crcRun : Nat) : Statement (.laneMarginUpdate die edge lane margin crcPerSecond crcRun) := decided _ rfl
theorem laneSwapRequest (die edge lane spare : Nat) : Statement (.laneSwapRequest die edge lane spare) := decided _ rfl
theorem spareCompareComplete (die edge : Nat) (matched : Bool) : Statement (.spareCompareComplete die edge matched) := decided _ rfl
theorem spareSwitch (die edge : Nat) : Statement (.spareSwitch die edge) := decided _ rfl
theorem halfWidthSwitch (die edge group lane : Nat) : Statement (.halfWidthSwitch die edge group lane) := decided _ rfl
theorem gangTakeIn (die edge plane : Nat) : Statement (.gangTakeIn die edge plane) := decided _ rfl
theorem powerSample (p : PowerSample) : Statement (.powerSample p) := decided _ rfl
theorem quietTimerExpiry (die : Nat) : Statement (.quietTimerExpiry die) := decided _ rfl
theorem retainTimerExpiry (die : Nat) : Statement (.retainTimerExpiry die) := decided _ rfl
theorem retainEntry (die : Nat) : Statement (.retainEntry die) := decided _ rfl
theorem dieWake (die : Nat) : Statement (.dieWake die) := decided _ rfl
theorem brownOut (die : Nat) : Statement (.brownOut die) := decided _ rfl
theorem brownOutReinitComplete (die : Nat) : Statement (.brownOutReinitComplete die) := decided _ rfl
theorem temperatureSample (die : Nat) (basalt opal : List Int) : Statement (.temperatureSample die basalt opal) := decided _ rfl
theorem thermalTrip : Statement .thermalTrip := decided _ rfl
theorem supplyLow (millivolts : Nat) : Statement (.supplyLow millivolts) := decided _ rfl
theorem supplyShutdown : Statement .supplyShutdown := decided _ rfl
theorem powerOn : Statement .powerOn := decided _ rfl
theorem modPwrokFall : Statement .modPwrokFall := decided _ rfl
theorem modReset : Statement .modReset := decided _ rfl
theorem refclkLoss : Statement .refclkLoss := decided _ rfl
theorem bootReady (selfTest : List SelfTestResult) (mapWriteOk : Bool) : Statement (.bootReady selfTest mapWriteOk) := decided _ rfl
theorem bootFailure (step : Nat) (f : BootFault) : Statement (.bootFailure step f) := decided _ rfl
theorem partialResetComplete (selfTest : List SelfTestResult) (saveErr restoreErr : Bool) : Statement (.partialResetComplete selfTest saveErr restoreErr) := decided _ rfl
theorem faultReport (r : Report) : Statement (.faultReport r) := decided _ rfl
theorem gatherWindowEnd : Statement .gatherWindowEnd := decided _ rfl
theorem recoveryComplete : Statement .recoveryComplete := decided _ rfl
theorem flintWatchdogExpiry : Statement .flintWatchdogExpiry := decided _ rfl
theorem repairMapWrite : Statement .repairMapWrite := decided _ rfl
theorem modResetRelease : Statement .modResetRelease := decided _ rfl
theorem refclkRestored : Statement .refclkRestored := decided _ rfl
theorem perstReleased (port : Nat) : Statement (.perstReleased port) := decided _ rfl
theorem hostLinkUp (port : Nat) : Statement (.hostLinkUp port) := decided _ rfl
theorem configurationSpaceWrite (port : Nat) (busMaster d3hot : Bool) : Statement (.configurationSpaceWrite port busMaster d3hot) := decided _ rfl
theorem heldChunkHoldLimit (port : Nat) : Statement (.heldChunkHoldLimit port) := decided _ rfl
theorem strataLogCutComplete : Statement .strataLogCutComplete := decided _ rfl

end Sys2Proof.Laws.Touches
end

