-- ==== Sys2Proof/Tests/Slice0.lean ====
section
/-! SUPPORT. Tests: an ill-formed command for each check of WellFormed, worked examples of the spec, and for every statement with
hypotheses a state and operands that meet them. -/

section

set_option Elab.async false

namespace Sys2Proof.Tests

open Sys2Proof Sys2Proof.Machine

/-! ## A mailbox with a command in its page -/

/-- A run of a page that was read. -/
theorem slice_page (m : Mem) (a k o n : Nat) (h : o + n ≤ k) : slice (m.readN a k) o n = m.readN (a + o) n := by
  simp only [slice, Mem.readN]
  apply List.map_congr_left
  intro i hi
  have hi := List.mem_range.mp hi
  have := Mem.readN_getD m a k (o + i) (by omega)
  simpa [Mem.readN, Nat.add_assoc] using this

/-- A command is accepted when what check 1 to 4 read of its page, which is a few bytes of it, passes. -/
theorem accepted {s : State} {m : Mbx} {row : CmdRow} {form : Rec → Nat → Option Ans} (n : Nat)
    (h : m.wf = true ∧ s.flint.queue.head? = some m ∧ s.flint.taking = true ∧ n ≤ 4032 ∧
      ofLe ((s.host m.port).pages.readN (0x2000 * m.box + 0) 2) = row.code ∧
      ofLe ((s.host m.port).pages.readN (0x2000 * m.box + 10) 2) = n ∧
      ((s.host m.port).pages.readN (0x2000 * m.box + 2) 2).all (· = 0) = true ∧
      ((s.host m.port).pages.readN (0x2000 * m.box + 12) 52).all (· = 0) = true ∧
      (row.namesContext || ((s.host m.port).pages.readN (0x2000 * m.box + 8) 2).all (· = 0)) = true ∧
      form ((s.host m.port).pages.readN (0x2000 * m.box + 64) n) n = none ∧ occupancy s.dequeue row m.port = none ∧
      (row.code = 0x0001 ∨ row.legal.contains s.dequeue.flint.view = true)) : Accepted s m row form := by
  obtain ⟨h1, h2, h3, hn, hc, hl, hz, hy, hx, hf, ho, hs⟩ := h
  have hq : s.requestOf m = (s.host m.port).pages.readN (0x2000 * m.box) 0x1000 := rfl
  refine ⟨h1, h2, h3, ?_, ?_⟩
  · rw [hq, le, slice_page _ _ _ _ _ (by omega)]; exact hc
  · have e1 : le (s.requestOf m) 10 2 = n := by rw [hq, le, slice_page _ _ _ _ _ (by omega)]; exact hl
    have e2 : zeroAt (s.requestOf m) 2 2 = true := by rw [hq, zeroAt, slice_page _ _ _ _ _ (by omega)]; exact hz
    have e3 : zeroAt (s.requestOf m) 12 52 = true := by rw [hq, zeroAt, slice_page _ _ _ _ _ (by omega)]; exact hy
    have e4 : (row.namesContext || zeroAt (s.requestOf m) 8 2) = true := by rw [hq, zeroAt, slice_page _ _ _ _ _ (by omega)]; exact hx
    have e5 : slice (s.requestOf m) 64 n = (s.host m.port).pages.readN (0x2000 * m.box + 64) n := by rw [hq, slice_page _ _ _ _ _ (by omega)]
    have e6 : (!row.namesContext && !zeroAt (s.requestOf m) 8 2) = false := by
      revert e4; cases row.namesContext <;> cases zeroAt (s.requestOf m) 8 2 <;> simp
    have e7 : decide (n > 4032) = false := decide_eq_false (by omega)
    unfold entryChecks
    simp only [e1, e2, e3, e5, e6, e7, hf, ho, Bool.not_true, Bool.or_false, Bool.false_eq_true, if_false]
    exact if_pos hs

/-- Fields of the request page read without the rest of it. -/
theorem le_page (s : State) (m : Mbx) (o n : Nat) (h : o + n ≤ 0x1000) :
    le (s.requestOf m) o n = ofLe ((s.host m.port).pages.readN (0x2000 * m.box + o) n) := by
  rw [le, State.requestOf, HostPort.request, slice_page _ _ _ _ _ h]

/-- The first mailbox of port 0. -/
def m0 : Mbx := { port := 0, box := 0 }

/-- A device in a state, its firmware running, port 0 the owner. -/
def dev (st : DevState) : State :=
  { State.reset with flint := { Flint.init with state := st, progress := 12, alive := true, owner := some 0 } }

/-- A command with its context and arguments in the page of the mailbox that Flint takes next. -/
def ask (s : State) (code ctx : Nat) (args : Rec) : State :=
  let page := Mem.writeN [] 0 (toLe 2 code ++ zeros 6 ++ toLe 2 ctx ++ toLe 2 args.length ++ zeros 52 ++ args)
  { s with hosts := [(0, { HostPort.init with pages := page, submitted := 1 }), (1, HostPort.init)], flint := { s.flint with queue := [m0] } }

/-- A context in slot 0 with no plan. -/
def ctx : Context :=
  { id := 1, confidential := false, saveBase := 0, initial := true, plan := none, regions := [], scale := [], digests := [], slots := [],
    completed := 0, epoch := false, sessions := [], saved := none }

/-- A plan with nothing in it. -/
def plan : Plan :=
  { image := [], digest := [], settings := [], programs := [], decls := [], ftables := [], streams := [], rings := [], inputs := [],
    groups := [], lodes := [], planes := [], detours := [], colls := [], backward := [], updates := [], instruments := [],
    scaleUpdates := [], initScale := [], args := [] }

/-- A device with a context in slot 0, resident. -/
def dev1 (st : DevState) (c : Context) : State := { dev st with contexts := [(0, c)], resident := c.id, residentComp := ~~~c.id }

/-- A state with a command in the background. -/
def busy (s : State) (b : Background) : State := { s with flint := { s.flint with background := some b } }

/-! ## Mailbox commands -/

/-- A log with one event. -/
def logged : State := ask { dev .ready with flint := { (dev .ready).flint with
    logHeader := 0x10001, logHeaderComp := ~~~0x10001,
    logRing := [(0, { time := 0, number := 0, source := 13, code := 0x80, action := 0, flags := 0, context := 0, unit := 0, detail := zeros 12 })] } }
  0xA 0 [0, 0, 0, 0, 125, 0, 0, 0]

theorem meets_QueriesReplyWithWhatTheyReport :
    Accepted (ask (dev .ready) 1 0 []) m0 rowQueryState (formOf 0 []) ∧
    Accepted (ask (dev .ready) 2 0 []) m0 rowQueryCapability (formOf 0 []) ∧
    Accepted logged m0 rowReadStrataLog logForm ∧ le (logged.requestOf m0) 64 1 = 0 ∧ le (logged.requestOf m0) 66 2 < logged.flint.eventsOldest.length := by
  refine ⟨accepted 0 (by decide), accepted 0 (by decide), accepted 8 (by decide), ?_, ?_⟩ <;> (rw [le_page _ _ _ _ (by omega)]; decide)

/-- Names of the sequencer status register of core 0 and of an offset of its block that lists none. -/
def nameSeq : Nat := 2 ^ 62
@[inherit_doc nameSeq] def nameNone : Nat := 2 ^ 62 + 0x10

/-- READ_REGISTER with some names. -/
def reading (names : List Nat) : State := ask (dev .ready) 3 0 (toLe 2 names.length ++ zeros 6 ++ names.flatMap (toLe 8))

/-- WRITE_REGISTER of one name. -/
def writing (name : Nat) : State := ask (dev .ready) 4 0 (toLe 2 1 ++ zeros 6 ++ toLe 8 name ++ toLe 8 5)

/-- The names of a request. -/
def namesOf (s : State) : List Nat := (List.range (le (s.requestOf m0) 64 2)).map fun i => le (s.requestOf m0) (72 + 8 * i) 8

theorem meets_RegisterCommandsRunInOrder :
    (∃ s n r, Accepted s m0 rowReadRegister (regForm 500 8) ∧ namesOf s = [n] ∧ (s.die (nameDie n)).pstate < 2 ∧ s.regNamed n = some (some r)) ∧
    (∃ s n r, Accepted s m0 rowReadRegister (regForm 500 8) ∧ namesOf s = [n, n] ∧ (s.die (nameDie n)).pstate < 2 ∧ s.regNamed n = some (some r)) ∧
    (∃ s n, Accepted s m0 rowReadRegister (regForm 500 8) ∧ namesOf s = [n] ∧ (s.die (nameDie n)).pstate < 2 ∧ s.regNamed n = some none) ∧
    (∃ s n r, Accepted s m0 rowWriteRegister (regForm 250 16) ∧ le (s.requestOf m0) 72 8 = n ∧ le (s.requestOf m0) 64 2 = 1 ∧
      (s.die (nameDie n)).pstate < 2 ∧ s.regNamed n = some (some r)) ∧
    (∃ s n, Accepted s m0 rowWriteRegister (regForm 250 16) ∧ le (s.requestOf m0) 72 8 = n ∧ le (s.requestOf m0) 64 2 = 1 ∧
      (s.die (nameDie n)).pstate < 2 ∧ s.regNamed n = some none) := by
  have names : ∀ ns : List Nat, ns.length ≤ 2 → ofLe ((reading ns |>.host 0).pages.readN 64 2) = ns.length →
      (List.range ns.length).map (fun i => ofLe ((reading ns |>.host 0).pages.readN (72 + 8 * i) 8)) = ns → namesOf (reading ns) = ns := by
    intro ns hn h1 h2
    have key : ∀ i < ns.length, le ((reading ns).requestOf m0) (72 + 8 * i) 8 = ofLe ((reading ns |>.host 0).pages.readN (72 + 8 * i) 8) :=
      fun i hi => by rw [le_page _ _ _ _ (by omega)]; simp [m0]
    rw [namesOf, le_page _ _ _ _ (by omega), show (0x2000 * m0.box + 64) = 64 from rfl, show m0.port = 0 from rfl, h1]
    exact (List.map_congr_left fun i hi => key i (List.mem_range.mp hi)).trans h2
  refine ⟨⟨reading [nameSeq], nameSeq, .seqStatus 0, accepted 16 (by decide +kernel), names _ (by decide) (by decide +kernel) (by decide +kernel), by decide +kernel⟩,
    ⟨reading [nameSeq, nameSeq], nameSeq, .seqStatus 0, accepted 24 (by decide +kernel), names _ (by decide) (by decide +kernel) (by decide +kernel), by decide +kernel⟩,
    ⟨reading [nameNone], nameNone, accepted 16 (by decide +kernel), names _ (by decide) (by decide +kernel) (by decide +kernel), by decide +kernel⟩,
    ⟨writing nameSeq, nameSeq, .seqStatus 0, accepted 24 (by decide +kernel), ?_, ?_, by decide +kernel⟩,
    ⟨writing nameNone, nameNone, accepted 24 (by decide +kernel), ?_, ?_, by decide +kernel⟩⟩
  all_goals rw [le_page _ _ _ _ (by omega)]; decide +kernel

theorem meets_HostSettingsAreTaken :
    Accepted (ask (dev .ready) 5 0 (zeros 8)) m0 rowSetEpochOffset (formOf 8 []) ∧
    Accepted (ask (dev .ready) 6 0 [0, 0, 1, 0x80]) m0 rowSetFabricAddress fabricForm ∧
    Accepted (ask (dev .halted) 9 0 []) m0 rowAcknowledgeHalt (formOf 0 []) ∧
    Accepted (ask (dev .ready) 0x28 0 (toLe 4 10 ++ toLe 4 100 ++ [15] ++ zeros 7)) m0 rowSetIdleTimers timerForm :=
  ⟨accepted 8 (by decide +kernel), accepted 4 (by decide +kernel), accepted 0 (by decide +kernel), accepted 16 (by decide +kernel)⟩

theorem meets_OwnershipIsClaimedAndReleased :
    Accepted (ask (dev .ready) 7 0 []) m0 rowClaimOwnership (formOf 0 []) ∧
    Accepted (ask (dev .ready) 8 0 []) m0 rowReleaseOwnership (formOf 0 []) := ⟨accepted 0 (by decide +kernel), accepted 0 (by decide +kernel)⟩

/-- A region that is not being zeroed. -/
def region : Region := ({ base := 0x10000000, size := 4096, readable := true, writable := true, cursor := 0x10001000, comp := 0 } : Region).sealed

/-- A context with a region. -/
def ctxR : Context := { ctx with regions := [(0, region), (1, ({ region with cursor := 0x10000000 } : Region).sealed)] }

theorem meets_ContextsAndRegionsAreMadeAndCleared :
    (∃ s, Accepted s m0 rowCreateContext contextForm ∧ s.rangeRefused (le (s.requestOf m0) 64 8) saveBytes = none ∧
      Tab.find? s.contexts 0 = none ∧ Tab.get 0 s.generations 0 < 4095) ∧
    (∃ s, Accepted s m0 rowCreateContext contextForm ∧ s.rangeRefused (le (s.requestOf m0) 64 8) saveBytes = none ∧
      ∀ i < 16, Tab.find? s.contexts i ≠ none ∨ 4095 ≤ Tab.get 0 s.generations i) ∧
    (∃ s, Accepted s m0 rowDestroyContext (formOf 0 []) ∧ s.context? (le (s.requestOf m0) 8 2) = some ctx) ∧
    (∃ s, Accepted s m0 rowCreateRegion regionForm ∧ s.context? (le (s.requestOf m0) 8 2) = some ctx ∧
      s.rangeRefused (le (s.requestOf m0) 64 8) (le (s.requestOf m0) 72 8) = none ∧ Tab.find? ctx.regions 0 = none) ∧
    (∃ s, Accepted s m0 rowDestroyRegion (formOf 1 []) ∧ s.context? (le (s.requestOf m0) 8 2) = some ctxR) ∧
    (∃ s r, Tab.find? (State.contexts s) 0 = some ctxR ∧ ctxR.id.toNat / 4096 = 0 ∧ Tab.find? ctxR.regions 1 = some r ∧ r.zeroing = true) := by
  refine ⟨⟨ask (dev .ready) 0x10 0 (zeros 16), accepted 16 (by decide +kernel), ?_, by decide +kernel, by decide +kernel⟩,
    ⟨ask { dev .ready with generations := (List.range 16).map fun i => (i, 4095) } 0x10 0 (zeros 16), accepted 16 (by decide +kernel), ?_, by decide +kernel⟩,
    ⟨ask (dev1 .loaded ctx) 0x11 1 [], accepted 0 (by decide +kernel), ?_⟩,
    ⟨ask (dev1 .loaded ctx) 0x13 1 (toLe 8 0x100000000 ++ toLe 8 4096 ++ [3] ++ zeros 7), accepted 24 (by decide +kernel), ?_, ?_, by decide +kernel⟩,
    ⟨ask (dev1 .loaded ctxR) 0x14 1 [0], accepted 1 (by decide +kernel), ?_⟩,
    ⟨dev1 .loaded ctxR, _, rfl, by decide +kernel, rfl, by decide +kernel⟩⟩ <;> repeat rw [le_page _ _ _ _ (by omega)]
  all_goals decide +kernel

/-- Addresses from 0 up to the size of a scratchpad image are mapped where window 0 is. -/
theorem low_mapped {s : State} (h : s.windowMapped 0 = true) : ∀ i < scratchImage, (s.keyOf (0 + i)).isSome = true := by
  intro i hi
  rw [Nat.zero_add]
  have hi' : i < 3221225472 := hi
  have hw : windowOf i = some 0 := by
    unfold windowOf
    rw [show List.range 5 = [0, 1, 2, 3, 4] by decide, List.find?_cons_of_pos]
    simp [windowBase, windowSize]; omega
  unfold State.keyOf Sys2Proof.Machine.translate
  simp [hw, h]

theorem meets_ContextsSwitchAndComeBack :
    (∃ s c, State.residentCtx s = some c ∧ s.reachable c.saveBase = true ∧ s.readScratch.1 = false ∧
      ∀ i < scratchImage, (s.keyOf (c.saveBase + i)).isSome = true) ∧
    (∃ s, Accepted s m0 rowSwitchContext (formOf 2 []) ∧ s.residentComp = ~~~s.resident ∧ le (s.requestOf m0) 64 2 = s.resident.toNat) ∧
    (∃ s, Accepted s m0 rowSwitchContext (formOf 2 []) ∧ s.residentComp = ~~~s.resident ∧ le (s.requestOf m0) 64 2 ≠ s.resident.toNat ∧ le (s.requestOf m0) 64 2 = 0) ∧
    (∃ s b, State.settled s = true ∧ s.flint.background = some b ∧ b.kind = .switch ∧ b.discarded = false ∧ b.mbx.wf = true ∧
      s.readScratch.1 = false ∧ (∃ c, s.residentCtx = some c ∧ s.reachable c.saveBase = true) ∧ b.target = 0 ∧ b.target ≠ s.resident ∧
      ((s.saveOut false).2.readIncoming b.target.toNat).1 = false) := by
  refine ⟨⟨dev1 .loaded ctx, ctx, rfl, by decide +kernel, by decide +kernel, low_mapped (by decide +kernel)⟩,
    ⟨ask (dev1 .loaded ctx) 0x12 0 [1, 0], accepted 2 (by decide +kernel), by decide +kernel, ?_⟩,
    ⟨ask (dev1 .loaded ctx) 0x12 0 [0, 0], accepted 2 (by decide +kernel), by decide +kernel, ?_, ?_⟩,
    ⟨{ dev1 .loaded ctx with flint := { (dev .loaded).flint with background := some (Background.begin .switch m0) } }, _, by decide +kernel, rfl, rfl,
      rfl, by decide +kernel, by decide +kernel, ⟨ctx, rfl, by decide +kernel⟩, by decide +kernel⟩⟩ <;> repeat rw [le_page _ _ _ _ (by omega)]
  all_goals decide +kernel

/-- A device in a state while a scrub runs. -/
def scrubIn (d : DevState) : State := { dev d with flint := { (dev d).flint with background := some (Background.begin .scrub m0) } }

theorem meets_ScrubDestroysContextsAndZeroesMemory :
    Accepted (ask (dev .ready) 0x16 0 []) m0 rowScrub (formOf 0 []) ∧
    (∃ s b, s.flint.background = some b ∧ b.kind = .scrub ∧ b.discarded = false ∧ b.mbx.wf = true ∧ (State.flint s).state = .scrubbing) ∧
    (∃ s b, s.flint.background = some b ∧ b.kind = .scrub ∧ b.discarded = false ∧ b.mbx.wf = true ∧ (State.flint s).state = .halted) :=
  ⟨accepted 0 (by decide +kernel), ⟨scrubIn .scrubbing, _, rfl, rfl, rfl, by decide +kernel, rfl⟩,
    ⟨scrubIn .halted, _, rfl, rfl, rfl, by decide +kernel, rfl⟩⟩

/-- A confidential context. -/
def secret : Context := { ctx with confidential := true }

/-- Device READY while the report of context 0 is being formed. -/
def formed : Background := { Background.begin .attest m0 with nonce := zeros 32, snapshot := (dev .ready).reportBody 0 (zeros 32) 0 }

/-- The state that holds it. -/
def forming : State := { dev .ready with flint := { (dev .ready).flint with background := some formed } }

/-- Its snapshot was taken at local time 0. -/
theorem formed_time : le formed.snapshot 48 8 = 0 := by decide +kernel

/-- Its signed report is not empty. -/
theorem formed_length : formed.offset < (forming.signReport formed.snapshot).length := by
  have h : ∀ x, (slice x 0 2420).length = 2420 := fun x => by simp [slice]
  have : formed.offset = 0 := rfl
  rw [State.signReport, List.length_append, h, this]
  omega

theorem meets_SessionsAndReportsAreMade :
    (∃ s, Accepted s m0 rowOpenSession (fun a n => if n ≠ 1248 ∨ le a 0 1 > 1 ∨ !zeroAt a 1 31 then some (.refuse 3) else none) ∧
      s.context? (le (s.requestOf m0) 8 2) = some secret ∧ secret.confidential = true) ∧
    (∃ s, Accepted s m0 rowCloseSession portForm ∧ s.context? (le (s.requestOf m0) 8 2) = some secret) ∧
    (∃ s, Accepted s m0 rowAttest attestForm ∧ le (s.requestOf m0) 8 2 = 0) ∧
    (∃ s b, (State.flint s).background = some b ∧ b.kind = .attest ∧ b.discarded = false ∧ b.mbx.wf = true ∧
      b.snapshot = s.reportBody b.target.toNat b.nonce (BitVec.ofNat 64 (le b.snapshot 48 8)) ∧ b.offset < (s.signReport b.snapshot).length) := by
  refine ⟨⟨ask (dev1 .loaded secret) 0x17 1 (zeros 1248), accepted 1248 (by decide +kernel), ?_, rfl⟩,
    ⟨ask (dev1 .loaded secret) 0x18 1 [0], accepted 1 (by decide +kernel), ?_⟩, ⟨ask (dev .ready) 0x19 0 (zeros 40), accepted 40 (by decide +kernel), ?_⟩, ?_⟩
  iterate 3 (rw [le_page _ _ _ _ (by omega)]; decide +kernel)
  · refine ⟨forming, formed, rfl, rfl, rfl, by decide +kernel, ?_, formed_length⟩
    rw [formed_time]
    unfold State.reportBody
    rfl


/-- The smallest plan image: a header, seven sections, and settings with a slot table of no slots. -/
def image : Rec :=
  toLe 4 0x50525A54 ++ toLe 2 1 ++ toLe 2 7 ++ toLe 4 192 ++ zeros 4 ++ toLe 2 1 ++ zeros 2 ++ toLe 4 128 ++ toLe 4 64 ++ toLe 4 1 ++
  ((List.range 6).flatMap fun i => toLe 2 (i + 2) ++ zeros 14) ++ zeros 8 ++ toLe 8 0x20000000 ++ toLe 8 0x20000000 ++ zeros 40


/-- A region of 64 MiB, not being zeroed. -/
def wide : Region := ({ base := 0x20000000, size := 0x4000000, readable := true, writable := true, cursor := 0x24000000, comp := 0 } : Region).sealed

/-- A context with it. -/
def ctxW : Context := { ctx with regions := [(0, wide)] }

/-- Whether an operation answered. -/
def isOk {ε α : Type} (x : Except ε α) : Bool := match x with | .ok _ => true | .error _ => false

/-- What an operation answered, or a state in its place. -/
def okOr {ε α : Type} (x : Except ε α) (d : α) : α := match x with | .ok a => a | .error _ => d

/-- An operation that answered. -/
theorem ok_of {ε α : Type} {x : Except ε α} (d : α) (h : isOk x = true) : x = .ok (okOr x d) := by
  cases x with
  | ok a => rfl
  | error e => cases h

/-- The same, not saying what. -/
theorem ok_some {ε α : Type} {x : Except ε α} (h : isOk x = true) : ∃ a, x = .ok a := by
  cases x with
  | ok a => exact ⟨a, rfl⟩
  | error e => cases h

/-- An entry of a section table. -/
def sec (t off len n : Nat) : Rec := toLe 2 t ++ zeros 2 ++ toLe 4 off ++ toLe 4 len ++ toLe 4 n

/-- The smallest image that writes a ring: stream 0x6000, one slot at 0x21000000, a copy within the region. -/
def imageRing : Rec :=
  toLe 4 0x50525A54 ++ toLe 2 1 ++ toLe 2 7 ++ toLe 4 328 ++ zeros 4 ++ sec 1 128 64 1 ++ sec 2 0 0 0 ++ sec 3 0 0 0 ++ sec 4 0 0 0 ++
  sec 5 192 36 1 ++ sec 6 256 72 1 ++ sec 7 0 0 0 ++ zeros 8 ++ toLe 8 0x20000000 ++ toLe 8 0x20000000 ++ zeros 40 ++ toLe 4 0x6000 ++
  toLe 8 0x21000000 ++ [0, 0x83] ++ zeros 50 ++ toLe 4 0x6000 ++ zeros 4 ++ toLe 4 (2 ^ 31) ++ zeros 4 ++ toLe 8 0x20000000 ++ toLe 8 0x20000040 ++ zeros 40

/-- A context whose region is being zeroed from its start. -/
def ctxZ : Context := { ctx with regions := [(0, ({ wide with cursor := 0x20000000 } : Region).sealed)] }

/-- A load of an image from the host, for a context. -/
def loading (c : Context) (r : Rec) : State :=
  busy (dev1 .loaded c) { Background.begin .loadPlan m0 with host := true, len := r.length, image := r }

/-- The same, of an answer that passes a test. -/
theorem ok_which {ε α : Type} {x : Except ε α} {f : α → Bool} {b : Bool} (h : (match x with | .ok a => f a == b | .error _ => false) = true) :
    ∃ a, x = .ok a ∧ f a = b := by
  cases x with
  | ok a => exact ⟨a, rfl, eq_of_beq h⟩
  | error e => cases h

theorem meets_PlansAreLoadedOrLeftOut :
    (∃ s c, Accepted s m0 rowLoadPlan planForm ∧ s.residentCtx = some c ∧ le (s.requestOf m0) 8 2 = c.id.toNat ∧
      le (s.requestOf m0) 10 2 = 24 ∧ (BitVec.ofNat 8 (le (s.requestOf m0) 80 1)).getLsbD 0 = true) ∧
    (∃ s c, Accepted s m0 rowLoadPlan planForm ∧ s.residentCtx = some c ∧ le (s.requestOf m0) 8 2 = c.id.toNat ∧
      s.imageFault c (le (s.requestOf m0) 64 8) (le (s.requestOf m0) 72 8) = none) ∧
    (∃ s b c, (State.flint s).background = some b ∧ b.kind = .loadPlan ∧ b.host = true ∧ b.len ≤ b.image.length ∧ b.discarded = false ∧
      b.mbx.wf = true ∧ s.residentCtx = some c ∧ ∃ p, s.judge c b.image = .ok p ∧ s.ringsHeld c p = true) ∧
    (∃ s b c, (State.flint s).background = some b ∧ b.kind = .loadPlan ∧ b.host = true ∧ b.len ≤ b.image.length ∧ b.discarded = false ∧
      b.mbx.wf = true ∧ s.residentCtx = some c ∧ ∃ p, s.judge c b.image = .ok p ∧ s.ringsHeld c p = false) ∧
    (∃ s b c x, (State.flint s).background = some b ∧ b.kind = .loadPlan ∧ b.host = true ∧ b.len ≤ b.image.length ∧ b.discarded = false ∧
      b.mbx.wf = true ∧ s.residentCtx = some c ∧ s.judge c b.image = .error x) := by
  refine ⟨⟨ask (dev1 .loaded ctxW) 0x15 1 (zeros 8 ++ toLe 8 192 ++ [1] ++ zeros 7), ctxW, accepted 24 (by decide +kernel), by decide +kernel, ?_, ?_, ?_⟩,
    ⟨ask (dev1 .loaded ctxW) 0x15 1 (toLe 8 0x20000000 ++ toLe 8 192), ctxW, accepted 16 (by decide +kernel), by decide +kernel, ?_, ?_⟩,
    ⟨loading ctxZ imageRing, _, ctxZ, rfl, rfl, rfl, by decide +kernel, rfl, by decide +kernel, by decide +kernel, ?_⟩,
    ⟨loading ctxW imageRing, _, ctxW, rfl, rfl, rfl, by decide +kernel, rfl, by decide +kernel, by decide +kernel, ?_⟩,
    ⟨busy (dev1 .loaded ctxW) { Background.begin .loadPlan m0 with host := true }, _, ctxW, { Bad.read 3 0 with core := 0xFFFF },
      rfl, rfl, rfl, by decide +kernel, rfl, by decide +kernel, by decide +kernel, rfl⟩⟩
  any_goals repeat rw [le_page _ _ _ _ (by omega)]
  any_goals decide +kernel
  all_goals exact ok_which (by decide +kernel)

/-- An instruction word of an opcode with its low fields. -/
def word (op low : Nat) : Word64 := BitVec.ofNat 64 (op * 2 ^ 58 + low)

/-- A plan in which core 0 runs step end and no more. -/
def planP : Plan := { (imgOf image).plan with digest := [], programs := [(0, [word 0x1F 0])] }

/-- A context with that plan. -/
def ctxP : Context := { ctxW with plan := some planP }

/-- A LOADED device asked to start a step of an all-zero record. -/
def starting : State := ask (dev1 .loaded ctxP) 0x20 1 (zeros 384)

/-- The record of that step. -/
theorem starting_record : slice (starting.requestOf m0) 64 384 = zeros 384 := by
  rw [show starting.requestOf m0 = (starting.host 0).pages.readN 0 0x1000 from rfl, slice_page _ _ _ _ _ (by omega)]; decide +kernel

theorem meets_StepStartsWhenItsChecksPass :
    ∃ r, ∃ s s1 : State, ∃ c p d, slice (s.requestOf m0) 64 384 = r ∧ Accepted s m0 rowStartStep stepForm ∧ s.resident = ~~~s.residentComp ∧
      s.residentCtx = some c ∧ c.plan = some p ∧ (∀ x ∈ c.regions, x.2.zeroing = false) ∧ le (s.requestOf m0) 8 2 = c.id.toNat ∧ State.tableUnsound c r = false ∧
      s.dequeue.stepCheck c p r = none ∧ s.dequeue.reference r = .ok (none, s.dequeue) ∧ (∀ h, none = some h → s.dequeue.referenceCheck p (le r 8 1) h = none) ∧
      s.dequeue.devWrite (le p.settings 16 8) (slotTable r) = .ok s1 ∧ s1.inputDigest p (asksDigest r none) = .ok (d, s1) ∧ le r 8 1 = 0 ∧
      s.chip.ring.held = [] ∧ (∀ q, (s.oport q).parked = []) ∧ (Tab.find? p.programs 0).isSome := by
  obtain ⟨s1, h⟩ := ok_some (x := starting.dequeue.devWrite (le planP.settings 16 8) (slotTable (zeros 384))) (by decide +kernel)
  refine ⟨zeros 384, starting, s1, ctxP, planP, zeros 32, starting_record, accepted 384 (by decide +kernel), by decide +kernel, by decide +kernel, rfl,
    by decide +kernel, ?_, by decide +kernel, by decide +kernel, rfl, (fun _ h => nomatch h), h, rfl, by decide +kernel, rfl, fun _ => rfl, rfl⟩
  rw [le_page _ _ _ _ (by omega)]; decide +kernel

/-- A step in force. -/
def step : StepRun := { record := zeros 384, seeds := List.replicate 7 0, samples := zeros 256, table := zeros 4096, inputDigest := zeros 32, startTime := 0, aborting := false }

/-- A context with a plan in force. -/
def ctxOf (p : Plan) : Context := { ctxW with plan := some p }

/-- A RUNNING device with a plan in force and on-chip state. -/
def runs (p : Plan) (h : Chip) : State := { dev1 .running (ctxOf p) with chip := { h with step := some step } }

/-- A plan with its instrument table in a region. -/
def planI : Plan := { plan with settings := zeros 8 ++ toLe 8 0x20000000 }

/-- With no instrument declared and none written, the table is written as zeros. -/
theorem no_instruments (s : State) (p : Plan) (h1 : s.failedFor (le p.settings 8 8) = none)
    (h0 : s.stepMay true (le p.settings 8 8) (64 * 4096) = true) (h2 : (s.devZero (le p.settings 8 8) (64 * 4096)).chip.instruments = [])
    (h3 : p.instruments = []) : s.writeInstruments p = s.devZero (le p.settings 8 8) (64 * 4096) := by
  have key : ∀ (l : List Nat) (t : State), t.chip.instruments = [] → l.foldl (fun s i =>
      let (tag, role) := p.declared i
      match Tab.find? s.chip.instruments i with
      | some a => s.stepWrite (le p.settings 8 8 + 64 * i) (a.bytes tag role)
      | none => if tag = 0 ∧ role = 0 then s else s.stepWrite (le p.settings 8 8 + 64 * i) (Accum.init.bytes tag role)) t = t := by
    intro l
    induction l with
    | nil => intro t _; rfl
    | cons i l ih =>
      intro t ht
      have : p.declared i = (0, 0) := by simp [Plan.declared, h3]
      simp only [List.foldl_cons, this, ht, Tab.find?]
      exact ih t ht
  unfold State.writeInstruments
  simp only [h1, h0, Bool.not_true, Bool.false_eq_true, if_false]
  exact key _ _ h2

theorem meets_StepsAreAbortedOrComplete :
    (∃ s : State, ∃ c run, Accepted s m0 rowAbortStep (formOf 0 []) ∧ s.residentCtx = some c ∧ le (s.requestOf m0) 8 2 = c.id.toNat ∧ s.chip.step = some run) ∧
    (∃ s : State, ∃ run, ∃ m : Mbx, (State.flint s).aborting = some (m, false) ∧ m.wf = true ∧ s.chip.step = some run) ∧
    (∃ s : State, ∃ p, ∃ run : StepRun, s.plan? = some p ∧ s.chip.step = some run ∧ s.flint.state = .running ∧ run.aborting = false ∧ s.holding = false ∧
      s.endFault = false ∧
      ∃ s1, s1 = (s.ownColls p).foldl (fun s x => completeColl x s) s ∧ s1.stepOver p = true ∧ s1.scaleUnsound p = false ∧
      (s1.writeInstruments p).endFault = false ∧ ((s1.writeInstruments p).closeCapture false).endFault = false ∧
      (s1.writeInstruments p).chip.step = some run) ∧
    (∃ s : State, ∃ p k w, s.plan? = some p ∧ s.ownColls p = [] ∧ (k, w) ∈ p.programs ∧ (s.core k).ended = false) := by
  refine ⟨⟨ask (runs plan Chip.init) 0x21 1 [], ctxOf plan, step, accepted 0 (by decide +kernel), by decide +kernel, ?_, rfl⟩,
    ⟨{ runs plan Chip.init with flint := { (dev .running).flint with aborting := some (m0, false) } }, step, m0, rfl, by decide, rfl⟩,
    ⟨runs planI Chip.init, planI, step, by decide +kernel, rfl, rfl, rfl, by decide +kernel, by decide +kernel, _, rfl, by decide +kernel,
      by decide +kernel, ?_, ?_, ?_⟩,
    ⟨runs planP Chip.init, planP, 0, _, by decide +kernel, by decide +kernel, List.mem_singleton.mpr rfl, by decide +kernel⟩⟩
  · rw [le_page _ _ _ _ (by omega)]; decide +kernel
  all_goals rw [show State.ownColls _ _ = [] from rfl, List.foldl_nil, no_instruments _ _ (by decide +kernel) (by decide +kernel) (by decide +kernel) rfl]; decide +kernel

theorem meets_HostViolationIsCountedAndLogged : ∃ s : State, s.flint.logHeader = ~~~s.flint.logHeaderComp := ⟨dev .ready, by decide⟩

/-- An entry of the stream table of a class 4 stream of port 0. -/
def hostEntry : Rec := zeros 9 ++ [0x84] ++ zeros 22

/-- A plan with that stream, number 0x6000. -/
def planH : Plan := { plan with streams := [(0x6000, hostEntry)] }

/-- The stream with a transfer from host memory in flight. -/
def fetching : Stream := { Stream.init with running := some { slot := 0, desc := [0, 0, 0, 0x20] ++ zeros 60, started := 1, done := 0 } }

theorem meets_MailboxesAndCompletions :
    (∃ s : State, 1 ≤ s.flint.progress) ∧
    (∃ s id e r, State.streamEntry s id = some e ∧ (s.stream id).running = some r ∧ streamClass e = 4 ∧ streamHost e = 0 ∧ (xferOf e r.desc).src = 2 ∧
      r.done < r.started ∧ (s.stream id).faulted = false ∧ ∀ c, s.residentCtx = some c → c.confidential = false) ∧
    (∃ s : State, s.flint.owner.isSome = true) := by
  refine ⟨⟨dev .ready, by decide⟩, ⟨runs planH { Chip.init with streams := [(0x6000, fetching)] }, 0x6000, hostEntry, _, by decide +kernel, rfl,
    by decide +kernel, by decide +kernel, by decide +kernel, by decide, rfl, ?_⟩, ⟨dev .ready, rfl⟩⟩
  intro c h
  rw [show State.residentCtx _ = some (ctxOf planH) by decide +kernel] at h
  cases h; rfl

theorem meets_RegisterAccessesFollowTheirCodes :
    (∃ s : State, ∃ r : Reg, r.wf = true ∧ ∀ d, regDie r = some d → (s.die d).pstate < 2) ∧
    (∃ s : State, ∃ r : Reg, r.wf = true ∧ ∃ d, regDie r = some d ∧ 2 ≤ (s.die d).pstate) ∧
    (∃ s : State, s.flint.state ≠ .scrubbing ∧ (s.host 0).masked 32 = false ∧ (s.host 0).masked 33 = false) ∧
    (∃ s : State, ∃ off, ∃ bytes : Rec, 1 ≤ bytes.length ∧ off + bytes.length ≤ 0x40000 ∧
      ∀ a, off ≤ a → a < off + bytes.length → a / 0x1000 % 2 = 0 ∧ (s.host 0).submitted.getLsbD (a / 0x2000) = false) := by
  refine ⟨⟨dev .ready, .coreFault 0, by decide, fun d h => by cases h; decide⟩,
    ⟨{ dev .ready with dies := [(0, { Die.init with pstate := 2 })] }, .coreFault 0, by decide, 0, by decide⟩,
    ⟨{ dev .ready with hosts := [(0, { HostPort.init with msix := [] })] }, by decide⟩,
    ⟨dev .ready, 0x3EFFF, [7], by decide, by decide, fun a h1 h2 => ?_⟩⟩
  have : a = 0x3EFFF := by simp at h2; omega
  subst this; decide

theorem meets_HostPortResetsAndLinks : (∃ s : State, (s.host 0).linkUp = true) ∧ (∃ s : State, (s.host 1).perst = true) ∧ (∃ s : State, (s.host 0).perst = false) :=
  ⟨⟨{ dev .ready with hosts := [(0, { HostPort.init with linkUp := true })] }, rfl⟩,
    ⟨{ dev .ready with hosts := [(1, { HostPort.init with perst := true })] }, rfl⟩, ⟨dev .ready, rfl⟩⟩

/-! ## Management, firmware, reset and boot -/

/-- A device whose management port is up, with a session of a role. -/
def managed (st : DevState) (role : Option Nat) : State := { dev st with mgmt := { Mgmt.init with up := true, role := role } }

/-- An operator key record of one key of role 2, unsigned. -/
def operatorRecord : Rec := toLe 4 1 ++ zeros 1312 ++ [2] ++ zeros 2420

theorem meets_ManagementCommandsAct :
    (∃ s key, State.mgmtServes s = true ∧ s.mgmt.role = none ∧ s.roleOf key = some 2) ∧
    (∃ s : State, ∃ args, s.mgmtServes = true ∧ s.mgmt.role ≠ none ∧ logForm args args.length = none ∧ s.flint.view ≠ .booting) ∧
    (∃ s : State, ∃ args r, s.mgmtServes = true ∧ s.mgmt.role ≠ none ∧ attestForm args args.length = none ∧ s.flint.view = .ready ∧
      s.mgmt.report = some (0, slice args 0 32, r)) ∧
    (∃ s : State, ∃ args, s.mgmtServes = true ∧ s.mgmt.role ≠ none ∧ attestForm args args.length = none ∧ s.flint.view = .ready ∧
      (∀ r, s.mgmt.report ≠ some (0, slice args 0 32, r)) ∧
      (attestReply (s.signReport (s.reportBody 0 (slice args 0 32) s.logTime)) (le args 32 4)).code = 0) ∧
    (∃ s : State, ∃ r role n, s.mgmtServes = true ∧ s.mgmt.role = some role ∧ 2 ≤ role ∧ s.flint.view = .ready ∧ operatorCount r = some n ∧
      s.flash.operators.length = 2 ∧ s.flash.counters.length = 4 ∧
      ¬ ∃ k ∈ ((s.flash.operator.map (·.keys)).getD []).filter fun k => k.2 = 2,
        Config.mlDsaVerify k.1 (r.take (4 + 1313 * n)) (r.drop (4 + 1313 * n)) = true) := by
  refine ⟨⟨{ managed .ready none with flash := { Flash.init with operators := [{ signed := true, version := 1, keys := [([], 2)] }] } }, [],
      by decide, rfl, by decide⟩, ⟨managed .ready (some 0), [0, 0, 0, 0, 1, 0, 0, 0], by decide, by decide, by decide, by decide⟩,
    ⟨{ managed .ready (some 0) with mgmt := { Mgmt.init with up := true, role := some 0, report := some (0, zeros 32, []) } }, zeros 40, [],
      by decide, by decide, by decide +kernel, by decide, by decide +kernel⟩,
    ⟨managed .ready (some 0), zeros 40, by decide, by decide, by decide +kernel, by decide, (fun r h => by cases h), ?_⟩,
    ⟨managed .ready (some 2), operatorRecord, 2, 1, by decide, rfl, by decide, by decide, by decide +kernel, rfl, rfl, ?_⟩⟩
  · have h : ∀ x, (slice x 0 2420).length = 2420 := fun x => by simp [slice]
    have h0 : le (zeros 40) 32 4 = 0 := by decide +kernel
    rw [h0]
    unfold attestReply
    rw [if_neg (by rw [State.signReport, List.length_append, h]; omega)]
    rfl
  · rintro ⟨k, hk, -⟩
    rw [show (managed .ready (some 2)).flash.operator = none by decide] at hk
    simp at hk

/-- Of the signed case the key check is a free value of the configuration; with a signature that verifies, both its clauses are met. -/
theorem meets_ManagementCommandsAct_signed (hv : Config.mlDsaVerify [] (operatorRecord.take 1317) (operatorRecord.drop 1317) = true) :
    ∃ s : State, s.mgmtServes = true ∧ s.flash.counters.getD 2 0 < le operatorRecord 0 4 ∧
      ∃ k ∈ ((s.flash.operator.map (·.keys)).getD []).filter fun k => k.2 = 2,
        Config.mlDsaVerify k.1 (operatorRecord.take (4 + 1313 * 1)) (operatorRecord.drop (4 + 1313 * 1)) = true :=
  ⟨{ managed .ready (some 2) with flash := { Flash.init with operators := [{ signed := true, version := 1, keys := [([], 2)] }] } },
    by decide, by decide +kernel, ([], 2), by decide, hv⟩

theorem meets_FirmwareUpdateFollowsItsCommands :
    (∃ s : State, s.mgmtServes = true ∧ s.mgmt.role = some 1 ∧ s.flash.slots.length = 2 ∧ s.running < 2 ∧ s.busy = false ∧ s.flint.view = .ready) ∧
    (∃ s : State, s.mgmtServes = true ∧ s.mgmt.role = some 1 ∧ s.flash.slots.length = 2 ∧ s.running < 2 ∧ s.flint.view = .updating ∧
      s.mgmt.staged = true ∧ s.flash.selectors.length = 2) :=
  ⟨⟨managed .ready (some 1), by decide, rfl, rfl, by decide, rfl, by decide⟩,
    ⟨{ managed .updating (some 1) with mgmt := { Mgmt.init with up := true, role := some 1, staged := true } }, by decide, rfl, rfl, by decide,
      by decide, rfl, rfl⟩⟩

theorem meets_ResetSourcesKeepWhatTheTableSays :
    (∃ s : State, s.pins.pwrok = false ∨ s.powered = false) ∧ (∃ s : State, s.powered = true) ∧ (∃ s : State, s.pins.resetN = false) ∧
    (∃ s : State, s.pins.refclk = false) :=
  ⟨⟨{ dev .ready with powered := false }, .inr rfl⟩, ⟨{ dev .ready with powered := true }, rfl⟩,
    ⟨{ dev .ready with pins := { (dev .ready).pins with resetN := false } }, rfl⟩,
    ⟨{ dev .ready with pins := { (dev .ready).pins with refclk := false } }, rfl⟩⟩

/-- A plan with a core stream of class 1, number 0. -/
def planS : Plan := { plan with streams := [(0, zeros 9 ++ [0x81] ++ zeros 22)] }

/-- That stream with a transfer in flight. -/
def moving : Stream := { Stream.init with running := some { slot := 0, desc := zeros 64, started := 1, done := 0 } }

/-- A device in boot at a step. -/
def boots (n : Nat) : State := { State.reset with flint := { Flint.init with progress := n } }

theorem meets_BootEndsReadyOrHalted :
    (∃ s : State, s.flint.state = .booting ∧ s.flint.progress = 7 ∧ s.flint.heldInReset = false ∧ s.bootHeld = false ∧
      0 < s.flash.counters.length ∧ s.flash.selectors.length = 2) ∧
    (∃ s : State, s.flint.state = .booting ∧ s.flint.progress = 7 ∧ s.flint.heldInReset = false ∧ s.bootHeld = false ∧ s.repair.changed = true) ∧
    (∃ s : State, s.flint.state = .booting ∧ s.flint.progress = 3 ∧ s.flint.heldInReset = false) ∧
    (∃ s : State, s.flint.state = .booting ∧ s.flint.progress = 5 ∧ s.flint.heldInReset = false) ∧
    (∃ s : State, s.flint.state = .booting ∧ s.flint.progress = 7 ∧ s.flint.heldInReset = false) :=
  ⟨⟨boots 7, rfl, rfl, rfl, rfl, by decide, rfl⟩, ⟨{ boots 7 with repair := { (boots 7).repair with changed := true } }, rfl, rfl, rfl, rfl, rfl⟩,
    ⟨boots 3, rfl, rfl, rfl⟩, ⟨boots 5, rfl, rfl, rfl⟩, ⟨boots 7, rfl, rfl, rfl⟩⟩

theorem meets_ResetCommandsStartAndComplete :
    (∃ s, Accepted s m0 rowReset resetForm ∧ le (s.requestOf m0) 64 1 = 0) ∧
    (∃ s, Accepted s m0 rowReset resetForm ∧ le (s.requestOf m0) 64 1 = 1 ∧ s.flint.view = .ready) ∧
    (∃ s b, State.settled s = true ∧ s.flint.background = some b ∧ b.kind = .reset ∧ b.discarded = false ∧ b.mbx.wf = true) ∧
    (∃ s : State, s.settled = false) := by
  refine ⟨⟨ask (dev .ready) 0xB 0 (zeros 8), accepted 8 (by decide +kernel), ?_⟩, ⟨ask (dev .ready) 0xB 0 ([1, 15] ++ zeros 6), accepted 8 (by decide +kernel), ?_, by decide⟩,
    ⟨busy (dev .ready) (Background.begin .reset m0), _, by decide +kernel, rfl, rfl, rfl, by decide⟩,
    ⟨runs planS { Chip.init with streams := [(0, moving)] }, by decide +kernel⟩⟩ <;> rw [le_page _ _ _ _ (by omega)]
  all_goals decide +kernel

/-! ## Cores and engines -/

/-- A declaration of a core: its argument area at 0 with one record. -/
def decl : Rec := zeros 12 ++ toLe 4 1 ++ zeros 640

/-- A plan in which core 0 runs one word. -/
def planW (w : Word64) : Plan := { plan with programs := [(0, [w])], decls := [(0, decl)] }

/-- A RUNNING device in which core 0 stands at a word, in a state of its own otherwise. -/
def stands (w : Word64) (k : Core) : State := runs (planW w) { Chip.init with cores := [(0, k)] }

/-- A core that runs its main program. -/
def core1 : Core := { Core.init with state := 1 }

/-- What `MayIssue` asks, as one fact that can be decided. -/
theorem may {s : State} {c op : Nat} {holds : List Nat} {w : Word64}
    (h : s.wordAt c = some w ∧ s.issuing c = true ∧ (s.core c).hold ∈ holds ∧ wOp w = op ∧ (s.core c).progFlips.get ((s.core c).pc / 2) = 0) :
    MayIssue s c op holds w := ⟨h.1, h.2.1, h.2.2.1, h.2.2.2.1, h.2.2.2.2⟩

theorem meets_LoopsIndexesAndFencesRun :
    (∃ s w, MayIssue s 0 0x18 [0] w) ∧ (∃ s w l rest, MayIssue s 0 0x19 [0] w ∧ (s.core 0).loops = l :: rest) ∧ (∃ s w, MayIssue s 0 0x1A [0] w) ∧
    (∃ s w, MayIssue s 0 0x1B [0] w) ∧ (∃ s w, MayIssue s 0 0x1C [0, 4] w ∧ (s.core 0).hold = 4) ∧ (∃ s w, MayIssue s 0 0x1F [0, 4] w) ∧
    (∃ s : State, ∃ w, s.wordAt 0 = some w ∧ s.issuing 0 = true ∧ (s.core 0).hold = 0 ∧ settle ((s.core 0).progFlips.get ((s.core 0).pc / 2)) = none ∧ wOp w = 0x18) ∧
    (∃ s : State, ∃ w, s.wordAt 0 = some w ∧ s.issuing 0 = true ∧ (s.core 0).hold = 0 ∧ settle ((s.core 0).progFlips.get ((s.core 0).pc / 2)) ≠ none ∧
      (s.core 0).progFlips.get ((s.core 0).pc / 2) ≠ 0 ∧ wOp w = 0x1A) :=
  ⟨⟨stands (word 0x18 3) core1, word 0x18 3, may (by decide +kernel)⟩,
    ⟨stands (word 0x19 0) { core1 with loops := [{ body := 0, reg := 1, count := 2, done := 0 }] }, word 0x19 0, _, _, may (by decide +kernel), rfl⟩,
    ⟨stands (word 0x1A 3) core1, word 0x1A 3, may (by decide +kernel)⟩, ⟨stands (word 0x1B 3) core1, word 0x1B 3, may (by decide +kernel)⟩,
    ⟨stands (word 0x1C 0) { core1 with hold := 4 }, word 0x1C 0, may (by decide +kernel), rfl⟩, ⟨stands (word 0x1F 0) core1, word 0x1F 0, may (by decide +kernel)⟩,
    ⟨stands (word 0x18 3) { core1 with progFlips := [(0, 3)] }, word 0x18 3, by decide +kernel⟩,
    ⟨stands (word 0x1A 3) { core1 with progFlips := [(0, 1)] }, word 0x1A 3, by decide +kernel⟩⟩

/-- A fill task part-way. -/
def fill : Fill := { entry := 0, pc := 3, idx := List.replicate 16 0, loops := [], drains := [], preloads := [], hold := 0 }

theorem meets_TokensAreTakenAndGiven :
    (∃ s w, MayIssue s 0 0x10 [0] w) ∧ (∃ s w, MayIssue s 0 0x10 [1] w ∧ (s.core 0).fill = none) ∧ (∃ s w, MayIssue s 0 0x11 [0] w) ∧
    (∃ s w, MayIssue s 0 0x11 [2] w ∧ (s.core 0).fill = none) ∧ (∃ s : State, (s.core 0).fill ≠ none) :=
  ⟨⟨stands (word 0x10 1) core1, word 0x10 1, may (by decide +kernel)⟩, ⟨stands (word 0x10 1) { core1 with hold := 1 }, word 0x10 1, may (by decide +kernel), rfl⟩,
    ⟨stands (word 0x11 1) core1, word 0x11 1, may (by decide +kernel)⟩, ⟨stands (word 0x11 1) { core1 with hold := 2 }, word 0x11 1, may (by decide +kernel), rfl⟩,
    ⟨stands (word 0x11 1) { core1 with fill := some fill }, by decide +kernel⟩⟩

theorem meets_FillTasksRunAndReturn :
    (∃ s w, MayIssue s 0 0x14 [0] w) ∧
    (∃ s : State, ∃ i, s.issuing 0 = true ∧ s.holding = false ∧ (s.core 0).state = 1 ∧ (s.core 0).hold = 3 ∧ s.readyEntry 0 = some i) ∧
    (∃ s w f, MayIssue s 0 0x16 [0] w ∧ (s.core 0).fill = some f) ∧ (∃ s w, MayIssue s 0 0x15 [0, 3] w) ∧
    (∃ s : State, s.flint.state = .running ∧ (s.core 0).state = 1 ∧ (s.core 0).fill = none ∧ (s.core 0).hold ≠ 0 ∧ (s.core 0).hold ≠ 8) :=
  ⟨⟨stands (word 0x14 0) core1, word 0x14 0, may (by decide +kernel)⟩,
    ⟨stands (word 0x15 0) { core1 with hold := 3, scree := [(127, 1)] }, 127, by decide +kernel⟩,
    ⟨stands (word 0x16 0) { core1 with state := 2, fill := some fill }, word 0x16 0, _, may (by decide +kernel), rfl⟩,
    ⟨stands (word 0x15 0) { core1 with hold := 3 }, word 0x15 0, may (by decide +kernel)⟩, ⟨stands (word 0x15 0) { core1 with hold := 1 }, rfl, rfl, rfl, by decide, by decide⟩⟩

/-- What a word of core 0 reads as its argument record. -/
def argOf (s : State) (w : Word64) : Rec × State := okOr ((s.stir (coreDie 0)).argRecord 0 w) ([], s)

/-- It reads it. -/
theorem arg_ok {s : State} {w : Word64} (h : isOk ((s.stir (coreDie 0)).argRecord 0 w) = true) :
    (s.stir (coreDie 0)).argRecord 0 w = .ok ((argOf s w).1, (argOf s w).2) := ok_of ([], s) h

/-- An instruction in flight on engine 0. -/
def flight (w : Work) : Flight :=
  { id := 5, pc := 0, word := 0, record := zeros 128, entry := 255, ordinal := 0, reads := [], writes := [], engines := [0], work := w, stopped := none,
    rerunnable := true, rerun := false, fed := false }

/-- A load of engine 0 from the scratchpad. -/
def load : Load := { unit := { row := 0, col := 0, r := 1, c := 1 }, plane := 1, fmt := 0, source := zeros 128, tiles := [] }

/-- A load of engine 0 from the chain of stream 0, its tile there. -/
def loadS : Load := { load with source := [0, 0, 0, 0x80] ++ zeros 124, tiles := [zeros 2112] }

theorem meets_WeightLoadsAndSettingsTake :
    (∃ s w rec s1, MayIssue s 0 0x01 [0] w ∧ (s.stir (coreDie 0)).argRecord 0 w = .ok (rec, s1) ∧
      (s.core 0).held (loadSpans (seamOf (wSeam w)) (fieldOf w 25 24) rec) [] = 0 ∧ s1.blocked 0 (seamOf (wSeam w)).engines = false ∧
      (s.core 0).passing (seamOf (wSeam w)).engines (some (fieldOf w 27 27)) = false ∧
      (s.core 0).loading (seamOf (wSeam w)).engines none = false) ∧
    (∃ s : State, ∃ id x l s1, (s.core 0).flight? id = some x ∧ x.work = .load l ∧ l.unit.col + l.unit.c ≤ 4 ∧ l.plane < 2 ∧
      x.stopped = none ∧ (refAt l.source 0).stream = none ∧ s.fillPlanes 0 l = .ok s1) ∧
    (∃ s : State, ∃ id x l s1, (s.core 0).flight? id = some x ∧ x.work = .load l ∧ l.unit.col + l.unit.c ≤ 4 ∧ l.plane < 2 ∧
      x.stopped = none ∧ (refAt l.source 0).stream ≠ none ∧ l.unit.r * l.unit.c ≤ l.tiles.length ∧ s.fillPlanes 0 l = .ok s1) ∧
    (∃ s w rec s1, (s.stir (coreDie 0)).argRecord 0 w = .ok (rec, s1) ∧ s.blocked 0 (seamOf (wSeam w)).engines = false ∧ MayIssue s 0 0x02 [0] w) ∧
    (∃ s w rec s1, (s.stir (coreDie 0)).argRecord 0 w = .ok (rec, s1) ∧ s.blocked 0 (seamOf (wSeam w)).engines = false ∧ MayIssue s 0 0x03 [0] w) := by
  obtain ⟨s1, h⟩ := ok_some (x := (stands (word 0x1F 0) { core1 with inflight := [flight (.load load)] }).fillPlanes 0 load) (by decide +kernel)
  obtain ⟨s2, h'⟩ := ok_some (x := (stands (word 0x1F 0) { core1 with inflight := [flight (.load loadS)] }).fillPlanes 0 loadS) (by decide +kernel)
  exact ⟨⟨stands (word 0x01 0) core1, word 0x01 0, _, _, may (by decide +kernel), arg_ok (by decide +kernel), by decide +kernel, by decide +kernel,
      by decide +kernel, by decide +kernel⟩,
    ⟨stands (word 0x1F 0) { core1 with inflight := [flight (.load load)] }, 5, _, load, s1, rfl, rfl, by decide, by decide, rfl, by decide +kernel, h⟩,
    ⟨stands (word 0x1F 0) { core1 with inflight := [flight (.load loadS)] }, 5, _, loadS, s2, rfl, rfl, by decide, by decide, rfl, by decide +kernel, by decide, h'⟩,
    ⟨stands (word 0x02 0) core1, word 0x02 0, _, _, arg_ok (by decide +kernel), by decide +kernel, may (by decide +kernel)⟩,
    ⟨stands (word 0x03 0) core1, word 0x03 0, _, _, arg_ok (by decide +kernel), by decide +kernel, may (by decide +kernel)⟩⟩

/-- A pass of one row from the scratchpad on engine 0, that nothing stores. -/
def pass1 : Pass := passOf (word 0x04 0) (zeros 24 ++ toLe 4 1 ++ zeros 100) none []

/-- The same with its rows from the flow side of stream 0. -/
def passS : Pass := passOf (word 0x04 0) ([0, 0, 0, 0x80] ++ zeros 20 ++ toLe 4 1 ++ zeros 100) none []

/-- A device with a pass in flight on core 0. -/
def passing (p : Pass) : State := stands (word 0x1F 0) { core1 with inflight := [flight (.pass p)] }

/-- A stop of an operation. -/
theorem error_some {ε α : Type} {x : Except ε α} (h : isOk x = false) : ∃ e, x = .error e := by
  cases x with
  | ok a => cases h
  | error e => exact ⟨e, rfl⟩

/-- Whether rows wait. -/
def waits {α : Type} (x : Except RowStop α) : Bool := match x with | .error (.wait _) => true | _ => false

/-- They do. -/
theorem wait_of {α : Type} {x : Except RowStop α} (h : waits x = true) : ∃ bs, x = .error (.wait bs) := by
  cases x with
  | ok a => cases h
  | error e => cases e <;> first | exact ⟨_, rfl⟩ | cases h

/-- A pass that feeds a row. -/
theorem feeds_of {x : Except RowStop (Nat × Pass × State)} (h : (okOr x (0, pass1, State.reset)).1 = 1) : ∃ n p s, x = .ok (n + 1, p, s) := by
  cases x with
  | ok a => obtain ⟨n, p, s⟩ := a; exact ⟨0, p, s, by rw [show n = 0 + 1 from h]⟩
  | error e => cases h

/-- A core with an invalid plane 0 on engine 0. -/
def invalid : Core := { core1 with planes := [(0, { Plane.init with state := 3 })] }

theorem meets_PassesStartFeedAndEnd :
    (∃ s w rec s1, MayIssue s 0 0x04 [0] w ∧ (s.stir (coreDie 0)).argRecord 0 w = .ok (rec, s1) ∧
      ∃ p, p = passOf w rec (Tab.find? (s.core 0).preloads (wSeam w)) ((Tab.find? (s.core 0).drains (wSeam w)).getD []) ∧
      (s.core 0).held p.spans.1 p.spans.2 = 0 ∧ s1.blocked 0 (seamOf (wSeam w)).engines = false ∧ (s.core 0).passing (seamOf (wSeam w)).engines none = false ∧
      (s.core 0).loading (seamOf (wSeam w)).engines (some p.plane) = false ∧ ∀ e ∈ (seamOf (wSeam w)).engines, ((s.core 0).plane e p.plane).state ≠ 3) ∧
    (∃ s w rec s1, MayIssue s 0 0x04 [0] w ∧ (s.stir (coreDie 0)).argRecord 0 w = .ok (rec, s1) ∧
      ∃ p, p = passOf w rec (Tab.find? (s.core 0).preloads (wSeam w)) ((Tab.find? (s.core 0).drains (wSeam w)).getD []) ∧
      (s.core 0).held p.spans.1 p.spans.2 = 0 ∧ s1.blocked 0 (seamOf (wSeam w)).engines = false ∧ (s.core 0).passing (seamOf (wSeam w)).engines none = false ∧
      (s.core 0).loading (seamOf (wSeam w)).engines (some p.plane) = false ∧ (∃ e ∈ (seamOf (wSeam w)).engines, ((s.core 0).plane e p.plane).state = 3) ∧
      ∀ y ∈ (s.core 0).inflight, y.id ≠ (s.core 0).nextId) ∧
    (∃ s : State, ∃ id n fl p p' s', (s.core 0).runningPass id = some (fl, p) ∧
      Pass.rowsUpTo 0 fl (p.rows - p.next) (p.rate ((s.core 0).plane (p.unit.engine 0 0) p.plane).fmt).1 p (s.stir (coreDie 0)) = .ok (n + 1, p', s')) ∧
    (∃ s : State, ∃ id fl p bs, (s.core 0).runningPass id = some (fl, p) ∧
      Pass.rowsUpTo 0 fl (p.rows - p.next) (p.rate ((s.core 0).plane (p.unit.engine 0 0) p.plane).fmt).1 p (s.stir (coreDie 0)) = .error (.wait bs)) ∧
    (∃ s : State, ∃ id fl p, (s.core 0).runningPass id = some (fl, p) ∧ p.sub = 0 ∧ p.rows ≤ p.next) ∧
    (∃ s : State, ∃ e x p, ((s.core 0).inflight.find? fun f => f.engines.contains e && f.stopped.isNone &&
      (match f.work with | .pass _ => true | _ => false)) = some x ∧ x.work = .pass p ∧ s.couldBeat 0 x p = true) ∧
    (∃ s : State, ∃ e x p, ((s.core 0).inflight.find? fun f => f.engines.contains e && f.stopped.isNone &&
      (match f.work with | .pass _ => true | _ => false)) = some x ∧ x.work = .pass p ∧ s.couldBeat 0 x p = false) := by
  obtain ⟨n, p', s', h⟩ := feeds_of (x := Pass.rowsUpTo 0 (flight (.pass pass1)) (pass1.rows - pass1.next)
    (pass1.rate (((passing pass1).core 0).plane (pass1.unit.engine 0 0) pass1.plane).fmt).1 pass1 ((passing pass1).stir (coreDie 0))) (by decide +kernel)
  obtain ⟨bs, hw⟩ := wait_of (x := Pass.rowsUpTo 0 (flight (.pass passS)) (passS.rows - passS.next)
    (passS.rate (((passing passS).core 0).plane (passS.unit.engine 0 0) passS.plane).fmt).1 passS ((passing passS).stir (coreDie 0))) (by decide +kernel)
  exact ⟨⟨stands (word 0x04 0) core1, word 0x04 0, _, _, may (by decide +kernel), arg_ok (by decide +kernel), _, rfl, by decide +kernel, by decide +kernel,
      by decide +kernel, by decide +kernel, by decide +kernel⟩,
    ⟨stands (word 0x04 0) invalid, word 0x04 0, _, _, may (by decide +kernel), arg_ok (by decide +kernel), _, rfl, by decide +kernel, by decide +kernel,
      by decide +kernel, by decide +kernel, by decide +kernel, by decide +kernel⟩,
    ⟨passing pass1, 5, n, flight (.pass pass1), pass1, p', s', by decide +kernel, h⟩,
    ⟨passing passS, 5, flight (.pass passS), passS, bs, by decide +kernel, hw⟩,
    ⟨passing { pass1 with next := 1 }, 5, flight (.pass { pass1 with next := 1 }), { pass1 with next := 1 }, by decide +kernel, by decide +kernel, by decide +kernel⟩,
    ⟨passing pass1, 0, flight (.pass pass1), pass1, by decide +kernel, rfl, by decide +kernel⟩,
    ⟨passing passS, 0, flight (.pass passS), passS, by decide +kernel, rfl, by decide +kernel⟩⟩

/-- A device with two flipped bits in a word of line 2 of bank 1 of core 0. -/
def struck (used : Tbl Nat) : State :=
  { dev .ready with chip := { Chip.init with scratchFlips := [(1028, 3)] }, repair := { (dev .ready).repair with linesUsed := used } }

/-- An argument record of one row of four elements, its operands at address 0. -/
def rowRec : Rec := zeros 96 ++ toLe 4 1 ++ toLe 4 4 ++ zeros 24

/-- Core 0 at an instruction of an opcode with that record, and what it reads of it. -/
def unitS (op : Nat) (k : Core) : State :=
  let s := stands (word op 0) k
  { s with chip := { s.chip with scratch := s.chip.scratch.writeN 0 rowRec } }
@[inherit_doc unitS] def unitA (op : Nat) : Rec × State := argOf (unitS op core1) (word op 0)

/-- The elements of its row. -/
def unitE (op : Nat) (w : Word64) (rec : Rec) (s1 : State) : Except BankErr (List Elem × State) :=
  if op = 0x08 then vecSource 0 w rec s1 0 0 else if op = 0x09 then funSource 0 w rec s1 0 0 else (redSource 0 w rec s1 0).map fun x => ([x.1], x.2)

/-- The block it stores of them. -/
def unitB (op : Nat) (s : State) (w : Word64) (rec : Rec) (s1 : State) (rule : ExpRule) (es : List Elem) : Except BankErr (Rec × State) :=
  let draw := fun n => if op = 0x0A then s.draw 2 (bits (le rec 112 4) 27 0) (le rec 104 4 + n) (le rec 108 4)
    else s.draw 2 (bits (le rec 112 4) 27 0) (le rec 104 4) (le rec 108 4 + n)
  let st := storeBlock (fieldOf w 25 24) rule (fieldOf w 19 19 == 1) draw (maxExp (es.flatMap (·.terms))) (es.map (·.val))
  if op = 0x0A then s1.writeColBlock 0 (refAt rec 72) (fieldOf w 25 24) 0 st else s1.writeBlock 0 (refAt rec 72) (fieldOf w 25 24) 0 0 st

theorem meets_UnitsRunAndSparesTakeOver_rows :
    ∀ op ∈ [0x08, 0x09, 0x0A], ∃ s s1 s2 s3 : State, ∃ w rec bytes es rule, MayIssue s 0 op [0] w ∧ s.chip.scratchFlips = [] ∧ (s.core 0).tableFlips = [] ∧
      (s.stir (coreDie 0)).argRecord 0 w = .ok (rec, s1) ∧ ((s.core 0).held (unitSpans w rec).1 (unitSpans w rec).2 = 0 ∧
      (∀ y ∈ (s.core 0).inflight, y.id ≠ (s.core 0).nextId) ∧ le rec 96 4 = 1 ∧ 1 ≤ le rec 100 4 ∧ le rec 100 4 ≤ 64 ∧
      s.expRule (refAt rec 72).unscaled (fieldOf w 21 20) (bits (le rec 116 2) 11 0) = some rule) ∧
      unitE op w rec s1 = .ok (es, s2) ∧ unitB op s w rec s1 rule es = .ok (bytes, s3) := by
  intro op hop
  have hr : ∀ op ∈ [0x08, 0x09, 0x0A], ((unitS op core1).expRule (refAt (unitA op).1 72).unscaled (fieldOf (word op 0) 21 20)
    (bits (le (unitA op).1 116 2) 11 0)).isSome = true := by decide +kernel
  obtain ⟨rule, hrule⟩ := Option.isSome_iff_exists.mp (hr op hop)
  have he : ∀ op ∈ [0x08, 0x09, 0x0A], isOk (unitE op (word op 0) (unitA op).1 (unitA op).2) = true := by decide +kernel
  have hb : ∀ op ∈ [0x08, 0x09, 0x0A], ((unitS op core1).expRule (refAt (unitA op).1 72).unscaled (fieldOf (word op 0) 21 20)
      (bits (le (unitA op).1 116 2) 11 0)).all (fun rule => isOk (unitB op (unitS op core1) (word op 0) (unitA op).1 (unitA op).2 rule
      (okOr (unitE op (word op 0) (unitA op).1 (unitA op).2) ([], State.reset)).1)) = true := by decide +kernel
  have hb := hb op hop
  rw [hrule] at hb
  have hm : ∀ op ∈ [0x08, 0x09, 0x0A], (unitS op core1).wordAt 0 = some (word op 0) ∧ (unitS op core1).issuing 0 = true ∧ ((unitS op core1).core 0).hold ∈ [0] ∧
    wOp (word op 0) = op ∧ ((unitS op core1).core 0).progFlips.get (((unitS op core1).core 0).pc / 2) = 0 := by decide +kernel
  have ha : ∀ op ∈ [0x08, 0x09, 0x0A], isOk (((unitS op core1).stir (coreDie 0)).argRecord 0 (word op 0)) = true := by decide +kernel
  have hh : ∀ op ∈ [0x08, 0x09, 0x0A], ((unitS op core1).core 0).held (unitSpans (word op 0) (unitA op).1).1 (unitSpans (word op 0) (unitA op).1).2 = 0 ∧
    (∀ y ∈ ((unitS op core1).core 0).inflight, y.id ≠ ((unitS op core1).core 0).nextId) ∧ le (unitA op).1 96 4 = 1 ∧ 1 ≤ le (unitA op).1 100 4 ∧
    le (unitA op).1 100 4 ≤ 64 := by decide +kernel
  obtain ⟨h1, h2, h3, h4, h5⟩ := hh op hop
  exact ⟨unitS op core1, (unitA op).2, _, _, word op 0, (unitA op).1, _, _, rule, may (hm op hop), rfl, rfl, arg_ok (ha op hop), ⟨h1, h2, h3, h4, h5, hrule⟩,
    ok_of ([], State.reset) (he op hop), ok_of ([], State.reset) hb⟩

theorem meets_UnitsRunAndSparesTakeOver :
    (∃ s s1 w rec, MayIssue s 0 0x08 [0] w ∧ (s.stir (coreDie 0)).argRecord 0 w = .ok (rec, s1)) ∧
    (∃ s s1 w rec, MayIssue s 0 0x08 [0] w ∧ (s.stir (coreDie 0)).argRecord 0 w = .ok (rec, s1) ∧
      (s.core 0).held (unitSpans w rec).1 (unitSpans w rec).2 ≠ 0) ∧
    (∃ s s1 w rec, MayIssue s 0 0x09 [0] w ∧ (s.stir (coreDie 0)).argRecord 0 w = .ok (rec, s1)) ∧
    (∃ s s1 w rec, MayIssue s 0 0x0A [0] w ∧ (s.stir (coreDie 0)).argRecord 0 w = .ok (rec, s1)) ∧
    (∃ s s1 w rec, MayIssue s 0 0x0A [4, 5, 6, 7] w ∧ (s.stir (coreDie 0)).argRecord 0 w = .ok (rec, s1)) ∧
    (∃ s : State, ∃ id x op, (s.core 0).flight? id = some x ∧ x.work = .unit op ∧ x.stopped = none) ∧
    (∃ s : State, s.repair.handoverPending.contains (0, 0) = true ∧ (s.core 0).busy.contains 0 = false ∧ s.headerSound ∧
      s.repair.spareEngineUsed.contains 0 = false ∧ s.repair.spareEngineFailed.contains 0 = false ∧ s.repair.entries.length < 8192) ∧
    (∃ s : State, s.repair.handoverPending.contains (0, 0) = true ∧ (s.core 0).busy.contains 0 = false ∧ s.repair.spareEngineUsed.contains 0 = true) ∧
    (∃ s : State, s.repair.handoverPending.contains (0, 0) = false) ∧
    (∃ s : State, s.headerSound ∧ s.lineDead 0 1 2 = true ∧ Tab.get 0 s.repair.linesUsed (128 * 0 + 1) < 16 ∧ s.repair.entries.length < 8192) ∧
    (∃ s : State, s.lineDead 0 1 2 = true ∧ 16 ≤ Tab.get 0 s.repair.linesUsed (128 * 0 + 1)) ∧
    (∃ s : State, s.lineDead 0 1 2 = false ∧ s.lineWorn 0 1 2 = false) :=
  ⟨⟨stands (word 0x08 0) core1, _, word 0x08 0, _, may (by decide +kernel), arg_ok (by decide +kernel)⟩,
    ⟨unitS 0x08 { core1 with inflight := [{ flight (.unit 8) with writes := [{ lo := 0, hi := 64 }] }] }, _, word 0x08 0, _, may (by decide +kernel),
      arg_ok (by decide +kernel), by decide +kernel⟩,
    ⟨stands (word 0x09 0) core1, _, word 0x09 0, _, may (by decide +kernel), arg_ok (by decide +kernel)⟩,
    ⟨stands (word 0x0A 0) core1, _, word 0x0A 0, _, may (by decide +kernel), arg_ok (by decide +kernel)⟩,
    ⟨stands (word 0x0A 0) { core1 with hold := 5 }, _, word 0x0A 0, _, may (by decide +kernel), arg_ok (by decide +kernel)⟩,
    ⟨stands (word 0x1F 0) { core1 with inflight := [flight (.unit 8)] }, 5, flight (.unit 8), 8, by decide +kernel, rfl, rfl⟩,
    ⟨{ dev .ready with repair := { (dev .ready).repair with handoverPending := [(0, 0)] } }, rfl, rfl, rfl, rfl, rfl, by decide⟩,
    ⟨{ dev .ready with repair := { (dev .ready).repair with handoverPending := [(0, 0)], spareEngineUsed := [0] } }, rfl, rfl, rfl⟩, ⟨dev .ready, rfl⟩,
    ⟨struck [], rfl, by decide +kernel, by decide, by decide⟩, ⟨struck [(1, 16)], by decide +kernel, by decide⟩, ⟨dev .ready, by decide, by decide⟩⟩

/-- A block of two elements of format 1 at scratchpad addresses apart. -/
def block : Stored := { elems := [some 3, none], scale := 0, exp := 0, sats := 0, vugs := 1 }

/-! ## Streams -/

/-- A stream table entry: ring base, class and bits of byte 9. -/
def entry (base flags : Nat) : Rec := toLe 8 base ++ [0, BitVec.ofNat 8 flags] ++ zeros 22

/-- A plan with one stream. -/
def planOf (id : Nat) (e : Rec) : Plan := { plan with streams := [(id, e)] }

/-- A device in which a stream of one entry stands so. -/
def flows (id : Nat) (e : Rec) (x : Stream) : State := runs (planOf id e) { Chip.init with streams := [(id, x)] }

/-- A stream with a slot armed, and one byte of device memory written. -/
def armedAt (e : Rec) (a : Nat) : State := (flows 0x6000 e { Stream.init with armed := 1 }).devPut a [0x80]

/-- A slot being run with no transfer started. -/
def slot0 (desc : Rec) : Running := { slot := 0, desc := desc, started := 0, done := 0 }

theorem meets_StreamArmsFollowTheirChecks :
    (∃ s : State, ∃ w e, s.streamEntry (fieldOf w 14 0) = some e ∧ armBad w = false ∧ bit (le e 9 1) 5 = true ∧ s.flint.owner = some 0 ∧
      streamClass e ≠ 4 ∧ s.flint.view = .running ∧ s.holding = true ∧ fieldOf w 31 30 = 0) ∧
    (∃ s : State, ∃ w e, s.streamEntry (fieldOf w 14 0) = some e ∧ armBad w = false ∧ bit (le e 9 1) 5 = true ∧ s.flint.owner = some 0 ∧
      streamClass e ≠ 4 ∧ s.flint.view = .running ∧ s.holding = false ∧ fieldOf w 31 30 = 0 ∧
      (s.stream (fieldOf w 14 0)).armed + fieldOf w 47 32 + 1 = ringSize e) ∧
    (∃ s : State, ∃ w e, s.streamEntry (fieldOf w 14 0) = some e ∧ armBad w = false ∧ bit (le e 9 1) 5 = true ∧ s.flint.owner = some 0 ∧
      streamClass e ≠ 4 ∧ s.flint.view = .running ∧ s.holding = false ∧ fieldOf w 31 30 = 0 ∧
      ¬ (s.stream (fieldOf w 14 0)).armed + fieldOf w 47 32 + 1 ≤ ringSize e) ∧
    (∃ s : State, ∃ w e, s.streamEntry (fieldOf w 14 0) = some e ∧ armBad w = false ∧ bit (le e 9 1) 5 = true ∧ streamClass e = 4 ∧
      streamHost e = 0 ∧ s.flint.view = .running ∧ s.holding = false ∧ fieldOf w 31 30 = 1 ∧
      ∃ r, (s.stream (fieldOf w 14 0)).running = some r ∧ r.slot = fieldOf w 63 48 ∧ (s.stream (fieldOf w 14 0)).faulted = false ∧
      (s.stream (fieldOf w 14 0)).rearm = false) ∧
    (∃ s : State, ∃ w e, s.streamEntry (fieldOf w 14 0) = some e ∧ armBad w = false ∧ bit (le e 9 1) 5 = true ∧ s.flint.owner = some 0 ∧
      streamClass e ≠ 4 ∧ s.flint.view = .running ∧ s.holding = false ∧ fieldOf w 31 30 = 1 ∧ (s.stream (fieldOf w 14 0)).running = none ∧
      (s.stream (fieldOf w 14 0)).again = none ∧ (s.stream (fieldOf w 14 0)).armed = 0 ∧ (s.stream (fieldOf w 14 0)).faulted = false ∧
      (s.stream (fieldOf w 14 0)).last = some (fieldOf w 63 48) ∧ isOk ((s.stir (ownerDie (fieldOf w 14 0))).readSlot (fieldOf w 14 0) e (fieldOf w 63 48)) = true ∧
      s.moves (fieldOf w 14 0) e = true) ∧
    (∃ s : State, ∃ w e, s.streamEntry (fieldOf w 14 0) = some e ∧ armBad w = false ∧ bit (le e 9 1) 5 = true ∧ s.flint.owner = some 0 ∧
      streamClass e ≠ 4 ∧ s.flint.view = .running ∧ s.holding = false ∧ fieldOf w 31 30 = 1 ∧ (s.stream (fieldOf w 14 0)).running = none ∧
      (s.stream (fieldOf w 14 0)).again = none ∧ (s.stream (fieldOf w 14 0)).armed = 0 ∧ (s.stream (fieldOf w 14 0)).faulted = false ∧
      (s.stream (fieldOf w 14 0)).last = some (fieldOf w 63 48) ∧ s.moves (fieldOf w 14 0) e = false) ∧
    (∃ s : State, ∃ w e y, s.streamEntry (fieldOf w 14 0) = some e ∧ armBad w = false ∧ bit (le e 9 1) 5 = true ∧ s.flint.owner = some 0 ∧
      streamClass e ≠ 4 ∧ s.flint.view = .running ∧ s.holding = false ∧ fieldOf w 31 30 = 1 ∧ (s.stream (fieldOf w 14 0)).runs = some y ∧ y ≠ fieldOf w 63 48) ∧
    (∃ s : State, ∃ w e c, s.streamEntry (fieldOf w 14 0) = some e ∧ armBad w = false ∧ bit (le e 9 1) 5 = true ∧ s.flint.owner = some 0 ∧
      streamClass e ≠ 4 ∧ s.flint.view = .running ∧ Accepted s m0 rowArmStream armForm ∧ w = BitVec.ofNat 64 (le (s.requestOf m0) 64 8) ∧
      fieldOf w 31 30 = 0 ∧ s.residentCtx = some c ∧ le (s.requestOf m0) 8 2 = c.id.toNat) := by
  refine ⟨⟨busy (flows 0 (entry 0 0xA1) Stream.init) (Background.begin .switch m0), 0, entry 0 0xA1, ?_⟩,
    ⟨flows 0 (entry 0 0xA1) Stream.init, 0, entry 0 0xA1, ?_⟩, ⟨flows 0 (entry 0 0xA1) { Stream.init with armed := 1 }, 0, entry 0 0xA1, ?_⟩,
    ⟨flows 0x6000 (entry 0 0xA4) { Stream.init with running := some (slot0 []) }, 0x40006000, entry 0 0xA4, rfl, by decide +kernel,
      by decide +kernel, rfl, by decide +kernel, by decide +kernel, by decide +kernel, by decide +kernel, slot0 [], by decide +kernel⟩,
    ⟨armedAt (entry 0x20000000 0xA3) 0x20000003 |>.modStream 0x6000 fun _ => { Stream.init with last := some 0 }, 0x40006000, entry 0x20000000 0xA3, ?_⟩,
    ⟨(flows 0 (entry 0 0xA1) { Stream.init with last := some 7 }).modChip fun h => { h with step := some { step with aborting := true } },
      0x0007000040000000, entry 0 0xA1, ?_⟩,
    ⟨flows 0 (entry 0 0xA1) { Stream.init with again := some 3 }, 0x0007000040000000, entry 0 0xA1, 3, ?_⟩,
    ⟨ask (flows 0 (entry 0 0xA1) Stream.init) 0x22 1 (zeros 8), 0, entry 0 0xA1, ctxOf (planOf 0 (entry 0 0xA1)), by decide +kernel, by decide +kernel,
      by decide +kernel, rfl, by decide +kernel, by decide +kernel, accepted 8 (by decide +kernel), ?_, by decide +kernel, by decide +kernel, ?_⟩⟩
  any_goals repeat rw [le_page _ _ _ _ (by omega)]
  all_goals decide +kernel

/-- A transfer of one byte in the region, with bits of a descriptor's first word. -/
def byteMove (top : Nat) : Rec := toLe 4 top ++ zeros 4 ++ toLe 8 0x20000000 ++ toLe 8 0x20000040 ++ zeros 40

theorem meets_SlotsAreFetchedAndTransfersStart :
    (∃ s s1 : State, ∃ id e d, s.streamEntry id = some e ∧ s.moves id e = true ∧ (s.stream id).running = none ∧ (s.stream id).again = none ∧
      (s.stream id).fetched = [] ∧ 1 ≤ (s.stream id).armed ∧
      (s.stir (ownerDie id)).readSlot id e ((s.stream id).head % ringSize e) = .ok (d, s1) ∧ pebbleRing e = false) ∧
    (∃ s s1 : State, ∃ id e d, s.streamEntry id = some e ∧ s.moves id e = true ∧ (s.stream id).running = none ∧ (s.stream id).again = none ∧
      (s.stream id).fetched = [] ∧
      1 ≤ (s.stream id).armed ∧ (s.stir (ownerDie id)).readSlot id e ((s.stream id).head % ringSize e) = .ok (d, s1) ∧ pebbleRing e = true) ∧
    (∃ s : State, ∃ id e, s.streamEntry id = some e ∧ s.moves id e = false) ∧
    (∃ s : State, ∃ id e r, s.streamEntry id = some e ∧ s.moves id e = true ∧ (s.stream id).running = some r ∧ streamClass e ≠ 5 ∧
      (xferOf e r.desc).dst ≠ 5 ∧ (streamClass e = 4 → s.hostHeld id e = false) ∧ r.stale = false ∧ (s.stream id).descFlips = [] ∧ r.started = r.done ∧ r.started < (xferOf e r.desc).count ∧
      (s.stream id).gated = false ∧ (xferOf e r.desc).gate = true ∧ s.queueCount (xferOf e r.desc).gateQ.1 (xferOf e r.desc).gateQ.2 = 0) ∧
    (∃ s : State, ∃ id e r, s.streamEntry id = some e ∧ s.moves id e = true ∧ (s.stream id).running = some r ∧ streamClass e ≠ 5 ∧
      (xferOf e r.desc).dst ≠ 5 ∧ (streamClass e = 4 → s.hostHeld id e = false) ∧ r.stale = false ∧ (s.stream id).descFlips = [] ∧ r.started = r.done ∧ r.started < (xferOf e r.desc).count ∧
      (s.stream id).gated = false ∧ (xferOf e r.desc).gate = true ∧ 1 ≤ s.queueCount (xferOf e r.desc).gateQ.1 (xferOf e r.desc).gateQ.2 ∧
      isOk (s.sidesOk (streamClass e) (xferOf e r.desc) r.done) = true) ∧
    (∃ s : State, ∃ id e r, s.streamEntry id = some e ∧ s.moves id e = true ∧ (s.stream id).running = some r ∧ streamClass e ≠ 5 ∧
      (xferOf e r.desc).dst ≠ 5 ∧ (streamClass e = 4 → s.hostHeld id e = false) ∧ r.stale = false ∧ (s.stream id).descFlips = [] ∧ r.started = r.done ∧ r.started < (xferOf e r.desc).count ∧
      (s.stream id).gated = false ∧ (xferOf e r.desc).gate = false ∧ (∃ u, s.sidesOk (streamClass e) (xferOf e r.desc) r.done = .error (.fault 0x04 u))) := by
  obtain ⟨⟨d, s1⟩, h⟩ := ok_some (x := ((armedAt (entry 0x20000000 0x83) 0x20000003).stir 0).readSlot 0x6000 (entry 0x20000000 0x83) 0)
    (by decide +kernel)
  obtain ⟨⟨d', s1'⟩, h'⟩ := ok_some (x := ((armedAt (entry 0x20000000 0x8B) 0x2000000D).stir 0).readSlot 0x6000 (entry 0x20000000 0x8B) 0)
    (by decide +kernel)
  refine ⟨⟨armedAt (entry 0x20000000 0x83) 0x20000003, s1, 0x6000, _, d, by decide +kernel, by decide +kernel, rfl, rfl, rfl, by decide, h,
      by decide +kernel⟩,
    ⟨armedAt (entry 0x20000000 0x8B) 0x2000000D, s1', 0x6000, _, d', by decide +kernel, by decide +kernel, rfl, rfl, rfl, by decide, h',
      by decide +kernel⟩,
    ⟨flows 0x6000 (entry 0 0x83) { Stream.init with faulted := true }, 0x6000, entry 0 0x83, ?_⟩,
    ⟨flows 0x6000 (entry 0 0x83) { Stream.init with running := some (slot0 (byteMove 0x100000)) }, 0x6000, entry 0 0x83, slot0 (byteMove 0x100000), ?_⟩,
    ⟨runs (planOf 0x6000 (entry 0 0x83)) { Chip.init with
      streams := [(0x6000, { Stream.init with running := some (slot0 (byteMove 0x100000)) })], cores := [(0, { Core.init with queues := [(0, 1)] })] },
      0x6000, entry 0 0x83, slot0 (byteMove 0x100000), ?_⟩,
    ⟨flows 0x6000 (entry 0 0x83) { Stream.init with running := some (slot0 (zeros 64)) }, 0x6000, entry 0 0x83, slot0 (zeros 64), by decide +kernel,
      by decide +kernel, rfl, by decide +kernel, by decide +kernel, by decide +kernel, rfl, rfl, rfl, by decide +kernel, rfl, by decide +kernel, _, rfl⟩⟩
  all_goals decide +kernel

/-- A reference to rows at 0, their scales at 1024, their masks at 2048. -/
def ref : Ref := { stream := none, base := 0, rowStride := 0, unscaled := false, scaleBase := 1024, scaleStride := 0, maskBase := 2048, instr := none }

theorem meets_StoredBlocksReadBack :
    ∀ f < 4, ∃ s s' : State, ∃ e bytes, s.chip.scratchFlips = [] ∧ block.elems.length ≤ 64 ∧ (∀ i, some i ∈ block.elems → fmtMin f ≤ i ∧ i ≤ fmtMax f) ∧
      scaleExp block.scale = some e ∧ ref.unscaled = false ∧
      (ref.scaleAt 0 0 < ref.valueAt f 0 0 ∨ ref.valueAt f 0 0 + valueBytes f block.elems.length ≤ ref.scaleAt 0 0) ∧
      (f = 3 → (ref.maskAt (ref.scaleAt 0 0) + 8 ≤ ref.valueAt f 0 0 ∨ ref.valueAt f 0 0 + valueBytes f block.elems.length ≤ ref.maskAt (ref.scaleAt 0 0)) ∧
        (ref.maskAt (ref.scaleAt 0 0) + 8 ≤ ref.scaleAt 0 0 ∨ ref.scaleAt 0 0 < ref.maskAt (ref.scaleAt 0 0))) ∧ s.writeBlock 0 ref f 0 0 block = .ok (bytes, s') := by
  have key : ∀ f < 4, isOk ((dev .running).writeBlock 0 ref f 0 0 block) = true := by decide +kernel
  have k2 : ∀ f < 4, (∀ i, some i ∈ block.elems → fmtMin f ≤ i ∧ i ≤ fmtMax f) := by
    intro f hf i hi
    have : i = 3 := by simpa [block] using hi
    subst this
    revert f; decide +kernel
  have k3 : ∀ f < 4, (ref.scaleAt 0 0 < ref.valueAt f 0 0 ∨ ref.valueAt f 0 0 + valueBytes f block.elems.length ≤ ref.scaleAt 0 0) ∧
      (f = 3 → (ref.maskAt (ref.scaleAt 0 0) + 8 ≤ ref.valueAt f 0 0 ∨ ref.valueAt f 0 0 + valueBytes f block.elems.length ≤ ref.maskAt (ref.scaleAt 0 0)) ∧
        (ref.maskAt (ref.scaleAt 0 0) + 8 ≤ ref.scaleAt 0 0 ∨ ref.scaleAt 0 0 < ref.maskAt (ref.scaleAt 0 0))) := by
    decide +kernel
  intro f hf
  obtain ⟨⟨bytes, s'⟩, h⟩ := ok_some (key f hf)
  exact ⟨dev .running, s', 0, bytes, rfl, by decide, k2 f hf, by decide +kernel, rfl, (k3 f hf).1, (k3 f hf).2, h⟩

theorem meets_MemoryTransfersCopyTheirBytes :
    ∃ s : State, ∃ id e r, s.streamEntry id = some e ∧ s.moves id e = true ∧ (s.stream id).running = some r ∧ streamClass e = 3 ∧ r.done < r.started ∧
      r.stale = false ∧ (s.stream id).signalled = 0 ∧ (s.stream id).offered = false ∧ (s.stream id).rearm = false ∧ s.devFlips = [] ∧ s.devmem.wf = true ∧ (xferOf e r.desc).src = 0 ∧
      (xferOf e r.desc).dst = 0 ∧ (xferOf e r.desc).transform = 0 ∧ (xferOf e r.desc).digest = false ∧ (xferOf e r.desc).signal = false ∧
      (xferOf e r.desc).final = false ∧ (xferOf e r.desc).link = false ∧ (xferOf e r.desc).rows = 1 ∧ (xferOf e r.desc).sfx = 0 ∧
      (s.stream id).descFlips = [] ∧
      (s.stirHops id).retraining ((xferOf e r.desc).from.at (xferOf e r.desc) r.done 0).1 (xferOf e r.desc).rowBytes = false ∧
      (s.stirHops id).retraining ((xferOf e r.desc).to.at (xferOf e r.desc) r.done 0).1 (xferOf e r.desc).rowBytes = false ∧
      s.sidesOk 3 (xferOf e r.desc) r.done = .ok () ∧ r.done + 1 = (xferOf e r.desc).count := by
  refine ⟨(flows 0x6000 (entry 0 0x83) { Stream.init with running := some { slot := 0, desc := byteMove 0, started := 1, done := 0 } }).devPut 0x20000000 [5],
    0x6000, entry 0 0x83, { slot := 0, desc := byteMove 0, started := 1, done := 0 }, ?_⟩
  obtain ⟨u, h⟩ := ok_some (x := ((flows 0x6000 (entry 0 0x83) { Stream.init with
    running := some { slot := 0, desc := byteMove 0, started := 1, done := 0 } }).devPut 0x20000000 [5]).sidesOk 3 (xferOf (entry 0 0x83) (byteMove 0)) 0) (by decide +kernel)
  have hs : ∀ (a b c d : Prop), (a ∧ b) ∧ c ∧ d → a ∧ b ∧ c ∧ d := fun _ _ _ _ x => ⟨x.1.1, x.1.2, x.2⟩
  iterate 6 refine hs _ _ _ _ ⟨by decide +kernel, by decide +kernel, ?_⟩
  exact ⟨by decide +kernel, by decide +kernel, by decide +kernel, by decide +kernel, by decide +kernel, h, by decide +kernel⟩

/-- A plan with a lode chain: stream 1 fills it, streams 0x100 and 0x200 are its members. -/
def planL : Plan := { plan with streams := [(1, entry 0 0x80), (0x100, entry 0 0x80), (0x200, entry 0 0x80)], lodes := [(1, [0x100, 0x200])] }

theorem meets_StreamFaultsAndLodeTiles :
    (∃ s : State, ∃ id e, s.streamEntry id = some e ∧ (s.stream id).faulted = false ∧ (s.reg (.streamStatus id)).getLsbD 63 = false) ∧
    (∃ s : State, ∃ id e, s.streamEntry id = some e ∧ (s.reg (.streamStatus id)).getLsbD 63 = true ∧ streamClass e ≠ 4) ∧
    (∃ s : State, ∃ id e r, s.streamEntry id = some e ∧ (s.reg (.streamStatus id)).getLsbD 63 = true ∧ streamClass e = 4 ∧
      (s.stream id).faulted = true ∧ (s.stream id).running = some r) ∧
    (∃ s : State, ∃ id c e img rest, s.chainOf id = some c ∧ s.streamEntry id = some e ∧ (s.stream (upstreamOf c id)).flow = img :: rest ∧ id ∈ c.2 ∧
      s.moves id e = true ∧ (s.lodeTiles id).length < 8) ∧
    (∃ s : State, ∃ id n c e x, s.chainOf id = some c ∧ s.streamEntry id = some e ∧ nextMember c id = some n ∧
      ((s.lodeTiles id).find? fun y => !y.forwarded) = some x ∧ s.moves id e = true ∧ (s.stream id).flow = [] ∧ (s.lodeTiles n).length < 8) ∧
    (∃ s : State, ∃ id, s.chainOf id = none) :=
  ⟨⟨flows 0 (entry 0 0x81) Stream.init, 0, entry 0 0x81, by decide +kernel⟩,
    ⟨(flows 0 (entry 0 0x81) Stream.init).setBit (.streamStatus 0) 63, 0, entry 0 0x81, by decide +kernel⟩,
    ⟨(flows 0x6000 (entry 0 0x84) { Stream.init with faulted := true, running := some (slot0 []) }).setBit (.streamStatus 0x6000) 63, 0x6000,
      entry 0 0x84, slot0 [], by decide +kernel⟩,
    ⟨runs planL { Chip.init with streams := [(1, { Stream.init with flow := [[1]] })] }, 0x100, (1, [0x100, 0x200]), entry 0 0x80, [1], [], by decide +kernel⟩,
    ⟨runs planL { Chip.init with lode := [(0x100, [{ bytes := [1], forwarded := false, taken := false }])] }, 0x100, 0x200, (1, [0x100, 0x200]), entry 0 0x80,
      { bytes := [1], forwarded := false, taken := false }, by decide +kernel⟩,
    ⟨runs planL Chip.init, 0, by decide +kernel⟩⟩

/-! ## External memory and the update unit -/

/-- A device with one memory device in a state. -/
def memOf (d : Nat) (m : MemDev) : State := { dev .ready with mems := [(d, m)] }

/-- A memory device that grants accesses. -/
def trained : MemDev := { MemDev.init with state := 2 }

/-- A read of a device's word, sent again some times. -/
def access (w : Option (BitVec 16 × BitVec 128)) (fails : Nat) : MemAccess :=
  { dev := 3, word := deviceWords - 1, stream := none, write := w, flips := 0, crcFails := fails, retrainOk := false, eccReport := 0 }

theorem meets_MemoryAccessesReadAndWriteWords :
    (∃ s : State, ∃ a : MemAccess, (s.mem a.dev).grants = false ∧ (s.mem a.dev).state ≠ 4) ∧
    (∃ s : State, ∃ a : MemAccess, ((s.mem a.dev).failed = none ∧ (s.mem a.dev).state = 4 ∧ 2 ≤ (s.die (devDie a.dev)).pstate) ∧
      s.flint.state ≠ .scrubbing ∧ a.word < deviceWords ∧ a.write = none ∧ a.crcFails = 0 ∧ a.eccReport = 0 ∧
      s.devFlips.get (devWordKey a.dev a.word) ^^^ a.flips = 0) ∧
    (∃ s : State, ∃ a : MemAccess, (s.mem a.dev).grants = true ∧ s.flint.state ≠ .scrubbing ∧ a.word < deviceWords ∧
      ((s.stir (devDie a.dev)).mem a.dev).exitDue ≠ []) ∧
    (∃ s : State, ∃ a : MemAccess, ∃ mask data, (s.mem a.dev).grants = true ∧ s.flint.state ≠ .scrubbing ∧ a.word < deviceWords ∧ a.write = some (mask, data) ∧
      a.crcFails = 4 ∧ a.eccReport = 0 ∧ s.devFlips.get (devWordKey a.dev a.word) ^^^ a.flips = 0 ∧ s.devmem.wf = true ∧
      ((s.stir (devDie a.dev)).mem a.dev).exitDue = []) ∧
    (∃ s : State, ∃ a : MemAccess, (s.mem a.dev).grants = true ∧ s.flint.state ≠ .scrubbing ∧ a.word < deviceWords ∧ a.write = none ∧ a.crcFails = 0 ∧
      a.eccReport = 0 ∧ s.devFlips.get (devWordKey a.dev a.word) ^^^ a.flips = 0 ∧ ((s.stir (devDie a.dev)).mem a.dev).exitDue = []) ∧
    (∃ s : State, ∃ a : MemAccess, (s.mem a.dev).grants = true ∧ s.flint.state ≠ .scrubbing ∧ a.word < deviceWords ∧ a.write = none ∧ a.crcFails = 0 ∧
      a.eccReport = 0 ∧ settle (s.devFlips.get (devWordKey a.dev a.word) ^^^ a.flips) = none ∧ ((s.stir (devDie a.dev)).mem a.dev).exitDue = [] ∧ ∃ id, a.stream = some id ∧ (s.streamEntry id).isSome = true) ∧
    (∃ s : State, ∃ a : MemAccess, (s.mem a.dev).grants = true ∧ s.flint.state ≠ .scrubbing ∧ a.word < deviceWords ∧ 5 ≤ a.crcFails ∧ a.retrainOk = false ∧
      ((s.stir (devDie a.dev)).mem a.dev).exitDue = []) :=
  ⟨⟨dev .ready, access none 0, by decide +kernel⟩,
    ⟨{ memOf 3 { trained with state := 4 } with dies := [(0, { Die.init with pstate := 2 })] }, access none 0, by decide +kernel⟩,
    ⟨memOf 3 { trained with due := [1], exitDue := [1] }, access none 0, by decide +kernel⟩,
    ⟨memOf 3 trained, access (some (1, 7)) 4, 1, 7, by decide +kernel⟩,
    ⟨memOf 3 trained, access none 0, by decide +kernel⟩, ⟨{ flows 0 (entry 0 0xA1) Stream.init with mems := [(3, trained)] }, { access none 0 with flips := 3, stream := some 0 }, by decide +kernel, by decide +kernel,
      by decide +kernel, rfl, rfl, rfl, by decide +kernel, by decide +kernel, 0, rfl, by decide +kernel⟩,
    ⟨memOf 3 trained, access none 5, by decide +kernel⟩⟩

theorem meets_MemoryDevicesAreMaintained :
    (∃ s : State, (s.mem 3).failed = none ∧ (s.mem 3).state = 2 ∧ badReadout ((s.mem 3).lastOr 35) 35 = false ∧ badReadout ((s.mem 3).lastOr 126) 126 = true ∧
      s.flint.state ≠ .scrubbing ∧ s.cfg.patrolH ≠ 0 ∧ (s.die (devDie 3)).pstate < 2 ∧ settle (s.devFlips.get (devWordKey 3 0)) = none) ∧
    (∃ s : State, (s.mem 3).failed = none ∧ (s.mem 3).state = 4 ∧ badReadout ((s.mem 3).lastOr 35) 35 = false ∧ badReadout ((s.mem 3).lastOr 126) 126 = true) ∧
    (∃ s : State, (s.mem 3).grants = true ∧ (s.mem 3).due.min? = some 1 ∧ (s.mem 3).held = []) ∧
    (∃ s : State, (s.mem 3).grants = true ∧ (s.mem 3).due.min? = some 1 ∧ (s.mem 3).held ≠ []) ∧ (∃ s : State, (s.mem 3).failed = none ∧ (s.mem 3).state = 5) :=
  ⟨⟨{ memOf 3 trained with devFlips := [(devWordKey 3 0, 3)] }, by decide +kernel⟩, ⟨memOf 3 { trained with state := 4 }, by decide +kernel⟩,
    ⟨memOf 3 { trained with due := [2, 1] }, by decide +kernel⟩,
    ⟨memOf 3 { trained with due := [2, 1], exitDue := [2, 1], held := [access none 0] }, by decide +kernel⟩,
    ⟨memOf 3 { trained with state := 5 }, by decide⟩⟩

/-- An update entry of kind 0 and one block, its arrays apart in the region; gate and signal are queue 0 of core 0. -/
def updEntry : Rec :=
  zeros 4 ++ toLe 4 1 ++ ((List.range 11).flatMap fun i => toLe 6 (0x20000000 + 0x1000 * i)) ++ toLe 6 0x20010000 ++ zeros 14 ++ toLe 6 0x20011000 ++ zeros 28

/-- A step with that entry on die 0, its unit in a state. -/
def updating (r : Rec) (u : Update) (queues : Tbl Nat) : State :=
  runs { plan with updates := [(0, [r])], decls := [(0, decl)] } { Chip.init with updates := [(0, u)], cores := [(0, { Core.init with queues := queues })] }

/-- The same with its region still being zeroed. -/
def zeroing (s : State) : State :=
  { s with contexts := [(0, { ctxOf { plan with updates := [(0, [updEntry])], decls := [(0, decl)] } with
    regions := [(0, ({ wide with cursor := 0x20000000 } : Region).sealed)] })] }

/-- What the blocks of an entry come to, when none meets a memory error. -/
theorem blocks_of {x : UpdAcc × State × Option (Nat × UpdErr)} (h : x.2.2.isNone = true) : x = (x.1, x.2.1, none) := by
  obtain ⟨a, s, o⟩ := x
  cases o with
  | none => rfl
  | some e => cases h

theorem meets_UpdateEntriesRunToTheirSignal :
    (∃ s : State, ∃ d l r, s.updList d = some l ∧ l[(s.updUnit d).entry]? = some r ∧ (s.updUnit d).state = 1 ∧
      s.queueCount (updQueue r 80).1 (updQueue r 80).2 = 0) ∧
    (∃ s : State, ∃ d l r, s.updList d = some l ∧ l[(s.updUnit d).entry]? = some r ∧ (s.updUnit d).state = 1 ∧
      1 ≤ s.queueCount (updQueue r 80).1 (updQueue r 80).2 ∧ s.updCheck r = .denied) ∧
    (∃ s : State, ∃ d l r, s.updList d = some l ∧ l[(s.updUnit d).entry]? = some r ∧ (s.updUnit d).state = 1 ∧
      1 ≤ s.queueCount (updQueue r 80).1 (updQueue r 80).2 ∧ s.updCheck r = .held) ∧
    (∃ s : State, ∃ d l r h s1, s.updList d = some l ∧ l[(s.updUnit d).entry]? = some r ∧ (s.updUnit d).state = 1 ∧
      1 ≤ s.queueCount (updQueue r 80).1 (updQueue r 80).2 ∧ s.updCheck r = .ok ∧
      (s.setQueue (updQueue r 80).1 (updQueue r 80).2 (s.queueCount (updQueue r 80).1 (updQueue r 80).2 - 1) |>.stir d).devRead (updAddr r 74) 64 = .ok (h, s1)) ∧
    (∃ s : State, ∃ d l r a s1 s2, s.updList d = some l ∧ l[(s.updUnit d).entry]? = some r ∧ (s.updUnit d).state = 2 ∧ s.updCheck r = .ok ∧
      State.updBlocks r (s.updUnit d).hyper d (s.updUnit d).entry (updCount r) 0 UpdAcc.init (s.stir d) = (a, s1, none) ∧
      ([(updInstr r 84, a.weights), (updInstr r 86, a.gradient), (updInstr r 88, a.update)].foldl (fun (s : State) (x : Option Nat × Accum) =>
        match x.1 with | some i => s.feed i x.2 | none => s) s1).devWrite (updAddr r 94) (updStatus a) = .ok s2) := by
  obtain ⟨⟨h, s1⟩, hr⟩ := ok_some (x := ((updating updEntry { Update.init with state := 1 } [(0, 1)]).setQueue 0 0 0 |>.stir 0).devRead (updAddr updEntry 74) 64)
    (by decide +kernel)
  have hb := blocks_of (x := State.updBlocks updEntry [] 0 0 1 0 UpdAcc.init ((updating updEntry { Update.init with state := 2 } []).stir 0)) (by decide +kernel)
  have hw := ok_of (x := (State.updBlocks updEntry [] 0 0 1 0 UpdAcc.init ((updating updEntry { Update.init with state := 2 } []).stir 0)).2.1.devWrite
    (updAddr updEntry 94) (updStatus (State.updBlocks updEntry [] 0 0 1 0 UpdAcc.init ((updating updEntry { Update.init with state := 2 } []).stir 0)).1))
    State.reset (by decide +kernel)
  exact ⟨⟨updating updEntry { Update.init with state := 1 } [], 0, [updEntry], updEntry, by decide +kernel⟩,
    ⟨updating (zeros 128) { Update.init with state := 1 } [(0, 1)], 0, [zeros 128], zeros 128, by decide +kernel⟩,
    ⟨zeroing (updating updEntry { Update.init with state := 1 } [(0, 1)]), 0, [updEntry], updEntry, by decide +kernel⟩,
    ⟨updating updEntry { Update.init with state := 1 } [(0, 1)], 0, [updEntry], updEntry, h, s1, by decide +kernel, by decide +kernel, by decide +kernel,
      by decide +kernel, by decide +kernel, hr⟩,
    ⟨updating updEntry { Update.init with state := 2 } [], 0, [updEntry], updEntry, _, _, _, by decide +kernel, by decide +kernel, by decide +kernel,
      by decide +kernel, hb, hw⟩⟩

/-! ## Ring -/

/-- An entry of the plane table: plane 0 of two chips, this one at position 0, downstream port 1, upstream port 2. -/
def planeRow : Rec := toLe 2 0x8001 ++ zeros 2 ++ [1, 2] ++ zeros 10

/-- A plan with that plane, whose routes are one hop over it, and collectives over it. -/
def planR (cs : List Rec) : Plan :=
  { plan with settings := zeros 64, planes := [(planeRow, planeRow.map (~~~ ·))], detours := [toLe 4 (2 ^ 29) ++ toLe 4 (2 ^ 29) ++ zeros 8], colls := cs,
              decls := [(0, decl)] }

/-- An agreement of one entry over the plane, its gate queue 0 of core 0. -/
def agree : Rec := toLe 2 (0x8000 + 2 * 2 ^ 13 + 1) ++ zeros 46

/-- A running device with that plan, ports up. -/
def rings (cs : List Rec) (r : Ring) : State :=
  { runs (planR cs) { Chip.init with ring := r } with
    oports := (List.range 3).map fun p => (p, { OPort.init with state := 3 }) }

/-- A control message of a type from position 1, with a number. -/
def message (type n : Nat) : Rec := zeros 4 ++ [BitVec.ofNat 8 (16 * type), 0] ++ toLe 2 1 ++ zeros 4 ++ toLe 4 n ++ zeros 16

/-- What `ControlFor` asks, as a fact that can be decided. -/
theorem control {s : State} {m : Rec} {type : Nat} {pl : Plan} {c : Context} (h : s.tagged (le m 0 4) = some (c, pl) ∧ s.resident = c.id ∧
    bits (le m 4 1) 7 4 = type ∧ bits (le m 16 8) 63 62 = 0 ∧ pl.linked (bits (le m 4 1) 3 0) = true ∧
    bits (le m 8 2) 11 0 = planePos (pl.plane (bits (le m 4 1) 3 0)) ∧ controlReserved m = false ∧ pl.planeSound (bits (le m 4 1) 3 0) = true) :
    ControlFor s m type pl :=
  ⟨⟨c, h.1, h.2.1⟩, h.2.2.1, h.2.2.2.1, h.2.2.2.2.1, h.2.2.2.2.2.1, h.2.2.2.2.2.2.1, h.2.2.2.2.2.2.2⟩

/-- A ring whose port 2 has received the words of a message, the first perhaps marked uncorrectable. -/
def received (cs : List Rec) (m : Rec) (bad : Bool) : State :=
  (rings cs Chip.init.ring).modOport 2 fun o => { o with rxq := (List.range (m.length / 16)).map fun i =>
    { cls := 0, poison := bad && i == 0, word := slice m (16 * i) 16 } }

/-- The plan with a plane entry that does not agree with its complement. -/
def skewed : Plan := { planR [] with planes := [(planeRow, planeRow)] }

/-- The link to position 1, as sender, in a state. -/
def linked (f : Link → Link) : Ring := { Chip.init.ring with up := [f (Link.init 0 1)] }

theorem meets_ControlMessagesActByType :
    (∃ s m pl, ControlFor s m 0 pl ∧ ¬ (s.takeMessage 2 m).1.getD 0 = 0) ∧
    (∃ s m pl, ControlFor s m 0 pl ∧ (s.takeMessage 2 m).1.getD 0 = 0) ∧
    (∃ s m pl, ControlFor s m 3 pl ∧ (s.takeMessage 2 m).1.getD 0 = 0 ∧ (linkOf s.chip.ring.up 0 1).refusedNo = BitVec.ofNat 32 (le m 12 4) ∧ (linkOf s.chip.ring.up 0 1).refused = 2) ∧
    (∃ s m pl, ControlFor s m 3 pl ∧ (s.takeMessage 2 m).1.getD 0 = 0 ∧ (linkOf s.chip.ring.up 0 1).refusedNo = BitVec.ofNat 32 (le m 12 4) ∧
      (linkOf s.chip.ring.up 0 1).refused = 3) ∧
    (∃ s m pl, ControlFor s m 1 pl ∧ (s.takeMessage 2 m).1.getD 0 = 0 ∧ s.replayMode ≠ 3 ∧ (s.oport (planeUp (pl.plane 0))).state = 3) ∧
    (∃ s m pl, ControlFor s m 2 pl ∧ (s.takeMessage 2 m).1.getD 0 = 0 ∧ (linkOf s.chip.ring.up 0 1).query = false) ∧
    (∃ s m pl, ControlFor s m 2 pl ∧ (s.takeMessage 2 m).1.getD 0 = 0 ∧ (linkOf s.chip.ring.up 0 1).query = true) ∧
    (∃ s m, State.tagged s (le m 0 4) = none) ∧
    (∃ s m c pl, State.tagged s (le m 0 4) = some (c, pl) ∧ pl.planeSound (bits (le m 4 1) 3 0) = false) ∧
    (∃ s m c pl, State.tagged s (le m 0 4) = some (c, pl) ∧ pl.planeSound (bits (le m 4 1) 3 0) = true ∧ 4 ≤ bits (le m 4 1) 7 4) ∧
    (∃ s m c pl, State.tagged s (le m 0 4) = some (c, pl) ∧ pl.planeSound (bits (le m 4 1) 3 0) = true ∧ bits (le m 4 1) 7 4 < 4 ∧
      controlReserved m = true) ∧ (∃ s : State, s.headerSound) := by
  refine ⟨⟨received [] (message 0 0) true, message 0 0, planR [], control (c := ctxOf (planR [])) ?_, by decide +kernel⟩,
    ⟨rings [] Chip.init.ring, message 0 0, planR [], control (c := ctxOf (planR [])) ?_, by decide +kernel⟩,
    ⟨rings [] (linked fun l => { l with refused := 2 }), message 3 0, planR [], control (c := ctxOf (planR [])) ?_, by decide +kernel, by decide, rfl⟩,
    ⟨rings [] (linked fun l => { l with refused := 3 }), message 3 0, planR [], control (c := ctxOf (planR [])) ?_, by decide +kernel, by decide, rfl⟩,
    ⟨rings [] Chip.init.ring, message 1 0, planR [], control (c := ctxOf (planR [])) ?_, by decide +kernel⟩,
    ⟨rings [] Chip.init.ring, message 2 0, planR [], control (c := ctxOf (planR [])) ?_, by decide +kernel⟩,
    ⟨rings [] (linked fun l => { l with query := true }), message 2 0, planR [], control (c := ctxOf (planR [])) ?_, by decide +kernel⟩,
    ⟨dev .ready, message 0 0, by decide +kernel⟩,
    ⟨runs skewed Chip.init, message 0 0, ctxOf skewed, skewed, by decide +kernel⟩,
    ⟨rings [] Chip.init.ring, message 4 0, ctxOf (planR []), planR [], by decide +kernel⟩,
    ⟨rings [] Chip.init.ring, patch (message 0 0) 31 [1], ctxOf (planR []), planR [], by decide +kernel⟩, ⟨dev .ready, rfl⟩⟩
  all_goals decide +kernel

/-- A word that waits on a port. -/
def waitingWord : TxWord := { cls := 1, src := 2, start := true, control := true, poison := false, word := zeros 16 }

/-- A chunk of the agreement from position 1: its block, number and tag. -/
def header (b n tag : Nat) : Rec := toLe 4 tag ++ zeros 2 ++ [2, 0] ++ toLe 4 b ++ zeros 2 ++ toLe 2 1 ++ zeros 8 ++ toLe 2 16 ++ [0, 0xFF] ++ toLe 4 n ++ zeros 16

theorem meets_StoppedClassesAndSilentRoutesGoOn :
    (∃ s : State, s.chip.ring.colls = [] ∧ (s.oport 1).state = 3 ∧ (s.oport 1).peerDormant = false ∧ (s.oport 1).replay.length < 1024 ∧ s.flint.state ≠ .scrubbing ∧
      ((s.oport 1).txq.any fun w => w.cls == 1) = true) ∧
    (∃ s : State, ∃ pl, s.plan? = some pl ∧ (linkOf s.chip.ring.up 0 1).route = 2 ∧ (linkOf s.chip.ring.up 0 1).query = true ∧
      (linkOf s.chip.ring.up 0 1).settled = true) ∧
    (∃ s : State, ∃ pl, s.plan? = some pl ∧ (linkOf s.chip.ring.up 0 1).route = 2 ∧ (linkOf s.chip.ring.up 0 1).query = true ∧
      (linkOf s.chip.ring.up 0 1).settled = false ∧ (linkOf s.chip.ring.up 0 1).silent = 1) ∧
    (∃ s : State, ∃ pl, s.plan? = some pl ∧ (linkOf s.chip.ring.up 0 1).route = 2 ∧ (linkOf s.chip.ring.up 0 1).query = true ∧
      (linkOf s.chip.ring.up 0 1).settled = false ∧ (linkOf s.chip.ring.up 0 1).silent = 2 ∧ (pl.route 0 1).isSome = true) ∧
    (∃ s : State, ∃ pl, s.plan? = some pl ∧ (linkOf s.chip.ring.up 0 1).route = 3 ∧ (linkOf s.chip.ring.up 0 1).query = true ∧
      (linkOf s.chip.ring.up 0 1).settled = false ∧ (linkOf s.chip.ring.up 0 1).silent = 2 ∧ s.openSeqs 0 ≠ []) ∧
    (∃ s : State, ∃ pl, s.plan? = some pl ∧ (linkOf s.chip.ring.up 0 1).upAgain = true ∧
      ∀ c ∈ (linkOf s.chip.ring.up 0 1).hold, bit (le c.header 24 2) 15 = false) ∧
    (∃ s : State, s.plan? = none) :=
  ⟨⟨{ dev .loaded with oports := [(1, { OPort.init with state := 3, txq := [waitingWord], stoppedBy := 2 })] }, by decide +kernel⟩,
    ⟨rings [] (linked fun l => { l with route := 2, query := true, upAgain := true }), planR [], by decide +kernel⟩,
    ⟨rings [] (linked fun l => { l with route := 2, query := true, silent := 1 }), planR [], by decide +kernel⟩,
    ⟨rings [] (linked fun l => { l with route := 2, query := true, silent := 2 }), planR [], by decide +kernel⟩,
    ⟨rings [agree] (linked fun l => { l with route := 3, query := true, silent := 2 }), planR [agree], by decide +kernel⟩,
    ⟨rings [] (linked fun l => { l with upAgain := true, hold := [{ header := header 1 0 0, payload := [] }] }), planR [], by decide +kernel⟩,
    ⟨dev .ready, by decide +kernel⟩⟩

/-- What `ChunkFor` asks, as a fact that can be decided. -/
theorem chunk {s : State} {p : Nat} {h : Rec} {pl : Plan} {c : Context} (x : (s.oport p).state = 3 ∧ s.tagged (le h 0 4) = some (c, pl) ∧ s.ringRuns c = true ∧
    (s.oport p).parked = [] ∧ s.replayMode ≠ 3 ∧ h.length = 48 ∧ bits (le h 16 8) 63 62 = 0 ∧ pl.linked (bits (le h 6 1) 6 3) = true ∧
    bits (le h 12 2) 11 0 = planePos (pl.plane (bits (le h 6 1) 6 3)) ∧ pl.planeSound (bits (le h 6 1) 6 3) = true) : ChunkFor s p h pl :=
  ⟨x.1, ⟨c, x.2.1, x.2.2.1⟩, x.2.2.2.1, x.2.2.2.2.1, x.2.2.2.2.2.1, x.2.2.2.2.2.2.1, x.2.2.2.2.2.2.2.1, x.2.2.2.2.2.2.2.2.1, x.2.2.2.2.2.2.2.2.2⟩

/-- The same chunk with no payload. -/
def bare (n : Nat) : Rec := patch (header 1 n 0) 24 [0]

/-- A device whose port 2 holds back a chunk. -/
def parks (ks : List Chunk) : State :=
  { rings [agree] Chip.init.ring with
    flint := { (dev .loaded).flint with state := .loaded }, oports := [(2, { OPort.init with state := 3, parked := ks })] }

theorem meets_ChunksAreAcceptedInOrder :
    (∃ s h pl, ChunkFor s 2 h pl ∧ (s.takeMessage 2 h).1 = none ∧ BitVec.ofNat 32 (le h 28 4) = (linkOf s.chip.ring.down 0 1).accepted) ∧
    (∃ s h pl, ChunkFor s 2 h pl ∧ (s.takeMessage 2 h).1 = some 0 ∧ BitVec.ofNat 32 (le h 28 4) = (linkOf s.chip.ring.down 0 1).accepted) ∧
    (∃ s h pl, ChunkFor s 2 h pl ∧ (s.takeMessage 2 h).1 = none ∧ BitVec.ofNat 32 (le h 28 4) ≠ (linkOf s.chip.ring.down 0 1).accepted + 1 ∧
      after (BitVec.ofNat 32 (le h 28 4)) ((linkOf s.chip.ring.down 0 1).accepted + 1) = true) ∧
    (∃ s h pl, ChunkFor s 2 h pl ∧ (s.takeMessage 2 h).1 = none ∧ BitVec.ofNat 32 (le h 28 4) = (linkOf s.chip.ring.down 0 1).accepted + 1 ∧
      (s.takeMessage 2 h).2.chunkBad h [] = true) ∧
    (∃ s h pl, ChunkFor s 2 h pl ∧ (s.takeMessage 2 (h ++ zeros 16)).1 = none ∧
      BitVec.ofNat 32 (le h 28 4) = (linkOf s.chip.ring.down 0 1).accepted + 1 ∧ (s.takeMessage 2 (h ++ zeros 16)).2.take.2.chunkBad h (zeros 16) = false ∧
      (s.takeMessage 2 (h ++ zeros 16)).2.chunkBad h (zeros 16) = false ∧
      (s.takeMessage 2 (h ++ zeros 16)).2.used0 2 + 48 + (zeros 16).length ≤ 524288 ∧ s.planeEntry 0 = some (planeRow, planeRow.map (~~~ ·))) ∧
    (∃ s h pl, ChunkFor s 2 h pl ∧ (s.takeMessage 2 (h ++ zeros 16)).1 = some 1 ∧
      BitVec.ofNat 32 (le h 28 4) = (linkOf s.chip.ring.down 0 1).accepted + 1 ∧ (s.takeMessage 2 (h ++ zeros 16)).2.chunkBad h (zeros 16) = false) ∧
    (∃ s : State, ∃ h : Rec, h.length = 48 ∧ (s.oport 2).state ≠ 3) ∧
    (∃ s : State, ∃ h : Rec, h.length = 48 ∧ (s.oport 2).state = 3 ∧ s.tagged (le h 0 4) = none) ∧
    (∃ s : State, ∃ h : Rec, ∃ c pl, h.length = 48 ∧ (s.oport 2).state = 3 ∧ s.tagged (le h 0 4) = some (c, pl) ∧ s.ringRuns c = false ∧
      bits (le h 16 8) 63 62 = 0 ∧ pl.linked (bits (le h 6 1) 6 3) = true ∧ bits (le h 12 2) 11 0 = planePos (pl.plane (bits (le h 6 1) 6 3)) ∧
      pl.planeSound (bits (le h 6 1) 6 3) = true ∧ (s.replayMode = 3 → le h 0 4 ≠ (s.plan?.map fun p => le p.settings 4 4).getD 0) ∧
      (s.takeMessage 2 (h ++ [])).2.used0 2 + 48 + ([] : Rec).length ≤ 524288) ∧
    (∃ s : State, ∃ k k' c pl, (s.oport 2).parked = [k, k'] ∧ s.headerSound ∧ s.tagged (le k'.header 0 4) = some (c, pl) ∧ s.ringRuns c = false) ∧
    (∃ s : State, (s.oport 2).parked = []) := by
  refine ⟨⟨rings [agree] Chip.init.ring, header 1 (2 ^ 32 - 1) 0, planR [agree], chunk (c := ctxOf (planR [agree])) ?_, by decide +kernel⟩,
    ⟨received [agree] (bare (2 ^ 32 - 1)) false, bare (2 ^ 32 - 1), planR [agree], chunk (c := ctxOf (planR [agree])) ?_, by decide +kernel⟩,
    ⟨rings [agree] Chip.init.ring, header 1 1 0, planR [agree], chunk (c := ctxOf (planR [agree])) ?_, by decide +kernel⟩,
    ⟨rings [agree] Chip.init.ring, header 1 0 0, planR [agree], chunk (c := ctxOf (planR [agree])) ?_, by decide +kernel⟩,
    ⟨rings [agree] Chip.init.ring, header 1 0 0, planR [agree], chunk (c := ctxOf (planR [agree])) ?_, by decide +kernel⟩,
    ⟨received [agree] (header 1 0 0 ++ zeros 16) true, header 1 0 0, planR [agree], chunk (c := ctxOf (planR [agree])) ?_, by decide +kernel⟩,
    ⟨dev .ready, header 1 0 0, by decide +kernel⟩, ⟨rings [agree] Chip.init.ring, header 1 0 9, by decide +kernel⟩,
    ⟨parks [], header 1 0 0, ctxOf (planR [agree]), planR [agree], by decide +kernel⟩,
    ⟨parks [{ header := header 1 0 0, payload := [] }, { header := header 1 1 0, payload := [] }], _, _, ctxOf (planR [agree]), planR [agree], rfl, rfl,
      by decide +kernel, by decide +kernel⟩, ⟨dev .ready, rfl⟩⟩
  all_goals decide +kernel

/-- A collective of a kind with two blocks in format 0, its input stream 0x6000. -/
def collective (kind : Nat) : Rec := toLe 2 (0x8001 + kind * 2 ^ 13) ++ zeros 2 ++ toLe 4 1 ++ toLe 2 0x6000 ++ zeros 38

/-- Transfers of two tiles of 64 rows of 32 value bytes and a scale byte from the region. -/
def tiles : Rec := toLe 4 0x06000000 ++ toLe 4 (63 * 65536 + 1) ++ toLe 8 0x20000000 ++ zeros 8 ++ toLe 4 (2 ^ 24 + 31) ++ toLe 4 32 ++ zeros 12 ++ toLe 6 0x20010000 ++ zeros 14

/-- The stream in class 5 with its first transfer started. -/
def feeding : Stream := { Stream.init with running := some { slot := 0, desc := tiles, started := 1, done := 0 } }

/-- A device in which it runs. -/
def gathers (kind : Nat) : State :=
  { runs { planR [collective kind] with streams := [(0x6000, entry 0 0x85)] } { Chip.init with streams := [(0x6000, feeding)] } with
    oports := (List.range 3).map fun p => (p, { OPort.init with state := 3 }) }

/-- The same with a scale-table entry that does not match its complement. -/
def unsound : State :=
  { gathers 1 with contexts := [(0, { ctxOf { planR [collective 1] with streams := [(0x6000, entry 0 0x85)] } with scale := [(0, 0)] })] }

/-- The collective open. -/
def opened (s : State) (kind : Nat) : State := (s.stir (ownerDie 0x6000)).openColl 0 (collective kind)

/-- What COLLECTIVE_INPUT_TRANSFER asks of the states and operands in `CollectivesRunToCompletion`. -/
def InputAsks (s s1 s2 : State) (x b i : Nat) (e se : Rec) (xf : Xfer) (rows : List Rec) (sl : Nat) : Prop :=
  s.collEntry? x = some e ∧ s.streamEntry (collIn e) = some se ∧ collKind e ≠ 2 ∧ s.moves (collIn e) se = true ∧ (s.coll x).stopped = false ∧
  (s.coll x).complete = false ∧ b ∉ (s.coll x).inputs ∧ (s.coll x).inputs.length < s.inputsOf e ∧ b < collCount e ∧
  (s.stream (collIn e)).completed + (s.stream (collIn e)).inPlace.length - (s.stream (collIn e)).first < ((s.stream (collIn e)).running.map (·.started)).getD 0 ∧
  findXfer se (s.stream (collIn e)).slots ((s.stream (collIn e)).completed + (s.stream (collIn e)).inPlace.length - (s.stream (collIn e)).first) = some (sl, xf, i) ∧
  (xf.src ≠ 3 → (s.stream (collIn e)).completed + (s.stream (collIn e)).inPlace.length = s.streamBase x (collIn e) false + (s.coll x).inputs.length ∧
    b = if collKind e = 1 then (s.ownedBlocks e).getD (s.coll x).inputs.length (collCount e) else (s.coll x).inputs.length) ∧
  fitsBlock xf (collFmt e) = true ∧ (s.stream (collIn e)).descFlips = [] ∧ s1.planeAgrees (s1.blockPlane e b) = true ∧
  s1 = (s.stir (ownerDie (collIn e))).openColl x e ∧ (s1.coll x).stopped = false ∧
  s1.inputRows (collIn e) (collFmt e) b xf i = .ok (rows, s2)

/-- The operands that meet it, when the rows can be read. -/
theorem input_asks (s : State) (kind b : Nat) (h1 : s.collEntry? 0 = some (collective kind) ∧ s.streamEntry 0x6000 = some (entry 0 0x85) ∧
      collKind (collective kind) ≠ 2 ∧ s.moves 0x6000 (entry 0 0x85) = true ∧ (s.coll 0).stopped = false ∧ (s.coll 0).complete = false ∧
      b ∉ (s.coll 0).inputs ∧ (s.coll 0).inputs.length < s.inputsOf (collective kind) ∧ b < collCount (collective kind) ∧
      (s.stream 0x6000).completed + (s.stream 0x6000).inPlace.length - (s.stream 0x6000).first < ((s.stream 0x6000).running.map (·.started)).getD 0 ∧
      findXfer (entry 0 0x85) (s.stream 0x6000).slots ((s.stream 0x6000).completed + (s.stream 0x6000).inPlace.length - (s.stream 0x6000).first) =
        some (0, descOf tiles, 0) ∧
      ((descOf tiles).src ≠ 3 → (s.stream 0x6000).completed + (s.stream 0x6000).inPlace.length = s.streamBase 0 0x6000 false + (s.coll 0).inputs.length ∧
        b = if collKind (collective kind) = 1 then (s.ownedBlocks (collective kind)).getD (s.coll 0).inputs.length (collCount (collective kind)) else (s.coll 0).inputs.length) ∧
      fitsBlock (descOf tiles) 0 = true ∧ (s.stream 0x6000).descFlips = [] ∧
      (opened s kind).planeAgrees ((opened s kind).blockPlane (collective kind) b) = true ∧ ((opened s kind).coll 0).stopped = false) (hi : collIn (collective kind) = 0x6000 ∧ collFmt (collective kind) = 0)
    (h2 : isOk ((opened s kind).inputRows 0x6000 0 b (descOf tiles) 0) = true) :
    InputAsks s (opened s kind) (okOr ((opened s kind).inputRows 0x6000 0 b (descOf tiles) 0) ([], s)).2 0 b 0 (collective kind) (entry 0 0x85) (descOf tiles)
      (okOr ((opened s kind).inputRows 0x6000 0 b (descOf tiles) 0) ([], s)).1 0 := by
  unfold InputAsks
  rw [hi.1, hi.2]
  obtain ⟨a, b', c, d, e, f, g, h, i, j, k, l, m, p, q, n⟩ := h1
  exact ⟨a, b', c, d, e, f, g, h, i, j, k, l, m, p, q, rfl, n, ok_of ([], s) h2⟩

/-- A device with the agreement in a state. -/
def agreeing (c : Coll) (tokens : Nat) : State :=
  { rings [agree] { Chip.init.ring with colls := [(0, c)] } with
    chip := { Chip.init with step := some step, ring := { Chip.init.ring with colls := [(0, c)] }, cores := [(0, { Core.init with queues := [(0, tokens)] })] } }

/-- An agreement of two chips with a status record in the region. -/
def agreeRecord : Rec := toLe 2 (0x8000 + 2 * 2 ^ 13 + 1) ++ zeros 32 ++ toLe 6 0x20000000 ++ zeros 8

/-- It with its output given and nothing of its own left. -/
def ending : State := rings [agreeRecord] { Chip.init.ring with colls := [(0, { Coll.init with started := true, outputs := [0] })] }

theorem meets_CollectivesRunToCompletion :
    (∃ s s1 s2 x b i e se xf rows sl, InputAsks s s1 s2 x b i e se xf rows sl ∧ collKind e = 0 ∧ (s2.contribute x e b rows).isSome = true) ∧
    (∃ s s1 s2 x b i e se xf rows sl, InputAsks s s1 s2 x b i e se xf rows sl ∧ collKind e = 3 ∧ (s2.contribute x e b rows).isSome = true) ∧
    (∃ s s1 s2 x b i e se xf rows sl, InputAsks s s1 s2 x b i e se xf rows sl ∧ s2.contribute x e b rows = none) ∧
    (∃ s : State, ∃ x, s.collEntry? x = none) ∧
    (∃ s : State, ∃ pl x e, s.plan? = some pl ∧ s.collEntry? x = some e ∧ collKind e = 2 ∧ s.flint.state = .running ∧ s.member e = true ∧
      Tab.find? (s.coll x).own 0 = none ∧ (s.coll x).stopped = false ∧ (s.chip.step.any (·.aborting)) = false ∧ s.holding = false ∧
      s.queueCount (collGate e).1 (collGate e).2 = 0) ∧
    (∃ s : State, ∃ pl x e s1, s.plan? = some pl ∧ s.collEntry? x = some e ∧ collKind e = 2 ∧ s.flint.state = .running ∧ s.member e = true ∧
      Tab.find? (s.coll x).own 0 = none ∧ (s.coll x).stopped = false ∧ (s.chip.step.any (·.aborting)) = false ∧ s.holding = false ∧
      s.waitTokens (collGate e).1 (collGate e).2 1 = some s1 ∧ ((s1.openColl x e).coll x).stopped = false) ∧
    (∃ s : State, ∃ pl x e, s.plan? = some pl ∧ s.collEntry? x = some e ∧ s.flint.state = .running ∧ s.member e = true ∧ collKind e = 2 ∧
      (s.tryAgree pl x e).collDone x e = false) ∧
    (∃ s : State, ∃ pl x e, s.plan? = some pl ∧ s.collEntry? x = some e ∧ s.flint.state = .running ∧ s.member e = true ∧ collKind e = 2 ∧
      ((s.tryAgree pl x e).coll x).complete = false ∧ (s.tryAgree pl x e).collDone x e = true ∧ collRecord e = 0) ∧
    (∃ s : State, ∃ pl x e s2, s.plan? = some pl ∧ s.collEntry? x = some e ∧ s.flint.state = .running ∧ s.member e = true ∧ collKind e = 2 ∧
      ((s.tryAgree pl x e).coll x).complete = false ∧ (s.tryAgree pl x e).collDone x e = true ∧ collRecord e ≠ 0 ∧
      (s.tryAgree pl x e).rangesOk true [(collRecord e, 16)] = .ok () ∧ ((s.tryAgree pl x e).coll x).sats < 2 ^ 32 - 1 ∧
      ((s.tryAgree pl x e).coll x).vugs < 2 ^ 32 - 1 ∧ ((s.tryAgree pl x e).coll x).mismatches < 2 ^ 32 - 1 ∧
      ((s.tryAgree pl x e).coll x).detoured < 2 ^ 31 - 1 ∧
      (s.tryAgree pl x e).devWrite (collRecord e) (toLe 4 ((s.tryAgree pl x e).coll x).sats ++ toLe 4 ((s.tryAgree pl x e).coll x).vugs ++
        toLe 4 ((s.tryAgree pl x e).coll x).mismatches ++ toLe 4 ((s.tryAgree pl x e).coll x).detoured) = .ok s2) ∧
    (∃ s : State, ∃ x e, s.collEntry? x = some e ∧ s.member e = false) ∧
    (∃ s : State, ∃ x e, s.collEntry? x = some e ∧ s.flint.state = .running ∧ s.chip.step.isSome = true ∧ s.member e = true ∧ (s.coll x).complete = false ∧
      (s.coll x).stopped = false) := by
  obtain ⟨u, hu⟩ := ok_some (x := (ending.tryAgree (planR [agreeRecord]) 0 agreeRecord).rangesOk true [(collRecord agreeRecord, 16)]) (by decide +kernel)
  obtain ⟨s2, hw⟩ := ok_some (x := (ending.tryAgree (planR [agreeRecord]) 0 agreeRecord).devWrite (collRecord agreeRecord) (toLe 4
    ((ending.tryAgree (planR [agreeRecord]) 0 agreeRecord).coll 0).sats ++ toLe 4 ((ending.tryAgree (planR [agreeRecord]) 0 agreeRecord).coll 0).vugs ++
    toLe 4 ((ending.tryAgree (planR [agreeRecord]) 0 agreeRecord).coll 0).mismatches ++
    toLe 4 ((ending.tryAgree (planR [agreeRecord]) 0 agreeRecord).coll 0).detoured)) (by decide +kernel)
  exact ⟨⟨_, _, _, _, _, _, _, _, _, _, _, input_asks (gathers 0) 0 0 (by decide +kernel) (by decide +kernel) (by decide +kernel), by decide +kernel, by decide +kernel⟩,
    ⟨_, _, _, _, _, _, _, _, _, _, _, input_asks (gathers 3) 3 0 (by decide +kernel) (by decide +kernel) (by decide +kernel), by decide +kernel, by decide +kernel⟩,
    ⟨_, _, _, _, _, _, _, _, _, _, _, input_asks unsound 1 1 (by decide +kernel) (by decide +kernel) (by decide +kernel),
      Option.isNone_iff_eq_none.mp (by decide +kernel)⟩,
    ⟨dev .ready, 0, by decide +kernel⟩, ⟨agreeing Coll.init 0, planR [agree], 0, agree, by decide +kernel⟩,
    ⟨agreeing Coll.init 1, planR [agree], 0, agree, _, rfl, by decide +kernel, by decide +kernel, rfl, by decide +kernel,
      by decide +kernel, by decide +kernel, by decide +kernel, by decide +kernel, rfl, by decide +kernel⟩,
    ⟨agreeing Coll.init 0, planR [agree], 0, agree, by decide +kernel⟩,
    ⟨agreeing { Coll.init with started := true, outputs := [0] } 0, planR [agree], 0, agree, by decide +kernel⟩,
    ⟨ending, planR [agreeRecord], 0, agreeRecord, s2, rfl, by decide +kernel, by decide +kernel, rfl, by decide +kernel,
      by decide +kernel, by decide +kernel, by decide +kernel, hu, by decide +kernel, by decide +kernel, by decide +kernel, by decide +kernel, hw⟩,
    ⟨rings [toLe 2 (0x8000 + 2 * 2 ^ 13 + 1) ++ zeros 10 ++ toLe 4 (2 ^ 13 + 1) ++ zeros 32] Chip.init.ring, 0, _, rfl, by decide +kernel⟩,
    ⟨agreeing Coll.init 0, 0, agree, by decide +kernel⟩⟩


/-! ## Optical ports -/

/-- A device whose port 0 stands so. -/
def port (o : OPort) : State := { dev .ready with oports := [(0, o)] }

/-- A port that is up. -/
def up : OPort := { OPort.init with state := 3, rxCounter := some 0 }

/-- An empty flit of a number. -/
def flit (n : Nat) : Rec := let body := toLe 4 n ++ zeros 628; body ++ toLe 8 (crc64 body).toNat

/-- Its CRC is right. -/
theorem flit_crc (n : Nat) : (crc64 (slice (flit n) 0 632)).toNat = le (flit n) 632 8 := by
  have hl : (toLe 4 n ++ zeros 628).length = 632 := by rw [List.length_append, toLe_length, zeros, List.length_replicate]
  have h1 : slice (flit n) 0 632 = toLe 4 n ++ zeros 628 := by
    rw [flit, slice_append_left _ _ _ _ (by omega)]
    conv => lhs; arg 3; rw [← hl]
    exact slice_all _
  have h2 := le_after hl (toLe 8 (crc64 (toLe 4 n ++ zeros 628)).toNat ++ []) 0 8
  rw [le_toLe, List.append_nil] at h2
  rw [h1, flit, h2]
  exact (Nat.mod_eq_of_lt (by have := (crc64 (toLe 4 n ++ zeros 628)).isLt; omega)).symm

/-- What `FlitSound` asks, as a fact that can be decided. -/
theorem flit_sound {s : State} {p : Nat} {c : BitVec 20} {f : Rec} (k : Nat) (h : (s.oport p).state = 3 ∧ bits c.toNat 19 18 = 0 ∧
    (s.oport p).rxCounter = some k ∧ bits c.toNat 15 0 = (k + 1) % 65536 ∧ bits c.toNat 15 0 % 256 ≠ 0 ∧
    flitForm f = true) (hc : (crc64 (slice f 0 632)).toNat = le f 632 8) : FlitSound s p c f :=
  ⟨h.1, h.2.1, ⟨k, h.2.2.1, h.2.2.2.1, h.2.2.2.2.1⟩, hc, h.2.2.2.2.2⟩

theorem meets_FlitsAreTakenOnceInOrder :
    (∃ s c f, FlitSound s 0 c f ∧ bit (le f 8 1) 6 = false ∧ (s.oport 0).rxSinceIdle < 4095 ∧ BitVec.ofNat 32 (le f 0 4) = (s.oport 0).rxNext) ∧
    (∃ s c f, FlitSound s 0 c f ∧ bit (le f 8 1) 6 = false ∧ BitVec.ofNat 32 (le f 0 4) ≠ (s.oport 0).rxNext) ∧
    (∃ s : State, (s.oport 0).state = 3 ∧ after 5 ((s.oport 0).txNext - 1) = true ∧ (s.oport 0).nacking = true ∧ (s.oport 0).nacks = 14) ∧
    (∃ s : State, (s.oport 0).state = 3 ∧ after 5 ((s.oport 0).txNext - 1) = false ∧ (s.oport 0).txq = [] ∧ s.flint.state ≠ .scrubbing ∧
      after 5 (s.oport 0).acked = true ∧ (s.oport 0).replay ≠ []) ∧
    (∃ s : State, (s.oport 0).state = 3 ∧ after 5 ((s.oport 0).txNext - 1) = false ∧ (s.oport 0).txq = [] ∧ s.flint.state = .scrubbing ∧
      s.drains 0 = true) ∧
    (∃ s : State, (s.oport 0).state = 3 ∧ (s.oport 0).nacking = true ∧ 15 ≤ (s.oport 0).nacks ∧ (s.oport 0).peerDormant = false) ∧
    (∃ s : State, (s.oport 0).state = 3 ∧ (s.oport 0).peerDormant = true) ∧ (∃ s : State, (s.oport 0).state = 2 ∧ (s.oport 0).stepNo = 7) ∧
    (∃ s : State, (s.oport 0).state = 4) ∧
    (∃ s : State, (s.oport 0).state ≠ 3 ∧ ¬ ((s.oport 0).state = 2 ∧ (s.oport 0).stepNo = 7) ∧ (s.oport 0).state ≠ 4) :=
  ⟨⟨port up, 1, flit 0, flit_sound 0 (by decide +kernel) (flit_crc _), by decide +kernel⟩,
    ⟨port { up with rxNext := 7 }, 1, flit 0, flit_sound 0 (by decide +kernel) (flit_crc _), by decide +kernel⟩,
    ⟨port { up with nacking := true, nacks := 14 }, by decide +kernel⟩, ⟨port { up with txNext := 8, replay := [(5, []), (6, []), (7, [])], acked := 4 }, by decide +kernel⟩,
    ⟨{ port { up with txNext := 8, draining := true } with flint := (dev .scrubbing).flint }, by decide +kernel⟩,
    ⟨port { up with nacking := true, nacks := 15 }, by decide +kernel⟩, ⟨port { up with peerDormant := true }, by decide +kernel⟩,
    ⟨port { OPort.init with state := 2, stepNo := 7 }, by decide +kernel⟩, ⟨port { OPort.init with state := 4 }, rfl⟩, ⟨dev .ready, by decide +kernel⟩⟩

/-- One code found at every ring of every channel. -/
def found (v : Nat) : List (List Nat) := List.replicate 16 (List.replicate 16 v)

/-- What a search keeps of the codes it found, as `PortsTrainAndComeUp` says it. -/
def kept (s : State) (full : Bool) (h : List (List Nat)) : List (List Nat) :=
  (List.range 16).map fun k => (List.range 16).map fun n => let v := (h.getD k []).getD n 0xFFFFFFFF
    let last := (s.ochan 0 n).rxCode
    if full = true then (if 1000 ≤ v ∧ v ≤ 60000 then v else 0xFFFFFFFF) else if v ≤ last + 2235 ∧ last ≤ v + 2235 ∧ v ≤ 65535 then v else 0xFFFFFFFF

/-- A port that searches. -/
def searching : OPort := { OPort.init with state := 1, stepNo := 5 }

/-- A port in step 6 with training blocks of the first 15 channels received. -/
def training : OPort := { OPort.init with state := 2, stepNo := 6, rxLocked := ~~~0, seen := (List.range 15).map fun i => (i, i) }

/-- A port in step 7 with four samples. -/
def measured (d : Int) : OPort := { OPort.init with state := 2, stepNo := 7, samples := List.replicate 4 d }

/-- A link codeword that echoes this port's identity. -/
def linkWord (s : State) : Rec := (zeros 4 ++ toLe 4 (s.ownIdentity 0).toNat ++ zeros 8 ++ toLe 8 1 ++ zeros 8) ++ zeros 608

/-- What a training block must be to be taken. -/
def TrainingAsks (s : State) (ring n st : Nat) (b : BitVec 340) : Prop :=
  (s.oport 0).state = 2 ∧ (s.oport 0).stepNo = 6 ∧ bits b.toNat 31 0 = 0x0F35C6A9 ∧ bits b.toNat 35 32 = n ∧ bits b.toNat 39 36 = 15 - n ∧
    bits b.toNat 43 40 = st ∧ st ≤ 2 ∧ ∀ r, Tab.find? (s.oport 0).seen n = some r → r = ring

/-- The channels a port has seen once it takes a block. -/
def seenWith (s : State) (ring n : Nat) : Tbl Nat := Tab.set ((s.oport 0).seen.filter fun e => e.2 ≠ ring) n ring

theorem meets_PortsTrainAndComeUp :
    (∃ s : State, (s.oport 0).state = 3) ∧ (∃ s : State, (s.oport 0).state = 2 ∧ (s.oport 0).waking = false) ∧
    (∃ s : State, (s.oport 0).state = 2 ∧ (s.oport 0).waking = true) ∧ (∃ h r, assignRotation h = some r) ∧
    (∃ s : State, ∃ h, (s.oport 0).state = 1 ∧ (s.oport 0).stepNo = 5 ∧ assignRotation (kept s true h) = some 0) ∧
    (∃ s : State, ∃ h, (s.oport 0).state = 1 ∧ (s.oport 0).stepNo = 5 ∧ assignRotation (kept s false h) = some 0) ∧
    (∃ s : State, ∃ h, (s.oport 0).state = 1 ∧ (s.oport 0).stepNo = 5 ∧ assignRotation (kept s true h) = none ∧ assignRotation (kept s false h) = none) ∧
    (∃ s b, TrainingAsks s 15 15 2 b ∧ (seenWith s 15 15).length = 16 ∧ (s.oport 0).rxLocked = ~~~0) ∧
    (∃ s b, TrainingAsks s 15 15 0 b ∧ (seenWith s 15 15).length = 16 ∧ (s.oport 0).rxLocked = ~~~0 ∧ (s.oport 0).sentReady = false) ∧
    (∃ s b, TrainingAsks s 3 0 1 b ∧ (seenWith s 3 0).length < 16 ∧ (s.oport 0).sentReady = false) := by
  have unseen : ∀ (o : OPort) (ring n st : Nat) (b : BitVec 340), Tab.find? ((port o).oport 0).seen n = none → (((port o).oport 0).state = 2 ∧
      ((port o).oport 0).stepNo = 6 ∧ bits b.toNat 31 0 = 0x0F35C6A9 ∧ bits b.toNat 35 32 = n ∧ bits b.toNat 39 36 = 15 - n ∧
      bits b.toNat 43 40 = st ∧ st ≤ 2) → TrainingAsks (port o) ring n st b := fun o ring n st b h g =>
    ⟨g.1, g.2.1, g.2.2.1, g.2.2.2.1, g.2.2.2.2.1, g.2.2.2.2.2.1, g.2.2.2.2.2.2, fun r hr => by rw [h] at hr; cases hr⟩
  exact ⟨⟨port up, rfl⟩, ⟨port training, rfl, rfl⟩, ⟨port { training with waking := true }, rfl, rfl⟩, ⟨found 30000, 0, by decide +kernel⟩, ⟨port searching, found 30000, by decide +kernel⟩,
    ⟨port searching, found 1000, by decide +kernel⟩, ⟨port searching, [], by decide +kernel⟩,
    ⟨port training, trainingBlock 15 2 0, unseen _ _ _ _ _ (by decide +kernel) (by decide +kernel), by decide +kernel⟩,
    ⟨port training, trainingBlock 15 0 0, unseen _ _ _ _ _ (by decide +kernel) (by decide +kernel), by decide +kernel⟩,
    ⟨port { training with seen := [] }, trainingBlock 0 1 0, unseen _ _ _ _ _ (by decide +kernel) (by decide +kernel), by decide +kernel⟩⟩

/-- A tail of zeros. -/
theorem zero_tail (x : Rec) (n o : Nat) (h : x.length = o) : zeroAt (x ++ zeros n) o n = true := by
  have hz : slice (zeros n) 0 n = zeros n := by
    have := slice_all (zeros n)
    rwa [zeros, List.length_replicate] at this
  rw [zeroAt, ← h, slice_append_right, hz, zeros]
  simp

/-- A management codeword of zeros is one. -/
theorem management (o : OPort) (P : State → Rec → Prop) (h : (port o).oport 0 = o ∧ o.state = 3 ∧ o.rxCounter = some 255)
    (hp : P (port o) (zeros 26 ++ zeros 614)) :
    ∃ s : State, ∃ ctl : BitVec 20, ∃ c, (s.oport 0).state = 3 ∧ bits ctl.toNat 19 18 = 1 ∧ (s.oport 0).rxCounter = some 255 ∧
      bits ctl.toNat 15 0 = (255 + 1) % 65536 ∧ bits ctl.toNat 15 0 % 256 = 0 ∧ bits (le c 16 4) 31 23 = 0 ∧ bits (le c 21 1) 7 3 = 0 ∧
      zeroAt c 26 614 = true ∧ P s c :=
  ⟨port o, 0x40100, zeros 26 ++ zeros 614, by rw [h.1]; exact h.2.1, by decide, by rw [h.1]; exact h.2.2, by decide, by decide, by decide +kernel,
    by decide +kernel, zero_tail _ _ _ (by decide +kernel), hp⟩

theorem meets_PortsTrainAndComeUp_codewords :
    (∃ s : State, ∃ ctl : BitVec 20, ∃ c, (s.oport 0).state = 2 ∧ (s.oport 0).stepNo = 7 ∧ bits ctl.toNat 19 18 = 2 ∧ bits (le c 0 4) 31 23 = 0 ∧
      zeroAt c 32 608 = true ∧ s.fabricValid = false ∧ (s.oport 0).peer = BitVec.ofNat 32 (le c 0 4) ∧ le c 4 4 = (s.ownIdentity 0).toNat ∧
      (s.oport 0).samples.length = 4 ∧ le c 16 8 ≠ 0 ∧ (s.oport 0).linkOrder ctl = true ∧
      median5 ((s.oport 0).samples ++ [((s.localTime.toNat : Int) - (le c 16 8 : Nat) - (le c 24 8 : Nat)).fdiv 2]) = 10000) ∧
    (∃ s : State, ∃ ctl : BitVec 20, ∃ c, (s.oport 0).state = 2 ∧ (s.oport 0).stepNo = 7 ∧ bits ctl.toNat 19 18 = 2 ∧ bits (le c 0 4) 31 23 = 0 ∧
      zeroAt c 32 608 = true ∧ s.fabricValid = false ∧ (s.oport 0).peer = BitVec.ofNat 32 (le c 0 4) ∧ le c 4 4 = (s.ownIdentity 0).toNat ∧
      (s.oport 0).samples.length = 4 ∧ le c 16 8 ≠ 0 ∧ (s.oport 0).linkOrder ctl = true ∧
      median5 ((s.oport 0).samples ++ [((s.localTime.toNat : Int) - (le c 16 8 : Nat) - (le c 24 8 : Nat)).fdiv 2]) = 10001) ∧
    (∃ s : State, ∃ ctl : BitVec 20, ∃ c, (s.oport 0).state = 3 ∧ bits ctl.toNat 19 18 = 1 ∧ (s.oport 0).rxCounter = some 255 ∧
      bits ctl.toNat 15 0 = (255 + 1) % 65536 ∧ bits ctl.toNat 15 0 % 256 = 0 ∧ bits (le c 16 4) 31 23 = 0 ∧ bits (le c 21 1) 7 3 = 0 ∧
      zeroAt c 26 614 = true ∧ BitVec.ofNat 32 (le c 16 4) = (s.oport 0).peer ∧ bits (le c 21 1) 2 0 = 0) ∧
    (∃ s : State, (s.oport 0).state = 2 ∧ (s.oport 0).stepNo = 9) ∧
    (∃ s : State, ∃ ctl : BitVec 20, ∃ c, (s.oport 0).state = 3 ∧ bits ctl.toNat 19 18 = 1 ∧ (s.oport 0).rxCounter = some 255 ∧
      bits ctl.toNat 15 0 = (255 + 1) % 65536 ∧ bits ctl.toNat 15 0 % 256 = 0 ∧ bits (le c 16 4) 31 23 = 0 ∧ bits (le c 21 1) 7 3 = 0 ∧
      zeroAt c 26 614 = true ∧ BitVec.ofNat 32 (le c 16 4) ≠ (s.oport 0).peer) :=
  ⟨⟨port (measured 10000), 0x80001, linkWord (port (measured 10000)), rfl, rfl, by decide +kernel, by decide +kernel,
      zero_tail _ _ _ (by decide +kernel), by decide +kernel⟩,
    ⟨port (measured 10001), 0x80001, linkWord (port (measured 10001)), rfl, rfl, by decide +kernel, by decide +kernel,
      zero_tail _ _ _ (by decide +kernel), by decide +kernel⟩,
    management { up with rxCounter := some 255 } (fun s c => BitVec.ofNat 32 (le c 16 4) = (s.oport 0).peer ∧ bits (le c 21 1) 2 0 = 0) (by decide +kernel) (by decide +kernel),
    ⟨port { OPort.init with state := 2, stepNo := 9 }, rfl, rfl⟩, 
    management { up with rxCounter := some 255, peer := 7 } (fun s c => BitVec.ofNat 32 (le c 16 4) ≠ (s.oport 0).peer) (by decide +kernel) (by decide +kernel)⟩

/-- A device whose port 0 stands so and die 0 in a power state. -/
def portOn (o : OPort) (pstate : Nat) : State := { port o with dies := [(0, { Die.init with pstate := pstate })] }

theorem meets_PortsSleepWakeAndAreHeldDown :
    (∃ s : State, (s.oport 0).state = 3 ∧ (s.oport 0).dormantAsked = true ∧ (s.die (portDie 0)).pstate = 3 ∧
      ∀ i < 6, 6 * portDie 0 + i ≠ 0 → (s.oport (6 * portDie 0 + i)).state ≠ 3) ∧
    (∃ s : State, (s.oport 0).state = 3 ∧ (s.oport 0).dormantAsked = false) ∧ (∃ s : State, (s.oport 0).state = 4 ∧ 2 ≤ (s.die (portDie 0)).pstate) ∧
    (∃ s : State, (s.oport 0).state = 4 ∧ (s.die (portDie 0)).pstate < 2) ∧
    (∃ s : State, (s.oport 0).state ≠ 3 ∧ (s.oport 0).state ≠ 4 ∧ (s.oport 0).dormantAsked = false) ∧
    (∃ s : State, (s.oport 0).state ≠ 6 ∧ (s.oport 0).state ≠ 0 ∧ (s.oport 0).overload = false) ∧
    (∃ s : State, (s.oport 0).overload = true ∧ (s.oport 0).state = 5) ∧ (∃ s : State, (s.oport 0).overload = true ∧ (s.oport 0).state ≠ 5) ∧
    (∃ s : State, s.headerSound) :=
  ⟨⟨portOn { up with dormantAsked := true } 3, by decide +kernel⟩, ⟨portOn up 0, by decide +kernel⟩, ⟨portOn { up with state := 4 } 2, by decide +kernel⟩,
    ⟨portOn { up with state := 4 } 0, by decide +kernel⟩, ⟨port training, by decide +kernel⟩, ⟨port up, by decide +kernel⟩,
    ⟨port { up with overload := true, state := 5 }, by decide +kernel⟩, ⟨port { up with overload := true, state := 6 }, by decide +kernel⟩, ⟨dev .ready, rfl⟩⟩

/-- A device with the lasers of channel 0 of Opal 0 in a state. -/
def lasers (l : Laser) : State := (dev .ready).modLaser 0 0 fun _ => l

/-- Readings of a channel with an output power and its instant value, in 0.05 dBm. -/
def readings (output instant : Int) : MonitorReadings :=
  { output := output, instant := instant, noCurrent := false, successor := 0, branch := [], modulator := [], drop := [], total := [] }

/-- The decline of the serving laser that a power says, in 0.1 dB. -/
def declines (s : State) (power : Int) : Nat := min 255 ((5 * s.laserBase 0 0 (s.laser 0 0).serving - power).fdiv 2).toNat

theorem meets_LasersAreWatchedAndHandedOver :
    (∃ s : State, (s.die (0 / 2)).lowBias = true) ∧
    (∃ s : State, ∃ r : MonitorReadings, (s.die (0 / 2)).lowBias = false ∧ ¬ (r.noCurrent = true ∨ 60 ≤ declines s r.instant) ∧ (s.laser 0 0).serving = 0 ∧
      (s.laser 0 0).successor = none ∧ (s.laser 0 0).claimed = false ∧ (s.laser 0 0).spare = 0 ∧ (s.laser 0 0).noSpare = false ∧
      (s.laser 0 0).atHandover = false ∧ s.cfg.laserWarn = declines s r.output) ∧
    (∃ s : State, ∃ r : MonitorReadings, (s.die (0 / 2)).lowBias = false ∧ ¬ (r.noCurrent = true ∨ 60 ≤ declines s r.instant) ∧
      declines s r.output + 1 = s.cfg.laserWarn ∧ declines s r.output < s.cfg.laserHand) ∧
    (∃ s : State, ∃ r : MonitorReadings, (s.die (0 / 2)).lowBias = false ∧ 60 = declines s r.instant ∧ (s.laser 0 0).serving = 0 ∧
      (s.laser 0 0).successor = some 1 ∧ (s.laser 0 0).spare = 2) ∧
    (∃ s : State, s.successorState 0 0 = some 1) ∧ (∃ s : State, s.successorState 0 0 ≠ some 1) ∧
    (∃ s : State, s.headerSound ∧ (s.laser 0 0).successor = some 1 ∧ (s.laser 0 0).serving = 0 ∧ (s.laser 0 0).fading = true) ∧
    (∃ s : State, s.successorState 0 0 = some 2 ∧ (s.laser 0 0).fading = false ∧ (s.laser 0 0).decline + 5 ≤ s.cfg.laserWarn ∧ (s.laser 0 0).successor = some 1) ∧
    (∃ s : State, s.successorState 0 0 = some 2 ∧ (s.laser 0 0).fading = false ∧ (s.laser 0 0).decline + 5 ≤ s.cfg.laserWarn ∧ (s.laser 0 0).successor = some 2) :=
  ⟨⟨{ dev .ready with dies := [(0, { Die.init with lowBias := true })] }, rfl⟩, ⟨lasers Laser.init, readings (-20) (-119), by decide +kernel⟩,
    ⟨lasers Laser.init, readings (-19) 0, by decide +kernel⟩,
    ⟨lasers { Laser.init with successor := some 1, spare := 2 }, readings 0 (-120), by decide +kernel⟩,
    ⟨lasers { Laser.init with successor := some 1, spare := 1 }, by decide +kernel⟩, ⟨lasers Laser.init, by decide +kernel⟩,
    ⟨lasers { Laser.init with successor := some 1, spare := 2, fading := true }, rfl, by decide +kernel⟩,
    ⟨lasers { Laser.init with successor := some 1, spare := 2, decline := 5 }, by decide +kernel⟩,
    ⟨(lasers { Laser.init with successor := some 2 }).modLaser (neighbour 0) 0 fun l => { l with spare := 2 }, by decide +kernel⟩⟩

/-- Whether a search of a ring of port 0, channel 3 may find a code, as `RingsStayLockedAndHop` says it. -/
def mayFind (s : State) (code : Nat) : Bool :=
  if (s.ochan 0 3).rxTries < 2 then code ≤ (s.ochan 0 3).rxCode + 2235 ∧ (s.ochan 0 3).rxCode ≤ code + 2235 ∧ code ≤ 65535
  else 1000 ≤ code ∧ code ≤ 60000

theorem meets_RingsStayLockedAndHop :
    (∃ s : State, (s.oport 0).rxLocked.getLsbD 15 = true ∧ (s.oport 0).state = 2) ∧ (∃ s : State, (s.oport 0).txLocked.getLsbD 0 = true ∧ (s.oport 0).state ≠ 2) ∧
    (∃ s : State, (s.oport 0).rxLocked.getLsbD 3 = false ∧ (s.oport 0).state ≠ 6 ∧ (s.ochan 0 3).rxTries + 1 < 3 ∧
      mayFind s ((s.ochan 0 3).rxCode + 2235) = true ∧ mayFind s ((s.ochan 0 3).rxCode + 2236) = false) ∧
    (∃ s : State, (s.oport 0).rxLocked.getLsbD 3 = false ∧ (s.oport 0).state ≠ 6 ∧ 3 ≤ (s.ochan 0 3).rxTries + 1 ∧
      mayFind s 1000 = true ∧ mayFind s 999 = false ∧ mayFind s 60000 = true ∧ mayFind s 60001 = false) ∧
    (∃ s : State, (s.oport 0).rxLocked.getLsbD 3 = true ∧ s.headerSound) ∧ (∃ s : State, (s.oport 0).txLocked.getLsbD 0 = true ∧ s.headerSound) :=
  ⟨⟨port training, by decide +kernel⟩, ⟨port { up with txLocked := 1 }, by decide +kernel⟩, ⟨port up, by decide +kernel⟩,
    ⟨(port up).modOchan 0 3 fun c => { c with rxTries := 2 }, by decide +kernel⟩, ⟨port training, by decide +kernel, rfl⟩,
    ⟨port { up with txLocked := 1 }, by decide +kernel, rfl⟩⟩

/-! ## Lanes between dies -/

/-- A device with a direction of an edge in a state. -/
def edgeOf (d e : Nat) (k : Edge) : State := (dev .ready).modEdge d e fun _ => k

/-- The spares of a Basalt–Basalt direction, all used. -/
def noSpare : Edge := { Edge.init with sparesUsed := (List.range 96).map (1536 + ·) }

/-- A running device whose stream 1 of core 0 heads a lode chain on to a stream of a core of die 1, with the landing buffer of that stream
so full and the edge between the two dies in a state. -/
def crossing (full : Nat) (k : Edge) : State :=
  (runs { plan with streams := [(1, entry 0 0x80), (0x1800, entry 0 0x80)], lodes := [(1, [0x1800])] }
    { Chip.init with streams := [(1, { Stream.init with landed := full })] }).modEdge (farEnd 0 0).1 (farEnd 0 0).2 fun _ => k

/-- An edge with no group to give. -/
def noGroup : Edge := { Edge.init with bound := (List.range 94).map fun g => (g, (7, 1)) }

/-- A frame. -/
def frame (bad : Nat) (resent : Bool) (lanes : List Nat) (replay : ReplayLoss) : LaneFrame :=
  { corrected := 1, bad := bad, resent := resent, crcLanes := lanes, messages := 0, replay := replay }

theorem meets_SegmentsFramesAndGangs :
    (∃ s : State, ∃ g, s.flint.state ≠ .scrubbing ∧ (0, (farEnd 0 0).1) ∈ s.streamHops 1 ∧ s.landsAt 1 0 (farEnd 0 0).1 = true ∧
      (s.stream 1).landed + 16 * 256 = 4096 ∧ (s.edge (farEnd 0 0).1 (farEnd 0 0).2).freeGroup = some g) ∧
    (∃ s : State, s.flint.state ≠ .scrubbing ∧ (0, (farEnd 0 0).1) ∈ s.streamHops 1 ∧ (s.edge (farEnd 0 0).1 (farEnd 0 0).2).freeGroup = none) ∧
    (∃ s : State, (0, (farEnd 0 0).1) ∉ s.streamHops 1) ∧
    (∃ s : State, s.landsAt 1 0 (farEnd 0 0).1 = true ∧ 4096 < (s.stream 1).landed + 16 * 1) ∧ (∃ s : State, s.flint.state = .scrubbing) := by
  exact ⟨⟨crossing 0 Edge.init, 0, by decide +kernel⟩, ⟨crossing 0 noGroup, by decide +kernel⟩, ⟨dev .ready, by decide +kernel⟩,
    ⟨crossing 4081 Edge.init, by decide +kernel⟩, ⟨dev .scrubbing, rfl⟩⟩

theorem meets_SegmentsFramesAndGangs_acknowledged :
    (∃ s : State, Tab.find? (s.edge 0 0).bound 5 = none) ∧
    (∃ k : Edge, (Tab.find? k.bound 5).isSome = true ∧ (∀ q ∈ k.gangs, 16 ≤ k.unitsOf q.2) ∧ k.waiting = []) ∧
    (∃ k k' : Edge, (Tab.find? k.bound 5).isSome = true ∧ k' = { k with bound := Tab.erase k.bound 5 } ∧ (∀ q ∈ k'.gangs, 16 ≤ k'.unitsOf q.2) ∧
      k'.waiting = [(7, 3)] ∧ k'.freeGroup = some 5) ∧
    (∃ k k' : Edge, ∃ gs, (Tab.find? k.bound 5).isSome = true ∧ k' = { k with bound := Tab.erase k.bound 5 } ∧
      (k'.gangs.find? fun q => decide (k'.unitsOf q.2 < 16)) = some (3, gs) ∧ Tab.find? k'.gangs 3 = some gs ∧ k'.freeGroup = some 5) :=
  ⟨⟨dev .ready, rfl⟩, ⟨{ Edge.init with bound := [(5, (7, 256))] }, by decide +kernel⟩,
    ⟨{ noGroup with waiting := [(7, 3)] }, _, rfl, rfl, by decide +kernel⟩, ⟨{ noGroup with gangs := [(3, [2])] }, _, [2], rfl, rfl, by decide +kernel⟩⟩

theorem meets_SegmentsFramesAndGangs_frames :
    (∃ s : State, (s.die (farEnd 0 0).1).clamped = true) ∧ (∃ s : State, (s.die (farEnd 0 0).1).clamped = false) ∧
    (∃ s : State, (s.edge 0 0).ganged.contains 5 = true) ∧ (∃ f : LaneFrame, 2 ≤ 3 ∧ 5 < 30 ∧ f.replay = .none ∧ f.bad = 2) ∧
    (∃ s : State, ∃ f : LaneFrame, (s.edge 0 0).ganged.contains 5 = false ∧ (s.edge 0 0).resending.contains 5 = true ∧ f.resent = false ∧ f.replay = .none) ∧
    (∃ s : State, ∃ f : LaneFrame, (s.edge 0 0).ganged.contains 5 = false ∧ (s.edge 0 0).resending.contains 5 = true ∧ f.resent = true ∧ f.replay = .none) ∧
    (∃ s : State, ∃ f : LaneFrame, (s.edge 0 0).ganged.contains 5 = false ∧ (s.edge 0 0).resending.contains 5 = false ∧ 0 < f.bad ∧ f.replay = .none) ∧
    (∃ s : State, ∃ f : LaneFrame, f.replay = .word ∧ Tab.find? (s.edge 0 0).bound 5 = some (7, 256) ∧ (s.stream 7).faulted = false) ∧
    (∃ s : State, ∃ gs g, Tab.find? (s.edge 0 0).gangs 3 = some gs ∧ (s.edge 0 0).freeGroup = some g ∧ (s.edge 0 0).unitsOf gs = 16) ∧
    (∃ s : State, ∃ gs g, Tab.find? (s.edge 0 0).gangs 3 = some gs ∧ (s.edge 0 0).freeGroup = some g ∧ (s.edge 0 0).unitsOf gs < 16) :=
  ⟨⟨{ dev .ready with dies := [((farEnd 0 0).1, { Die.init with clamped := true })] }, by decide +kernel⟩, ⟨dev .ready, by decide +kernel⟩,
    ⟨edgeOf 0 0 { Edge.init with gangs := [(3, [5])] }, by decide +kernel⟩, ⟨frame 2 false [] .none, by decide⟩,
    ⟨edgeOf 0 0 { Edge.init with resending := [5] }, frame 0 false [] .none, by decide +kernel⟩,
    ⟨edgeOf 0 0 { Edge.init with resending := [5] }, frame 0 true [] .none, by decide +kernel⟩, ⟨dev .ready, frame 1 false [] .none, by decide +kernel⟩,
    ⟨edgeOf 0 0 { Edge.init with bound := [(5, (7, 256))] }, frame 0 false [] .word, by decide +kernel⟩,
    ⟨edgeOf 0 0 { Edge.init with gangs := [(3, List.range 8)] }, List.range 8, 8, by decide +kernel⟩,
    ⟨edgeOf 0 0 { Edge.init with gangs := [(3, [0])] }, [0], 1, by decide +kernel⟩⟩

theorem meets_LanesAreSwappedOrNarrowed :
    (∃ s : State, s.cfg.laneSwap < 11 ∧ 11 ≤ s.cfg.laneWarn) ∧ (∃ s : State, s.cfg.laneWarn < 15) ∧
    (∃ s : State, s.headerSound ∧ 14 ≤ s.cfg.laneWarn ∧ Tab.find? (s.edge 0 0).margins 0 = some 15) ∧
    (∃ s : State, ∃ n, 10 ≤ s.cfg.laneSwap ∧ freeSpare (s.edge 0 0) 0 = some n ∧ (s.edge 0 0).swap = none ∧ (s.edge 0 0).group (1535 / 16) = 0) ∧
    (∃ s : State, ∃ f : LaneFrame, ∃ n, f.crcLanes = [0] ∧ f.replay = .none ∧ Tab.find? (s.edge 0 0).standIn 0 = none ∧ Tab.get 0 (s.edge 0 0).crcRun 0 = 2 ∧
      freeSpare (s.edge 0 0) 0 = some n ∧ (s.edge 0 0).swap = none ∧ (s.edge 0 0).group (0 / 16) = 0) ∧
    (∃ s : State, (s.edge 0 0).dataLane 0 1536 = none) ∧
    (∃ s : State, (s.edge 0 0).swap = some { lane := 3, spare := 1536, step := 2 }) ∧
    (∃ s : State, s.headerSound ∧ (s.edge 0 0).swap = some { lane := 3, spare := 1536, step := 3 } ∧ (s.edge 0 0).wanted = []) ∧
    (∃ s : State, (s.edge 0 0).swap = none) ∧
    (∃ s : State, freeSpare (s.edge 0 0) 0 = none ∧ ((s.edge 0 0).swap.any fun w => w.lane / 16 == 0 && decide (8 ≤ w.lane % 16) != decide (8 ≤ 7 % 16)) = true ∧
      (s.edge 0 0).group 0 = 0) ∧
    (∃ s : State, freeSpare (s.edge 0 0) 0 = none ∧ ((s.edge 0 0).swap.any fun w => w.lane / 16 == 0 && decide (8 ≤ w.lane % 16) != decide (8 ≤ 7 % 16)) = false ∧
      (s.edge 0 0).group 0 = 0 ∧ s.repair.entries.length < 8192) ∧ (∃ s : State, freeSpare (s.edge 0 0) 0 = none ∧ (s.edge 0 0).group 0 = 1) ∧
    (∃ s : State, freeSpare (s.edge 0 0) 0 = none ∧ (s.edge 0 0).group 0 = 2) ∧ (∃ s : State, (s.edge 0 0).group 0 = 3) ∧ (∃ s : State, (freeSpare (s.edge 0 0) 0).isSome = true) :=
  ⟨⟨dev .ready, by decide⟩, ⟨dev .ready, by decide⟩, ⟨edgeOf 0 0 { Edge.init with margins := [(0, 15)] }, rfl, by decide, by decide⟩,
    ⟨dev .ready, 1536, by decide +kernel⟩,
    ⟨edgeOf 0 0 { Edge.init with crcRun := [(0, 2)] }, frame 0 false [0] .none, 1536, by decide +kernel⟩, ⟨dev .ready, by decide +kernel⟩,
    ⟨edgeOf 0 0 { Edge.init with swap := some { lane := 3, spare := 1536, step := 2 } }, by decide +kernel⟩,
    ⟨edgeOf 0 0 { Edge.init with swap := some { lane := 3, spare := 1536, step := 3 } }, rfl, by decide +kernel⟩, ⟨dev .ready, rfl⟩,
    ⟨edgeOf 0 0 { noSpare with swap := some { lane := 8, spare := 1631, step := 2 } }, by decide +kernel⟩, ⟨edgeOf 0 0 noSpare, by decide +kernel⟩, ⟨edgeOf 0 0 { noSpare with groups := [(0, 1)] }, by decide +kernel⟩,
    ⟨edgeOf 0 0 { noSpare with groups := [(0, 2)] }, by decide +kernel⟩, ⟨edgeOf 0 0 { noSpare with groups := [(0, 3)] }, by decide +kernel⟩, ⟨dev .ready, by decide +kernel⟩⟩

/-! ## Power, supply and temperature -/

/-- A powered device with die 0 in a state. -/
def dieIn (k : Die) : State := { dev .ready with powered := true, dies := [(0, k)] }

/-- A quiet die. -/
def quiet : Die := { Die.init with pstate := 1, coreMv := 660, moverMv := 700, basalt := [40] }

theorem meets_PowerSamplesAndRetain :
    (∃ s : State, s.powered = true ∧ 620 ≤ (s.die 0).coreMv ∧ (s.die 0).coreMv ≤ 860 ∧ (if s.onPlane 0 then 700 else 620) ≤ (s.die 0).moverMv ∧
      (s.die 0).moverMv ≤ 860 ∧ (s.die 0).active = false) ∧
    (∃ s : State, (s.die 0).pstate = 1 ∧ (s.die 0).retainUs ≠ 0xFFFFFFFF ∧ (s.die 0).due = false ∧ s.mayRetain 0 = true ∧
      ((List.range 6).any fun i => (s.oport (6 * 0 + i)).state == 3) = true) ∧
    (∃ s : State, (s.die 0).pstate = 1 ∧ (s.die 0).retainUs ≠ 0xFFFFFFFF ∧ (s.die 0).due = false ∧ s.mayRetain 0 = false) ∧
    (∃ s : State, (s.die 0).pstate = 1 ∧ (s.die 0).due = true ∧ s.mayRetain 0 = true ∧
      ((List.range 6).any fun i => (s.oport (6 * 0 + i)).state == 3) = false ∧ ∀ i < 4, i ≠ 0 → (s.die i).pstate = 2 ∨ (s.die i).retired = true) ∧
    (∃ s : State, (s.die 0).due = false) ∧ (∃ s : State, 2 ≤ (s.die 0).pstate ∧ (s.die 0).coreMv ≤ 860) ∧ (∃ s : State, (s.die 0).pstate < 2) :=
  ⟨⟨dieIn quiet, by decide +kernel⟩, ⟨{ dieIn quiet with oports := [(0, up)] }, by decide +kernel⟩, ⟨dieIn { quiet with basalt := [80] }, by decide +kernel⟩,
    ⟨{ dieIn quiet with dies := (0, { quiet with due := true }) :: (List.range 3).map fun i => (i + 1, { quiet with pstate := 2 }) }, by decide +kernel⟩,
    ⟨dieIn quiet, rfl⟩, ⟨dieIn { quiet with pstate := 2 }, by decide⟩, ⟨dieIn quiet, by decide⟩⟩

theorem meets_BrownOutHaltsAndIsReinitialised :
    (∃ s : State, ∃ run, s.powered = true ∧ (s.die 3).retired = false ∧ s.flint.state ≠ .booting ∧ s.headerSound ∧ s.chip.step = some run ∧ run.aborting = false) ∧
    (∃ s : State, ∃ x, 3 ∈ s.flint.reinit ∧ (s.die 3).coreMv ≤ 860 ∧ Tab.find? s.mems 18 = some x ∧ devDie 18 = 3 ∧ x.failed = none) ∧ (∃ s : State, 3 ∉ s.flint.reinit) :=
  ⟨⟨{ runs plan Chip.init with powered := true }, step, rfl, by decide, by decide, rfl, rfl, rfl⟩,
    ⟨{ memOf 18 trained with flint := { (dev .halted).flint with reinit := [3] } }, trained, by decide +kernel⟩, ⟨dev .ready, by decide⟩⟩

theorem meets_TemperatureAndSupplyEventsAct :
    (∃ s : State, ∃ basalt : List Int, s.powered = true ∧ (s.die 0).pstate = 2 ∧ ∃ x ∈ basalt.take 32, 85 = x) ∧
    (∃ s : State, ∃ basalt : List Int, s.powered = true ∧ s.sensorHot 0 = false ∧ ∃ x ∈ basalt.take 32, s.cfg.throttleBasalt + 1 = x) ∧
    (∃ s : State, ∃ opal : List Int, s.powered = true ∧ s.sensorHot 0 = false ∧ ∃ x ∈ opal.take 8, s.cfg.throttleOpal + 1 = x) ∧
    (∃ s : State, s.powered = true ∧ s.flint.state ≠ .booting ∧ (s.die 0).pstate < 2 ∧ (s.die 0).coreMv ≠ 0 ∧ s.headerSound) ∧
    (∃ s : State, s.powered = true ∧ s.flint.state = .booting) :=
  ⟨⟨dieIn { quiet with pstate := 2 }, [85], rfl, rfl, 85, by decide⟩, ⟨dieIn quiet, [96], rfl, by decide +kernel, 96, by decide⟩,
    ⟨dieIn quiet, [86], rfl, by decide +kernel, 86, by decide⟩, ⟨dieIn quiet, rfl, by decide, by decide, by decide, rfl⟩,
    ⟨{ boots 3 with powered := true }, rfl, rfl⟩⟩

/-! ## Fault handling -/

/-- A state whose Flint stands so. -/
def flintOf (s : State) (f : Flint → Flint) : State := { s with flint := f s.flint }

/-- A report of a port, of a plane, of a pass. -/
def report (kind code : Nat) : Report := { kind := kind, unit := 0, sub := 5, code := code }

/-- A device whose pass stopped, with its report delivered. -/
def stopped : State :=
  flintOf (stands (word 0x1F 0) { core1 with inflight := [{ flight (.pass pass1) with stopped := some 8 }] }) fun f => { f with reports := [report 8 8] }

theorem meets_FaultReportsAndRecoveries :
    (∃ s : State, ∃ r, r ∈ s.flint.reports ∧ s.flint.alive = true ∧ s.flint.heldInReset = false ∧ s.headerSound ∧ r.kind = 3 ∧ r.code ≠ 0x43 ∧
      r.code < 256 ∧ portDie r.unit < 4) ∧
    (∃ s : State, ∃ r run, r ∈ s.flint.reports ∧ s.flint.alive = true ∧ s.flint.heldInReset = false ∧ r.kind = 5 ∧ s.chip.step = some run ∧
      run.aborting = false ∧ s.flint.state = .running) ∧
    (∃ s : State, ∃ r, r ∈ s.flint.reports ∧ s.flint.alive = true ∧ s.flint.heldInReset = false ∧ r.kind = 8 ∧ s.answer r = .rerun ∧
      (s.flint.windows.any fun w => w.shares (s.reportUnits r) (s.reportPath r)) = false) ∧
    (∃ s : State, s.flint.alive = false) ∧ (∃ s : State, ∃ rs, s.flint.waiting = [] ∧ s.flint.gathering = some rs) ∧ (∃ s : State, s.flint.gathering = none) ∧
    (∃ s : State, ∃ r r', s.flint.waiting = [r, r'] ∧ s.recovered r = true) ∧
    (∃ s : State, ∃ r, s.flint.waiting = [r] ∧ s.recovered r = false) :=
  ⟨⟨flintOf (dev .ready) fun f => { f with reports := [report 3 0x40] }, report 3 0x40, by decide, rfl, rfl, rfl, by decide⟩,
    ⟨flintOf (runs plan Chip.init) fun f => { f with reports := [report 5 0x30] }, report 5 0x30, step, by decide, rfl, rfl, rfl, rfl, rfl, rfl⟩,
    ⟨stopped, report 8 8, by decide +kernel⟩, ⟨State.reset, rfl⟩, ⟨flintOf (dev .ready) fun f => { f with gathering := some [report 8 8] }, _, rfl, rfl⟩,
    ⟨dev .ready, rfl⟩, ⟨flintOf (dev .ready) fun f => { f with waiting := [report 8 8, report 7 8] }, _, _, rfl, by decide +kernel⟩,
    ⟨flintOf stopped fun f => { f with waiting := [report 8 8] }, report 8 8, by decide +kernel⟩⟩

/-- A cut of the log. -/
def cut : Cut := { slot := 0, header := [], events := [], summaries := [], crc := 0 }

theorem meets_WatchdogMapAndCutsAct :
    (∃ s : State, ∃ e, s.flint.alive = true ∧ s.flint.heldInReset = false ∧ s.flint.lastExpiry = some e ∧ s.localTime.toNat - e.toNat = 59999999999) ∧
    (∃ s : State, ∃ e, s.flint.alive = true ∧ s.flint.heldInReset = false ∧ s.flint.lastExpiry = some e ∧ s.localTime.toNat - e.toNat = 60000000000) ∧
    (∃ s : State, s.repair.changed = true ∧ s.flint.alive = true ∧ s.flint.heldInReset = false ∧ s.headerSound ∧
      s.flint.state ≠ .scrubbing ∧ s.repair.entries.all entrySound = true ∧ s.flash.repairs.length = 2 ∧ 1 < s.flash.counters.length) ∧
    (∃ s : State, ∃ e, s.repair.changed = true ∧ s.flint.alive = true ∧ s.flint.heldInReset = false ∧ s.flint.state ≠ .scrubbing ∧
      s.repair.entries[1]? = some e ∧ entrySound e = false) ∧ (∃ s : State, s.repair.changed = true ∧ s.flint.state = .scrubbing) ∧
    (∃ s : State, s.repair.changed = false) ∧ (∃ s : State, s.flint.cutWriting = some cut ∧ s.flint.cutWanted = 0) ∧
    (∃ s : State, s.flint.cutWriting = some cut ∧ s.flint.cutWanted ≠ 0) :=
  ⟨⟨flintOf { dev .ready with localTime := 59999999999 } fun f => { f with lastExpiry := some 0 }, 0, rfl, rfl, rfl, by decide⟩,
    ⟨flintOf { dev .ready with localTime := 60000000000 } fun f => { f with lastExpiry := some 0 }, 0, rfl, rfl, rfl, by decide⟩,
    ⟨{ dev .ready with repair := { (dev .ready).repair with changed := true } }, rfl, rfl, rfl, rfl, by decide, by decide, rfl, by decide⟩,
    ⟨{ dev .ready with repair := { (dev .ready).repair with changed := true, entries := [~~~0, 1] } }, 1, rfl, rfl, rfl, by decide, rfl, by decide⟩,
    ⟨{ dev .scrubbing with repair := { (dev .ready).repair with changed := true } }, rfl, rfl⟩, ⟨dev .ready, rfl⟩,
    ⟨flintOf (dev .ready) fun f => { f with cutWriting := some cut }, rfl, rfl⟩,
    ⟨flintOf (dev .ready) fun f => { f with cutWriting := some cut, cutWanted := 2 }, rfl, by decide⟩⟩

/-! ## Arithmetic -/

theorem meets_NearestEvenRoundsToTheNearest : ∃ (n : Int) (d : Nat), 0 < d ∧ 2 * (roundEven n d * d - n).natAbs = d := ⟨5, 2, by decide⟩

/-- An operand. -/
def opd (m : Option Int) : Opd := { man := m, exp := 0 }

theorem meets_MatrixElementsAreExactSums :
    (∃ xs : List (Opd × Opd), xs ≠ [] ∧ ∀ p ∈ xs, p.1.man ≠ none ∧ p.2.man ≠ none) ∧ (∃ xs : List (Opd × Opd), ∃ p ∈ xs, p.1.man = none ∨ p.2.man = none) :=
  ⟨⟨[(opd (some 3), opd (some (-7)))], by simp, by simp [opd]⟩, ⟨[(opd none, opd (some 1))], (opd none, opd (some 1)), by simp [opd]⟩⟩

theorem meets_SecondMomentRootIsExact : ∃ a : Int, a ≤ 32767 ∧ 0 < a := ⟨32767, by decide⟩

/-- Inputs of a block of zeros. -/
def inputs : Inputs := { w := List.replicate 64 (opd (some 0)), m := [], v := [], g := List.replicate 64 (opd (some 1)) }

theorem meets_UpdatesComputeTheirKind : ∃ x : Inputs, ∃ i, i < 64 ∧ ∀ o ∈ x.at' i, o.man ≠ none := ⟨inputs, 63, by decide +kernel⟩

/-! ## The whole machine -/

theorem meets_StepRunsTheFrontCommand :
    (∃ s : State, ∃ c rest, s.pending = c :: rest) ∧
    (∃ s : State, s.pending = [] ∧ s.flint.state ≠ .booting ∧ s.flint.tripWait = false ∧ s.powered = true ∧ s.pins.resetN = true ∧
      s.pins.refclk = true ∧ s.localTime ≠ ~~~0) ∧
    (∃ s : State, s.pending = [] ∧ s.flint.state ≠ .booting ∧ s.flint.tripWait = false ∧ s.localTime = ~~~0) :=
  ⟨⟨{ dev .ready with pending := [.modReset, .powerOn] }, _, _, rfl⟩,
    ⟨{ dev .ready with powered := true, pins := { (dev .ready).pins with resetN := true, refclk := true } }, rfl, by decide, rfl, rfl, rfl, rfl, by decide⟩,
    ⟨{ dev .ready with localTime := ~~~0 }, rfl, by decide, rfl, rfl⟩⟩

theorem meets_StepKeepsTheInvariants : ∃ s t : State, s.devmem.wf = true ∧ s.residentComp = ~~~s.resident ∧ Sys2Proof.Machine.step s = .next t :=
  ⟨{ dev .ready with pending := [.dieWake 0], devmem := [(5, 1), (9, 2)] }, _, by decide, by decide, rfl⟩

theorem meets_RefusedCommandsHaveNoEffect :
    (∃ s : State, ∃ c m row form, mailboxOf c = some (m, row, form) ∧ s.flint.queue.head? ≠ some m) ∧
    (∃ s : State, s.flint.queue.head? = some m0 ∧ s.flint.taking = true ∧ le (s.requestOf m0) 0 2 ∉ listedCodes) ∧
    (∃ s : State, s.flint.queue.head? = some m0 ∧ s.flint.taking = true ∧ le (s.requestOf m0) 0 2 ∈ listedCodes ∧ le (s.requestOf m0) 0 2 ≠ rowScrub.code) ∧
    (∃ s : State, ∃ req, zeroAt req 2 2 = false ∧ s.flint.state = .ready) ∧
    (∃ s : State, ∃ req, zeroAt req 2 2 = true ∧ zeroAt req 12 52 = true ∧ zeroAt req 8 2 = true ∧ le req 10 2 ≤ 4032 ∧
      formOf 0 [] (slice req 64 (le req 10 2)) (le req 10 2) = none ∧ rowScrub.code ≠ 1 ∧ s.flint.state = .scrubbing) ∧
    (∃ s : State, ∃ req, zeroAt req 2 2 = true ∧ zeroAt req 12 52 = true ∧ zeroAt req 8 2 = true ∧ le req 10 2 ≤ 4032 ∧
      formOf 0 [] (slice req 64 (le req 10 2)) (le req 10 2) = none ∧ s.flint.state = .ready ∧ rowScrub.ownerOnly = true ∧ s.flint.owner ≠ some 1) ∧
    (∃ s : State, ∃ req, zeroAt req 2 2 = true ∧ zeroAt req 12 52 = true ∧ zeroAt req 8 2 = true ∧ le req 10 2 ≤ 4032 ∧
      formOf 0 [] (slice req 64 (le req 10 2)) (le req 10 2) = none ∧ s.flint.state = .loaded ∧ s.flint.owner = some 0 ∧ s.flint.background = none ∧
      s.flint.view ∉ rowScrub.legal) := by
  refine ⟨⟨dev .ready, .scrub m0, m0, _, _, rfl, by decide⟩, ⟨ask (dev .ready) 0x99 0 [], by decide, by decide, ?_⟩,
    ⟨ask (dev .ready) 1 0 [], by decide, by decide, ?_, ?_⟩, ⟨dev .ready, [0, 0, 1, 0], by decide, rfl⟩,
    ⟨dev .scrubbing, zeros 64, by decide +kernel⟩, ⟨dev .ready, zeros 64, by decide +kernel⟩, ⟨dev .loaded, zeros 64, by decide +kernel⟩⟩
  all_goals rw [le_page _ _ _ _ (by omega)]; decide +kernel

/-! ## Worked examples of the spec -/

/-- Table 2.5: the outputs of both vectors. -/
theorem test_prf32 : prf32 0 0 0 0 = 0xCD745242 ∧ prf32 0x0123456789ABCDEF 0x20000011 2 0x40 = 0x7AFA59B8 := by decide +kernel

/-- Table 2.6: nearest-even rounding. -/
theorem test_round_even : [roundEven 2615 16, roundEven 2616 16, roundEven 2632 16, roundEven (-2616) 16, roundEven (-256) 2] = [163, 164, 164, -164, -128] := by
  decide +kernel

/-- Table 2.6: stochastic rounding, saturation apart. -/
theorem test_round_stochastic :
    [roundStoch 2615 16 0x7AFA59B8, roundStoch 2617 16 0x7AFA59B8, roundStoch (-2615) 16 0x7AFA59B8, roundStoch 2615 16 0xCD745242,
      roundStoch (-2615) 16 0xCD745242, roundStoch 5 2 0x7AFA59B8, roundStoch (-5) 2 0x7AFA59B8, roundStoch 1000 256 0x7AFA59B8,
      roundStoch 0x8000000000 (2 ^ 40) 0x7AFA59B8, roundStoch 0xA000000000 (2 ^ 40) 0x7AFA59B8] = [163, 164, -163, 164, -163, 2, -3, 4, 0, 1] := by
  decide +kernel

/-- R56's example: −2,615 at s = 5 with Vector 2 is −82, code 0xAE; scale byte 0xED is −19. -/
theorem test_round_example : roundStoch (-2615) 32 0x7AFA59B8 = -82 ∧ elemCode 1 (some (-82)) = 0xAE ∧ scaleExp 0xED = some (-19) := by decide +kernel

/-- R112's example: the word of a 3 × 4 seam's forward pass. -/
theorem test_word_example :
    let w : Word64 := 0x100048E0E1800000
    wOp w = 0x04 ∧ wArg w = 0x123 ∧ wX w = 0 ∧ wSeam w = 0x20E ∧ seamOf 0x20E = { row := 0, col := 0, r := 3, c := 4 } ∧ fieldOf w 25 24 = 1 ∧
      fieldOf w 23 23 = 1 := by decide +kernel

/-- The example before R189: an interleaved address and the die-local address of the same byte. -/
theorem test_address_example : State.reset.keyOf 0x020001234ABC = State.reset.keyOf 0x000000490ABC ∧
    State.reset.keyOf 0x020001234ABC = some (16 * devWordKey 4 49835 + 12) := by decide +kernel

/-- R218's example: the root of 28,120 × 2^−44 is 5,494,872 × 2^−37. -/
theorem test_root_example : rootOf 28120 (-44) = Exact.ofInt 5494872 (-37) := by decide +kernel

/-- R264's example: 150 m of fibre needs 356 KiB, 300 m 648 KiB. -/
theorem test_threshold_example : reqKiB 750 = 356 ∧ reqKiB 1500 = 648 := by decide

/-- Example of the host ports chapter: the doorbell word that arms 4 slots of stream 0x6005. -/
theorem test_arm_example :
    let w : Word64 := 0x0000000300006005
    fieldOf w 14 0 = 0x6005 ∧ fieldOf w 47 32 + 1 = 4 ∧ fieldOf w 31 30 = 0 ∧ armBad w = false := by decide +kernel

/-- SHA3-256 of no bytes (FIPS 202). -/
theorem test_sha3 : sha3 [] = [0xa7, 0xff, 0xc6, 0xf8, 0xbf, 0x1e, 0xd7, 0x66, 0x51, 0xc1, 0x47, 0x56, 0xa0, 0x61, 0xd6, 0x62, 0xf5, 0x80, 0xff, 0x4d,
    0xe4, 0x3b, 0x49, 0xfa, 0x82, 0xd8, 0x0a, 0x4b, 0x80, 0xf8, 0x43, 0x4a] := by decide +kernel

/-! ## Ill-formed commands, one for each check of WellFormed -/

theorem test_wf_mailbox : (Instr.scrub { port := 2, box := 0 }).wf = false ∧ (Instr.scrub { port := 1, box := 32 }).wf = false ∧
    (Instr.scrub { port := 1, box := 31 }).wf = true := by decide

theorem test_wf_core : (Instr.loop 96).wf = false ∧ (Instr.engineHandover 0 12 ⟨false, 0⟩ ⟨false, 0⟩).wf = false ∧ (Instr.lineSubstitution 0 128 0).wf = false ∧
    (Instr.lineSubstitution 0 0 4096).wf = false ∧ (Instr.lineSubstitution 95 127 4095).wf = true := by decide

theorem test_wf_stream : (Instr.transferStart 0x8000).wf = false ∧ (Instr.streamFault 0 256).wf = false ∧ (Instr.streamFault 0x7FFF 255).wf = true := by decide

theorem test_wf_die : (Instr.brownOut 4).wf = false ∧ (Instr.spareSwitch 0 6).wf = false ∧ (Instr.spareSwitch 4 0).wf = false ∧
    (Instr.segmentAcknowledged 0 0 96).wf = false ∧ (Instr.segmentAcknowledged 0 2 32).wf = false ∧ (Instr.segmentBind 0 0 0 0).wf = false ∧
    (Instr.segmentBind 0 0 0 257).wf = false ∧ (Instr.gangTakeIn 0 0 12).wf = false ∧ (Instr.segmentBind 3 1 0x7FFF 256).wf = true := by decide

theorem test_wf_memory : (Instr.refreshDue 24).wf = false ∧ (Instr.readTimingTracking 0 4).wf = false ∧ (Instr.readTimingTracking 23 3).wf = true := by decide

theorem test_wf_host : (Instr.hostLinkUp 2).wf = false ∧ (Instr.registerWrite { port := 0, bar := 1, offset := 0, bytes := [], poisoned := false }).wf = false ∧
    (Instr.registerWrite { port := 2, bar := 0, offset := 0, bytes := [], poisoned := false }).wf = false ∧ (Instr.hostLinkUp 1).wf = true := by decide

theorem test_wf_optical : (Instr.lossOfLight 24).wf = false ∧ (Instr.goReceived 0 2).wf = false ∧ (Instr.ringHop 0 16 true).wf = false ∧
    (Instr.successorStandby 8 0).wf = false ∧ (Instr.successorStandby 0 16).wf = false ∧ (Instr.detourEnd 12 0).wf = false ∧
    (Instr.agreementStart 65536).wf = false ∧ (Instr.ringHop 23 15 false).wf = true := by decide

theorem test_wf_bounds : (Instr.regionZeroingComplete 16 0).wf = false ∧ (Instr.regionZeroingComplete 0 64).wf = false ∧ (Instr.bootFailure 0 .fails).wf = false ∧
    (Instr.bootFailure 13 .fails).wf = false ∧ (Instr.updateData 0 (List.replicate 65537 0)).wf = false ∧ (Instr.regionZeroingComplete 15 63).wf = true := by
  decide +kernel

theorem test_wf_register : (Instr.readClearAccess (.tokenQueue 0 64)).wf = false ∧ (Instr.readClearAccess (.screeState 0 4)).wf = false ∧
    (Instr.readClearAccess (.engineStatus 0 12)).wf = false ∧ (Instr.readClearAccess (.edgeGroups 0 0 3)).wf = false ∧
    (Instr.readClearAccess (.intCause 2)).wf = false ∧ (Instr.readClearAccess (.edgeGroups 3 3 2)).wf = true := by decide

/-! ## The table's words -/

/-- No row of the table has bits, so no word spells a command, and a state given one stays as it is. -/
theorem test_no_words (n w : Nat) (s : State) : decodeTableWord n w = none ∧ s.withFetchWord n w = s := ⟨rfl, rfl⟩

end Sys2Proof.Tests

end
end

section
/-!
Nearest-even rounding (R50): `roundEven` in terms of the quotient and the remainder of the division, and how far each of the two
integers beside n / d lies from it.
-/

namespace Sys2Proof.Machine

/-- The integer below n / d lies the remainder away from it, scaled by d. -/
theorem ediv_mul_sub_self (n d : Int) : n / d * d - n = -(n % d) := by
  have hdiv : n / d * d + n % d = n := Int.ediv_mul_add_emod n d
  omega

/-- The integer above n / d lies what the remainder lacks to d away from it, scaled by d. -/
theorem ediv_add_one_mul_sub_self (n d : Int) : (n / d + 1) * d - n = d - n % d := by
  have hbelow := ediv_mul_sub_self n d
  rw [Int.add_mul, Int.one_mul]
  omega

/-- `roundEven` by quotient and remainder: up past the half, and up at the half from an odd quotient. -/
theorem roundEven_eq_ite (n : Int) (d : Nat) :
    roundEven n d = if 2 * (n % d) > d ∨ (2 * (n % d) = d ∧ n / d % 2 = 1) then n / d + 1 else n / d := by
  have hrem : n - n / d * d = n % (d : Int) := by rw [Int.emod_def, Int.mul_comm]
  simp only [roundEven, Int.fdiv_eq_ediv_of_nonneg n (Int.natCast_nonneg d), hrem]

/-- Which of the two integers beside n / d is stored, and why: the upper one past the half or at it beside an odd one, the lower one before
the half or at it when even. -/
theorem roundEven_cases (n : Int) (d : Nat) :
    (roundEven n d = n / d + 1 ∧ (2 * (n % d) > d ∨ (2 * (n % d) = d ∧ n / d % 2 = 1))) ∨
    (roundEven n d = n / d ∧ (2 * (n % d) < d ∨ (2 * (n % d) = d ∧ n / d % 2 = 0))) := by
  rw [roundEven_eq_ite]
  split
  case isTrue hup => exact .inl ⟨rfl, hup⟩
  case isFalse hdown => exact .inr ⟨rfl, by omega⟩

/-- Settles O56: the distance to n / d is the remainder rounding down and what it lacks to d rounding up, and the branch taken bounds
either by half of d; at the half the branch is chosen by the parity of the quotient. -/
theorem nearestEvenRoundsToTheNearest : Obligations.NearestEvenRoundsToTheNearest := by
  unfold Obligations.NearestEvenRoundsToTheNearest
  intro n d hd
  have hlow : 0 ≤ n % (d : Int) := Int.emod_nonneg n (by omega)
  have hhigh : n % (d : Int) < d := Int.emod_lt_of_pos n (by omega)
  obtain ⟨hround, hwhy⟩ | ⟨hround, hwhy⟩ := roundEven_cases n d
  · rw [hround, ediv_add_one_mul_sub_self]
    omega
  · rw [hround, ediv_mul_sub_self]
    omega

end Sys2Proof.Machine

end

section
/-!
The owner of the device (R377): what the operations behind CLAIM_OWNERSHIP and RELEASE_OWNERSHIP leave in the owner field, and the state
each of the two commands ends in once its checks have passed.
-/

namespace Sys2Proof.Machine

@[simp] theorem State.setOwner_owner (s : State) (o : Option Nat) : (s.setOwner o).flint.owner = o := by
  unfold State.setOwner
  split
  case isTrue hsame => exact hsame
  case isFalse => simp

@[simp] theorem State.renew_owner (s : State) (p : Nat) (a : Ans) : (s.renew p a).flint.owner = s.flint.owner := by
  unfold State.renew
  split <;> rfl

@[simp] theorem State.respond_owner (s : State) (m : Mbx) (a : Ans) (discarded : Bool) :
    (s.respond m a discarded).flint.owner = s.flint.owner := by
  cases discarded <;> simp [State.respond]

theorem Flint.claimable_iff (f : Flint) (p : Nat) :
    f.claimable p = true ↔ f.owner = none ∨ f.owner = some p ∨ f.leaseExpired = true := by
  simp [Flint.claimable, or_assoc]

/-- NOT_AUTHORIZED, with the owner's port as its reply data (R377). -/
def notOwner (o : Nat) : Ans := { code := 4, check := 0, index := 0, data := [BitVec.ofNat 8 o] }

/-- A claim that is granted takes the ownership, then answers OK. -/
theorem exec_claimOwnership_granted {s : State} {m : Mbx} (h : Accepted s m rowClaimOwnership (formOf 0 []))
    (hc : s.flint.claimable m.port = true) :
    exec (.claimOwnership m) s = .next ((s.dequeue.setOwner (some m.port)).respond m (.ok []) false) :=
  congrArg Host.Outcome.next (serve_answers h rfl (if_pos hc))

/-- A claim that is not granted only answers, with the owner's port. -/
theorem exec_claimOwnership_refused {s : State} {m : Mbx} (h : Accepted s m rowClaimOwnership (formOf 0 []))
    (hc : ¬ s.flint.claimable m.port = true) :
    exec (.claimOwnership m) s = .next (s.dequeue.respond m (notOwner (s.flint.owner.getD 0)) false) :=
  congrArg Host.Outcome.next (serve_answers h rfl (if_neg hc))

theorem exec_releaseOwnership_accepted {s : State} {m : Mbx} (h : Accepted s m rowReleaseOwnership (formOf 0 [])) :
    exec (.releaseOwnership m) s = .next ((s.dequeue.setOwner none).respond m (.ok []) false) :=
  congrArg Host.Outcome.next (serve_answers h rfl rfl)

/-- The answer OK without data is what a host reads. -/
theorem State.respond_ok_replied (s : State) {m : Mbx} (hm : m.wf = true) : Replied (s.respond m (.ok []) false) m (.ok []) :=
  s.respond_replied m _ hm (by decide) (by decide) (by decide)

/-- The refusal of a claim is what a host reads. -/
theorem State.respond_notOwner_replied (s : State) {m : Mbx} (o : Nat) (hm : m.wf = true) :
    Replied (s.respond m (notOwner o) false) m (notOwner o) :=
  s.respond_replied m _ hm (show 4 < 256 by decide) (show 0 < 256 by decide) (show 1 ≤ 4032 by decide)

/-- Settles O9: an accepted claim is granted or refused by `Flint.claimable`, which is the condition of R377, and the answer that follows
either changes no owner. -/
theorem ownershipIsClaimedAndReleased : Obligations.OwnershipIsClaimedAndReleased := by
  unfold Obligations.OwnershipIsClaimedAndReleased
  refine ⟨fun s m h => ?claim, fun s m h => ?release, rfl⟩
  case claim =>
    by_cases hc : s.flint.claimable m.port = true
    · refine ⟨_, exec_claimOwnership_granted h hc, ?_⟩
      rw [if_pos ((Flint.claimable_iff _ _).mp hc)]
      exact ⟨State.respond_ok_replied _ h.mailbox, by simp⟩
    · refine ⟨_, exec_claimOwnership_refused h hc, ?_⟩
      rw [if_neg (mt (Flint.claimable_iff _ _).mpr hc)]
      refine ⟨by simp, fun o ho => ?_⟩
      rw [ho]
      exact State.respond_notOwner_replied _ o h.mailbox
  case release =>
    exact ⟨_, exec_releaseOwnership_accepted h, State.respond_ok_replied _ h.mailbox, by simp⟩

end Sys2Proof.Machine

end

section
/-!
A host violation (R383): its two register writes, the cause it raises on the port, and the event it writes under a sound log header.
-/

namespace Sys2Proof.Machine

/-! ### Count fields -/

/-- A count field just raised holds the sum, or its largest value (R36, R58). -/
theorem fieldOf_bumpField (w : Word64) (hi lo n : Nat) (h : hi < 64) (hl : lo ≤ hi) :
    fieldOf (bumpField w hi lo n) hi lo = min (fieldOf w hi lo + n) (2 ^ (hi + 1 - lo) - 1) := by
  have hpos : 0 < 2 ^ (hi + 1 - lo) := Nat.two_pow_pos _
  rw [bumpField, fieldOf_withField _ _ _ _ h hl, Nat.mod_eq_of_lt (by omega)]

/-- A field outside the count raised holds what stood there. -/
theorem fieldOf_bumpField_other (w : Word64) (hi lo n hi' lo' : Nat) (h : hi' < 64) (hd : hi < lo' ∨ hi' < lo) :
    fieldOf (bumpField w hi lo n) hi' lo' = fieldOf w hi' lo' :=
  fieldOf_withField_other w hi lo _ hi' lo' h hd

/-! ### Raising a cause and writing an event -/

/-- Raising a cause sets its bit and writes no other register: the message it may send stands in no register. -/
@[simp] theorem State.reg_raiseOn (s : State) (p n : Nat) (r : Reg) : (s.raiseOn p n).reg r = (s.setBit (.intCause p) n).reg r := by
  apply State.reg_congr
  unfold State.raiseOn
  dsimp only
  split
  case isTrue => exact State.sendVector_regs _ _ _
  case isFalse => rfl

/-- Under a sound header nothing is rebuilt before an event is written (R425). -/
theorem State.logEvent_of_headerSound {s : State} (h : s.headerSound) (src code action flags unit : Nat) (detail : Rec) :
    s.logEvent src code action flags unit detail = s.putEvent src code action flags unit detail := by
  have hsound : s.soundLog = s := if_pos h
  rw [State.logEvent, hsound]

/-- The slot the header names next holds the event just written (R446). -/
theorem State.find?_logRing_putEvent (s : State) (src code action flags unit : Nat) (detail : Rec) :
    Tab.find? (s.putEvent src code action flags unit detail).flint.logRing (hdrNext s.flint.logHeader) =
      some { time := s.logTime, number := s.flint.eventNumber, source := src, code := code, action := action, flags := flags,
             context := s.resident, unit := unit, detail := slice detail 0 12 } :=
  Tab.find?_set_same _ _ _

/-! ### The violation -/

/-- The state between a violation's count and code and the cause it raises. -/
def State.countViolation (s : State) (p code : Nat) : State := (s.bump (.hostViolation p) 31 0 1).setField (.hostViolation p) 39 32 code

/-- Under a sound header a violation is its count and code, its cause and its event. -/
theorem State.violation_of_headerSound {s : State} (h : s.headerSound) (p code : Nat) :
    s.violation p code = ((s.countViolation p code).raiseOn p 6).putEvent 9 code 6 0 p [] := by
  have hraised : ((s.countViolation p code).raiseOn p 6).headerSound := by
    simpa [State.headerSound, State.countViolation] using h
  exact State.logEvent_of_headerSound hraised ..

theorem State.reg_countViolation_same (s : State) (p code : Nat) :
    (s.countViolation p code).reg (.hostViolation p) = withField (bumpField (s.reg (.hostViolation p)) 31 0 1) 39 32 code := by
  simp [State.countViolation]

theorem State.reg_countViolation_other (s : State) {p : Nat} {r : Reg} (code : Nat) (h : r ≠ .hostViolation p) :
    (s.countViolation p code).reg r = s.reg r := by
  rw [State.countViolation, State.reg_setField_other _ _ _ _ h, State.reg_bump_other _ _ _ _ h]

section Violation

variable {s : State} (h : s.headerSound) (p code : Nat)
include h

/-- The registers after a violation: the event it writes stands in none. -/
theorem State.reg_violation (r : Reg) : (s.violation p code).reg r = ((s.countViolation p code).setBit (.intCause p) 6).reg r := by
  rw [State.violation_of_headerSound h, State.reg_congr (State.putEvent_regs ..), State.reg_raiseOn]

/-- The violation register: the count raised, then the code recorded (Table 11.17). -/
theorem State.reg_violation_hostViolation :
    (s.violation p code).reg (.hostViolation p) = withField (bumpField (s.reg (.hostViolation p)) 31 0 1) 39 32 code := by
  rw [State.reg_violation h, State.reg_setBit_other _ _ (by simp), State.reg_countViolation_same]

theorem State.reg_violation_intCause : ((s.violation p code).reg (.intCause p)).getLsbD 6 = true := by
  rw [State.reg_violation h, State.reg_setBit_same]
  exact withField_bit_same _ _ (by decide)

theorem State.reg_violation_other {r : Reg} (hv : r ≠ .hostViolation p) (hc : r ≠ .intCause p) : (s.violation p code).reg r = s.reg r := by
  rw [State.reg_violation h, State.reg_setBit_other _ _ hc, State.reg_countViolation_other _ _ hv]

/-- The event of a violation: source 9, its code, the port's number. -/
theorem State.find?_logRing_violation :
    Tab.find? (s.violation p code).flint.logRing (hdrNext s.flint.logHeader) =
      some { time := s.localTime + s.epochOffset, number := s.flint.eventNumber, source := 9, code := code, action := 6, flags := 0,
             context := s.resident, unit := p, detail := slice [] 0 12 } := by
  have hevent := ((s.countViolation p code).raiseOn p 6).find?_logRing_putEvent 9 code 6 0 p []
  rw [← State.violation_of_headerSound h] at hevent
  simpa [State.countViolation, State.logTime] using hevent

/-- No free value is taken for a violation, as no header is rebuilt. -/
theorem State.violation_fresh : (s.violation p code).fresh = s.fresh := by
  simp [State.violation_of_headerSound h, State.countViolation]

theorem State.violation_onlyTouches : onlyTouches [.regs, .flint, .hosts, .sent] s (s.violation p code) := by
  intro part hpart
  cases part with
  | regs | flint | hosts | sent => simp at hpart
  | fresh => exact State.violation_fresh h p code
  | _ => simp [Part.same]

end Violation

/-- Settles O17: the registers, the event and the frame of a violation, each by its lemma; the three fields of the violation register are
those of a count raised and then a code written beside it. -/
theorem hostViolationIsCountedAndLogged : Obligations.HostViolationIsCountedAndLogged := by
  unfold Obligations.HostViolationIsCountedAndLogged
  intro s p code hcode hsound
  have hreg := State.reg_violation_hostViolation hsound p code
  refine ⟨?count, ?code, ?reserved, rfl, rfl, rfl, State.reg_violation_intCause hsound p code,
    fun r hv hc => State.reg_violation_other hsound p code hv hc,
    ⟨_, State.find?_logRing_violation hsound p code, rfl, rfl, rfl, rfl, rfl⟩, State.violation_onlyTouches hsound p code⟩
  case count =>
    rw [hreg, fieldOf_withField_other _ _ _ _ _ _ (by decide) (by decide)]
    exact fieldOf_bumpField _ _ _ _ (by decide) (by decide)
  case code =>
    rw [hreg, fieldOf_withField _ _ _ _ (by decide) (by decide)]
    exact Nat.mod_eq_of_lt hcode
  case reserved =>
    rw [hreg, fieldOf_withField_other _ _ _ _ _ _ (by decide) (by decide), fieldOf_bumpField_other _ _ _ _ _ _ (by decide) (by decide)]

end Sys2Proof.Machine

end
